-- ==== Sys2Proof/Word.lean ====
section
/-! DEFINITION. The words of the module: bytes, 32-bit registers, 64-bit scalars, and the type of every sparse store. -/
namespace Sys2Proof

/-- A byte of memory, of a cell or of a structure (R14, R15). -/
abbrev Byte := BitVec 8

/-- A register of the register space (R18, R24). -/
abbrev Reg32 := BitVec 32

/-- A scalar register (R112). -/
abbrev Reg64 := BitVec 64

/-- A sparse store: keys strictly rising, and no entry equal to what an unlisted key reads as. Its operations and its
canonical form are in Machine/Store.lean. A store of bytes is a list of `Host.Cell`. -/
abbrev SMap (β : Type) := List (Nat × β)

end Sys2Proof
end

