-- ==== Sys2Proof/Syntax.lean ====
section
/-! DEFINITION. The commands of the module: one constructor of `Instr` for each row of the spec's table of operations
and events, with the operands the row takes. Operands that name a unit hold its number; operands that carry what only
the outside knows (a received codeword, a sensor's reading, an error found in a store) hold that. -/
namespace Sys2Proof

/-- What the code of a store finds on a read (R248, R252, R263): no error, one it corrects, or one it does not. -/
inductive Ecc where
  | good | corrected | uncorrectable
  deriving DecidableEq, Repr

/-- R352, R392, R393: a cell without its link fields: the eight header bytes as a little-endian number, and the 64
bytes that follow. An addressed cell's second eight header bytes are the first eight of `payload`. -/
structure Cell where
  header  : BitVec 64
  payload : List Byte
  deriving DecidableEq, Repr

/-- R352: a cell carries 64 bytes after its first header bytes. -/
def Cell.ok (c : Cell) : Bool := c.payload.length == 64

/-- R270, R271: how a CXL access ended: read data, poisoned data, a failure, or the acknowledgement of a write. -/
inductive CxlResult where
  | data (bytes : List Byte)
  | poison
  | failed
  | ack
  deriving DecidableEq, Repr

/-- Read data is one line. -/
def CxlResult.ok : CxlResult → Bool
  | .data b => b.length == 64
  | .poison | .failed | .ack => true

/-- R347: a PAM4 symbol: -3, -1, +1 or +3. -/
inductive Pam4 where
  | m3 | m1 | p1 | p3
  deriving DecidableEq, Repr

/-- R577: what the header of a management message carries beside its OP and LEN: FLAGS and SEQ. -/
structure MsgHead where
  flags : BitVec 8
  seq   : BitVec 32
  deriving DecidableEq, Repr

/-- R76: a monitor of a region: its droop detector, or its critical-path monitor (`path`). -/
structure MonitorAt where
  region : Nat
  path   : Bool
  deriving DecidableEq, Repr

/-- R371: what a lane's test found: whether it holds lock, and its symbol errors in 16 consecutive training blocks. -/
structure LaneTest where
  lock   : Bool
  errors : Nat
  deriving DecidableEq, Repr

/-- R371: the message of a training block: whether its CRC matches, the sender's state, whether its request code asks for a
fast retrain, the sender's fabric identity, its lane mask, and where it stands in the sequence of the sender's requests. -/
structure TrainMsg where
  good     : Bool
  state    : BitVec 4
  retrain  : Bool
  identity : BitVec 64
  lanes    : BitVec 8
  sequence : BitVec 8
  deriving DecidableEq, Repr

/-- R372: what the partner sends in IDENTIFY. -/
structure Partner where
  identity : BitVec 64
  device   : BitVec 16
  /-- the partner's own number of the port -/
  port     : BitVec 5
  delef    : Bool
  /-- the partner's pick configuration word and the key of its partition, if it belongs to one -/
  config   : BitVec 32
  key      : Option (BitVec 12)
  deriving DecidableEq, Repr

/-- R42 rank 5: what the control firmware does with its accesses in a background window. -/
inductive FwAction where
  /-- take the next pending mailbox (R511) -/
  | mailboxTake
  /-- unload ended rows, fill free rows, write the row block and the mask tensor, add 1 to object 90 (R443) -/
  | rowLoad
  /-- handle the fault record at the head of the queue (R332) -/
  | faultRecord
  /-- mask every row of the running step for an abort (R333) -/
  | abortMask
  /-- make the page at `va` resident: write its bytes' frame and its leaf (R274, R281, R332) -/
  | pageIn (va : Nat) (leaf : BitVec 64) (bytes : List (Nat × Byte))
  /-- write MIGRATING into the entry of the page at `va` and invalidate it (R281) -/
  | migrateBegin (va : Nat)
  /-- with no invalidated access left, copy the frame and write the new leaf (R281) -/
  | migrateEnd (va : Nat) (leaf : BitVec 64)
  /-- mark the page at `va` ABSENT (R281) -/
  | evict (va : Nat)
  /-- write a page-table entry at a packed HBM address (R279) -/
  | writeEntry (addr : Nat) (entry : BitVec 64)
  /-- write bytes at a device virtual address (R42, R274) -/
  | writeVa (va : Nat) (bytes : List Byte)
  /-- write bytes into a virtual region's slice (R42) -/
  | writeSlice (vreg addr : Nat) (bytes : List Byte)
  /-- park a context, or bring it back (R449) -/
  | park (ctx : Nat)
  | unpark (ctx : Nat)
  /-- mark the pages of a CXL port whose device lost its memory, as far as the window has room (R271, R279) -/
  | portAbsent (port : Nat)
  /-- start a BME command outside the stack's queue (R297) -/
  | bme (op stack pch vreg : Nat) (block : List Byte)
  deriving DecidableEq, Repr

/-- R85, R253, R273: the operands of a firmware action name what exists. -/
def FwAction.ok : FwAction → Bool
  | .pageIn va _ bytes => va < 2 ^ 52 && bytes.all (fun b => b.1 < 2097152)
  | .migrateBegin va | .migrateEnd va _ | .evict va => va < 2 ^ 52
  | .writeEntry addr _ => addr < 2 ^ 40
  | .writeVa va bytes => va + bytes.length <= 2 ^ 52
  | .writeSlice vreg addr bytes => vreg < 64 && addr + bytes.length <= 2 ^ 25
  | .park ctx | .unpark ctx => ctx < 262144
  | .portAbsent port => port < 8
  | .bme op stack pch vreg block => op < 64 && stack < 16 && pch < 32 && vreg < 64 && block.length == 64
  | .mailboxTake | .rowLoad | .faultRecord | .abortMask => true

/-- The commands of the module. -/
inductive Instr where
  /-- REGISTER_WRITE (R18): Software write to a register field that has no row of its own; rw fields are set, w1c bits written 1 are cleared, reserved and ro fields ignore it. -/
  | registerWrite (addr : BitVec 24) (value : BitVec 32)
  /-- RC_READ (R18): Read of an rc field returns its value and clears it to zero in the same access, with a coincident increment kept per R20. -/
  | rcRead (addr : BitVec 24)
  /-- PCK_COUNT_LO_READ (R39): Read of PCK_COUNT_LO returns counter bits [31:0] and latches bits [47:32] for the next PCK_COUNT_HI read. -/
  | pckCountLoRead
  /-- SEQ_RETIRED_LO_READ (R150): Read of SEQ_RETIRED_LO returns the low half of the retired-word count and latches the upper half. -/
  | seqRetiredLoRead
  /-- SMU_SEQ_LO_READ (R602): Read of SMU_SEQ_LO returns the low half of the newest meter record SEQ and latches the upper half. -/
  | smuSeqLoRead
  /-- PCK_CONFIG_WRITE (R35): Write to PCK_LENGTH or PCK_PARTS, taken only while the pick state is IDLE, otherwise ignored with PCK_EVENT.CFG_MISMATCH set. -/
  | pckConfigWrite (parts : Bool) (value : BitVec 32)
  /-- RESUME (R151): Writing SEQ_BRK_CTRL.RESUME restarts issue from a break at the held program counter. -/
  | resume
  /-- MMU_INVALIDATE_PAGE (R280): Write to MMU_INV_HI with ALL clear invalidates the named page's cached translation and sets INV_BUSY, or sets INV_LOST if already busy. -/
  | mmuInvalidatePage (value : BitVec 32)
  /-- MMU_INVALIDATE_ALL (R280): Write to MMU_INV_HI with ALL set invalidates every cached translation and sets INV_BUSY. -/
  | mmuInvalidateAll (value : BitVec 32)
  /-- FQ_POP (R345): Writing SHT_FQ_STATUS.POP removes the shuttle fault record at the head of the queue. -/
  | fqPop
  /-- FAIL_POP (R506): Writing SYN_FAIL_STATUS.POP removes the remote-failure record at the head of the queue. -/
  | failPop
  /-- RETRAIN (R385): Writing LNK_CTRL.RETRAIN starts a fast retrain of the port. -/
  | retrain (port : Nat)
  /-- FULL_RETRAIN (R385): Writing LNK_CTRL.FULL_RETRAIN starts a full retrain of the port from EQUALISE. -/
  | fullRetrain (port : Nat)
  /-- WIDEN (R385): Writing LNK_CTRL.WIDEN requests a width switch to the widest width the passing lanes allow. -/
  | widen (port : Nat)
  /-- PORT_EN_WRITE (R370): Writing LNK_CTRL.EN to 0 holds the port in DOWN; writing 1 lets it leave DOWN for DETECT. -/
  | portEnWrite (port : Nat) (en : Bool)
  /-- PICK_BOUNDARY (R47): At each pick boundary the counter advances, armed snapshots copy, lag is evaluated and due events are raised, and the background window begins. -/
  | pickBoundary (power  :  Nat)
  /-- SPAN_START (R41): At the end of the background window the scheduled span begins and regions resume executing queued words. -/
  | spanStart
  /-- TICK_CELL (R54): A member receives a tick cell, accepts the first valid one per pick, sets its next boundary at t + L − AGE and forwards it. -/
  | tickCell (port : Nat) (cell : Cell) (at_ : Nat)
  /-- PICK_IO_EDGE (R62): A rising edge on PICK_IO sets the origin's pick boundary, or is ignored with IO_PULSE_BAD when out of tolerance. -/
  | pickIoEdge (at_ : Nat)
  /-- SEGMENT_COMPLETE (R50): A segment completes when all regions have retired its PICK_END and all its transfers, BME commands and cells are resolved; a lagging module starts the next at once. -/
  | segmentComplete
  /-- HBM_REFRESH (R34): From cycle 16 of the window each pseudo-channel receives its n refreshes of 96 cycles each. -/
  | hbmRefresh (stack : Nat) (pch : Nat)
  /-- FREQUENCY_STEP (R81): A region whose code differs from its target stops at cycle 16 of the window to relock by at most 8 codes. -/
  | frequencyStep (region : Nat)
  /-- FREQUENCY_STEP_END (R81): After 64 + 32|Δc| cycles the region's clock restarts at the new code. -/
  | frequencyStepEnd (region : Nat)
  /-- PAGE_WALK_READ (R45): The MMU starts a queued page-table walk read in a background window where R43 and R44 allow it. -/
  | pageWalkRead (ecc : Ecc)
  /-- WALK_COMPLETE (R278): A walk ending at a resident leaf fills the cache and releases waiting accesses; one ending MIGRATING or ABSENT gives page faults. -/
  | walkComplete
  /-- HBM_SCRUB (R264): Each window scrub reads the next line of each pseudo-channel, writing back corrected lines and logging uncorrectable ones. -/
  | hbmScrub (stack : Nat) (pch : Nat) (ecc : Ecc)
  /-- FIRMWARE_WINDOW_ACCESS (R42): The control firmware performs its rank-5 accesses to HBM, scratchpad, context table, row masks and BMEs in the background window. -/
  | firmwareWindowAccess (act : FwAction)
  /-- MONITOR_FIRE (R76): A region's droop or critical-path monitor fires and the region stretches each cycle by up to 4/8 until it clears. -/
  | monitorFire (monitor : MonitorAt) (depth : Nat)
  /-- MONITOR_CLEAR (R76): The monitor clears and the region's cycles stop being stretched. -/
  | monitorClear (monitor : MonitorAt)
  /-- REF_LOSS (R86): The reference monitor detects a missing or off-frequency reference, raises REF_LOSS and all generators hold their control words. -/
  | refLoss
  /-- REF_LOSS_CLEAR (R89): After 1 ms of good reference REF_LOSS clears and generators resume tracking. -/
  | refLossClear
  /-- HOLDOVER_EXPIRY (R88): After 10 ms of holdover the module sets EXPIRED, slips, stops issue and moves its clocks to the internal oscillator. -/
  | holdoverExpiry
  /-- WORD_ISSUE (R106): The sequencer decodes a word, executes its S slot and issue-side Y operations, resolves addresses and writes it into every region's issue queue. -/
  | wordIssue (ecc : Ecc)
  /-- ISSUE_WAIT_RESUME (R137): A word held by an issue-side wait, full queue or pending summary issues in the cycle after its condition is seen to hold. -/
  | issueWaitResume (ecc : Ecc)
  /-- WORD_EXECUTE (R107): A region executes the next queued word in an advancing cycle, starting all its region-side slots together. -/
  | wordExecute (region : Nat) (upsets : List (Nat × Bool))
  /-- REGION_WAIT_RESUME (R51): A region waiting on a crossing, tagged line or BME queue advances again once the condition clears. -/
  | regionWaitResume (region : Nat)
  /-- PIPELINE_WRITEBACK (R108): An operation writes its destination register its fixed latency after execution. -/
  | pipelineWriteback (region : Nat)
  /-- SUMMARY_ARRIVAL (R119): A scalar summary arrives in its register 40 cycles after the last region retires it and its pending count decrements. -/
  | summaryArrival
  /-- Y_RETIRE_EFFECT (R137): A retire-side Y operation takes effect 8 cycles after the last enabled region retires its word. -/
  | yRetireEffect
  /-- ARRAY_ROW_RESULT (R175): A streamed row's completed column sum is written into the accumulator bank of its region row, overwriting or accumulating. -/
  | arrayRowResult (region : Nat)
  /-- BME_COMMAND_ENQUEUE (R290): A BME command enters its stack's 64-entry queue within 16 cycles of its command-line read. -/
  | bmeCommandEnqueue (stack : Nat) (region : Nat)
  /-- OPND (R299): The BME copies lines from the issuing region's slice into the stack's operand buffer. -/
  | opnd (stack : Nat)
  /-- GEMV (R303): The BME forms a weight-matrix product with up to 8 activation rows and writes FP32 results. -/
  | gemv (stack : Nat) (ecc : Ecc)
  /-- DEQ (R304): The BME dequantises a block-scaled weight matrix into the region's slice. -/
  | deq (stack : Nat) (ecc : Ecc)
  /-- ATTN (R308): The BME computes paged decode attention for one KV head of one context up to its committed length. -/
  | attn (stack : Nat) (ecc : Ecc)
  /-- BME_COMMAND_END (R294): A BME command's last result line is written and the command completes, lateness counted. -/
  | bmeCommandEnd (stack : Nat) (serial : Nat)
  /-- UNSCHEDULED_ACCESS (R228): A shuttle, network, window or firmware access takes a free bank port, testing and changing tags. -/
  | unscheduledAccess (region : Nat) (bank : Nat) (write : Bool) (ecc : Ecc)
  /-- HBM_RUN (R260): The HBM controller serves a run of unscheduled line accesses within one row segment. -/
  | hbmRun (stack : Nat) (pch : Nat) (lines : Nat) (errors : List (Nat × Bool))
  /-- CXL_COMPLETION (R270): A CXL read returns data, poison or failure, or a write is acknowledged. -/
  | cxlCompletion (port : Nat) (write : Bool) (index : Nat) (result : CxlResult)
  /-- CXL_LINK_DOWN (R271): A CXL port's link goes down, failing outstanding and new accesses and logging the loss. -/
  | cxlLinkDown (port : Nat)
  /-- CXL_LINK_UP (R271): A CXL port's link comes up and the firmware keeps or marks ABSENT its pages. -/
  | cxlLinkUp (port : Nat) (narrow : Bool) (slow : Bool) (capacity : Nat) (retained : Bool)
  /-- INV_DRAIN_COMPLETE (R280): Every access through invalidated entries completes and INV_BUSY clears, letting a migration copy proceed. -/
  | invDrainComplete
  /-- HBM_INIT_COMPLETE (R265): After power-up or D0 reset each controller finishes zeroing its stack and D2 is released. -/
  | hbmInitComplete (stack : Nat)
  /-- TRANSFER_START (R319): A shuttle starts its next launched transfer once the previous one has issued every source read. -/
  | transferStart (shuttle : Nat)
  /-- SOURCE_LINE_ARRIVAL (R319): A source line's data or failure arrives and the shuttle writes, marks or leaves its destination line. -/
  | sourceLineArrival (shuttle : Nat) (line : Nat)
  /-- FETCH_TIMEOUT (R324): A source read unanswered for the fetch timeout becomes a failed fetch. -/
  | fetchTimeout (shuttle : Nat) (line : Nat)
  /-- TRANSFER_COMPLETE (R321): All destination lines are resolved and the shuttle's completion counter advances in launch order. -/
  | transferComplete (shuttle : Nat)
  /-- SAVE_COMPLETE (R335): The yield save writes its header with COMPLETE and YIELD is answered ST_OK. -/
  | saveComplete
  /-- YIELD_LIMIT_EXPIRY (R334): No yield point within the limit answers YIELD ST_OVERRUN and the program continues. -/
  | yieldLimitExpiry
  /-- STOP_LIMIT_EXPIRY (R523): No stopping PICK_END within LIMIT picks answers STOP ST_OVERRUN. -/
  | stopLimitExpiry
  /-- CODEWORD_RECEIVE (R351): A port decodes a codeword, discards it if uncorrectable, and handles each good cell. -/
  | codewordReceive (port : Nat) (lanes : List (List Pam4))
  /-- CODEWORD_SEND (R350): In each codeword time the port sends three cells, filling claimed and free slots or IDLE cells. -/
  | codewordSend (port : Nat)
  /-- REPLAY_REQ (R362): A sender receiving a replay request queues the named held cells for free slots. -/
  | replayReq (port : Nat) (first : Nat) (last : Nat) (all : Bool)
  /-- REPLAY_REQ_RETRY (R361): A gap still open 1 µs after its request is requested again, or escalated to ALL after eight. -/
  | replayReqRetry (port : Nat)
  /-- GO_BACK (R363): A sender whose ACK has not advanced for 4 µs replays every held cell from its oldest unacknowledged. -/
  | goBack (port : Nat)
  /-- MEASURE (R373): A received MEASURE cell is echoed with its hold time. -/
  | measure (port : Nat) (index : BitVec 8) (stamp : BitVec 32) (hold : Nat)
  /-- MEASURE_ECHO (R373): A received echo contributes to the averaged link delay kept in LNK_DELAY. -/
  | measureEcho (port : Nat) (index : BitVec 8) (stamp : BitVec 32) (hold : BitVec 32)
  /-- WIDTH_REQ (R378): A partner's width request is answered WIDTH_ACK or WIDTH_NAK, or settled by collision. -/
  | widthReq (port : Nat) (lanes : BitVec 8) (at_ : BitVec 32)
  /-- WIDTH_ACK (R378): Acceptance of a width switch at the named point. -/
  | widthAck (port : Nat) (lanes : BitVec 8) (at_ : BitVec 32)
  /-- WIDTH_NAK (R378): Refusal of a width switch; the port stays as it is. -/
  | widthNak (port : Nat) (lanes : BitVec 8) (at_ : BitVec 32)
  /-- WIDTH_SWITCH_POINT (R378): At the agreed codeword both ends move to the new lanes and enter SWITCH. -/
  | widthSwitchPoint (port : Nat)
  /-- SWITCH_TIMEOUT (R378): A switch not back in ACTIVE within 1 µs becomes a fast retrain. -/
  | switchTimeout (port : Nat)
  /-- RETRAIN_COMPLETE (R376): A fast retrain returns to ACTIVE at the chosen width and the sender goes back at once. -/
  | retrainComplete (port : Nat) (tests : List LaneTest)
  /-- RETRAIN_TIMEOUT (R376): A fast retrain over 8 µs or with fewer than two lanes continues as a full retrain and resets sequence state. -/
  | retrainTimeout (port : Nat)
  /-- LANE_SIGNAL_LOSS (R375): An active lane loses signal or lock and the port starts a fast retrain. -/
  | laneSignalLoss (port : Nat) (lane : Nat)
  /-- LANE_DEGRADE (R377): A lane with too many corrected symbols in 1 ms is degraded and a narrower width is requested. -/
  | laneDegrade (port : Nat) (lane : Nat)
  /-- TRAINING_BLOCK (R371): A training block is received and its message acted on, including identity exchange and retrain requests. -/
  | trainingBlock (port : Nat) (msg : TrainMsg)
  /-- TRAINING_STAGE_COMPLETE (R370): A training state finishes its work and the port moves to the next state. -/
  | trainingStageComplete (port : Nat) (tests : List LaneTest) (partner : Partner)
  /-- TRAINING_TIMEOUT (R370): A training state over its time limit returns the port to DETECT and sets LNK_EVT.DOWN. -/
  | trainingTimeout (port : Nat)
  /-- ACK_COALESCE (R383): In compatibility mode the outgoing ACK field takes E at a coalescing point. -/
  | ackCoalesce (port : Nat)
  /-- EGRESS_ENQUEUE (R367): A cell routed to a port joins its egress queue or backlog ring, or is dropped when full. -/
  | egressEnqueue (port : Nat) (cell : Cell)
  /-- EGRESS_REFILL (R367): Room in the egress queue refills it from the head of the backlog ring. -/
  | egressRefill (port : Nat)
  /-- SCHEDULED_CELL (R396): A scheduled cell is checked, replicated to its warp's ports and delivered locally if LOCAL. -/
  | scheduledCell (port : Nat) (cell : Cell)
  /-- INBOUND_RELEASE (R399): A cell waiting in the inbound buffer is written once its transfer is running and its line is free. -/
  | inboundRelease (port : Nat)
  /-- SPRAYED_CELL (R408): The reed holds, discards or delivers a sprayed cell by its flow count and grant. -/
  | sprayedCell (port : Nat) (cell : Cell)
  /-- REED_GAP_SKIP (R409): After 2 µs the reed skips a missing flow count and discards the broken message. -/
  | reedGapSkip (src : Nat) (cls : Nat)
  /-- GRANT_CELL (R410): A grant cell's records raise senders' grants or create flows on request. -/
  | grantCell (port : Nat) (cell : Cell)
  /-- GRANT_REQUEST_REPEAT (R411): A sender without room repeats its grant request every 10 µs. -/
  | grantRequestRepeat (dst : Nat) (cls : Nat)
  /-- GRANT_REFRESH (R411): Every 20 µs the receiver resends the grant of each recently active flow. -/
  | grantRefresh (src : Nat) (cls : Nat)
  /-- ADDRESSED_WRITE (R393): An addressed write cell is checked and written into its window. -/
  | addressedWrite (port : Nat) (cell : Cell)
  /-- ADDRESSED_READ (R393): An addressed read cell is checked and answered with read data. -/
  | addressedRead (port : Nat) (cell : Cell)
  /-- ADDRESSED_READ_DATA (R393): Read data returned by an addressed read. -/
  | addressedReadData (port : Nat) (cell : Cell)
  /-- ADDRESSED_STATUS (R416): A status cell answering a tagged addressed write. -/
  | addressedStatus (port : Nat) (cell : Cell)
  /-- READ (R413): A READ message is checked against the window and answered with READ_RESP. -/
  | read (src : Nat)
  /-- WRITE (R413): A WRITE message passes the duplicate filter, is written and answered WRITE_ACK. -/
  | write (src : Nat)
  /-- READ_RESP (R417): A READ response completes its outstanding-request entry or is discarded as LATE. -/
  | readResp (src : Nat)
  /-- WRITE_ACK (R417): A WRITE answer completes its entry, or restarts its timeout for ST_BUSY. -/
  | writeAck (src : Nat)
  /-- SYNC (R497): A SYNC message is checked by epoch, key, filter and object and applied to the object. -/
  | sync (src : Nat)
  /-- SYNC_ACK (R499): A SYNC answer completes the remote operation, writing a failure record for any status but ST_OK. -/
  | syncAck (src : Nat)
  /-- REQUEST_RETRY (R418): An outstanding request is resent with RETRY set at each retry interval. -/
  | requestRetry (entry : Nat)
  /-- REQUEST_TIMEOUT (R419): An entry unanswered for TIMEOUT completes with ST_UNKNOWN_OUTCOME. -/
  | requestTimeout (entry : Nat)
  /-- DOORBELL (R510): A doorbell write makes its mailbox pending, repeats harmlessly, or is refused ST_BUSY. -/
  | doorbell (mailbox : Nat) (src : Nat) (value : BitVec 64)
  /-- ARM_RECORD (R559): A start record with OP ARM is checked, arms the module for S and is relayed to children. -/
  | armRecord (port : Nat) (src : Nat) (record : List (Byte))
  /-- COMMIT_RECORD (R561): A start record with OP COMMIT commits an armed module, resets its OPID count and is relayed. -/
  | commitRecord (port : Nat) (src : Nat) (record : List (Byte))
  /-- START_ACK (R560): A child's start acknowledgement is counted; when all have answered the module acknowledges upward. -/
  | startAck (port : Nat) (src : Nat) (record : List (Byte))
  /-- ARM_TIMEOUT (R560): At TIMEOUT less 100 µs per depth the module acknowledges, counting silent children as failed. -/
  | armTimeout
  /-- IDENTIFY (R520): Returns the order code, grade, disabled-unit map, identity, features and state. -/
  | identify (mb : Nat)
  /-- NEGOTIATE (R517): Accepts and locks the offered, supported and permitted features. -/
  | negotiate (mb : Nat)
  /-- LOAD_IMAGE (R527): Verifies, writes, relocates and configures a program image, optionally restoring a save set. -/
  | loadImage (mb : Nat)
  /-- PATCH_IMAGE (R530): Replaces the symbol table and re-applies every relocation record. -/
  | patchImage (mb : Nat)
  /-- MAP_GRID (R524): Maps virtual rows onto enabled physical rows, bypassing one row for a 7-row grid. -/
  | mapGrid (mb : Nat)
  /-- OPEN_WINDOW (R522): Installs a window entry in a free window ID. -/
  | openWindow (mb : Nat)
  /-- CLOSE_WINDOW (R242): Clears a window's VALID, abandons waiting writes and answers once its accesses are done. -/
  | closeWindow (mb : Nat)
  /-- JOIN_PARTITION (R534): Installs a partition's role, warps, schedules, routes, remaps and allow-sets from a join record. -/
  | joinPartition (mb : Nat)
  /-- LEAVE_PARTITION (R566): Drains and removes a key's tables and leaves the partition. -/
  | leavePartition (mb : Nat)
  /-- ARM_START (R558): At the origin, starts the arm of the partition for a named start pick and epoch. -/
  | armStart (mb : Nat)
  /-- COMMIT_START (R558): At the origin, commits an armed start down the tick tree. -/
  | commitStart (mb : Nat)
  /-- STOP (R523): Lets the program run to the named segment and stop after it completes. -/
  | stop (mb : Nat)
  /-- YIELD (R334): Arms pre-emption at the first yield point at or after segment Y, with a limit and save area. -/
  | yield_ (mb : Nat)
  /-- CTX_CREATE (R437): Checks the request and fills a FREE context entry as READY. -/
  | ctxCreate (mb : Nat)
  /-- CTX_CANCEL (R459): Cancels a context, masking its row or ending it at once. -/
  | ctxCancel (mb : Nat)
  /-- CTX_DEADLINE (R460): Writes a new deadline into the context entry and its step-table row. -/
  | ctxDeadline (mb : Nat)
  /-- CTX_RELEASE (R441): Returns an ENDED context entry to FREE and frees its KV frames. -/
  | ctxRelease (mb : Nat)
  /-- VARIANT_LOAD (R452): Writes a variant's blocks into the variant table, holding the pages MIGRATING meanwhile. -/
  | variantLoad (mb : Nat)
  /-- WEIGHT_FETCH (R472): Checks the shard map and fetches the module's chunks DIRECT or STAGED from the gateways. -/
  | weightFetch (mb : Nat) (map : List (Byte))
  /-- WEIGHT_SWAP (R480): Arms an in-place swap of the staged version after step k, or copies all layers when idle. -/
  | weightSwap (mb : Nat)
  /-- SNAPSHOT_ARM (R609): Arms a pick number for a counter snapshot, or disarms with P 0. -/
  | snapshotArm (mb : Nat)
  /-- SNAPSHOT_READ (R611): Reports whether the shadows hold a valid copy of a named pick. -/
  | snapshotRead (mb : Nat)
  /-- FENCE (R539): Fences the named domains and starts the selvedge drain. -/
  | fence (mb : Nat)
  /-- UNFENCE (R542): Restores acceptance of requests to the named fenced domains. -/
  | unfence (mb : Nat)
  /-- RESET_DOMAIN (R535): Fences if needed and resets one of D1, D2 or D3. -/
  | resetDomain (mb : Nat)
  /-- KEY_RETIRE (R566): Removes a key from allow-sets, discards its flows and entries, and clears its tables once drained. -/
  | keyRetire (mb : Nat)
  /-- PERTURB (R618): Opens, applies pairs to, or closes a perturbation session on the PTB_ slots. -/
  | perturb (mb : Nat)
  /-- REHEARSE (R623): Schedules a real link drop, D3 reset or spare stand-in at a named pick. -/
  | rehearse (mb : Nat)
  /-- DEBUG_BREAK (R522): Sets a count or tag break, clears both, or resumes, returning the retired count and PC. -/
  | debugBreak (mb : Nat)
  /-- FENCE_DRAIN_END (R539): The selvedge drain empties or reaches 50 µs, remaining work is forced and FENCE is answered. -/
  | fenceDrainEnd
  /-- FENCE_N (R544): FENCE_N held low for 1 µs fences D1, D2 and D3. -/
  | fenceN
  /-- DOMAIN_RESET_COMPLETE (R543): A reset domain serves requests again and RESET_DOMAIN is answered ST_OK. -/
  | domainResetComplete (domain : Nat)
  /-- KEY_DRAIN_COMPLETE (R566): No cell of a retiring key remains queued, so its warp, schedule and remap entries are cleared and the command answered. -/
  | keyDrainComplete (key : Nat)
  /-- COMMIT_BLOCK (R455): The serving control commits a block's rows: advancing, re-running or ending contexts, then adds 1 to object 89. -/
  | commitBlock (rows : Nat) (begun : Bool)
  /-- ROW_MASK_PROPAGATE (R445): A row-mask change reaches every region's copy 16 timebase cycles after it is made. -/
  | rowMaskPropagate
  /-- CHUNK_LANDED (R475): A fetched or copied chunk is hashed and verified, or fails and is fetched again. -/
  | chunkLanded (record : Nat)
  /-- LAYER_COPY_START (R482): Once a layer's cut is in force and the previous copy ended, the module copies the layer's staged chunks over the live ones. -/
  | layerCopyStart
  /-- LAYER_COPY_COMPLETE (R482): Every chunk of the layer verified; VERSION recorded and OPEN_L set to k + 1, completing the swap after the last layer. -/
  | layerCopyComplete
  /-- GET_INFO (R578): Management message returning the IDENTIFY body and MGT_BOOT. -/
  | getInfo (head : MsgHead)
  /-- READ_SENSORS (R578): Management message returning the latest sensor readings. -/
  | readSensors (head : MsgHead) (first : BitVec 16) (count : BitVec 16)
  /-- READ_LOG (R578): Management message returning up to 15 log records. -/
  | readLog (head : MsgHead) (first : BitVec 64) (count : BitVec 16)
  /-- GET_NONCE (R578): Management message returning the management nonce. -/
  | getNonce (head : MsgHead)
  /-- SET_CEILING (R578): Signed message writing the power ceiling. -/
  | setCeiling (head : MsgHead) (watts : BitVec 16) (sig : List (Byte))
  /-- SET_PERMITTED (R578): Signed message writing the permitted feature mask. -/
  | setPermitted (head : MsgHead) (mask : BitVec 128) (sig : List (Byte))
  /-- WRITE_INSTALL (R583): Verifies and writes a new installation record to the unused slot. -/
  | writeInstall (head : MsgHead) (record : List (Byte))
  /-- FENCE_MESSAGE (R578): Signed management FENCE acting as FENCE in mailbox 0. -/
  | fenceMessage (head : MsgHead) (domains : BitVec 8) (sig : List (Byte))
  /-- UNFENCE_MESSAGE (R578): Signed management UNFENCE. -/
  | unfenceMessage (head : MsgHead) (domains : BitVec 8) (sig : List (Byte))
  /-- RESET_DOMAIN_MESSAGE (R578): Signed management reset of D0 alone or as RESET_DOMAIN. -/
  | resetDomainMessage (head : MsgHead) (domains : BitVec 8) (sig : List (Byte))
  /-- MAILBOX_RELAY (R578): Signed message running a request as if written to a fault-manager mailbox. -/
  | mailboxRelay (head : MsgHead) (mailbox : BitVec 8) (request : List (Byte)) (sig : List (Byte))
  /-- EVENT (R579): The module sends an unsolicited EVENT message to the fault manager within 1 ms of raising an event. -/
  | event
  /-- MANAGEMENT_WATCHDOG (R572): The management core alone restarts after 2 s without watchdog service. -/
  | managementWatchdog
  /-- SENSOR_SAMPLE (R573): Management reads its sensors at their stated intervals. -/
  | sensorSample (sensor : Nat) (value : Int)
  /-- THERMAL_TRIP (R576): The comparator trips, drives THERM_TRIP_N low and the module removes its logic rails. -/
  | thermalTrip
  /-- LOG_WRITE (R580): Management writes queued log records to flash, preceded by a LOST record after drops. -/
  | logWrite
  /-- BOOT (R587): After power-good or D0 reset the boot chain verifies records and images and releases D1 to D3. -/
  | boot (startup : List (Byte))
  /-- FIRMWARE_COMPONENT_WRITE (R589): A PLDM component is verified and written to the unused slot. -/
  | firmwareComponentWrite (component : Nat) (image : List (Byte))
  /-- ACTIVATE_FIRMWARE (R589): PLDM ActivateFirmware marks the written slot pending. -/
  | activateFirmware (component : Nat)
  /-- FIRMWARE_READY (R589): A pending image proves ready, becomes active and its security counter advances. -/
  | firmwareReady (component : Nat)
  /-- GET_VERSION (R591): SPDM version request. -/
  | getVersion
  /-- GET_CAPABILITIES (R591): SPDM capabilities request. -/
  | getCapabilities
  /-- NEGOTIATE_ALGORITHMS (R591): SPDM algorithm negotiation, accepting only RSA-3072 and SHA-256. -/
  | negotiateAlgorithms (rsa3072 : Bool) (sha256 : Bool) (measSha256 : Bool)
  /-- GET_DIGESTS (R591): SPDM certificate digests request. -/
  | getDigests
  /-- GET_CERTIFICATE (R591): SPDM certificate chain request. -/
  | getCertificate (slot : Nat) (offset : Nat) (length : Nat)
  /-- CHALLENGE (R591): SPDM challenge signed by the attestation key. -/
  | challenge (slot : Nat) (nonce : BitVec 256)
  /-- GET_MEASUREMENTS (R592): SPDM request returning the measurement blocks. -/
  | getMeasurements (index : Nat) (signed : Bool) (nonce : BitVec 256)
  /-- SPDM_UNSUPPORTED_REQUEST (R591): Any other SPDM request is answered UnsupportedRequest. -/
  | spdmUnsupportedRequest (code : BitVec 8)
  /-- SMU_SAMPLE (R593): The meter samples voltage and shunt current and integrates energy. -/
  | smuSample (millivolts : Nat) (milliamps : Nat)
  /-- INTERVAL_CLOSE (R596): The meter closes an interval, writing its key block and signed interval record. -/
  | intervalClose
  /-- SMU_CHECKPOINT (R598): Every second the meter writes a checkpoint of its counts. -/
  | smuCheckpoint
  /-- SMU_WATCHDOG (R599): The meter's own watchdog resets D4. -/
  | smuWatchdog
  /-- GET_READING (R602): Meter I3C request returning live energy and counts unsigned. -/
  | getReading
  /-- GET_RECORDS (R602): Meter I3C request returning records from a SEQ. -/
  | getRecords (seq : BitVec 64)
  /-- GET_CERT (R602): Meter I3C request returning the meter certificate. -/
  | getCert
  /-- SET_INTERVAL (R602): Meter I3C request changing the interval, closing the current one and advancing the event counter. -/
  | setInterval (seconds : Nat)
  /-- CALIBRATION_WRITE (R600): A metrology-signed calibration write, counted as a meter event. -/
  | calibrationWrite (data : List (Byte)) (sig : List (Byte))
  /-- METER_IMAGE_UPDATE (R600): PLDM update of the meter firmware on its own endpoint, counted as a meter event on activation. -/
  | meterImageUpdate (image : List (Byte)) (activate : Bool)
  /-- TRACE_WRITE (R616): The trace unit writes queued trace records into the trace ring in HBM. -/
  | traceWrite
  /-- REHEARSAL_LINK_RELEASE (R623): After 1 ms in DOWN a rehearsed port trains from DETECT. -/
  | rehearsalLinkRelease
  /-- REHEARSAL_LINK_TIMEOUT (R623): A rehearsed port not ACTIVE within 100 ms answers REHEARSE ST_FAULT. -/
  | rehearsalLinkTimeout
  /-- POWER_UP (R641): With input at 45 V for 1 ms and presence mated the rails start coming up at step 1. -/
  | powerUp
  /-- RAIL_STEP_COMPLETE (R641): Every rail of a step is within 3 percent and the next step begins, ending in MOD_PG release. -/
  | railStepComplete
  /-- RAIL_STEP_TIMEOUT (R642): A power-up step not completing in time removes power and drives PWR_FAULT_N low. -/
  | railStepTimeout
  /-- RAIL_FAULT (R642): A rail out of tolerance for 10 µs removes power and latches PWR_FAULT_N. -/
  | railFault (rail : Nat)
  /-- INPUT_BELOW_40V (R642): The input falling below 40 V clears a latched power fault. -/
  | inputBelow40V
  /-- POWER_LOSS (R644): Input below 44 V for 20 µs pulls MOD_PG low and removes the rails while the meter checkpoints. -/
  | powerLoss
  /-- MOD_RESET_N (R643): MOD_RESET_N low for 10 µs resets D0; its release starts the boot. -/
  | modResetN (release : Bool)
  /-- CXL_PERST_RELEASE (R647): CXL_PERST_N goes high 100 ms after the CXL reference is stable. -/
  | cxlPerstRelease (port : Nat)
  /-- DEFAULT_FRAMED_WINDOW (R265): While PCK_STATUS.STATE is IDLE or ACQUIRING, every 8,192 timebase cycles the module begins a default-framed background window in which refresh, scrub, walks, firmware access and hang-detector sampling take place. -/
  | defaultFramedWindow (power : Nat)
  /-- FENCE_N_RELEASE (R649): FENCE_N returns high, clearing MGT_FENCE.HW and ending its hold on domains that come out of reset, without unfencing anything already fenced. -/
  | fenceNRelease
  /-- METER_KEY_REGENERATION (R600): The sealed meter regenerates its meter key, closing the current interval, advancing the event counter and writing a KIND 3 record. -/
  | meterKeyRegeneration
  deriving DecidableEq, Repr

end Sys2Proof
end

