-- ==== Sys2Proof/WellFormed.lean ====
section
/-! DEFINITION. Which commands name units that exist and carry operands of the sizes the spec gives them. -/
namespace Sys2Proof

/-- A command is well formed when every unit it names exists (R26, R27, R253, R267, R317, R346, R507) and every
structure it carries has its size (R349, R352, R556, R557). -/
def Instr.wellFormed : Instr → Bool
  | .registerWrite _ _ => true
  | .rcRead _ => true
  | .pckCountLoRead => true
  | .seqRetiredLoRead => true
  | .smuSeqLoRead => true
  | .pckConfigWrite _ _ => true
  | .resume => true
  | .mmuInvalidatePage _ => true
  | .mmuInvalidateAll _ => true
  | .fqPop => true
  | .failPop => true
  | .retrain port => port < 24
  | .fullRetrain port => port < 24
  | .widen port => port < 24
  | .portEnWrite port _ => port < 24
  | .pickBoundary _ => true
  | .spanStart => true
  | .tickCell port cell _ => port < 24 && cell.ok
  | .pickIoEdge _ => true
  | .segmentComplete => true
  | .hbmRefresh stack pch => stack < 16 && pch < 32
  | .frequencyStep region => region < 64
  | .frequencyStepEnd region => region < 64
  | .pageWalkRead _ => true
  | .walkComplete => true
  | .hbmScrub stack pch _ => stack < 16 && pch < 32
  | .firmwareWindowAccess act => act.ok
  | .monitorFire monitor depth => monitor.region < 64 && 1 <= depth && depth <= 4
  | .monitorClear monitor => monitor.region < 64
  | .refLoss => true
  | .refLossClear => true
  | .holdoverExpiry => true
  | .wordIssue _ => true
  | .issueWaitResume _ => true
  | .wordExecute region upsets => region < 64 && upsets.all (fun u => u.1 < 524288)
  | .regionWaitResume region => region < 64
  | .pipelineWriteback region => region < 64
  | .summaryArrival => true
  | .yRetireEffect => true
  | .arrayRowResult region => region < 64
  | .bmeCommandEnqueue stack region => stack < 16 && region < 64
  | .opnd stack => stack < 16
  | .gemv stack _ => stack < 16
  | .deq stack _ => stack < 16
  | .attn stack _ => stack < 16
  | .bmeCommandEnd stack _ => stack < 16
  | .unscheduledAccess region bank _ _ => region < 64 && bank < 64
  | .hbmRun stack pch lines _ => stack < 16 && pch < 32 && 1 <= lines && lines <= 32
  | .cxlCompletion port _ _ result => port < 8 && result.ok
  | .cxlLinkDown port => port < 8
  | .cxlLinkUp port _ _ _ _ => port < 8
  | .invDrainComplete => true
  | .hbmInitComplete stack => stack < 16
  | .transferStart shuttle => shuttle < 88
  | .sourceLineArrival shuttle _ => shuttle < 88
  | .fetchTimeout shuttle _ => shuttle < 88
  | .transferComplete shuttle => shuttle < 88
  | .saveComplete => true
  | .yieldLimitExpiry => true
  | .stopLimitExpiry => true
  | .codewordReceive port lanes => port < 24 && !lanes.isEmpty && lanes.all (fun l => l.length * lanes.length == 1024)
  | .codewordSend port => port < 24
  | .replayReq port first last _ => port < 24 && first < 65536 && last < 65536
  | .replayReqRetry port => port < 24
  | .goBack port => port < 24
  | .measure port _ _ _ => port < 24
  | .measureEcho port _ _ _ => port < 24
  | .widthReq port _ _ => port < 24
  | .widthAck port _ _ => port < 24
  | .widthNak port _ _ => port < 24
  | .widthSwitchPoint port => port < 24
  | .switchTimeout port => port < 24
  | .retrainComplete port tests => port < 24 && tests.length == 8
  | .retrainTimeout port => port < 24
  | .laneSignalLoss port lane => port < 24 && lane < 8
  | .laneDegrade port lane => port < 24 && lane < 8
  | .trainingBlock port _ => port < 24
  | .trainingStageComplete port tests _ => port < 24 && tests.length == 8
  | .trainingTimeout port => port < 24
  | .ackCoalesce port => port < 24
  | .egressEnqueue port cell => port < 24 && cell.ok
  | .egressRefill port => port < 24
  | .scheduledCell port cell => port < 24 && cell.ok
  | .inboundRelease port => port < 24
  | .sprayedCell port cell => port < 24 && cell.ok
  | .reedGapSkip src cls => src < 65536 && cls < 4
  | .grantCell port cell => port < 24 && cell.ok
  | .grantRequestRepeat dst cls => dst < 65536 && cls < 4
  | .grantRefresh src cls => src < 65536 && cls < 4
  | .addressedWrite port cell => port < 24 && cell.ok
  | .addressedRead port cell => port < 24 && cell.ok
  | .addressedReadData port cell => port < 24 && cell.ok
  | .addressedStatus port cell => port < 24 && cell.ok
  | .read src => src < 65536
  | .write src => src < 65536
  | .readResp src => src < 65536
  | .writeAck src => src < 65536
  | .sync src => src < 65536
  | .syncAck src => src < 65536
  | .requestRetry entry => entry < 4096
  | .requestTimeout entry => entry < 4096
  | .doorbell mailbox src _ => mailbox < 64 && src < 65536
  | .armRecord port src record => port < 24 && src < 65536 && record.length == 48
  | .commitRecord port src record => port < 24 && src < 65536 && record.length == 48
  | .startAck port src record => port < 24 && src < 65536 && record.length == 32
  | .armTimeout => true
  | .identify mb => mb < 64
  | .negotiate mb => mb < 64
  | .loadImage mb => mb < 64
  | .patchImage mb => mb < 64
  | .mapGrid mb => mb < 64
  | .openWindow mb => mb < 64
  | .closeWindow mb => mb < 64
  | .joinPartition mb => mb < 64
  | .leavePartition mb => mb < 64
  | .armStart mb => mb < 64
  | .commitStart mb => mb < 64
  | .stop mb => mb < 64
  | .yield_ mb => mb < 64
  | .ctxCreate mb => mb < 64
  | .ctxCancel mb => mb < 64
  | .ctxDeadline mb => mb < 64
  | .ctxRelease mb => mb < 64
  | .variantLoad mb => mb < 64
  | .weightFetch mb _ => mb < 64
  | .weightSwap mb => mb < 64
  | .snapshotArm mb => mb < 64
  | .snapshotRead mb => mb < 64
  | .fence mb => mb < 64
  | .unfence mb => mb < 64
  | .resetDomain mb => mb < 64
  | .keyRetire mb => mb < 64
  | .perturb mb => mb < 64
  | .rehearse mb => mb < 64
  | .debugBreak mb => mb < 64
  | .fenceDrainEnd => true
  | .fenceN => true
  | .domainResetComplete domain => 1 <= domain && domain <= 3
  | .keyDrainComplete key => key < 4096
  | .commitBlock _ _ => true
  | .rowMaskPropagate => true
  | .chunkLanded _ => true
  | .layerCopyStart => true
  | .layerCopyComplete => true
  | .getInfo _ => true
  | .readSensors _ _ _ => true
  | .readLog _ _ _ => true
  | .getNonce _ => true
  | .setCeiling _ _ _ => true
  | .setPermitted _ _ _ => true
  | .writeInstall _ _ => true
  | .fenceMessage _ _ _ => true
  | .unfenceMessage _ _ _ => true
  | .resetDomainMessage _ _ _ => true
  | .mailboxRelay _ _ _ _ => true
  | .event => true
  | .managementWatchdog => true
  | .sensorSample sensor _ => sensor < 572
  | .thermalTrip => true
  | .logWrite => true
  | .boot _ => true
  | .firmwareComponentWrite component _ => component == 1 || component == 2
  | .activateFirmware component => component == 1 || component == 2
  | .firmwareReady component => component == 1 || component == 2
  | .getVersion => true
  | .getCapabilities => true
  | .negotiateAlgorithms _ _ _ => true
  | .getDigests => true
  | .getCertificate _ _ _ => true
  | .challenge _ _ => true
  | .getMeasurements _ _ _ => true
  | .spdmUnsupportedRequest _ => true
  | .smuSample _ _ => true
  | .intervalClose => true
  | .smuCheckpoint => true
  | .smuWatchdog => true
  | .getReading => true
  | .getRecords _ => true
  | .getCert => true
  | .setInterval _ => true
  | .calibrationWrite _ _ => true
  | .meterImageUpdate _ _ => true
  | .traceWrite => true
  | .rehearsalLinkRelease => true
  | .rehearsalLinkTimeout => true
  | .powerUp => true
  | .railStepComplete => true
  | .railStepTimeout => true
  | .railFault rail => rail < 40
  | .inputBelow40V => true
  | .powerLoss => true
  | .modResetN _ => true
  | .cxlPerstRelease port => port < 8
  | .defaultFramedWindow _ => true
  | .fenceNRelease => true
  | .meterKeyRegeneration => true

end Sys2Proof
end

