-- ==== Sys2Proof/Config.lean ====
section
/-! DEFINITION. What the spec leaves open: each free value is a constant without a body, so that nothing can be proved of
it. The notes name, for each, where it is used. -/
namespace Sys2Proof.Config

/-- R205: the value the reference arithmetic library gives an operation code, a format code and an operand. The bounds and
special cases of R204 are applied to it where it is used (notes/assumptions/10.md). -/
opaque refLib (op fmt : Nat) (x : BitVec 32) : BitVec 32

/-- R577: the management nonce drawn for a count of free values taken (notes/assumptions/11.md). -/
opaque nonce (n : Nat) : BitVec 256

/-- R585, R591, R596: the RSASSA-PKCS1-v1_5 signature of a message by one of the module's own private keys, given as its 1,568
bytes, whose form the spec does not give (notes/assumptions/12.md). -/
opaque sign (privateKey message : List Byte) : List Byte

/-- R584, R588, R600: the public keys of Mernor, as modulus and exponent: 0 manufacturing root, 1 firmware root, 2 metrology
root (notes/assumptions/12.md). -/
opaque rootKey (n : Nat) : List Byte

/-- R585: the secret that the fuzzy extractor produces from the start-up state of the SRAM block and the helper data
(notes/assumptions/12.md). -/
opaque extract (startup helper : List Byte) : List Byte

/-- R596, R600, R601: the meter's private key, by the number of the regeneration that made it, and the public half of a private
key (notes/assumptions/12.md). -/
opaque meterKey (n : Nat) : List Byte
opaque publicKey (privateKey : List Byte) : List Byte

/-- R585, R601: the start-up state of the meter's SRAM block at a start, by the count of free values taken, the salt of the
wrapping of the n-th meter key, and the wrapped meter key with which the module left manufacture
(notes/assumptions/12.md). -/
opaque meterStartup (n : Nat) : List Byte
opaque meterSalt (n : Nat) : List Byte
opaque meterWrap : List Byte

/-- R591: the certificates of Mernor's manufacturing root and CA, with which slot 0's chain begins (notes/assumptions/12.md). -/
opaque mernorCerts : List Byte

/-- R577, R578: FLAGS of an answer, by its OP, and SEQ of an EVENT (notes/assumptions/65.md). -/
opaque answerFlags (op : Nat) : Byte
opaque eventSeq (pick : Nat) : BitVec 32

/-- R371: the marker of 64 symbols with which a training block begins, and the state in which its PRBS31 filler begins
(notes/assumptions/75.md). -/
opaque trainMarker : List Byte
opaque trainFiller : BitVec 31

/-- R592: the management ROM's digest (notes/assumptions/13.md). -/
opaque romDigest : List Byte

/-- R269: what the memory of a CXL device holds where this module has written nothing since the device last lost it: by the
count of such losses, the port and the device offset (notes/assumptions/15.md). -/
opaque cxlByte (life port offset : Nat) : Byte

/-- A free byte, by the count of free values taken (notes/assumptions/15.md). -/
opaque freeByte (n : Nat) : Byte

/-- A free choice, by the count of free values taken (notes/assumptions/15.md). -/
opaque freeNat (n : Nat) : Nat

end Sys2Proof.Config
end

