-- ==== Sys2Proof/Machine/Store.lean ====
section
/-! DEFINITION. Sparse stores and strings of bytes: the one place where a store is read or written, and where a value
becomes little-endian bytes (R15). -/
namespace Sys2Proof.Machine

variable {β : Type}

/-- What a store whose unlisted keys read `d` holds at a key. -/
def sget (d : β) : SMap β → Nat → β
  | [], _ => d
  | (a, b) :: r, k => if a = k then b else sget d r k

/-- Take a key's entry out. -/
def sdrop (m : SMap β) (k : Nat) : SMap β := m.filter (fun e => e.1 != k)

/-- Put an entry before the first one of a higher key. -/
def sins (k : Nat) (v : β) : SMap β → SMap β
  | [] => [(k, v)]
  | (a, b) :: r => if k < a then (k, v) :: (a, b) :: r else (a, b) :: sins k v r

/-- Write a key. Writing what an unlisted key reads as removes the entry. -/
def sset [DecidableEq β] (d : β) (m : SMap β) (k : Nat) (v : β) : SMap β :=
  if v = d then sdrop m k else sins k v (sdrop m k)

/-- Every key of a store is above a bound, rising, and no entry is what an unlisted key reads as. -/
def SMap.wfFrom [DecidableEq β] (d : β) : Option Nat → SMap β → Bool
  | _, [] => true
  | none, (a, b) :: r => decide (b ≠ d) && SMap.wfFrom d (some a) r
  | some lo, (a, b) :: r => decide (lo < a) && decide (b ≠ d) && SMap.wfFrom d (some a) r

/-- The canonical form: keys strictly rising, and no entry equal to what an unlisted key reads as. -/
def SMap.wf [DecidableEq β] (d : β) (m : SMap β) : Bool := SMap.wfFrom d none m

/-- Change the entry of a key by a function. -/
def smod [DecidableEq β] (d : β) (m : SMap β) (k : Nat) (f : β → β) : SMap β := sset d m k (f (sget d m k))

/-- Keep the entries whose key satisfies a test. -/
def sfilter (m : SMap β) (p : Nat → Bool) : SMap β := m.filter (fun e => p e.1)

/-- Change every listed entry, and drop those that become what an unlisted key reads as. -/
def smapAllTo [DecidableEq β] (d : β) (m : SMap β) (f : β → β) : SMap β :=
  (m.map (fun e => (e.1, f e.2))).filter (fun e => decide (e.2 ≠ d))

/-- Write consecutive keys from `a`. -/
def swrite [DecidableEq β] (d : β) (m : SMap β) (a : Nat) : List β → SMap β
  | [] => m
  | v :: r => swrite d (sset d m a v) (a + 1) r

/-- Read `n` consecutive keys from `a`. -/
def sread (d : β) (m : SMap β) (a n : Nat) : List β := (List.range n).map (fun i => sget d m (a + i))

/-! ## Bytes -/

/-- The number whose little-endian bytes these are (R15). -/
def leNat : List Byte → Nat
  | [] => 0
  | b :: r => b.toNat + 256 * leNat r

/-- The `n` little-endian bytes of a number (R15). -/
def leBytes : Nat → Nat → List Byte
  | 0, _ => []
  | n + 1, v => BitVec.ofNat 8 v :: leBytes n (v / 256)

/-- `n` bytes from byte offset `o` of a structure (R17); bytes past its end read zero. -/
def bytesAt (b : List Byte) (o n : Nat) : List Byte :=
  let t := (b.drop o).take n
  t ++ List.replicate (n - t.length) 0

/-- The little-endian value of `n` bytes at byte offset `o` (R15, R17). -/
def leAt (b : List Byte) (o n : Nat) : Nat := leNat (bytesAt b o n)

/-- Replace bytes from offset `o`. -/
def putAt (b : List Byte) (o : Nat) (v : List Byte) : List Byte := b.take o ++ v ++ b.drop (o + v.length)

/-- Exactly `n` bytes: cut, or zeros appended. -/
def padTo (n : Nat) (b : List Byte) : List Byte := bytesAt b 0 n

/-- Cut a string into pieces of `n` bytes. -/
def chunksOf (n : Nat) : Nat → List Byte → List (List Byte)
  | 0, _ => []
  | k + 1, b => b.take n :: chunksOf n k (b.drop n)

/-! ## Bit fields (R14) -/

/-- The `len` bits from bit `lo` of a number. -/
def bitsAt (v lo len : Nat) : Nat := v / 2 ^ lo % 2 ^ len

/-- One bit of a number. -/
def bitAt (v n : Nat) : Bool := v.testBit n

/-- Replace the `len` bits from bit `lo`. -/
def bitsPut (v lo len x : Nat) : Nat :=
  v / 2 ^ (lo + len) * 2 ^ (lo + len) + x % 2 ^ len * 2 ^ lo + v % 2 ^ lo

/-- The two's-complement value of the low `len` bits. -/
def sext (v len : Nat) : Int :=
  let u := v % 2 ^ len
  if 2 * u < 2 ^ len then (u : Int) else (u : Int) - (2 ^ len : Nat)

/-- 1 for true. -/
def bnat (b : Bool) : Nat := if b then 1 else 0

end Sys2Proof.Machine
end

