-- ==== Sys2Proof/Machine/Float.lean ====
section
/-! DEFINITION. Numbers and their encodings: the element formats of R122 and R184, exact arithmetic on their values with
one rounding (R199), the tile sum of the array (R179 to R185), the conversions of R202 and R203, and the functions of
R204. -/
namespace Sys2Proof.Machine

/-- The value an encoding stands for: NaN, an infinity, or (−1)^neg × m × 2^e (a zero keeps its sign). -/
inductive Num where
  | nan
  | inf (neg : Bool)
  | fin (neg : Bool) (m : Nat) (e : Int)
  deriving DecidableEq, Repr

/-- Which of its largest exponent's encodings a format gives to infinities and NaNs (R184). -/
inductive Specials where
  | ieee | nanOnly | none
  deriving DecidableEq, Repr

/-- A floating-point format: widths of its exponent and fraction, and bias. -/
structure FloatFmt where
  ebits : Nat
  mbits : Nat
  bias  : Nat
  spec  : Specials
  deriving DecidableEq, Repr

def fp32 : FloatFmt := ⟨8, 23, 127, .ieee⟩
def bf16 : FloatFmt := ⟨8, 7, 127, .ieee⟩

/-- R122: the floating-point format of a format code; none for the integer and reserved codes. -/
def floatFmt : Nat → Option FloatFmt
  | 0 => some fp32
  | 1 => some bf16
  | 2 => some ⟨4, 3, 7, .nanOnly⟩
  | 3 => some ⟨5, 2, 15, .ieee⟩
  | 4 => some ⟨2, 3, 1, .none⟩
  | 5 => some ⟨3, 2, 3, .none⟩
  | 6 => some ⟨2, 1, 1, .none⟩
  | _ => none

/-- R122: element width in bits of a format code. -/
def fmtBits : Nat → Nat
  | 1 => 16
  | 2 | 3 | 7 => 8
  | 4 | 5 => 6
  | 6 => 4
  | _ => 32

namespace FloatFmt
variable (f : FloatFmt)

/-- Bits of an encoding. -/
def width : Nat := 1 + f.ebits + f.mbits

/-- Exponent of the smallest normal number. -/
def emin : Int := 1 - (f.bias : Int)

/-- Largest encoding of a finite magnitude. -/
def maxFinite : Nat :=
  match f.spec with
  | .ieee => (2 ^ f.ebits - 1) * 2 ^ f.mbits - 1
  | .nanOnly => 2 ^ (f.ebits + f.mbits) - 2
  | .none => 2 ^ (f.ebits + f.mbits) - 1

/-- Encoding of +∞, where the format has one. -/
def infBits : Nat := (2 ^ f.ebits - 1) * 2 ^ f.mbits

/-- The canonical NaN (R199, R202). -/
def canonNan : Nat :=
  match f.spec with
  | .ieee => f.infBits + 2 ^ (f.mbits - 1)
  | .nanOnly => 2 ^ (f.ebits + f.mbits) - 1
  | .none => 0

/-- The sign bit of an encoding, when set. -/
def signBit (neg : Bool) : Nat := if neg then 2 ^ (f.ebits + f.mbits) else 0

/-- R184: the value of an encoding. -/
def decode (x : Nat) : Num :=
  let neg := bitAt x (f.ebits + f.mbits)
  let ex := bitsAt x f.mbits f.ebits
  let fr := bitsAt x 0 f.mbits
  let mag := bitsAt x 0 (f.ebits + f.mbits)
  let special := match f.spec with
    | .ieee => ex == 2 ^ f.ebits - 1
    | .nanOnly => mag == 2 ^ (f.ebits + f.mbits) - 1
    | .none => false
  if special then
    if f.spec == .ieee && fr == 0 then .inf neg else .nan
  else if ex == 0 then .fin neg fr (f.emin - f.mbits)
  else .fin neg (fr + 2 ^ f.mbits) ((ex : Int) - f.bias - f.mbits)

end FloatFmt

/-- How an inexact magnitude is rounded: to nearest even, toward zero, or away from zero. -/
inductive MagRound where
  | nearest | down | up
  deriving DecidableEq, Repr

/-- m × 2^e as a whole number of units of 2^lsb, rounded. -/
def roundMag (mode : MagRound) (m : Nat) (e lsb : Int) : Nat :=
  if lsb ≤ e then m * 2 ^ (e - lsb).toNat
  else
    let k := (lsb - e).toNat
    let q := m / 2 ^ k
    let r := m % 2 ^ k
    match mode with
    | .down => q
    | .up => if r = 0 then q else q + 1
    | .nearest =>
      if 2 * r < 2 ^ k then q
      else if 2 ^ k < 2 * r then q + 1
      else if q % 2 = 0 then q else q + 1

/-- floor(log2(m × 2^e)) for m ≠ 0. -/
def magExp (m : Nat) (e : Int) : Int := e + (Nat.log2 m : Int)

/-- The encoding of m × 2^e, rounded to nearest even with subnormals kept; it may exceed the largest finite encoding. -/
def FloatFmt.encodeMag (f : FloatFmt) (m : Nat) (e : Int) : Nat :=
  if m = 0 then 0
  else
    let top := max (magExp m e) f.emin
    let lsb := top - f.mbits
    let n := roundMag .nearest m e lsb
    ((top + f.bias).toNat * 2 ^ f.mbits + n) - 2 ^ f.mbits

/-- What a magnitude beyond the largest finite becomes. -/
inductive Overflow where
  | toInf | toMax | toNan
  deriving DecidableEq, Repr

/-- The encoding of a value: rounded once, a NaN canonical, an infinity and an overflow by the policy. -/
def FloatFmt.encode (f : FloatFmt) (ovf : Overflow) (v : Num) : Nat :=
  let beyond (neg : Bool) : Nat := match ovf with
    | .toInf => f.signBit neg + f.infBits
    | .toMax => f.signBit neg + f.maxFinite
    | .toNan => f.signBit neg + f.canonNan
  match v with
  | .nan => f.canonNan
  | .inf neg => beyond neg
  | .fin neg m e =>
    let x := f.encodeMag m e
    if f.maxFinite < x then beyond neg else f.signBit neg + x

/-! ## Exact arithmetic -/

/-- The signed integer of a finite value in units of 2^lsb, for lsb at or below its exponent. -/
def scaleTo (neg : Bool) (m : Nat) (e lsb : Int) : Int :=
  let v : Int := (m * 2 ^ (e - lsb).toNat : Nat)
  if neg then -v else v

/-- A signed integer in units of 2^lsb as a value; an exact zero is +0. -/
def numOf (v lsb : Int) : Num := .fin (decide (v < 0)) v.natAbs lsb

/-- R199, R186: the exact sum. -/
def Num.add : Num → Num → Num
  | .nan, _ => .nan
  | _, .nan => .nan
  | .inf a, .inf b => if a = b then .inf a else .nan
  | .inf a, _ => .inf a
  | _, .inf b => .inf b
  | .fin a m e, .fin b n g =>
    if m = 0 ∧ n = 0 then .fin (a && b) 0 0
    else
      let lsb := min e g
      numOf (scaleTo a m e lsb + scaleTo b n g lsb) lsb

/-- R199: the exact product. -/
def Num.mul : Num → Num → Num
  | .nan, _ => .nan
  | _, .nan => .nan
  | .inf a, .inf b => .inf (xor a b)
  | .inf a, .fin b n _ => if n = 0 then .nan else .inf (xor a b)
  | .fin a m _, .inf b => if m = 0 then .nan else .inf (xor a b)
  | .fin a m e, .fin b n g => .fin (xor a b) (m * n) (e + g)

def Num.neg : Num → Num
  | .nan => .nan
  | .inf a => .inf (!a)
  | .fin a m e => .fin (!a) m e

/-- a < b on numbers, with −0 below +0 and no NaN (R199, R210). -/
def Num.lt : Num → Num → Bool
  | .nan, _ => false
  | _, .nan => false
  | .inf a, .inf b => a && !b
  | .inf a, .fin _ _ _ => a
  | .fin _ _ _, .inf b => !b
  | .fin a m e, .fin b n g =>
    let lsb := min e g
    let x := scaleTo a m e lsb
    let y := scaleTo b n g lsb
    if x = y then m == 0 && a && !b else decide (x < y)

/-- The numbers compare equal, zeros of both signs included (R201). -/
def Num.eqv (a b : Num) : Bool :=
  match a, b with
  | .nan, _ => false
  | _, .nan => false
  | .fin _ 0 _, .fin _ 0 _ => true
  | _, _ => !(a.lt b) && !(b.lt a)

/-- R199: the smaller or larger of two values; the other where one is NaN. -/
def Num.minMax (larger : Bool) (a b : Num) : Num :=
  match a, b with
  | .nan, _ => b
  | _, .nan => a
  | _, _ => if larger then (if a.lt b then b else a) else (if b.lt a then b else a)

/-- One rounded operation of a format on encodings (R199). -/
def FloatFmt.op2 (f : FloatFmt) (g : Num → Num → Num) (x y : Nat) : Nat :=
  f.encode .toInf (g (f.decode x) (f.decode y))

/-- R199: VFMA. -/
def FloatFmt.fma (f : FloatFmt) (x y z : Nat) : Nat :=
  f.encode .toInf (((f.decode x).mul (f.decode y)).add (f.decode z))

/-- R183, R186: the binary32 addition of the array's fold. -/
def addFp32 (x y : BitVec 32) : BitVec 32 := BitVec.ofNat 32 (fp32.op2 Num.add x.toNat y.toNat)

/-! ## The tile sum (R179 to R185) -/

/-- Any value of a list is NaN; any is +∞; any is −∞. -/
def anyNan (l : List Num) : Bool := l.any (fun v => v == .nan)
def anyInf (neg : Bool) (l : List Num) : Bool := l.any (fun v => v == .inf neg)

/-- The rows of R185 that decide a tile sum before its finite value is looked at. -/
def tileSpecial (products : List Num) (badScale : Bool) : Option Num :=
  if badScale || anyNan products then some .nan
  else if anyInf false products && anyInf true products then some .nan
  else if anyInf false products then some (.inf false)
  else if anyInf true products then some (.inf true)
  else none

/-- The signed multiple of 2^lsb that a finite value is, rounded down, and whether bits were dropped. -/
def floorTo (v : Num) (lsb : Int) : Int × Bool :=
  match v with
  | .fin neg m e =>
    if lsb ≤ e then (scaleTo neg m e lsb, false)
    else
      let d : Int := (2 ^ (lsb - e).toNat : Nat)
      let x : Int := if neg then -(m : Int) else m
      (x / d, decide (x % d ≠ 0))
  | _ => (0, false)

/-- R180: a sum in units of 2^lsb, with a sticky bit standing for a positive amount smaller than any unit, as a value that
rounds as the sum does. A held sum of zero gives +0 whether or not the sticky bit is set: R180 says only that the bit is less
than one unit (DESIGN CHOICE, notes/assumptions/77.md). -/
def stickyNum (t : Int) (sticky : Bool) (lsb : Int) : Num :=
  if sticky && t ≠ 0 then numOf (t * (2 ^ 64 : Nat) + 1) (lsb - 64) else numOf t lsb

/-- R179: the exact sum of a K-block's element products, in units of the smallest product of the widest pairing, E5M2 by
E5M2, 2^−32 (notes/assumptions/20.md). -/
def blockSum (products : List Num) : Int :=
  products.foldl (fun (t : Int) p => t + (floorTo p (-32)).1) 0

/-- R180: the tile sum of blocks (P_j, e_j), and whether blocks were aligned. -/
def blocksSum (blocks : List (Int × Int)) : Num × Bool :=
  let live := blocks.filter (fun b => b.1 ≠ 0)
  match live with
  | [] => (.fin false 0 0, false)
  | b0 :: _ =>
    let top := live.foldl (fun m b => max m b.2) b0.2
    if live.all (fun b => decide (top - 22 ≤ b.2)) then
      let t := live.foldl (fun (t : Int) b => t + b.1 * ((2 ^ (b.2 - (top - 22)).toNat : Nat) : Int)) 0
      (numOf t (top - 22 - 32), false)
    else
      let part := live.map (fun b =>
        if top - 22 ≤ b.2 then (b.1 * ((2 ^ (b.2 - (top - 22)).toNat : Nat) : Int), false)
        else
          let d : Int := (2 ^ (top - 22 - b.2).toNat : Nat)
          (b.1 / d, decide (b.1 % d ≠ 0)))
      let t := part.foldl (fun (t : Int) b => t + b.1) 0
      (stickyNum t (part.any (fun b => b.2)) (top - 22 - 32), true)

/-- R181, R189: the tile sum of BF16 products, and whether it counts as formed with alignment: where a product that is not zero
lies below 2^(E − 66), so that the sum need not be exact (DESIGN CHOICE, notes/assumptions/77.md: R181 aligns every product). -/
def bf16Sum (products : List Num) : Num × Bool :=
  let mags := products.filterMap (fun p => match p with
    | .fin _ m e => if m = 0 then none else some (magExp m e)
    | _ => none)
  match mags with
  | [] => (.fin false 0 0, false)
  | m0 :: r =>
    let top := r.foldl max m0
    let part := products.map (fun p => floorTo p (top - 80))
    let t := part.foldl (fun (t : Int) b => t + b.1) 0
    (stickyNum t (part.any (fun b => b.2)) (top - 80), mags.any (fun e => decide (e < top - 66)))

/-- R182: the exact sum of INT8 products. -/
def intSum (products : List Num) : Num := numOf (products.foldl (fun (t : Int) p => t + (floorTo p 0).1) 0) 0

/-- R185: a tile sum as FP32: never −0. -/
def tileResult (v : Num) : BitVec 32 :=
  match v with
  | .fin _ 0 _ => 0
  | _ =>
    let x := fp32.encode .toInf v
    if x = 0x80000000 then 0 else BitVec.ofNat 32 x

/-- R184: an element as a value: integers by two's complement. -/
def elemValue (fmt x : Nat) : Num :=
  match floatFmt fmt with
  | some f => f.decode x
  | none => if fmt = 7 then numOf (sext x 8) 0 else if fmt = 9 then numOf (x % 2 ^ 32) 0 else numOf (sext x 32) 0

/-! ## Conversion (R202, R203) -/

/-- The whole number a finite value rounds to by IMM8[5:4]: 0 nearest even, 1 toward zero, 2 toward −∞, 3 toward +∞. -/
def roundInt (mode : Nat) (neg : Bool) (m : Nat) (e : Int) : Int :=
  let mag : MagRound := match mode with
    | 0 => .nearest
    | 1 => .down
    | 2 => if neg then .up else .down
    | _ => if neg then .down else .up
  let n : Int := (roundMag mag m e 0 : Nat)
  if neg then -n else n

/-- Saturate to a range. -/
def clampInt (lo hi v : Int) : Int := max lo (min hi v)

/-- Range of an integer format code. -/
def intRange (fmt : Nat) : Int × Int :=
  if fmt = 7 then (-128, 127) else if fmt = 9 then (0, 4294967295) else (-2147483648, 2147483647)

/-- An integer as the bits of a format. -/
def intBits (fmt : Nat) (v : Int) : Nat := (v % ((2 ^ fmtBits fmt : Nat) : Int)).toNat

/-- R202: overflow policy of a conversion target. -/
def cvtOverflow (target : Nat) (sat : Bool) : Overflow :=
  match target with
  | 2 => if sat then .toMax else .toNan
  | 3 => if sat then .toMax else .toInf
  | 4 | 5 | 6 => .toMax
  | _ => .toInf

/-- R202: one element converted. -/
def cvtElem (src target rnd : Nat) (sat : Bool) (x : Nat) : Nat :=
  let v := elemValue src x
  match floatFmt target with
  | some f =>
    match v with
    | .nan => if target = 3 then 0x7E else if target = 2 then 0x7F else f.canonNan
    | _ => f.encode (cvtOverflow target sat) v
  | none =>
    let r := intRange target
    match v with
    | .nan => 0
    | .inf neg => intBits target (if neg then r.1 else r.2)
    | .fin neg m e => intBits target (clampInt r.1 r.2 (roundInt rnd neg m e))

/-- R203: the largest exponent e_max of a microscaled target. -/
def mxEmax : Nat → Int
  | 2 => 8
  | 3 => 15
  | 4 => 2
  | 5 => 4
  | _ => 2

/-- R203: scale byte and elements of one block of FP32 values. -/
def mxBlock (target : Nat) (vals : List Num) : Nat × List Nat :=
  if vals.any (fun v => match v with | .fin _ _ _ => false | _ => true) then (255, vals.map (fun _ => 0))
  else
    let exps := vals.filterMap (fun v => match v with
      | .fin _ m e => if m = 0 then none else some (magExp m e)
      | _ => none)
    match exps with
    | [] => (127, vals.map (fun _ => 0))
    | e0 :: r =>
      let x := clampInt 0 254 (r.foldl max e0 - mxEmax target + 127)
      let scaled := vals.map (fun v => match v with
        | .fin neg m e => Num.fin neg m (e + 127 - x)
        | w => w)
      match floatFmt target with
      | some f => (x.toNat, scaled.map (f.encode (cvtOverflow target true)))
      | none => (x.toNat, vals.map (fun _ => 0))

/-! ## The functions of R204 -/

/-- Integer square root by digits: the largest r of at most n bits with r² ≤ v. -/
def isqrtGo (v : Nat) : Nat → Nat → Nat
  | 0, r => r
  | n + 1, r => if (r + 2 ^ n) * (r + 2 ^ n) ≤ v then isqrtGo v n (r + 2 ^ n) else isqrtGo v n r

def isqrt (v : Nat) : Nat := isqrtGo v (Nat.log2 v / 2 + 1) 0

/-- The fixed point of the functions: values are multiples of 2^−400. -/
def fxBits : Nat := 400
def fxOne : Int := (2 ^ fxBits : Nat)
def fxMul (a b : Int) : Int := a * b / fxOne
def fxDiv (a b : Int) : Int := if b = 0 then 0 else a * fxOne / b

/-- ln 2 by Σ 1 / (k 2^k). -/
def fxLn2Go : Nat → Int → Int
  | 0, acc => acc
  | k + 1, acc => fxLn2Go k (acc + fxOne / ((2 ^ (k + 1) * (k + 1) : Nat) : Int))
def fxLn2 : Int := fxLn2Go 410 0

/-- Σ r^k / k! from the term of index k on. -/
def fxExpGo (r : Int) : Nat → Nat → Int → Int → Int
  | 0, _, _, acc => acc
  | n + 1, k, term, acc => fxExpGo r n (k + 1) (fxMul term r / ((k + 1 : Nat) : Int)) (acc + term)
/-- e^r for |r| ≤ 1. -/
def fxExp (r : Int) : Int := fxExpGo r 90 0 fxOne 0

/-- e^x as a fixed-point number in [1, 2) and a power of two. -/
def fxExpScaled (x : Int) : Int × Int :=
  let k := x / fxLn2
  (fxExp (x - k * fxLn2), k)

/-- Σ z^(2n+1) / (2n+1): artanh z. -/
def fxAtanhGo (z2 : Int) : Nat → Nat → Int → Int → Int
  | 0, _, _, acc => acc
  | n + 1, k, pw, acc => fxAtanhGo z2 n (k + 2) (fxMul pw z2) (acc + pw / (k : Int))
def fxAtanh (z : Int) : Int := fxAtanhGo (fxMul z z) 140 1 z 0

/-- Σ (−1)^n x^(2n+1) / (n! (2n+1)). -/
def fxErfGo (x2 : Int) : Nat → Nat → Int → Int → Int
  | 0, _, _, acc => acc
  | n + 1, k, term, acc =>
    fxErfGo x2 n (k + 1) (-(fxMul term x2 / ((k + 1 : Nat) : Int))) (acc + term / ((2 * k + 1 : Nat) : Int))
/-- π by Machin's formula, 16 arctan(1/5) − 4 arctan(1/239). -/
def fxAtanInvGo (q2 : Int) : Nat → Nat → Int → Int → Int
  | 0, _, _, acc => acc
  | n + 1, k, pw, acc => fxAtanInvGo q2 n (k + 2) (-(pw / q2)) (acc + pw / (k : Int))
def fxPi : Int := 16 * fxAtanInvGo 25 180 1 (fxOne / 5) 0 - 4 * fxAtanInvGo 57121 60 1 (fxOne / 239) 0
def fxErf (x : Int) : Int :=
  let s := fxErfGo (fxMul x x) 260 0 x 0
  fxDiv (2 * s) ((isqrt (fxPi * fxOne).toNat : Nat) : Int)

/-- A finite value in fixed point, rounded down. -/
def fxOfNum (v : Num) : Int := (floorTo v (-(fxBits : Int))).1

/-- The value of a function of R204 to more than 2^−40 of a unit in the last place, where no special operand applies.
Operations are numbered by their V-slot codes. -/
def refValue (op : Nat) (neg : Bool) (m : Nat) (e : Int) : Num :=
  let x := fxOfNum (.fin neg m e)
  let ofFx (v : Int) : Num := numOf v (-(fxBits : Int))
  match op with
  | 0x20 => .fin neg (2 ^ 200 / m) (-200 - e)
  | 0x21 =>
    let m2 := if e % 2 = 0 then m else 2 * m
    let e2 := if e % 2 = 0 then e else e - 1
    let v := m2 * 2 ^ 200
    let r := isqrt v
    .fin false (2 * r + (if r * r = v then 0 else 1)) (e2 / 2 - 101)
  | 0x22 =>
    let m2 := if e % 2 = 0 then m else 2 * m
    let e2 := if e % 2 = 0 then e else e - 1
    .fin false (isqrt (2 ^ 400 / m2)) (-200 - e2 / 2)
  | 0x23 =>
    let k := x / fxOne
    .fin false (fxExp (fxMul (x - k * fxOne) fxLn2)).toNat (k - fxBits)
  | 0x24 =>
    let k := magExp m e
    let f : Int := (m * 2 ^ (fxBits - Nat.log2 m) : Nat)
    ofFx (k * fxOne + fxDiv (2 * fxAtanh (fxDiv (f - fxOne) (f + fxOne))) fxLn2)
  | 0x25 =>
    let r := fxExpScaled x
    .fin false r.1.toNat (r.2 - fxBits)
  | 0x26 =>
    let a := if neg then -x else x
    if a ≥ 40 * fxOne then numOf (if neg then -1 else 1) 0
    else
      let r := fxExpScaled (2 * a)
      let ex := r.1 * (2 ^ r.2.toNat : Nat)
      let t := fxDiv (ex - fxOne) (ex + fxOne)
      ofFx (if neg then -t else t)
  | 0x27 =>
    let r := fxExpScaled (if neg then x else -x)
    -- e^−|x| = r.1 × 2^r.2; the function is 1 / (1 + e^−x)
    let small := if -r.2 < 400 then r.1 / (2 ^ (-r.2).toNat : Nat) else 0
    if neg then .fin false (fxDiv r.1 (fxOne + small)).toNat (r.2 - fxBits)
    else ofFx (fxDiv fxOne (fxOne + small))
  | _ =>
    let a := if neg then -x else x
    if a ≥ 8 * fxOne then numOf (if neg then -1 else 1) 0
    else
      let t := fxErf a
      ofFx (if neg then -t else t)

/-- R204: the special operands. -/
def refSpecial (op : Nat) (v : Num) : Option Num :=
  match v with
  | .nan => some .nan
  | .inf neg =>
    match op with
    | 0x20 => some (.fin neg 0 0)
    | 0x21 | 0x24 => some (if neg then .nan else .inf false)
    | 0x22 => some (if neg then .nan else .fin false 0 0)
    | 0x23 | 0x25 => some (if neg then .fin false 0 0 else .inf false)
    | 0x27 => some (if neg then .fin false 0 0 else .fin false 1 0)
    | _ => some (.fin neg 1 0)
  | .fin neg m e =>
    if m = 0 then
      match op with
      | 0x20 | 0x22 => some (.inf neg)
      | 0x21 | 0x26 | 0x28 => some (.fin neg 0 0)
      | 0x24 => some (.inf true)
      | _ => some (refValue op false 0 0)
    else
      match op with
      | 0x21 | 0x22 | 0x24 =>
        if neg then some .nan
        else if op = 0x24 && (Num.fin false m e).eqv (.fin false 1 0) then some (.fin false 0 0)
        else none
      | 0x23 | 0x25 =>
        -- 2^x and e^x overflow at 128 and near 88.7; far below they round to zero
        if !neg && decide (7 ≤ magExp m e) then some (.inf false)
        else if neg && decide (8 ≤ magExp m e) then some (.fin false 0 0)
        else none
      | 0x27 => if neg && decide (8 ≤ magExp m e) then some (.fin false 0 0) else none
      | _ => none

/-- R204: the largest error of an FP32 result in units in the last place. -/
def refUlps : Nat → Nat
  | 0x25 | 0x26 | 0x27 | 0x28 => 2
  | _ => 1

/-- An encoding lies within `n` units in the last place of a value. -/
def withinUlps (f : FloatFmt) (n : Nat) (y : Num) (x : Nat) : Bool :=
  let z : Num := match f.decode x with
    | .inf neg => .fin neg 1 (f.bias + 1)
    | w => w
  match y, z with
  | .fin ny my ey, .fin nz mz ez =>
    let top := if my = 0 then f.emin else max (magExp my ey) f.emin
    let ulp := top - f.mbits
    let lsb := min (min ey ez) ulp
    let d := (scaleTo ny my ey lsb - scaleTo nz mz ez lsb).natAbs
    decide (d ≤ n * 2 ^ (ulp - lsb).toNat)
  | _, _ => false

/-- R204, R205: a function's result on an encoding: the special cases, then the correctly rounded root for VSQRT, an
infinity for an overflow, and for the others the library's value, which keeps to the error bound. -/
def refFunc (fmt op x : Nat) : Nat :=
  let f := if fmt = 1 then bf16 else fp32
  let v := f.decode x
  match refSpecial op v with
  | some r => f.encode .toInf r
  | none =>
    match v with
    | .fin neg m e =>
      let y := refValue op neg m e
      let near := f.encode .toInf y
      let ovf := match y with
        | .fin _ my ey => decide ((f.bias : Int) + 1 ≤ magExp my ey) && my != 0
        | _ => false
      if op = 0x21 || ovf then near
      else
        let lib := (Config.refLib op fmt (BitVec.ofNat 32 x)).toNat % 2 ^ f.width
        if withinUlps f (if fmt = 1 then 1 else refUlps op) y lib then lib else near
    | _ => f.canonNan

end Sys2Proof.Machine
end

