-- ==== Sys2Proof/Machine/Dot.lean ====
section
/-! DEFINITION. Elements packed as bit strings (R165, R166, R302) and the sum of products that a tile column forms, which a
BME forms over a chunk (R164, R179 to R185, R303). -/
namespace Sys2Proof.Machine

/-- Element `i` of a little-endian bit string of `w`-bit elements. -/
def elemAt (w : Nat) (b : List Byte) (i : Nat) : Nat := bitsAt (leAt b (w * i / 8) 5) (w * i % 8) w

/-- The elements `lo` to `lo + n − 1` of a bit string. -/
def elemsOf (w : Nat) (b : List Byte) (lo n : Nat) : List Nat := (List.range n).map (fun i => elemAt w b (lo + i))

/-- Elements as a bit string, padded to whole bytes. -/
def packElems (w : Nat) (l : List Nat) : List Byte :=
  leBytes ((w * l.length + 7) / 8) (l.foldr (fun x n => x % 2 ^ w + 2 ^ w * n) 0)

/-- R164: the scale of an operand that has none. -/
def unitScale : Nat := 0x7F

/-- R179 to R182: the sum of weight × activation products with a scale byte for each block of 32, before it becomes FP32;
and whether it was formed with alignment. -/
def dotSum (wfmt afmt : Nat) (w a ws xs : List Nat) : Num × Bool :=
  let products := (w.zip a).map (fun e => (elemValue wfmt e.1).mul (elemValue afmt e.2))
  let blocks := (products.length + 31) / 32
  let scale (l : List Nat) (j : Nat) : Nat := l.getD j unitScale
  let bad := (List.range blocks).any (fun j => scale ws j == 0xFF || scale xs j == 0xFF)
  match tileSpecial products bad with
  | some v => (v, false)
  | none =>
    if wfmt = 1 then bf16Sum products
    else if wfmt = 7 then (intSum products, false)
    else
      blocksSum ((List.range blocks).map (fun j =>
        (blockSum ((products.drop (32 * j)).take 32), (scale ws j : Int) + (scale xs j : Int) - 254)))

/-- R185: the tile sum as FP32, and whether it was formed with alignment. -/
def tileSum (wfmt afmt : Nat) (w a ws xs : List Nat) : BitVec 32 × Bool :=
  let r := dotSum wfmt afmt w a ws xs
  (tileResult r.1, r.2)

end Sys2Proof.Machine
end

