-- ==== Sys2Proof/Machine/State.lean ====
section
/-! DEFINITION. The state of the module: every register, store, queue, counter, mode and pin the spec gives it, as
plain data, and the queue of commands waiting. Records that exist once per instance (region, port, stack, shuttle) are
kept in sparse stores whose unlisted instances are as after reset. -/
namespace Sys2Proof.Machine

/-! ## The pick (02_the_pick.md) -/

/-- The pick counter and its distribution, beside the PCK_ registers (R38 to R72). -/
structure PickSt where
  /-- R38, R39: the 48-bit pick counter. -/
  count        : BitVec 48 := 0
  /-- R39: PCK_COUNT_HI's holding copy, from a read of PCK_COUNT_LO to the next read of PCK_COUNT_HI. -/
  hiHold       : Option (BitVec 16) := none
  /-- R47: timebase cycle of the module's last pick boundary, once it has had one. -/
  boundaryAt   : Option Nat := none
  /-- R38, R54: timebase cycle of the boundary that is next set to fall. -/
  nextAt       : Option Nat := none
  /-- R41, R265: start of the background window now running or last run. -/
  windowAt     : Nat := 0
  /-- R41: a background window is running. -/
  inWindow     : Bool := true
  /-- R57: pick announced by the tick accepted for the next boundary. -/
  accepted     : Option (BitVec 48) := none
  /-- R62: cycle of the PICK_IO edge taken for the next boundary. -/
  ioEdge       : Option Nat := none
  /-- R66: last complete segment, once the program has started. -/
  lastComplete : Option Nat := none
  /-- R40: the counter holds at its maximum and SLIP is due at the next boundary. -/
  endDue       : Bool := false
  /-- R547: a D3 reset has come since the module last began a committed start pick; SLIP is not raised (DEDUCED,
  notes/assumptions/62.md) -/
  quiet        : Bool := true
  /-- R45: walks started in this window. -/
  walksStarted : Nat := 0
  /-- R133, R295: picks of late, each with the first cycle of its scheduled span -/
  spans        : List (Nat × Nat) := []
  /-- R63: the PICK_IO pin is driven high until this cycle. -/
  pulseUntil   : Option Nat := none
  deriving DecidableEq, Repr

/-! ## Clocks (03_clock_regions.md) -/

/-- One region's clock generator and monitors, beside CLK_RGN_FREQ and RGN_CLK_STAT (R74 to R83). -/
structure RegionClk where
  capGov     : Nat := 140
  capTherm   : Nat := 140
  capDroop   : Nat := 140
  /-- R76: depths in eighths by which the droop detector and the critical-path monitor stretch; 0 when clear. -/
  droop      : Nat := 0
  path       : Nat := 0
  /-- R76: cycles that pass before each monitor's first stretched one -/
  droopSkip  : Nat := 0
  pathSkip   : Nat := 0
  /-- R620: depth of the STRETCH slot acting in this span, and the cycles it has left -/
  slotDepth  : Nat := 0
  slotLeft   : Nat := 0
  /-- R79: timebase cycle up to which stretched cycles are counted, and the part of the cycle then in progress that had
  passed, in units of 1 / code of a nominal cycle -/
  counted    : Nat := 0
  part       : Nat := 0
  /-- R78: cycles stretched by a monitor in this pick. -/
  stretched  : Nat := 0
  /-- R78: consecutive picks without more than 1,024 stretched cycles. -/
  quietPicks : Nat := 0
  /-- R79: time added since the last read of RGN_CLK_STAT, in parts of a nominal cycle (`clkUnit` to the cycle). -/
  lost       : Nat := 0
  /-- R81: end of the stop of a frequency step in progress, and the code it takes. -/
  stepEnd    : Option (Nat × Nat) := none
  /-- R44: a step was taken in this window. -/
  stepped    : Bool := false
  deriving DecidableEq, Repr

/-- The reference monitor and the governor, beside the CLK_ registers (R82 to R90). -/
structure ClkSt where
  /-- R82: consecutive picks at least 3 percent below the ceiling. -/
  quietPicks  : Nat := 0
  /-- R88: cycle at which the holdover in force began. -/
  holdSince   : Option Nat := none
  /-- R88: the generators run on the internal oscillator until the next D3 reset. -/
  oscillator  : Bool := false
  /-- R584, R587: the clock, droop-threshold and critical-path trim, as the boot chain wrote it -/
  trim        : List Byte := []
  deriving DecidableEq, Repr

/-! ## The sequencer (04_instruction_words.md) -/

/-- R153: SEQ_STATUS.STATE. -/
inductive SeqState where
  | idle | issuing | waiting | broken | stoppedFault | stoppedSlip | stoppedFence
  deriving DecidableEq, Repr

/-- R117: a branch whose delay slots are still to issue: slots left and, if taken, the target. -/
structure Branch where
  slots  : Nat
  target : Option (BitVec 22)
  deriving DecidableEq, Repr

/-- A slot of an issued word with the scalar value the sequencer resolved for it (R106). -/
structure Slot where
  bits : BitVec 64
  addr : Nat
  deriving DecidableEq, Repr

/-- A Y slot of an issued word: its 32 bits, X[XREG] read at issue and its extension (R135). -/
structure YSlot where
  bits : BitVec 32
  xval : BitVec 64
  ext  : BitVec 32
  deriving DecidableEq, Repr

/-- A word in the issue queues (R106, R107). -/
structure QWord where
  num     : Nat
  segment : Nat
  tagv    : Bool
  tag     : BitVec 12
  v       : Option (BitVec 64)
  m       : Option Slot
  ld      : Option Slot
  st      : Option Slot
  y       : Option YSlot
  deriving DecidableEq, Repr

/-- R118: a summary in flight: its register, its word, what the regions have given so far, and its arrival once every
enabled region has retired it. -/
structure Summary where
  word   : Nat
  dst    : Nat
  op     : Nat
  fmt    : Nat
  parts  : List (Nat × BitVec 64 × Nat × Bool)
  due    : Option Nat
  deriving DecidableEq, Repr

/-- R137: a retire-side Y operation in flight. -/
structure YPending where
  word    : Nat
  segment : Nat
  slot    : YSlot
  due     : Option Nat
  deriving DecidableEq, Repr

/-- R161: kind and format of one array buffer, as the sequencer records it. -/
structure BufRec where
  kind : Nat := 0
  fmt  : Nat := 0
  deriving DecidableEq, Repr

/-- The sequencer and its scalar core, beside the SEQ_ registers. -/
structure SeqSt where
  state      : SeqState := .idle
  pc         : BitVec 22 := 0
  /-- R112: X0 to X63 that are not zero. -/
  x          : SMap (BitVec 64) := []
  /-- R118: pending counts that are not zero. -/
  xPending   : SMap Nat := []
  /-- R114: results not yet readable: issue count from which they are, register, value. -/
  xWrites    : List (Nat × Nat × BitVec 64) := []
  /-- R117, R152. -/
  branch     : Option Branch := none
  /-- R115: segment base B. -/
  segBase    : BitVec 48 := 0
  /-- R65: segment being issued, once the program has started. -/
  segment    : Option Nat := none
  /-- R49: words of the segment may issue. -/
  open_      : Bool := false
  /-- words issued; the next word's number in the queues is one more -/
  issued     : Nat := 0
  /-- words issued, and executed by every region, before segment S: they are not counted (R150) -/
  base       : Nat := 0
  /-- R144: no region executes a word numbered above this. -/
  execLimit  : Option Nat := none
  /-- R151: the next word does not match a tag break. -/
  skipTag    : Bool := false
  /-- R150: SEQ_RETIRED_HI's holding copy. -/
  retHold    : Option (BitVec 32) := none
  /-- R161: records of the active and shadow buffers. -/
  active     : BufRec := {}
  shadow     : BufRec := {}
  summaries  : List Summary := []
  ypending   : List YPending := []
  /-- R334: a yield accepted: Y, limit, save area, mailbox. -/
  yieldReq   : Option (Nat × Nat × Nat × Nat) := none
  /-- R340: a transfer was aborted since the yield was accepted -/
  yieldFault : Bool := false
  /-- R334: the yield segment, once its yield PICK_END has issued. -/
  yieldSeg   : Option Nat := none
  /-- R335: the module is YIELDED. -/
  yielded    : Bool := false
  /-- R523: a STOP accepted: segment, limit, mailbox. -/
  stopReq    : Option (Nat × Nat × Nat) := none
  /-- R523: the program has issued its last PICK_END. -/
  stopped    : Bool := false
  /-- R65: the start pick the module is committed for and has not reached. -/
  committed  : Option Nat := none
  /-- R105: the instruction store, 32-bit units that are not zero. -/
  istore     : SMap (BitVec 32) := []
  /-- R252: units of the instruction store with an uncorrectable error. -/
  istoreBad  : List Nat := []
  deriving DecidableEq, Repr

/-! ## Regions (03 to 07) -/

/-- R110, R178: a result on its way to a lane register, a predicate register or an accumulator row. -/
inductive Dest where
  | lane (reg : Nat)
  | pred (reg : Nat)
  | marks
  | acc (row half : Nat)
  /-- R203: the scale bytes 2h and 2h + 1 of lane 63 -/
  | scales (reg h : Nat)
  deriving DecidableEq, Repr

/-- R108: a pending write of a region: due cycle, rank of its slot (M 3, V 2, ST 1, LD 0), word, lanes it writes with
their values. -/
structure Pending where
  due   : Nat
  rank  : Nat
  word  : Nat
  dest  : Dest
  lanes : List (Nat × BitVec 32)
  deriving DecidableEq, Repr

/-- R128, R212 to R214, R222: one access a region's own word makes to its banks in a later cycle. -/
inductive PortUse where
  | ldRead (lreg : Nat) (addr : Nat) (mask : BitVec 64) (tagged consume : Bool)
  /-- `wait` is the cycle after its start in which the store writes: 2, or 1 once its region has waited on a line it holds -/
  | stWrite (addr : Nat) (lanes : List (Nat × BitVec 32)) (wait : Nat)
  | gather (dst : Nat) (reqs : List (Nat × Nat))
  | scatter (reqs : List (Nat × Nat × BitVec 32))
  | scatterAdd (fp : Bool) (reqs : List (Nat × Nat × BitVec 32))
  | addWrite (words : List (Nat × BitVec 32))
  /-- `ahead` is the region whose LD slot of the same word goes before this ST slot on its shuttle or stack (R134) -/
  | descRead (slot : BitVec 64) (srcLine dstLine : Nat) (segment : Nat) (st : Bool) (ahead : Option Nat)
  | cmdRead (slot : BitVec 64) (line : Nat) (segment : Nat) (st : Bool) (ahead : Option Nat)
  deriving DecidableEq, Repr

/-- A port use with the word and advancing cycle it was executed in. -/
structure Access where
  start : Nat
  word  : Nat
  tag   : BitVec 12
  tagv  : Bool
  use   : PortUse
  deriving DecidableEq, Repr

/-- R165, R168: one stationary buffer of a tile: the bytes of the tile image by load group, four lines each, that are not
all zero. -/
structure TileBuf where
  groups : SMap (List Byte) := []
  deriving DecidableEq, Repr

/-- R168: a load group read from the slice and not yet written: cycle of the write, buffer (false for `buf0`), group,
bytes, and the block's kind and format (R187). -/
structure LoadGroup where
  due   : Nat
  buf   : Bool
  group : Nat
  bytes : List Byte
  block : BufRec
  deriving DecidableEq, Repr

/-- R206 to R209: a row scan, a die scan or an exchange that has executed and whose reads of other regions' results are
still to come: its start, word, destination, lanes written, IMM8 and format, the local results and segment flags of a
scan, and whether it is an exchange. -/
structure CrossOp where
  start : Nat
  word  : Nat
  dst   : Nat
  mask  : BitVec 64
  imm   : Nat
  fmt   : Nat
  exch  : Bool
  vals  : List (BitVec 32)
  flags : List Bool
  deriving DecidableEq, Repr

/-- One physical region: clock, issue queue, lanes, slice, accumulator bank, tile and its part of the crossings. -/
structure RegionSt where
  clk       : RegionClk := {}
  queue     : List QWord := []
  /-- R107: words executed, which is the region's advancing cycle. -/
  cycle     : Nat := 0
  /-- R51: the region waits. -/
  waiting   : Bool := false
  /-- R192: lane registers that are not zero, keyed 64 × register + lane. -/
  lanes     : SMap (BitVec 32) := []
  /-- R192: predicates P1 to P7 that are not zero. -/
  preds     : SMap (BitVec 64) := []
  pending   : List Pending := []
  accesses  : List Access := []
  crossOps  : List CrossOp := []
  /-- R208, R209: entries this region has written into its scan-carry (kind 0) and exchange (kind 1 + direction) crossings:
  kind, cycle of the operation's word, value. -/
  sent      : List (Nat × Nat × List (BitVec 32)) := []
  /-- R148: checking-mode: lane registers and accumulator rows whose last value no word has read. -/
  unread    : List Nat := []
  /-- R220: the slice's bytes that are not zero. -/
  mem       : SMap Byte := []
  /-- R234: line tags that are not EMPTY (1 FULL, 2 FAULTED). -/
  tags      : SMap Nat := []
  /-- R234: lines a tagged operation holds, with the cycle up to which it holds them and the state they then take. -/
  held      : List (Nat × Nat × Nat) := []
  /-- R248: lines with an uncorrectable error. -/
  badLines  : List Nat := []
  /-- R229: whether the network took the last unscheduled read or write port given, per bank (alternation). -/
  alternate : SMap Nat := []
  /-- R42: cycle up to which an access of the control firmware holds a bank's read or write port -/
  fwPorts   : SMap Nat := []
  /-- R230: region cycle in which an unscheduled access was last found waiting for a claimed port -/
  delayAt   : Option Nat := none
  /-- R172: accumulator values that are not +0, keyed 128 × row + column. -/
  acc       : SMap (BitVec 32) := []
  loads     : List LoadGroup := []
  /-- R158: the tile's two buffers; `flip` says that `buf1` is active. -/
  buf0      : TileBuf := {}
  buf1      : TileBuf := {}
  flip      : Bool := false
  /-- R170: kind and format of the block that is active in the tile -/
  active    : BufRec := {}
  /-- R175: the cycle whose column sums have reached the bank before its word executes -/
  sumsAt    : Option Nat := none
  /-- R187: the costliest class the tile has been active in during the pick: 0 none, 1 BF16, 2 FP8, 3 FP4 -/
  tileClass : Nat := 0
  /-- R222: lines that unscheduled writes replaced in the span, in the cycle of the region's next clock edge: that edge, line,
  whether it was uncorrectable, and its bytes before -/
  before    : List (Nat × Nat × Bool × List Byte) := []
  /-- R445: rows that are live in the region's copy -/
  live      : List Nat := []
  /-- R92: clock edges so far -/
  edges     : Nat := 0
  /-- R92: entries that this region is to read, each with its clock edge at which it was written -/
  arrivals  : List ((Nat × Nat × Nat) × Nat) := []
  /-- R92: slots of the crossings that this region writes, each with its clock edge at which it was freed -/
  freedAt   : List (Nat × Nat) := []
  /-- R92, R107: the timebase cycles in which slots of the issue queue were last freed, newest first -/
  queueFreed : List Nat := []
  deriving DecidableEq, Repr

/-- R172: a stream in the array, the same for every region: execution cycle, row interval, kind, formats, first record
line, first row, rows, accumulate, and the cycle from which a later stream cuts it off. -/
structure Stream where
  start  : Nat
  p      : Nat
  mx     : Bool
  /-- kind of the active block (R162) -/
  kind   : Nat
  wfmt   : Nat
  afmt   : Nat
  line   : Nat
  accRow : Nat
  rows   : Nat
  accum  : Bool
  cut    : Option Nat
  deriving DecidableEq, Repr

/-- R168, R170: a load or a flip of the array, the same for every region. -/
structure ArrayOp where
  start : Nat
  flip  : Bool
  kind  : Nat
  fmt   : Nat
  line  : Nat
  lines : Nat
  /-- the buffer that was the shadow when the word executed (R169): false for `buf0` -/
  shadow : Bool
  deriving DecidableEq, Repr

/-- The matrix array outside the tiles: operations in flight and the rows on their way (R172 to R176). Keys: see
Machine/Array.lean. -/
structure ArraySt where
  streams  : List Stream := []
  ops      : List ArrayOp := []
  /-- cycle of the next word whose M slot is not entered here; the first region to execute a word enters it -/
  front    : Nat := 0
  /-- the records of R161 and the buffer that is active, as of the words entered -/
  active   : BufRec := {}
  shadow   : BufRec := {}
  flip     : Bool := false
  /-- records read and not yet past the last column -/
  records  : SMap (List Byte) := []
  /-- tile sums formed and not yet added -/
  tileSums : SMap (List (BitVec 32)) := []
  /-- partial sums and column sums on the crossings -/
  partials : SMap (List (BitVec 32)) := []
  deriving DecidableEq, Repr

/-! ## Unscheduled accesses, HBM, CXL and translation (07, 08) -/

/-- Who asked for an access that the plan does not time (R228, R260, R273). -/
inductive Requester where
  /-- source read of a shuttle: shuttle, transfer serial, line -/
  | shuttleRead (shuttle serial line : Nat)
  /-- destination write of a shuttle -/
  | shuttleWrite (shuttle serial line : Nat)
  /-- window request: window, token of the waiting request (`Inbound.token`), line -/
  | window (window token line : Nat)
  /-- result line or source line of a BME command: stack, serial, line -/
  | bme (stack serial line : Nat)
  | firmware
  | context
  | trace
  /-- R367: ring access of the spill unit: port, slot of the ring, line of the slot -/
  | spill (port slot line : Nat)
  deriving DecidableEq, Repr

/-- R234: what an unscheduled access does to its line. -/
inductive UnschedKind where
  | read
  | write (data : List Byte)
  /-- a write of part of a line with byte enables (R241): offset and bytes -/
  | part (offset : Nat) (data : List Byte)
  | mark
  deriving DecidableEq, Repr

/-- R228, R246: an unscheduled access to a slice, oldest first; `own` is the region's own shuttle. -/
structure Unsched where
  region : Nat
  line   : Nat
  own    : Bool
  who    : Requester
  kind   : UnschedKind
  deriving DecidableEq, Repr

/-- R234, R325: the data a source line gave, or the cause for which it failed (R330) with its status code. -/
inductive LineData where
  | data (bytes : List Byte)
  | failed (cause status : Nat)
  deriving DecidableEq, Repr

/-- R260, R270: an access waiting at a pseudo-channel or outstanding at a CXL port. `stale` marks a translation
invalidated since (R280). -/
structure MemReq where
  who   : Requester
  addr  : Nat
  write : Option (List Byte)
  page  : Option Nat
  stale : Bool
  /-- R270: number among its CXL port's accesses -/
  serial : Nat := 0
  /-- R280: its leaf is of 2 MiB -/
  big    : Bool := false
  deriving DecidableEq, Repr

/-- R42 to R44, R260 to R264: one pseudo-channel. -/
structure PchSt where
  /-- unscheduled accesses waiting, oldest first (R262) -/
  queue      : List MemReq := []
  /-- refreshes still owed in this window (R34); none before the window's first -/
  refreshes  : Option Nat := none
  /-- R265: refreshes that a window cut short by the first boundary had not issued -/
  carried    : Nat := 0
  /-- cycle at which the access or refresh in progress ends -/
  busyUntil  : Nat := 0
  /-- R44: scrub has run in this window -/
  scrubbed   : Bool := false
  /-- R264: next scrub offset -/
  scrubAt    : Nat := 0
  deriving DecidableEq, Repr

structure HbmSt where
  /-- bytes that are not zero, by packed address (R255) -/
  mem         : SMap Byte := []
  /-- R263: packed addresses of lines with an uncorrectable error -/
  badLines    : List Nat := []
  /-- pseudo-channels by 32 × stack + number -/
  pchs        : SMap PchSt := []
  /-- R265: stacks whose initial zeroing has ended -/
  initDone    : List Nat := []
  /-- R265: stacks in self-refresh -/
  selfRefresh : Bool := false
  /-- R269: bytes that the module has written to the CXL devices, by port and device offset, and how often each port's device
  has lost its memory -/
  cxlMem      : SMap (Option Byte) := []
  cxlLife     : SMap Nat := []
  deriving DecidableEq, Repr

/-- R268 to R271: one CXL port beside its registers. -/
structure CxlSt where
  reads  : List MemReq := []
  writes : List MemReq := []
  /-- R270: number of the next access -/
  serial : Nat := 0
  deriving DecidableEq, Repr

/-- R276: a resident leaf: page's first address, size, writable, and where its frame is. -/
structure Leaf where
  va     : Nat
  size   : Nat
  w      : Bool
  cxl    : Bool
  stripe : Bool
  stack  : Nat
  pch    : Nat
  frame  : Nat
  deriving DecidableEq, Repr

/-- R45, R277: a walk in the queue: its page (VA[51:16]), whether it has started, the level to read next and the
table it reads there (packed address), and what its last read gave. -/
structure Walk where
  page    : Nat
  started : Bool
  level   : Nat
  table   : Nat
  result  : Option (Option (BitVec 64))
  /-- R277: its page was one of 2 MiB when the walk was queued -/
  big     : Bool := false
  deriving DecidableEq, Repr

/-- R277: an access that waits for a walk. -/
structure WalkWait where
  page  : Nat
  who   : Requester
  va    : Nat
  write : Option (List Byte)
  deriving DecidableEq, Repr

/-- The MMU beside its registers. -/
structure MmuSt where
  /-- R277: cached leaves, newest first -/
  cache   : List Leaf := []
  walks   : List Walk := []
  waiting : List WalkWait := []
  /-- R285: VA_LO of the last write to MMU_INV_LO -/
  invLo   : BitVec 32 := 0
  /-- R283: the control firmware's record of MMU_ROOT, kept in its area of HBM -/
  rootRec : BitVec 32 := 0
  /-- R281: leaf entries that hold MIGRATING: packed address, and the entry as it was -/
  migrating : List (Nat × BitVec 64) := []
  /-- addresses for which a host page was asked (R332) -/
  asked   : List Nat := []
  /-- R271: ports whose device came back without its memory, and whose pages the control firmware has still to mark -/
  absentDue : List Nat := []
  deriving DecidableEq, Repr

/-- R239: an opened window. -/
structure WindowEntry where
  valid     : Bool := false
  readOk    : Bool := false
  writeOk   : Bool := false
  deviceVa  : Bool := false
  anySource : Bool := false
  vreg      : Nat := 0
  key       : Nat := 0
  source    : Nat := 0
  base      : Nat := 0
  size      : Nat := 0
  /-- R242: CLOSE_WINDOW in progress: its mailbox, and the writes abandoned -/
  closing   : Option (Nat × Nat) := none
  deriving DecidableEq, Repr

/-! ## Beside-memory engines (09) -/

/-- R132, R290: a BME command on its way to, or in, its stack's queue. -/
structure BmeCmd where
  op      : Nat
  stack   : Nat
  pch     : Nat
  start   : Nat
  segment : Nat
  region  : Nat
  block   : List Byte
  /-- R297: started by the control firmware -/
  fw      : Bool
  /-- R134: the word, and the region whose LD slot of that word sends a command to the same stack that goes before -/
  word    : Nat := 0
  ahead   : Option Nat := none
  deriving DecidableEq, Repr

/-- R294, R295: a running command: its end, its planned end, the result lines it will write (address, bytes or a
FAULTED mark), the source lines an OPND has not read, and the lines still to be resolved once it has ended. -/
structure BmeRun where
  serial  : Nat
  cmd     : BmeCmd
  endAt   : Nat
  planned : Nat
  paused  : Option Nat
  ended   : Bool
  discard : Bool
  results : List (Nat × Option (List Byte))
  reads   : List Nat
  left    : List Nat
  deriving DecidableEq, Repr

/-- One stack's engines beside the BME_ registers. -/
structure StackSt where
  queue   : List BmeCmd := []
  running : List BmeRun := []
  /-- R292: operand-buffer bytes that are not zero -/
  buffer  : SMap Byte := []
  /-- R299: poisoned buffer lines -/
  poison  : List Nat := []
  /-- R291: cycle of the last start -/
  lastStart : Option Nat := none
  /-- R298: the group is active in this pick -/
  active  : Bool := false
  deriving DecidableEq, Repr

/-! ## Shuttles (10) -/

/-- R319: a line of a running transfer that is in hand: read issued (cycle), arrived, or written and not yet
acknowledged. -/
inductive LineState where
  | reading (since : Nat)
  | arrived (d : LineData)
  | writing
  deriving DecidableEq, Repr

/-- R139, R319: a line in hand: where it goes (address in the destination's space, none where its data is discarded; on a
warp, the line's number), how far it has come, the index entries read for its two sides (R143), and whether it was sent with
a fault mark (R321, R325). -/
structure LineInfo where
  dst    : Option Nat
  state  : LineState
  si     : Nat := 0
  di     : Nat := 0
  marked : Bool := false
  deriving DecidableEq, Repr

/-- R318 to R333: a transfer held by a shuttle. -/
structure Transfer where
  serial   : Nat
  segment  : Nat
  tagv     : Bool
  tag      : BitVec 12
  /-- physical region that launched it -/
  region   : Nat
  src      : List Byte
  dst      : List Byte
  /-- R148: line addresses the two descriptors were read from -/
  srcLine  : Nat
  dstLine  : Nat
  started  : Bool
  mayFault : Bool
  /-- lines generated by each side (R139); 0 where the launch was dropped or its destination is invalid -/
  total    : Nat
  /-- next source line to issue -/
  next     : Nat
  lines    : SMap (Option LineInfo)
  /-- R143: the index entry of each side last read, with its value -/
  srcIdx   : Option (Nat × Nat)
  dstIdx   : Option (Nat × Nat)
  /-- lines resolved -/
  resolved : Nat
  faulted  : Bool
  aborted  : Bool
  /-- R329: records written: element, side, cause -/
  recorded : List (Nat × Bool × Nat)
  /-- R398, R399: number of the transfer on its circuit, modulo 256 -/
  xfer     : Nat
  /-- R318: the launch was dropped, so the shuttle never holds it -/
  dropped  : Bool
  /-- R134: the word, and the region whose LD slot of that word launches on the same shuttle and goes before -/
  word     : Nat := 0
  ahead    : Option Nat := none
  deriving DecidableEq, Repr

structure ShuttleSt where
  transfers : List Transfer := []
  serial    : Nat := 0
  /-- R324: lines that timed out and whose data may still come: transfer and line -/
  late      : List (Nat × Nat) := []
  deriving DecidableEq, Repr

/-! ## Link layer (11) -/

/-- R404: the kinds of cell a port sends, in the order in which a free slot takes them after replays. -/
inductive EgressClass where
  | scheduled | grant | response | keyed | service | request
  deriving DecidableEq, Repr

/-- R402: a cell in an egress queue or backlog ring: the cycle in which it is ready, and the slot it takes, none when it
is late. -/
structure EgressCell where
  cls   : EgressClass
  cell  : Cell
  claim : Option Nat
  ready : Nat
  /-- R50: the segment of the module's own program that issued a scheduled cell -/
  own   : Option Nat := none
  /-- R402: it has not become ready: its claim is not decided -/
  waits : Bool := false
  deriving DecidableEq, Repr

/-- R366, R367: a cell of the backlog ring: its slot, whether its lines are being read back, and those read, none for one with
an uncorrectable error. -/
structure RingCell where
  slot    : Nat
  cell    : EgressCell
  reading : Bool := false
  got     : List (Nat × Option (List Byte)) := []
  deriving DecidableEq, Repr

/-- R361: an open gap. -/
structure Gap where
  first    : Nat
  last     : Nat
  requests : Nat
  lastAt   : Nat
  deriving DecidableEq, Repr

/-- R378: a width switch asked for or agreed. -/
structure WidthSwitch where
  lanes  : Byte
  at_    : Nat
  mine   : Bool
  agreed : Bool
  deriving DecidableEq, Repr

/-- One fabric port beside its LNK_ and RTE_ registers. -/
structure PortSt where
  /-- R370: cycle at which the port entered its state -/
  since     : Nat := 0
  /-- R371: lanes that pass their test -/
  passing   : Byte := 0xFF
  /-- R347: the scramblers of the lanes, sending and receiving, by physical lane -/
  scramTx   : List (BitVec 31) := List.replicate 8 0
  scramRx   : List (BitVec 31) := List.replicate 8 0
  /-- R377: symbols corrected on each lane in this millisecond, and its first cycle -/
  symErrs   : SMap Nat := []
  symFrom   : Nat := 0
  /-- R376: a fast retrain has tested its lanes and locked again -/
  relocked  : Bool := false
  /-- R376: lane mask of the partner in a retrain, as last heard: the two ends choose out of the lanes that both can use -/
  leadLanes : Byte := 0xFF
  /-- R371: the sequence of this end's own requests -/
  requests  : Byte := 0
  /-- R371: a request this end has made and whose partner has not been seen to ask -/
  asked     : Bool := false
  /-- R372: the partner's own number of the port -/
  partner   : Nat := 0
  /-- R356: number of the next new sequenced cell -/
  txNext    : Nat := 0
  /-- R359: oldest unacknowledged number -/
  txOldest  : Nat := 0
  /-- R363: cycle at which ACK last advanced -/
  ackAt     : Nat := 0
  /-- R365: sent and not acknowledged, oldest first -/
  replay    : List (Nat × Cell) := []
  /-- R362: numbers queued for replay -/
  resend    : List Nat := []
  /-- R381: LINK_CTRL payloads waiting for a free slot -/
  control   : List (List Byte) := []
  /-- R400: a tick cell waiting for the first cell position from the cycle `tickAt` on -/
  tick      : Option Cell := none
  tickAt    : Nat := 0
  /-- R367: egress queue, on die -/
  queue     : List EgressCell := []
  /-- R367: backlog in the ring -/
  ring      : List RingCell := []
  /-- R365, R367: how many of the oldest cells of the replay store lie in the ring -/
  spilled   : Nat := 0
  /-- R367: the number of the replay being read back from the ring, and its lines read -/
  tail      : Option (Nat × List (Nat × Option (List Byte))) := none
  /-- R358: expected number E -/
  rxNext    : Nat := 0
  /-- R358: numbers at or above E received -/
  rxMarks   : List Nat := []
  /-- R361: numbers below this are known to have been sent -/
  rxSeen    : Nat := 0
  gaps      : List Gap := []
  /-- R375: consecutive uncorrectable codewords -/
  badRun    : Nat := 0
  /-- R383: compatibility mode: value last sent, cells since the last coalescing point, its cycle -/
  ackSent   : Nat := 0
  ackCount  : Nat := 0
  ackPoint  : Nat := 0
  /-- R378, R381: codewords sent since ACTIVE -/
  codewords : Nat := 0
  width     : Option WidthSwitch := none
  /-- R373: exchanges made and the sum of their delays in sixteenths of a cycle -/
  measured  : Nat := 0
  delaySum  : Nat := 0
  /-- R402: next slot of the pick -/
  slot      : Nat := 0
  /-- R402: cells of each circuit that became ready in this pick -/
  ready     : SMap Nat := []
  /-- R355: cells delivered to the router and not yet handled -/
  ingress   : List Cell := []
  /-- R399: inbound buffer -/
  inbound   : List Cell := []
  /-- R623: end of a rehearsed drop -/
  held      : Option Nat := none
  deriving DecidableEq, Repr

/-! ## Router, reed and outstanding requests (12) -/

/-- Router tables beside the RTE_ registers. -/
structure RouterSt where
  /-- R395: warp entries by circuit -/
  warps     : SMap (BitVec 64) := []
  /-- R401: slot schedules by port -/
  schedules : SMap (List (BitVec 64)) := []
  /-- R405: route table -/
  routes    : SMap (BitVec 24) := []
  /-- R406: rotating pointer -/
  pointer   : Nat := 0
  /-- R398: transfers launched by each port shuttle on each circuit as sender, by 4096 × port + circuit, modulo 256 -/
  sent      : SMap Nat := []
  /-- R399: the same as receiver -/
  launched  : SMap Nat := []
  deriving DecidableEq, Repr

/-- R413: a message: source, class (0 request, 1 response, 2 addressed), key, HEAD payload, and its data cells
(FAULT and payload). -/
structure Message where
  src   : Nat
  cls   : Nat
  key   : Nat
  head  : List Byte
  lines : List (Bool × List Byte)
  deriving DecidableEq, Repr

/-- R407, R408: a flow at its receiver. -/
structure Flow where
  src       : Nat
  cls       : Nat
  key       : Nat
  next      : Nat
  grant     : Nat
  /-- held cells: count, arrival, cell -/
  held      : List (Nat × Nat × Cell)
  /-- R412: delivered messages not yet taken, head first -/
  ready     : List Message
  /-- R411: last grant sent, when a cell was last delivered, if one was, and last use -/
  granted   : Nat
  delivered : Option Nat
  used      : Nat
  /-- R411: the cycle of the last grant sent for its 20 µs -/
  refreshed : Option Nat
  /-- R409: counts still to come of a message already discarded and counted -/
  discard   : Nat
  deriving DecidableEq, Repr

/-- R408, R411: a flow at its sender: next count, GRANT, the cycle of the last grant request and cells without room. -/
structure SendFlow where
  next    : Nat := 0
  grant   : Nat := 0
  asked   : Option Nat := none
  waiting : List Cell := []
  deriving DecidableEq, Repr

structure ReedSt where
  flows : List Flow := []
  /-- by 4 × destination + class -/
  sends : SMap SendFlow := []
  deriving DecidableEq, Repr

/-- R417: who holds an outstanding request. -/
inductive ReqWho where
  | shuttle (shuttle serial line count : Nat)
  | sync (op obj : Nat) (operand : BitVec 64) (segment : Nat)
  | weight (record chunk : Nat)
  deriving DecidableEq, Repr

/-- R417 to R419: an entry of the outstanding-request table. -/
structure ReqEntry where
  who      : ReqWho
  dst      : Nat
  key      : Nat
  gen      : Nat
  head     : List Byte
  lines    : List (Bool × List Byte)
  lastAt   : Nat
  countsAt : Nat
  deriving DecidableEq, Repr

structure ReqSt where
  entries : SMap (Option ReqEntry) := []
  gens    : SMap Nat := []
  deriving DecidableEq, Repr

/-- R241, R228: a request from the fabric in progress at a window: token, window, message or addressed cell, and its
lines not yet done. -/
structure Inbound where
  token  : Nat
  window : Nat
  src    : Nat
  key    : Nat
  /-- HEAD payload of a message; empty for an addressed cell -/
  head   : List Byte
  /-- addressed cell's TAG and whether it was a service cell -/
  tag    : Nat
  svc    : Bool
  write  : Bool
  addr   : Nat
  len    : Nat
  left   : List Nat
  /-- lines read: index, fault, bytes -/
  got    : List (Nat × Bool × List Byte)
  status : Nat
  deriving DecidableEq, Repr

/-! ## Contexts and serving (13) -/

/-- R442: a step-table row; `cause` 1 (EMPTY) where nothing is loaded. -/
structure StepRow where
  occupied  : Bool := false
  ctx       : Nat := 0
  cause     : Nat := 1
  committed : Nat := 0
  deadline  : Nat := 0
  deriving DecidableEq, Repr

/-- R445: a liveness change on its way to the regions: cycle at which it reaches them, row, live. -/
structure MaskChange where
  due  : Nat
  row  : Nat
  live : Bool
  deriving DecidableEq, Repr

/-- R526: what the image's SERVING section declares beside the CTX_ registers. -/
structure ServingMap where
  batch       : Nat
  layers      : Nat
  variantBase : Nat
  deriving DecidableEq, Repr

/-- R42: a 64-byte access of an action of the control firmware: to a line of HBM, through a write port of a slice, or a read of a
line of a CXL device, and the end of the reads asked of a CXL port. -/
inductive FwTouch where
  | line (addr : Nat)
  | port (region line : Nat)
  | cxl (leaf : Leaf) (va : Nat)
  | await (port : Nat)
  deriving DecidableEq, Repr

/-- R42, R44: an action of the control firmware that has begun, and the accesses that it has still to make. -/
structure FwJob where
  act  : FwAction
  left : List FwTouch
  deriving DecidableEq, Repr

structure ServeSt where
  /-- R442: rows that are not as reset -/
  rows       : SMap StepRow := []
  /-- R445: on their way to the regions, oldest first -/
  changes    : List MaskChange := []
  image      : Option ServingMap := none
  /-- R453: commit blocks finished -/
  finished   : Nat := 0
  /-- R455: STEP of the block finished before -/
  lastStep   : Option Nat := none
  /-- R456: block being processed: its STEP, ROWS and the next row -/
  running    : Option (Nat × Nat × Nat) := none
  /-- R456: cause of the next row when its commit began, once it has begun -/
  begun      : Option Nat := none
  /-- R332: addresses of the page faults recorded in the running step, and of its other faults -/
  stepPages  : List Nat := []
  stepFaults : List Nat := []
  /-- R457: contexts whose commit met a fault, with its address -/
  commitFaults : List (Nat × Nat) := []
  /-- R332: contexts listed for re-run, with the addresses they wait for -/
  listed     : List (Nat × List Nat) := []
  /-- R333: rows are to be masked for an abort in the next window -/
  abortDue   : Bool := false
  /-- R44: actions of the control firmware that wait for a window with room, in their order -/
  fwWait     : List FwAction := []
  /-- R42, R44: the action under way -/
  job        : Option FwJob := none
  /-- R452: the accesses that a VARIANT_LOAD which may write its blocks has still to make, once it has begun them -/
  variantLeft : Option (List FwTouch) := none
  /-- R462, R467: ACTIVE contexts are to return to READY before any row is loaded -/
  recover    : Bool := false
  /-- R333: records of aborts to be reported to the fault manager -/
  abortRecs  : List (List Reg32) := []
  /-- R441, R449: KV frames given back to the pool (packed addresses), per context -/
  freed      : SMap (List Nat) := []
  /-- R449: bytes of a parked context's frames that are not zero, frame by frame -/
  parked     : SMap (List (List (Nat × Byte))) := []
  /-- R452: VARIANT_LOAD in progress: mailbox, source, destination, and the entries it holds MIGRATING with their leaves -/
  loading    : Option (Nat × Nat × Nat × List (Nat × BitVec 64)) := none
  deriving DecidableEq, Repr

/-! ## Weights (14) -/

/-- R470: a chunk record the module takes, as read from the map. -/
structure Chunk where
  index  : Nat
  layer  : Nat
  altGw  : Option Nat
  dst    : Nat
  src    : Nat
  gw     : Nat
  lines  : Nat
  digest : List Byte
  deriving DecidableEq, Repr

/-- R468: the parts of a shard map that outlive its reading. -/
structure ShardMap where
  version     : Nat
  layers      : Nat
  stageOffset : Nat
  digest      : List Byte
  budgets     : List Nat
  chunks      : List Chunk
  deriving DecidableEq, Repr

/-- R472 to R476: a fetch in progress, or R480 to R486: a swap. `queue` holds the records whose READ messages are still
to be issued, with the next line; `left` the records not verified; `bad` those of which a line has failed in this try;
`fails` the failures by record; `layers` the layers a swap has still to reopen; `gated` says that it waits for cuts. -/
structure WeightOp where
  swap    : Bool
  staged  : Bool
  mailbox : Nat
  map     : ShardMap
  k       : Nat
  gated   : Bool
  layers  : List Nat
  copying : Bool
  queue   : List (Nat × Nat)
  left    : List Nat
  bad     : List Nat
  fails   : SMap Nat
  /-- lines landed of records not verified, by 2^20 × record + line -/
  got     : SMap (List Byte)
  deriving DecidableEq, Repr

structure WeightSt where
  op       : Option WeightOp := none
  /-- R476: the staged version -/
  staged   : Option ShardMap := none
  /-- R485: recorded layer versions -/
  versions : SMap Nat := []
  /-- R477: base object W and layers of the loaded image's weight map -/
  gates    : Option (Nat × Nat) := none
  /-- R481: layers with a cut in force -/
  cuts     : List Nat := []
  deriving DecidableEq, Repr

/-! ## Synchronisation objects (15) -/

/-- R488: an object's state. -/
structure SyncObj where
  value  : BitVec 64 := 0
  target : BitVec 32 := 0
  type   : Nat := 0
  remote : Bool := false
  deriving DecidableEq, Repr

/-- R498: a source's slot in the duplicate filter: source, last message, and OPIDs with their statuses. -/
structure FilterSlot where
  src    : Nat
  lastAt : Nat
  ids    : List (Nat × Nat)
  deriving DecidableEq, Repr

/-- R493: a change of an object: its rank among those of its cycle, its operation (0x00 an addition of the module's own), its
operand and its immediate. -/
structure ObjChange where
  rank : Nat
  op   : Nat
  x    : BitVec 64
  imm  : Nat
  deriving DecidableEq, Repr

/-- R492, R493: the changes that reached an object in a cycle, in the order in which they apply, and the object before them. -/
structure ObjCycle where
  obj    : Nat
  cycle  : Nat
  before : SyncObj
  done   : List ObjChange
  deriving DecidableEq, Repr

/-- R494: the issue-side wait in progress: object, boundaries it has held across, SUSPECT raised. -/
structure SyncWait where
  obj    : Nat
  picks  : Nat
  raised : Bool
  deriving DecidableEq, Repr

structure SyncSt where
  /-- objects not as reset; counters 0 to 90 have TYPE 1 throughout (R490) -/
  objects  : SMap SyncObj := []
  /-- R496: next OPID -/
  opid     : Nat := 1
  filter   : List FilterSlot := []
  /-- R499: failure records, each four words -/
  failures : List (List (BitVec 32)) := []
  wait     : Option SyncWait := none
  /-- R492, R493: the objects changed in the last cycle or later, the newest first -/
  changes  : List ObjCycle := []
  deriving DecidableEq, Repr

/-! ## Mailboxes, features and the loader (16) -/

/-- R510, R511: one mailbox: its last accepted SEQ, the order in which its doorbell was accepted while it is pending,
and, once taken, the copy of its request area. -/
structure MailboxSt where
  lastSeq : Option (BitVec 32) := none
  pending : Option Nat := none
  busy    : Option (List Byte) := none
  /-- R511: the command taken has been acted on and waits to be answered -/
  running : Bool := false
  /-- a relayed request: SEQ of the message to which its response area goes back (R578) -/
  relayed : Option Nat := none
  deriving DecidableEq, Repr

/-- R528: a relocation record of the loaded image. -/
structure Reloc where
  target : BitVec 64
  pos    : Nat
  width  : Nat
  kind   : Nat
  shift  : Nat
  symbol : Nat
  addend : BitVec 64
  deriving DecidableEq, Repr

/-- R525, R526: what the control firmware keeps of the loaded image. -/
structure ImageSt where
  hash     : List Byte
  gridRows : Nat
  entry    : Nat
  relocs   : List Reloc
  /-- declared resident: address, size -/
  resident : List (Nat × Nat)
  /-- R337: save ranges: virtual region, BASE, LEN -/
  saves    : List (Nat × Nat × Nat)
  /-- R526 kind 12: warp entries (circuit, entry) and schedule entries (port, entry) -/
  warps    : List (Nat × BitVec 64)
  scheds   : List (Nat × BitVec 64)
  /-- R613: trace bytes per stack, rounded up; empty without a TRACE section -/
  trace    : List Nat
  /-- R531: declared peak in half-watts -/
  peak     : Nat
  /-- R341: PSEG of the save set restored -/
  restored : Option Nat
  deriving DecidableEq, Repr

structure MailSt where
  boxes  : SMap MailboxSt := []
  /-- R507: bytes of windows 0 that are not zero -/
  sram   : SMap Byte := []
  /-- R511: doorbells accepted so far -/
  order  : Nat := 0
  /-- R518: the locked feature set -/
  locked : Option (BitVec 128) := none
  /-- R518: the set last locked, whose bits 0, 1, 9, 10 and 13 govern D1 units through a D3 reset -/
  d1Set  : BitVec 128 := 0
  /-- R524: physical row of each virtual row -/
  grid   : List Nat := []
  image  : Option ImageSt := none
  /-- R338, R335: base of the save in progress, its size, and the mailbox of YIELD -/
  saving : Option (Nat × Nat × Nat) := none
  deriving DecidableEq, Repr

/-! ## Partitions, starts, fences and resets (12, 16, 17) -/

/-- R533: what the module keeps of the join it made as member or origin. -/
structure Joined where
  key     : Nat
  origin  : Bool
  device  : Nat
  members : List Nat
  deriving DecidableEq, Repr

/-- R555 to R562: a start record in hand: OP, epoch, pick, arrival, TIMEOUT in µs, the port it came from (none for the
origin's own command, with its mailbox), children that have not answered, and the sums so far. -/
structure StartWait where
  op      : Nat
  epoch   : BitVec 32
  pick    : Nat
  at_     : Nat
  timeout : Nat
  parent  : Option Nat
  mailbox : Nat
  waiting : List Nat
  done    : Nat
  failed  : Nat
  first   : Option (Nat × Nat)
  own     : Nat
  deriving DecidableEq, Repr

structure PartSt where
  joined    : Option Joined := none
  /-- R415: keys held in transit -/
  transit   : List Nat := []
  /-- R561: start pick armed or committed for -/
  startPick : Option Nat := none
  /-- R560: depth, HOP_COUNT of the last accepted tick -/
  depth     : Nat := 0
  /-- R561, R496: epoch of the last COMMIT acted on, which SYNC messages carry -/
  epoch     : BitVec 32 := 0
  /-- R560: start records whose children have not all answered, oldest first: at most one of each operation -/
  starts    : List StartWait := []
  /-- R566: keys being retired: key, mailbox -/
  retiring  : List (Nat × Nat) := []
  deriving DecidableEq, Repr

/-- R539, R541: a drain in progress: when it began and the mailboxes whose FENCE or RESET_DOMAIN waits on it. -/
structure Drain where
  since   : Nat
  /-- domains fenced by the requests that share the drain, as a mask -/
  domains : Nat
  boxes   : List Nat
  deriving DecidableEq, Repr

/-- R535, R543: a reset in progress: domain, completion, mailbox that asked. -/
structure Resetting where
  domain  : Nat
  due     : Nat
  mailbox : Option Nat
  deriving DecidableEq, Repr

/-- R551 to R553: the nodes that waited at the last sample, each with the samples for which it has waited without progress;
their edges, each with the samples for which it has been held; what each node had done; and whether an event was raised. -/
structure HangSt where
  nodes  : SMap Nat := []
  edges  : List (Nat × Nat × Nat) := []
  marks  : SMap Nat := []
  raised : Bool := false
  deriving DecidableEq, Repr

structure FenceSt where
  /-- R544: the FENCE_N pin is low -/
  pinLow  : Bool := false
  drain   : Option Drain := none
  resets  : List Resetting := []
  /-- R536: domains to reset once the drain ends, with the mailbox that asked -/
  after   : List (Nat × Option Nat) := []
  hang    : HangSt := {}
  /-- R514: mailboxes whose command a D3 reset ended, to be answered ST_FENCED -/
  dropped : List Nat := []
  deriving DecidableEq, Repr

/-! ## Management, SPDM and the meter (18) -/

/-- R581: a log record without its SEQ and CRC. -/
structure LogRec where
  type   : Nat
  source : Nat
  uptime : Nat
  pick   : BitVec 48
  data   : List Byte
  /-- D0 resets since manufacture, when the record was made -/
  boot   : Nat
  deriving DecidableEq, Repr

/-- R588, R589: a firmware slot: VERSION, SVN, body hash, and whether it holds a verified image. -/
structure FwSlot where
  valid   : Bool := false
  version : BitVec 32 := 0
  svn     : BitVec 32 := 0
  hash    : List Byte := []
  deriving DecidableEq, Repr

/-- R589: the pair of slots of one image kind. -/
structure FwPair where
  slotA   : FwSlot := {}
  slotB   : FwSlot := {}
  /-- active slot: false A, true B -/
  active  : Bool := false
  /-- slot now running -/
  running : Bool := false
  /-- the slot not active is pending, with the tries it has failed -/
  pending : Option Nat := none
  /-- the anti-rollback counter -/
  counter : Nat := 0
  deriving DecidableEq, Repr

/-- R583: an installation record. -/
structure InstallRec where
  generation : BitVec 32
  deviceId   : BitVec 16
  fmDev      : BitVec 16
  ceiling    : BitVec 16
  permitted  : BitVec 128
  operator   : List Byte
  fmKey      : List Byte
  bytes      : List Byte
  deriving DecidableEq, Repr

/-- R582, R584: the manufacturing record as its partition of the flash holds it; bytes of zero at its end are not listed. -/
structure MfgRec where
  bytes : List Byte
  deriving DecidableEq, Repr

/-- The management core beside the MGT_ registers, with the configuration flash (R571 to R592). -/
structure MgtSt where
  up        : Bool := false
  /-- R587: where the boot chain stands: 0 not begun, 1 or 2 stopped at that stage, 4 waiting for the reference (R647), 5
  booted -/
  stage     : Nat := 0
  boots     : Nat := 0
  /-- cycle of the last D0 reset -/
  bootAt    : Nat := 0
  nonce     : BitVec 256 := 0
  /-- R580: records waiting for flash, records dropped since the last written, ring in flash, next SEQ -/
  queue     : List LogRec := []
  dropped   : Nat := 0
  log       : SMap (Option LogRec) := []
  logSeq    : Nat := 0
  /-- R580: records written in the second now running, and when it began -/
  logRate   : Nat × Nat := (0, 0)
  mfg       : Option MfgRec := none
  installA  : Option InstallRec := none
  installB  : Option InstallRec := none
  /-- the installation record in force -/
  install   : Option InstallRec := none
  generation : Nat := 0
  mgmt      : FwPair := {}
  control   : FwPair := {}
  /-- R573: latest readings by sensor number -/
  sensors   : SMap Int := []
  /-- R573: of the input sensors' readings in the pick so far: the sum and the count of the voltages, and of the currents -/
  inputs    : (Int × Nat) × (Int × Nat) := ((0, 0), (0, 0))
  /-- R575: thermal cap imposed by the stacks -/
  stackCap  : Nat := 140
  /-- R579: events waiting to be sent: log TYPE, pick, detail -/
  events    : List (Nat × BitVec 48 × List Byte) := []
  /-- R591: how far an SPDM exchange has come: 0 none, 1 version, 2 capabilities, 3 algorithms -/
  spdm      : Nat := 0
  /-- D1 to D3 are held in reset (R587, R647) -/
  holdD1    : Bool := true
  holdD3    : Bool := true
  /-- R589: the control firmware has answered a mailbox since it last started -/
  cfReady   : Bool := false
  /-- R572: the cycle until which a restart by the watchdog keeps the core down -/
  downUntil : Nat := 0
  /-- R589: the cycle from which the management image now running serves its watchdog -/
  readyFrom : Nat := 0
  /-- R571: the MCTP endpoint ID that the tray's bus owner assigned -/
  eid       : Byte := 0
  /-- R582, R585: the helper data's partition -/
  helper    : List Byte := []
  /-- R582: counters 5 to 7 of the flash, which nothing advances -/
  spare     : List Nat := [0, 0, 0]
  /-- R585, R587: the device identity key and the attestation key as unwrapped at boot -/
  dik       : Option (List Byte) := none
  ak        : Option (List Byte) := none
  deriving DecidableEq, Repr

/-- R594, R596: a key's counts in the interval. -/
structure KeyCount where
  key    : Nat
  closed : Bool
  tiles  : Nat
  bme    : Nat
  cells  : Nat
  deriving DecidableEq, Repr

/-- R596, R597: a record of the meter's ring: kind, SEQ, its bytes with signature, and its key block. -/
structure MeterRec where
  kind : Nat
  seq  : Nat
  body : List Byte
  keys : List Byte
  deriving DecidableEq, Repr

/-- R601: a verification record: METER_ID, the firmware's and the calibration's hash and the EVENT_COUNT that it binds, and the
metrology CA's signature over the four. -/
structure VerifyRec where
  meterId     : List Byte
  firmware    : List Byte
  calibration : List Byte
  events      : Nat
  signature   : List Byte
  deriving DecidableEq, Repr

/-- R598: a checkpoint. -/
structure Checkpoint where
  energy    : Nat
  total     : Nat
  /-- powered time, in microseconds, at the start of the interval and now -/
  startUs   : Nat
  poweredUs : Nat
  keys      : List KeyCount
  deriving DecidableEq, Repr

/-- The sealed meter: its SRAM, and its partition and counters of the flash (R582, R593 to R602). -/
structure SmuSt where
  /-- the meter's firmware runs; or it could not, since its image failed at start -/
  run       : Bool := false
  failed    : Bool := false
  /-- energy of the interval and since manufacture, in picojoules so that samples add exactly -/
  energy    : Nat := 0
  total     : Nat := 0
  keys      : List KeyCount := []
  /-- the SMU interval in seconds -/
  interval  : Nat := 900
  /-- powered time since manufacture, in microseconds, at the start of the interval and now -/
  startUs   : Nat := 0
  poweredUs : Nat := 0
  /-- SEQ of the newest record; 0 with none -/
  seq       : Nat := 0
  /-- the event counter, counter 4 of the flash -/
  events    : Nat := 0
  prevHash  : List Byte := []
  /-- R597: records, oldest first -/
  ring      : List MeterRec := []
  checkpoint : Option Checkpoint := none
  image     : FwPair := {}
  /-- R582, R601: the helper data, and the wrapped meter key where a regeneration has written one -/
  helper    : List Byte := []
  keyWrap   : Option (List Byte) := none
  /-- the meter key as unwrapped at the start -/
  key       : Option (List Byte) := none
  /-- regenerations of the meter key -/
  keyId     : Nat := 0
  cert      : List Byte := []
  verify    : Option VerifyRec := none
  calibration : List Byte := []
  /-- R602: energy of the second now running, in picojoules -/
  secEnergy : Nat := 0
  /-- R602: SMU_SEQ_HI's holding copy -/
  seqHold   : Option (BitVec 32) := none
  deriving DecidableEq, Repr

/-! ## Observability and test (19) -/

/-- R614: a trace record without its SEQ. -/
structure TraceRec where
  type   : Nat
  source : Nat
  cycle  : Nat
  pick   : BitVec 48
  data   : List Byte
  deriving DecidableEq, Repr

/-- R623: a rehearsal pending or running. -/
structure Rehearsal where
  kind    : Nat
  target  : Nat
  pick    : Nat
  mailbox : Nat
  running : Option Nat
  deriving DecidableEq, Repr

structure ObsSt where
  /-- R606: window 2, words that are not zero by offset -/
  shadows  : SMap (BitVec 32) := []
  armed    : Option Nat := none
  trace    : List TraceRec := []
  traceDropped : Nat := 0
  /-- R613: records written since the program was loaded, of which SEQ shows the low 32 bits: the position in the ring follows it -/
  traceCount : Nat := 0
  /-- R619: picks left of each active slot, 0 for until cleared -/
  slots    : SMap (Option Nat) := []
  /-- R620: items counted by each slot (cycles, operations, cells, codewords) in its pick or period -/
  counts   : SMap Nat := []
  rehearse : Option Rehearsal := none
  /-- R623: kind 2 is in force -/
  silent   : Bool := false
  deriving DecidableEq, Repr

/-! ## Module electrical (21) -/

/-- R641 to R644: the module's power. `step` is the step of R641 in progress, 6 once power-good. -/
structure PowerSt where
  on       : Bool := false
  step     : Nat := 0
  stepAt   : Nat := 0
  /-- R642: PWR_FAULT_N is driven low -/
  fault    : Bool := false
  /-- MOD_PG is released high -/
  good     : Bool := false
  /-- R650: THERM_TRIP_N is driven low -/
  trip     : Bool := false
  /-- R643: MOD_RESET_N is low -/
  resetLow : Bool := false
  /-- VDD_SMU is up -/
  smuUp    : Bool := false
  /-- R647: CXL_PERST_N_k is high -/
  perst    : SMap Bool := []
  deriving DecidableEq, Repr

/-! ## What leaves the module -/

/-- R571: a frame of EtherType 0x88B5 on the KX channel with its one MCTP packet: the source's EID, whether the packet is the
message's first and last, and its payload of up to 1,024 bytes. -/
structure KxFrame where
  etherType : Nat
  source    : Byte
  first     : Bool
  last      : Bool
  payload   : List Byte
  deriving DecidableEq, Repr

/-- What a command sends to the outside, in order; the model's own record, which no rule reads. -/
inductive Output where
  /-- three cells sent as a codeword on a port (R347, R350): the symbols of each logical lane -/
  | codeword (port : Nat) (lanes : List (List Pam4))
  /-- the training blocks that the port sends from now on (R371): their message, and the 2,048 symbols of the first -/
  | training (port : Nat) (msg : TrainMsg) (block : List Pam4)
  /-- an event sent to the fault manager (R571, R579): its device ID and the frames on the KX channel -/
  | event (device : Nat) (frames : List KxFrame)
  /-- a DOORBELL's status (R510, R513): the mailbox, the SRC that rang it, and ST_OK, ST_BUSY or ST_AUTH -/
  | doorbell (mailbox src status : Nat)
  /-- what the port sends in IDENTIFY (R372): identity, device ID, port number, whether it is a Delef, and whether it spills -/
  | identity (port : Nat) (identity device : Nat) (delef spill : Bool)
  /-- a CXL access issued (R270): port, write, offset, data of a write -/
  | cxl (port : Nat) (write : Bool) (offset : Nat) (data : List Byte)
  /-- READs of a shard map's lines (R472): gateway, address there, lines -/
  | mapRead (gateway address lines : Nat)
  /-- PICK_IO rises (R63) -/
  | pulse (at_ : Nat)
  /-- a management, SPDM, PLDM or meter message (R577, R591, R602) -/
  | message (channel : Nat) (op : Nat) (status : Nat) (body : List Byte)
  /-- a fault record reported through management to the fault manager (R333) -/
  | report (record : List Byte)
  /-- a page asked of the host (R332): an address in it -/
  | askPage (va : Nat)
  deriving DecidableEq, Repr

/-- The module. -/
structure State where
  /-- commands waiting, first in, first out: the model's own -/
  pending   : List Instr := []
  /-- R73: timebase cycles since the reset -/
  now       : Nat := 0
  /-- the model's own count of free values taken; no rule reads it -/
  freeCtr   : Nat := 0
  /-- R24: the register file, by register address; each entry is the register's value XOR its reset value -/
  regs      : SMap Reg32 := []
  /-- R18: what the last register read returned -/
  rdata     : Reg32 := 0
  /-- the model's own record of what left the module, oldest first; no rule reads it -/
  outbox    : List Output := []
  pick      : PickSt := {}
  clk       : ClkSt := {}
  seq       : SeqSt := {}
  /-- physical regions -/
  regions   : SMap RegionSt := []
  array     : ArraySt := {}
  /-- R228: unscheduled accesses waiting, oldest first -/
  unsched   : List Unsched := []
  hbm       : HbmSt := {}
  cxl       : SMap CxlSt := []
  mmu       : MmuSt := {}
  /-- R239: windows 16 to 255 -/
  windows   : SMap WindowEntry := []
  /-- R241: requests from the fabric in progress -/
  inbound   : List Inbound := []
  /-- tokens given to `inbound` entries: the model's own -/
  tokens    : Nat := 0
  hbmStacks : SMap StackSt := []
  /-- R290: commands between their region and their stack's queue -/
  bmeWay    : List BmeCmd := []
  shuttles  : SMap ShuttleSt := []
  /-- R329: fault records, each eight words -/
  faultQ    : List (List Reg32) := []
  ports     : SMap PortSt := []
  router    : RouterSt := {}
  reed      : ReedSt := {}
  requests  : ReqSt := {}
  serve     : ServeSt := {}
  weights   : WeightSt := {}
  sync      : SyncSt := {}
  mail      : MailSt := {}
  part      : PartSt := {}
  fence     : FenceSt := {}
  mgt       : MgtSt := {}
  smu       : SmuSt := {}
  obs       : ObsSt := {}
  power     : PowerSt := {}
  deriving DecidableEq, Repr

/-- Why a step stops with a fault. -/
inductive Fault where
  /-- raised by every meaning for a command that names a unit, or carries a structure of a size, that does not exist;
  safe: the hardware has no such command -/
  | noSuchUnit
  deriving DecidableEq, Repr

/-- Why the model gives a command no meaning. -/
inductive Refusal where
  /-- raised by `exec` for a row whose meaning is not written; safe -/
  | notModelled (mnemonic : String)
  deriving DecidableEq, Repr

/-- The outcome of a meaning. -/
abbrev Out := Host.Outcome State Fault Refusal

/-- R584: the manufacturing record with which the model's module is provisioned: the full grade, no unit disabled.
DESIGN CHOICE (notes/assumptions/2.md). -/
def MfgRec.provisioned : MfgRec :=
  { bytes := [1, 0, 0, 0, 0xB0, 0x12, 0, 0, 0x50, 0x57, 0x2D, 0x31, 0x36, 0x36, 0x34, 0x2D, 0x41, 0, 0, 0, 0, 0, 0, 0,
      0x42, 0x31, 0, 0xFF] }

/-- The SHA-256 of no bytes: the digest of the provisioned images' empty bodies. -/
def emptyDigest : List Byte :=
  [0xE3, 0xB0, 0xC4, 0x42, 0x98, 0xFC, 0x1C, 0x14, 0x9A, 0xFB, 0xF4, 0xC8, 0x99, 0x6F, 0xB9, 0x24,
    0x27, 0xAE, 0x41, 0xE4, 0x64, 0x9B, 0x93, 0x4C, 0xA4, 0x95, 0x99, 0x1B, 0x78, 0x52, 0xB8, 0x55]

/-- R588: a provisioned pair of slots: slot A holds a valid image of version and security version 0 with an empty body. DESIGN CHOICE
(notes/assumptions/2.md). -/
def FwPair.provisioned : FwPair := { slotA := { valid := true, hash := emptyDigest } }

/-- The module right after the reset that follows power-good, before its boot chain runs (R22, R587, R641): every
register at its reset value, every store as the reset leaves it, and the flash as provisioned. -/
def State.reset : State :=
  { mgt := { mfg := some MfgRec.provisioned, mgmt := FwPair.provisioned, control := FwPair.provisioned }
    smu := { image := FwPair.provisioned }
    power := { on := true, step := 6, good := true, smuUp := true } }

end Sys2Proof.Machine
end

