-- ==== Sys2Proof/Machine/Regs.lean ====
section
/-! DEFINITION. The register file (R18, R22 to R25): every register of the register space by name, its address and
reset value, its fields, and the access each field has. Addresses follow R24. -/
namespace Sys2Proof.Machine

/-- A register: its byte address in the register space and its reset value. -/
structure Reg where
  addr  : Nat
  reset : Reg32
  deriving DecidableEq, Repr

/-- A field of a register: its lowest bit and its width. -/
structure Fld where
  reg : Reg
  lo  : Nat
  len : Nat
  deriving DecidableEq, Repr

/-- A register of the register space as a table row: its first address, the step and number of instances, the step and
number of index values, reset value, reset domain, and which bits have which access. -/
structure RegSpec where
  base   : Nat
  stride : Nat
  count  : Nat
  kstep  : Nat
  kcount : Nat
  reset  : Reg32
  domain : Nat
  rw     : Reg32
  w1c    : Reg32
  rc     : Reg32
  ro     : Reg32
  deriving DecidableEq, Repr

/-- PCK_LENGTH (R36). -/
def PCK_LENGTH : Reg := ⟨0x30000, 0x2000⟩
def PCK_LENGTH.LENGTH : Fld := ⟨PCK_LENGTH, 0, 17⟩

/-- PCK_PARTS (R37). -/
def PCK_PARTS : Reg := ⟨0x30004, 0x2000180⟩
def PCK_PARTS.MARGIN : Fld := ⟨PCK_PARTS, 16, 14⟩
def PCK_PARTS.WINDOW : Fld := ⟨PCK_PARTS, 0, 13⟩

/-- PCK_COUNT_LO (R39). -/
def PCK_COUNT_LO : Reg := ⟨0x30008, 0x0⟩
def PCK_COUNT_LO.COUNT_LO : Fld := ⟨PCK_COUNT_LO, 0, 32⟩

/-- PCK_COUNT_HI (R39). -/
def PCK_COUNT_HI : Reg := ⟨0x3000c, 0x0⟩
def PCK_COUNT_HI.COUNT_HI : Fld := ⟨PCK_COUNT_HI, 0, 16⟩

/-- PCK_ROLE (R64). -/
def PCK_ROLE : Reg := ⟨0x30010, 0x1f1f00⟩
def PCK_ROLE.ALT_PORT : Fld := ⟨PCK_ROLE, 16, 5⟩
def PCK_ROLE.PRIMARY_PORT : Fld := ⟨PCK_ROLE, 8, 5⟩
def PCK_ROLE.PICK_IO_OUT_EN : Fld := ⟨PCK_ROLE, 3, 1⟩
def PCK_ROLE.SOURCE : Fld := ⟨PCK_ROLE, 2, 1⟩
def PCK_ROLE.ROLE : Fld := ⟨PCK_ROLE, 0, 2⟩

/-- PCK_STATUS (R70). -/
def PCK_STATUS : Reg := ⟨0x30014, 0x0⟩
def PCK_STATUS.MAX_AGE : Fld := ⟨PCK_STATUS, 16, 16⟩
def PCK_STATUS.HOLDOVER : Fld := ⟨PCK_STATUS, 12, 4⟩
def PCK_STATUS.LAG : Fld := ⟨PCK_STATUS, 8, 2⟩
def PCK_STATUS.STATE : Fld := ⟨PCK_STATUS, 0, 3⟩

/-- PCK_EVENT (R71). -/
def PCK_EVENT : Reg := ⟨0x30018, 0x0⟩
def PCK_EVENT.END_OF_COUNT : Fld := ⟨PCK_EVENT, 6, 1⟩
def PCK_EVENT.IO_PULSE_BAD : Fld := ⟨PCK_EVENT, 5, 1⟩
def PCK_EVENT.CFG_MISMATCH : Fld := ⟨PCK_EVENT, 4, 1⟩
def PCK_EVENT.TICK_BAD : Fld := ⟨PCK_EVENT, 3, 1⟩
def PCK_EVENT.TICK_MISS : Fld := ⟨PCK_EVENT, 2, 1⟩
def PCK_EVENT.SLIP : Fld := ⟨PCK_EVENT, 1, 1⟩
def PCK_EVENT.OVERRUN : Fld := ⟨PCK_EVENT, 0, 1⟩

/-- PCK_MISC_COUNT (R72). -/
def PCK_MISC_COUNT : Reg := ⟨0x3001c, 0x0⟩
def PCK_MISC_COUNT.OVERRUNS : Fld := ⟨PCK_MISC_COUNT, 16, 16⟩
def PCK_MISC_COUNT.TICK_MISSES : Fld := ⟨PCK_MISC_COUNT, 0, 16⟩

/-- RGN_CLK_STAT of physical region `i` (R79). -/
def RGN_CLK_STAT (i : Nat) : Reg := ⟨0x11000 + 0x80 * i, 0x0⟩
def RGN_CLK_STAT.STRETCH (i : Nat) : Fld := ⟨RGN_CLK_STAT i, 0, 32⟩

/-- CLK_CTRL (R84). -/
def CLK_CTRL : Reg := ⟨0x20000, 0x1⟩
def CLK_CTRL.BOOST : Fld := ⟨CLK_CTRL, 1, 1⟩
def CLK_CTRL.STEP_EN : Fld := ⟨CLK_CTRL, 0, 1⟩

/-- CLK_RGN_FREQ of physical region `i` (R85). -/
def CLK_RGN_FREQ (i : Nat) : Reg := ⟨0x21000 + 0x4 * i, 0x808c80⟩
def CLK_RGN_FREQ.STATE (i : Nat) : Fld := ⟨CLK_RGN_FREQ i, 30, 2⟩
def CLK_RGN_FREQ.CUR_CODE (i : Nat) : Fld := ⟨CLK_RGN_FREQ i, 16, 8⟩
def CLK_RGN_FREQ.CAP_CODE (i : Nat) : Fld := ⟨CLK_RGN_FREQ i, 8, 8⟩
def CLK_RGN_FREQ.PLAN_CODE (i : Nat) : Fld := ⟨CLK_RGN_FREQ i, 0, 8⟩

/-- CLK_REF_STATUS (R90). -/
def CLK_REF_STATUS : Reg := ⟨0x20004, 0x0⟩
def CLK_REF_STATUS.HOLD_TIME : Fld := ⟨CLK_REF_STATUS, 16, 16⟩
def CLK_REF_STATUS.EXPIRED : Fld := ⟨CLK_REF_STATUS, 2, 1⟩
def CLK_REF_STATUS.LOSS_SEEN : Fld := ⟨CLK_REF_STATUS, 1, 1⟩
def CLK_REF_STATUS.REF_LOSS : Fld := ⟨CLK_REF_STATUS, 0, 1⟩

/-- RGN_XING_WAIT of physical region `i` (R96). -/
def RGN_XING_WAIT (i : Nat) : Reg := ⟨0x11004 + 0x80 * i, 0x0⟩
def RGN_XING_WAIT.EMPTY_WAITS (i : Nat) : Fld := ⟨RGN_XING_WAIT i, 16, 16⟩
def RGN_XING_WAIT.FULL_WAITS (i : Nat) : Fld := ⟨RGN_XING_WAIT i, 0, 16⟩

/-- RGN_LANE_CONFLICT of physical region `i` (R111). -/
def RGN_LANE_CONFLICT (i : Nat) : Reg := ⟨0x11008 + 0x80 * i, 0x0⟩
def RGN_LANE_CONFLICT.COUNT (i : Nat) : Fld := ⟨RGN_LANE_CONFLICT i, 0, 16⟩

/-- SEQ_CHECK (R148). -/
def SEQ_CHECK : Reg := ⟨0x0, 0x0⟩
def SEQ_CHECK.SUMMARY_CLOBBER : Fld := ⟨SEQ_CHECK, 5, 1⟩
def SEQ_CHECK.DESC_WRITE : Fld := ⟨SEQ_CHECK, 4, 1⟩
def SEQ_CHECK.UNREAD_OVERWRITE : Fld := ⟨SEQ_CHECK, 3, 1⟩
def SEQ_CHECK.BANK_CONFLICT : Fld := ⟨SEQ_CHECK, 2, 1⟩
def SEQ_CHECK.WRITE_CLASH : Fld := ⟨SEQ_CHECK, 1, 1⟩
def SEQ_CHECK.EARLY_READ : Fld := ⟨SEQ_CHECK, 0, 1⟩

/-- SEQ_STATUS (R153). -/
def SEQ_STATUS : Reg := ⟨0x4, 0x0⟩
def SEQ_STATUS.STATE : Fld := ⟨SEQ_STATUS, 29, 3⟩
def SEQ_STATUS.PC : Fld := ⟨SEQ_STATUS, 0, 22⟩

/-- SEQ_FAULT (R154). -/
def SEQ_FAULT : Reg := ⟨0x8, 0x0⟩
def SEQ_FAULT.CAUSE : Fld := ⟨SEQ_FAULT, 27, 5⟩
def SEQ_FAULT.REGION : Fld := ⟨SEQ_FAULT, 20, 7⟩
def SEQ_FAULT.TAGV : Fld := ⟨SEQ_FAULT, 19, 1⟩
def SEQ_FAULT.TAG : Fld := ⟨SEQ_FAULT, 7, 12⟩
def SEQ_FAULT.SLOT : Fld := ⟨SEQ_FAULT, 4, 3⟩

/-- SEQ_BRK_CTRL (R155). -/
def SEQ_BRK_CTRL : Reg := ⟨0xc, 0x0⟩
def SEQ_BRK_CTRL.TAG : Fld := ⟨SEQ_BRK_CTRL, 12, 12⟩
def SEQ_BRK_CTRL.RESUME : Fld := ⟨SEQ_BRK_CTRL, 2, 1⟩
def SEQ_BRK_CTRL.TAG_EN : Fld := ⟨SEQ_BRK_CTRL, 1, 1⟩
def SEQ_BRK_CTRL.COUNT_EN : Fld := ⟨SEQ_BRK_CTRL, 0, 1⟩

/-- SEQ_RETIRED_LO (R156). -/
def SEQ_RETIRED_LO : Reg := ⟨0x10, 0x0⟩
def SEQ_RETIRED_LO.COUNT_LO : Fld := ⟨SEQ_RETIRED_LO, 0, 32⟩

/-- SEQ_RETIRED_HI (R156). -/
def SEQ_RETIRED_HI : Reg := ⟨0x14, 0x0⟩
def SEQ_RETIRED_HI.COUNT_HI : Fld := ⟨SEQ_RETIRED_HI, 0, 32⟩

/-- SEQ_BRK_COUNT_LO (R156). -/
def SEQ_BRK_COUNT_LO : Reg := ⟨0x18, 0x0⟩
def SEQ_BRK_COUNT_LO.BRK_LO : Fld := ⟨SEQ_BRK_COUNT_LO, 0, 32⟩

/-- SEQ_BRK_COUNT_HI (R156). -/
def SEQ_BRK_COUNT_HI : Reg := ⟨0x1c, 0x0⟩
def SEQ_BRK_COUNT_HI.BRK_HI : Fld := ⟨SEQ_BRK_COUNT_HI, 0, 32⟩

/-- SEQ_ARRAY_STATE (R162). -/
def SEQ_ARRAY_STATE : Reg := ⟨0x20, 0x0⟩
def SEQ_ARRAY_STATE.ACTIVE_FMT : Fld := ⟨SEQ_ARRAY_STATE, 10, 4⟩
def SEQ_ARRAY_STATE.ACTIVE_KIND : Fld := ⟨SEQ_ARRAY_STATE, 8, 2⟩
def SEQ_ARRAY_STATE.SHADOW_FMT : Fld := ⟨SEQ_ARRAY_STATE, 4, 4⟩
def SEQ_ARRAY_STATE.SHADOW_KIND : Fld := ⟨SEQ_ARRAY_STATE, 2, 2⟩

/-- RGN_ARRAY_STAT of physical region `i` (R189). -/
def RGN_ARRAY_STAT (i : Nat) : Reg := ⟨0x1100c + 0x80 * i, 0x0⟩
def RGN_ARRAY_STAT.NONFINITE (i : Nat) : Fld := ⟨RGN_ARRAY_STAT i, 16, 16⟩
def RGN_ARRAY_STAT.SPREAD (i : Nat) : Fld := ⟨RGN_ARRAY_STAT i, 0, 16⟩

/-- RGN_ARRAY_EVT of physical region `i` (R190). -/
def RGN_ARRAY_EVT (i : Nat) : Reg := ⟨0x11010 + 0x80 * i, 0x0⟩
def RGN_ARRAY_EVT.TRUNC (i : Nat) : Fld := ⟨RGN_ARRAY_EVT i, 2, 1⟩
def RGN_ARRAY_EVT.FLIP_EARLY (i : Nat) : Fld := ⟨RGN_ARRAY_EVT i, 1, 1⟩
def RGN_ARRAY_EVT.ACC_CLASH (i : Nat) : Fld := ⟨RGN_ARRAY_EVT i, 0, 1⟩

/-- RGN_VEC_STAT of physical region `i` (R218). -/
def RGN_VEC_STAT (i : Nat) : Reg := ⟨0x11014 + 0x80 * i, 0x0⟩
def RGN_VEC_STAT.GATHER_DROP (i : Nat) : Fld := ⟨RGN_VEC_STAT i, 16, 16⟩
def RGN_VEC_STAT.SCATTER_DROP (i : Nat) : Fld := ⟨RGN_VEC_STAT i, 0, 16⟩

/-- RGN_BANK_CONFLICT of physical region `i` (R227). -/
def RGN_BANK_CONFLICT (i : Nat) : Reg := ⟨0x11018 + 0x80 * i, 0x0⟩
def RGN_BANK_CONFLICT.READ_DROPS (i : Nat) : Fld := ⟨RGN_BANK_CONFLICT i, 16, 16⟩
def RGN_BANK_CONFLICT.WRITE_DROPS (i : Nat) : Fld := ⟨RGN_BANK_CONFLICT i, 0, 16⟩

/-- RGN_SPAD_WAIT of physical region `i` (R230). -/
def RGN_SPAD_WAIT (i : Nat) : Reg := ⟨0x1101c + 0x80 * i, 0x0⟩
def RGN_SPAD_WAIT.TAG_WAITS (i : Nat) : Fld := ⟨RGN_SPAD_WAIT i, 16, 16⟩
def RGN_SPAD_WAIT.UNSCHED_DELAY (i : Nat) : Fld := ⟨RGN_SPAD_WAIT i, 0, 16⟩

/-- RGN_TAG_BASE of physical region `i`, index `k` (R232). -/
def RGN_TAG_BASE (i : Nat) (k : Nat) : Reg := ⟨0x11020 + 0x80 * i + 8 * k, 0x0⟩
def RGN_TAG_BASE.BASE (i : Nat) (k : Nat) : Fld := ⟨RGN_TAG_BASE i k, 0, 17⟩

/-- RGN_TAG_LEN of physical region `i`, index `k` (R232). -/
def RGN_TAG_LEN (i : Nat) (k : Nat) : Reg := ⟨0x11024 + 0x80 * i + 8 * k, 0x0⟩
def RGN_TAG_LEN.EN (i : Nat) (k : Nat) : Fld := ⟨RGN_TAG_LEN i k, 31, 1⟩
def RGN_TAG_LEN.LEN (i : Nat) (k : Nat) : Fld := ⟨RGN_TAG_LEN i k, 0, 18⟩

/-- SHT_WIN_STAT (R244). -/
def SHT_WIN_STAT : Reg := ⟨0x80000, 0x0⟩
def SHT_WIN_STAT.REFUSED : Fld := ⟨SHT_WIN_STAT, 16, 16⟩
def SHT_WIN_STAT.ABANDONED : Fld := ⟨SHT_WIN_STAT, 0, 16⟩

/-- RGN_SPAD_ECC of physical region `i` (R249). -/
def RGN_SPAD_ECC (i : Nat) : Reg := ⟨0x11060 + 0x80 * i, 0x0⟩
def RGN_SPAD_ECC.CORRECTED (i : Nat) : Fld := ⟨RGN_SPAD_ECC i, 16, 16⟩
def RGN_SPAD_ECC.UNCORR (i : Nat) : Fld := ⟨RGN_SPAD_ECC i, 15, 1⟩

/-- RGN_SPAD_ECC_LINE of physical region `i` (R249). -/
def RGN_SPAD_ECC_LINE (i : Nat) : Reg := ⟨0x11064 + 0x80 * i, 0x0⟩
def RGN_SPAD_ECC_LINE.LINE (i : Nat) : Fld := ⟨RGN_SPAD_ECC_LINE i, 0, 19⟩

/-- BME_STACK_ECC of stack `i` (R266). -/
def BME_STACK_ECC (i : Nat) : Reg := ⟨0x91000 + 0x20 * i, 0x0⟩
def BME_STACK_ECC.CORRECTED (i : Nat) : Fld := ⟨BME_STACK_ECC i, 16, 16⟩
def BME_STACK_ECC.UNCORR (i : Nat) : Fld := ⟨BME_STACK_ECC i, 15, 1⟩
def BME_STACK_ECC.SCRUB_UNCORR (i : Nat) : Fld := ⟨BME_STACK_ECC i, 0, 15⟩

/-- BME_STACK_ECC_ADDR of stack `i` (R266). -/
def BME_STACK_ECC_ADDR (i : Nat) : Reg := ⟨0x91004 + 0x20 * i, 0x0⟩
def BME_STACK_ECC_ADDR.PCH (i : Nat) : Fld := ⟨BME_STACK_ECC_ADDR i, 21, 5⟩
def BME_STACK_ECC_ADDR.LINE_HI (i : Nat) : Fld := ⟨BME_STACK_ECC_ADDR i, 0, 21⟩

/-- CXL_PORT_STATUS of CXL port `i` (R272). -/
def CXL_PORT_STATUS (i : Nat) : Reg := ⟨0xa1000 + 0x8 * i, 0x0⟩
def CXL_PORT_STATUS.CAPACITY (i : Nat) : Fld := ⟨CXL_PORT_STATUS i, 8, 21⟩
def CXL_PORT_STATUS.LIMIT (i : Nat) : Fld := ⟨CXL_PORT_STATUS i, 7, 1⟩
def CXL_PORT_STATUS.RATE (i : Nat) : Fld := ⟨CXL_PORT_STATUS i, 4, 3⟩
def CXL_PORT_STATUS.WIDTH (i : Nat) : Fld := ⟨CXL_PORT_STATUS i, 2, 2⟩
def CXL_PORT_STATUS.RETAINED (i : Nat) : Fld := ⟨CXL_PORT_STATUS i, 1, 1⟩
def CXL_PORT_STATUS.UP (i : Nat) : Fld := ⟨CXL_PORT_STATUS i, 0, 1⟩

/-- CXL_PORT_ERR of CXL port `i` (R272). -/
def CXL_PORT_ERR (i : Nat) : Reg := ⟨0xa1004 + 0x8 * i, 0x0⟩
def CXL_PORT_ERR.POISON (i : Nat) : Fld := ⟨CXL_PORT_ERR i, 16, 16⟩
def CXL_PORT_ERR.LINK_DOWN (i : Nat) : Fld := ⟨CXL_PORT_ERR i, 0, 16⟩

/-- MMU_ROOT (R284). -/
def MMU_ROOT : Reg := ⟨0x70000, 0x0⟩
def MMU_ROOT.STACK : Fld := ⟨MMU_ROOT, 28, 4⟩
def MMU_ROOT.PCH : Fld := ⟨MMU_ROOT, 23, 5⟩
def MMU_ROOT.OFFSET : Fld := ⟨MMU_ROOT, 0, 18⟩

/-- MMU_CTRL (R284). -/
def MMU_CTRL : Reg := ⟨0x70004, 0x0⟩
def MMU_CTRL.EN : Fld := ⟨MMU_CTRL, 0, 1⟩

/-- MMU_INV_LO (R285). -/
def MMU_INV_LO : Reg := ⟨0x70008, 0x0⟩
def MMU_INV_LO.VA_LO : Fld := ⟨MMU_INV_LO, 0, 32⟩

/-- MMU_INV_HI (R285). -/
def MMU_INV_HI : Reg := ⟨0x7000c, 0x0⟩
def MMU_INV_HI.ALL : Fld := ⟨MMU_INV_HI, 5, 1⟩
def MMU_INV_HI.SIZE : Fld := ⟨MMU_INV_HI, 4, 1⟩
def MMU_INV_HI.VA_HI : Fld := ⟨MMU_INV_HI, 0, 4⟩

/-- MMU_STATUS (R286). -/
def MMU_STATUS : Reg := ⟨0x70010, 0x0⟩
def MMU_STATUS.QUEUED : Fld := ⟨MMU_STATUS, 3, 9⟩
def MMU_STATUS.INV_LOST : Fld := ⟨MMU_STATUS, 2, 1⟩
def MMU_STATUS.TABLE_ERR : Fld := ⟨MMU_STATUS, 1, 1⟩
def MMU_STATUS.INV_BUSY : Fld := ⟨MMU_STATUS, 0, 1⟩

/-- MMU_TC_STAT (R286). -/
def MMU_TC_STAT : Reg := ⟨0x70014, 0x0⟩
def MMU_TC_STAT.MISSES : Fld := ⟨MMU_TC_STAT, 16, 16⟩
def MMU_TC_STAT.DEFERRED : Fld := ⟨MMU_TC_STAT, 0, 16⟩

/-- MMU_FAULT_VA_LO (R287). -/
def MMU_FAULT_VA_LO : Reg := ⟨0x70018, 0x0⟩
def MMU_FAULT_VA_LO.VA_LO : Fld := ⟨MMU_FAULT_VA_LO, 0, 32⟩

/-- MMU_FAULT_VA_HI (R287). -/
def MMU_FAULT_VA_HI : Reg := ⟨0x7001c, 0x0⟩
def MMU_FAULT_VA_HI.VA_HI : Fld := ⟨MMU_FAULT_VA_HI, 0, 20⟩

/-- MMU_FAULT_INFO (R287). -/
def MMU_FAULT_INFO : Reg := ⟨0x70020, 0x0⟩
def MMU_FAULT_INFO.VALID : Fld := ⟨MMU_FAULT_INFO, 31, 1⟩
def MMU_FAULT_INFO.REQ : Fld := ⟨MMU_FAULT_INFO, 8, 4⟩
def MMU_FAULT_INFO.REGION : Fld := ⟨MMU_FAULT_INFO, 2, 6⟩
def MMU_FAULT_INFO.WRITE : Fld := ⟨MMU_FAULT_INFO, 1, 1⟩
def MMU_FAULT_INFO.KIND : Fld := ⟨MMU_FAULT_INFO, 0, 1⟩

/-- BME_Q_STAT of stack `i` (R314). -/
def BME_Q_STAT (i : Nat) : Reg := ⟨0x91008 + 0x20 * i, 0x0⟩
def BME_Q_STAT.DEPTH (i : Nat) : Fld := ⟨BME_Q_STAT i, 16, 7⟩
def BME_Q_STAT.STARTED (i : Nat) : Fld := ⟨BME_Q_STAT i, 0, 16⟩

/-- BME_LATE of stack `i` (R315). -/
def BME_LATE (i : Nat) : Reg := ⟨0x9100c + 0x20 * i, 0x0⟩
def BME_LATE.LATE_CMDS (i : Nat) : Fld := ⟨BME_LATE i, 20, 12⟩
def BME_LATE.LATE_MAX (i : Nat) : Fld := ⟨BME_LATE i, 0, 20⟩

/-- BME_CMD_ERR of stack `i` (R316). -/
def BME_CMD_ERR (i : Nat) : Reg := ⟨0x91010 + 0x20 * i, 0x0⟩
def BME_CMD_ERR.VALID (i : Nat) : Fld := ⟨BME_CMD_ERR i, 31, 1⟩
def BME_CMD_ERR.CAUSE (i : Nat) : Fld := ⟨BME_CMD_ERR i, 27, 4⟩
def BME_CMD_ERR.PCH (i : Nat) : Fld := ⟨BME_CMD_ERR i, 22, 5⟩
def BME_CMD_ERR.START (i : Nat) : Fld := ⟨BME_CMD_ERR i, 6, 16⟩
def BME_CMD_ERR.OP (i : Nat) : Fld := ⟨BME_CMD_ERR i, 0, 6⟩

/-- SHT_CTRL (R342). -/
def SHT_CTRL : Reg := ⟨0x80004, 0x10⟩
def SHT_CTRL.FETCH_TIMEOUT : Fld := ⟨SHT_CTRL, 0, 8⟩

/-- SHT_STATUS of shuttle `i` (R343). -/
def SHT_STATUS (i : Nat) : Reg := ⟨0x81000 + 0x4 * i, 0x0⟩
def SHT_STATUS.STATE (i : Nat) : Fld := ⟨SHT_STATUS i, 30, 2⟩
def SHT_STATUS.HELD (i : Nat) : Fld := ⟨SHT_STATUS i, 16, 5⟩
def SHT_STATUS.OUTSTANDING (i : Nat) : Fld := ⟨SHT_STATUS i, 0, 10⟩

/-- SHT_EVT (R344). -/
def SHT_EVT : Reg := ⟨0x80008, 0x0⟩
def SHT_EVT.LATE_DATA : Fld := ⟨SHT_EVT, 5, 1⟩
def SHT_EVT.TIMEOUT : Fld := ⟨SHT_EVT, 4, 1⟩
def SHT_EVT.FQ_OVERFLOW : Fld := ⟨SHT_EVT, 3, 1⟩
def SHT_EVT.ABORT : Fld := ⟨SHT_EVT, 2, 1⟩
def SHT_EVT.DESC_FAULT : Fld := ⟨SHT_EVT, 1, 1⟩
def SHT_EVT.LAUNCH_DROP : Fld := ⟨SHT_EVT, 0, 1⟩

/-- SHT_FQ_STATUS (R345). -/
def SHT_FQ_STATUS : Reg := ⟨0x8000c, 0x0⟩
def SHT_FQ_STATUS.POP : Fld := ⟨SHT_FQ_STATUS, 31, 1⟩
def SHT_FQ_STATUS.LOST : Fld := ⟨SHT_FQ_STATUS, 16, 15⟩
def SHT_FQ_STATUS.COUNT : Fld := ⟨SHT_FQ_STATUS, 0, 10⟩

/-- SHT_FQ_HEAD, index `k` (R345). -/
def SHT_FQ_HEAD (k : Nat) : Reg := ⟨0x80010 + 4 * k, 0x0⟩
def SHT_FQ_HEAD.WORD (k : Nat) : Fld := ⟨SHT_FQ_HEAD k, 0, 32⟩

/-- LNK_CTRL of port `i` (R385). -/
def LNK_CTRL (i : Nat) : Reg := ⟨0x41000 + 0x40 * i, 0x1⟩
def LNK_CTRL.LANE_DIS (i : Nat) : Fld := ⟨LNK_CTRL i, 8, 8⟩
def LNK_CTRL.WIDEN (i : Nat) : Fld := ⟨LNK_CTRL i, 3, 1⟩
def LNK_CTRL.FULL_RETRAIN (i : Nat) : Fld := ⟨LNK_CTRL i, 2, 1⟩
def LNK_CTRL.RETRAIN (i : Nat) : Fld := ⟨LNK_CTRL i, 1, 1⟩
def LNK_CTRL.EN (i : Nat) : Fld := ⟨LNK_CTRL i, 0, 1⟩

/-- LNK_STATUS of port `i` (R386). -/
def LNK_STATUS (i : Nat) : Reg := ⟨0x41004 + 0x40 * i, 0x0⟩
def LNK_STATUS.LANES (i : Nat) : Fld := ⟨LNK_STATUS i, 24, 8⟩
def LNK_STATUS.FAILED (i : Nat) : Fld := ⟨LNK_STATUS i, 16, 8⟩
def LNK_STATUS.WIDTH (i : Nat) : Fld := ⟨LNK_STATUS i, 12, 2⟩
def LNK_STATUS.SPILL (i : Nat) : Fld := ⟨LNK_STATUS i, 11, 1⟩
def LNK_STATUS.COMPAT (i : Nat) : Fld := ⟨LNK_STATUS i, 10, 1⟩
def LNK_STATUS.LEAD (i : Nat) : Fld := ⟨LNK_STATUS i, 9, 1⟩
def LNK_STATUS.STATE (i : Nat) : Fld := ⟨LNK_STATUS i, 0, 4⟩

/-- LNK_PARTNER_LO of port `i` (R387). -/
def LNK_PARTNER_LO (i : Nat) : Reg := ⟨0x41008 + 0x40 * i, 0x0⟩
def LNK_PARTNER_LO.ID_LO (i : Nat) : Fld := ⟨LNK_PARTNER_LO i, 0, 32⟩

/-- LNK_PARTNER_HI of port `i` (R387). -/
def LNK_PARTNER_HI (i : Nat) : Reg := ⟨0x4100c + 0x40 * i, 0x0⟩
def LNK_PARTNER_HI.ID_HI (i : Nat) : Fld := ⟨LNK_PARTNER_HI i, 0, 32⟩

/-- LNK_DELAY of port `i` (R387). -/
def LNK_DELAY (i : Nat) : Reg := ⟨0x41010 + 0x40 * i, 0x0⟩
def LNK_DELAY.PARTNER_DEV (i : Nat) : Fld := ⟨LNK_DELAY i, 16, 16⟩
def LNK_DELAY.CYCLES (i : Nat) : Fld := ⟨LNK_DELAY i, 4, 12⟩
def LNK_DELAY.FRACTION (i : Nat) : Fld := ⟨LNK_DELAY i, 0, 4⟩

/-- LNK_CORR of port `i` (R388). -/
def LNK_CORR (i : Nat) : Reg := ⟨0x41014 + 0x40 * i, 0x0⟩
def LNK_CORR.CORRECTED (i : Nat) : Fld := ⟨LNK_CORR i, 0, 32⟩

/-- LNK_ERR of port `i` (R388). -/
def LNK_ERR (i : Nat) : Reg := ⟨0x41018 + 0x40 * i, 0x0⟩
def LNK_ERR.UNCORR (i : Nat) : Fld := ⟨LNK_ERR i, 16, 16⟩
def LNK_ERR.CRC (i : Nat) : Fld := ⟨LNK_ERR i, 0, 16⟩

/-- LNK_REPLAY of port `i` (R389). -/
def LNK_REPLAY (i : Nat) : Reg := ⟨0x4101c + 0x40 * i, 0x0⟩
def LNK_REPLAY.CELLS (i : Nat) : Fld := ⟨LNK_REPLAY i, 16, 16⟩
def LNK_REPLAY.GO_BACKS (i : Nat) : Fld := ⟨LNK_REPLAY i, 8, 8⟩
def LNK_REPLAY.ACK_BAD (i : Nat) : Fld := ⟨LNK_REPLAY i, 0, 8⟩

/-- LNK_LOST of port `i` (R389). -/
def LNK_LOST (i : Nat) : Reg := ⟨0x41020 + 0x40 * i, 0x0⟩
def LNK_LOST.CELLS_LOST (i : Nat) : Fld := ⟨LNK_LOST i, 0, 32⟩

/-- LNK_SPILL of port `i` (R390). -/
def LNK_SPILL (i : Nat) : Reg := ⟨0x41024 + 0x40 * i, 0x0⟩
def LNK_SPILL.HIGH (i : Nat) : Fld := ⟨LNK_SPILL i, 31, 1⟩
def LNK_SPILL.BACKLOG (i : Nat) : Fld := ⟨LNK_SPILL i, 0, 19⟩

/-- LNK_SPILL_DROP of port `i` (R390). -/
def LNK_SPILL_DROP (i : Nat) : Reg := ⟨0x41028 + 0x40 * i, 0x0⟩
def LNK_SPILL_DROP.DROPS (i : Nat) : Fld := ⟨LNK_SPILL_DROP i, 0, 32⟩

/-- LNK_EVT of port `i` (R391). -/
def LNK_EVT (i : Nat) : Reg := ⟨0x4102c + 0x40 * i, 0x0⟩
def LNK_EVT.PARTNER_BAD (i : Nat) : Fld := ⟨LNK_EVT i, 8, 1⟩
def LNK_EVT.SPILL_DROP (i : Nat) : Fld := ⟨LNK_EVT i, 7, 1⟩
def LNK_EVT.SPILL_HIGH (i : Nat) : Fld := ⟨LNK_EVT i, 6, 1⟩
def LNK_EVT.SEQ_RESET (i : Nat) : Fld := ⟨LNK_EVT i, 5, 1⟩
def LNK_EVT.DOWN (i : Nat) : Fld := ⟨LNK_EVT i, 4, 1⟩
def LNK_EVT.COLLISION (i : Nat) : Fld := ⟨LNK_EVT i, 3, 1⟩
def LNK_EVT.LANE_DROP (i : Nat) : Fld := ⟨LNK_EVT i, 2, 1⟩
def LNK_EVT.SWITCH (i : Nat) : Fld := ⟨LNK_EVT i, 1, 1⟩
def LNK_EVT.RETRAIN (i : Nat) : Fld := ⟨LNK_EVT i, 0, 1⟩

/-- RTE_SELF (R426). -/
def RTE_SELF : Reg := ⟨0x50000, 0x0⟩
def RTE_SELF.VALID : Fld := ⟨RTE_SELF, 16, 1⟩
def RTE_SELF.PHYSICAL : Fld := ⟨RTE_SELF, 0, 16⟩

/-- RTE_ALIAS (R426). -/
def RTE_ALIAS : Reg := ⟨0x50004, 0x0⟩
def RTE_ALIAS.EN : Fld := ⟨RTE_ALIAS, 16, 1⟩
def RTE_ALIAS.LOGICAL : Fld := ⟨RTE_ALIAS, 0, 16⟩

/-- RTE_ALLOW_LO of port `i` (R427). -/
def RTE_ALLOW_LO (i : Nat) : Reg := ⟨0x51000 + 0x10 * i, 0x0⟩
def RTE_ALLOW_LO.EN1 (i : Nat) : Fld := ⟨RTE_ALLOW_LO i, 25, 1⟩
def RTE_ALLOW_LO.EN0 (i : Nat) : Fld := ⟨RTE_ALLOW_LO i, 24, 1⟩
def RTE_ALLOW_LO.KEY1 (i : Nat) : Fld := ⟨RTE_ALLOW_LO i, 12, 12⟩
def RTE_ALLOW_LO.KEY0 (i : Nat) : Fld := ⟨RTE_ALLOW_LO i, 0, 12⟩

/-- RTE_ALLOW_HI of port `i` (R427). -/
def RTE_ALLOW_HI (i : Nat) : Reg := ⟨0x51004 + 0x10 * i, 0x0⟩
def RTE_ALLOW_HI.EN3 (i : Nat) : Fld := ⟨RTE_ALLOW_HI i, 25, 1⟩
def RTE_ALLOW_HI.EN2 (i : Nat) : Fld := ⟨RTE_ALLOW_HI i, 24, 1⟩
def RTE_ALLOW_HI.KEY3 (i : Nat) : Fld := ⟨RTE_ALLOW_HI i, 12, 12⟩
def RTE_ALLOW_HI.KEY2 (i : Nat) : Fld := ⟨RTE_ALLOW_HI i, 0, 12⟩

/-- RTE_PORT_CFG of port `i` (R427). -/
def RTE_PORT_CFG (i : Nat) : Reg := ⟨0x51008 + 0x10 * i, 0x1⟩
def RTE_PORT_CFG.HOST (i : Nat) : Fld := ⟨RTE_PORT_CFG i, 1, 1⟩
def RTE_PORT_CFG.SVC_EN (i : Nat) : Fld := ⟨RTE_PORT_CFG i, 0, 1⟩

/-- RTE_DROP of port `i` (R428). -/
def RTE_DROP (i : Nat) : Reg := ⟨0x5100c + 0x10 * i, 0x0⟩
def RTE_DROP.KEY (i : Nat) : Fld := ⟨RTE_DROP i, 16, 16⟩
def RTE_DROP.ROUTE (i : Nat) : Fld := ⟨RTE_DROP i, 8, 8⟩
def RTE_DROP.INBOUND (i : Nat) : Fld := ⟨RTE_DROP i, 0, 8⟩

/-- RTE_HOST (R429). -/
def RTE_HOST : Reg := ⟨0x50008, 0x0⟩
def RTE_HOST.EN : Fld := ⟨RTE_HOST, 31, 1⟩
def RTE_HOST.PORT : Fld := ⟨RTE_HOST, 16, 5⟩
def RTE_HOST.HOST_DEV : Fld := ⟨RTE_HOST, 0, 16⟩

/-- RTE_GROUP (R429). -/
def RTE_GROUP : Reg := ⟨0x5000c, 0x0⟩
def RTE_GROUP.COUNT : Fld := ⟨RTE_GROUP, 16, 7⟩
def RTE_GROUP.BASE : Fld := ⟨RTE_GROUP, 0, 16⟩

/-- RTE_REMAP_LO of remap entry `i` (R430). -/
def RTE_REMAP_LO (i : Nat) : Reg := ⟨0x52000 + 0x8 * i, 0x0⟩
def RTE_REMAP_LO.PHYSICAL (i : Nat) : Fld := ⟨RTE_REMAP_LO i, 16, 16⟩
def RTE_REMAP_LO.LOGICAL (i : Nat) : Fld := ⟨RTE_REMAP_LO i, 0, 16⟩

/-- RTE_REMAP_HI of remap entry `i` (R430). -/
def RTE_REMAP_HI (i : Nat) : Reg := ⟨0x52004 + 0x8 * i, 0x0⟩
def RTE_REMAP_HI.VALID (i : Nat) : Fld := ⟨RTE_REMAP_HI i, 31, 1⟩
def RTE_REMAP_HI.KEY (i : Nat) : Fld := ⟨RTE_REMAP_HI i, 0, 12⟩

/-- RTE_REQ_CTRL (R431). -/
def RTE_REQ_CTRL : Reg := ⟨0x50010, 0x640004⟩
def RTE_REQ_CTRL.TIMEOUT : Fld := ⟨RTE_REQ_CTRL, 16, 16⟩
def RTE_REQ_CTRL.RETRY : Fld := ⟨RTE_REQ_CTRL, 0, 16⟩

/-- RTE_REQ_STAT (R431). -/
def RTE_REQ_STAT : Reg := ⟨0x50014, 0x0⟩
def RTE_REQ_STAT.INUSE : Fld := ⟨RTE_REQ_STAT, 16, 13⟩
def RTE_REQ_STAT.TIMEOUTS : Fld := ⟨RTE_REQ_STAT, 8, 8⟩
def RTE_REQ_STAT.LATE : Fld := ⟨RTE_REQ_STAT, 0, 8⟩

/-- REED_STATUS (R432). -/
def REED_STATUS : Reg := ⟨0x60000, 0x0⟩
def REED_STATUS.FLOWS : Fld := ⟨REED_STATUS, 17, 15⟩
def REED_STATUS.CELLS : Fld := ⟨REED_STATUS, 0, 17⟩

/-- REED_DROP (R432). -/
def REED_DROP : Reg := ⟨0x60004, 0x0⟩
def REED_DROP.NO_FLOW : Fld := ⟨REED_DROP, 24, 8⟩
def REED_DROP.GAP : Fld := ⟨REED_DROP, 16, 8⟩
def REED_DROP.BEYOND : Fld := ⟨REED_DROP, 8, 8⟩
def REED_DROP.DUP : Fld := ⟨REED_DROP, 0, 8⟩

/-- CTX_TABLE_LO (R463). -/
def CTX_TABLE_LO : Reg := ⟨0xc0000, 0x0⟩
def CTX_TABLE_LO.VA_LO : Fld := ⟨CTX_TABLE_LO, 21, 11⟩

/-- CTX_TABLE_HI (R463). -/
def CTX_TABLE_HI : Reg := ⟨0xc0004, 0x0⟩
def CTX_TABLE_HI.VA_HI : Fld := ⟨CTX_TABLE_HI, 0, 20⟩

/-- CTX_CTRL (R463). -/
def CTX_CTRL : Reg := ⟨0xc0008, 0x0⟩
def CTX_CTRL.SPEC : Fld := ⟨CTX_CTRL, 1, 1⟩
def CTX_CTRL.EN : Fld := ⟨CTX_CTRL, 0, 1⟩

/-- CTX_ROWBLK (R464). -/
def CTX_ROWBLK : Reg := ⟨0xc000c, 0x0⟩
def CTX_ROWBLK.VREG : Fld := ⟨CTX_ROWBLK, 25, 6⟩
def CTX_ROWBLK.LINE : Fld := ⟨CTX_ROWBLK, 0, 19⟩

/-- CTX_COMMITBLK (R464). -/
def CTX_COMMITBLK : Reg := ⟨0xc0010, 0x0⟩
def CTX_COMMITBLK.VREG : Fld := ⟨CTX_COMMITBLK, 25, 6⟩
def CTX_COMMITBLK.LINE : Fld := ⟨CTX_COMMITBLK, 0, 19⟩

/-- CTX_MRNG_BASE of physical region `i`, index `k` (R465). -/
def CTX_MRNG_BASE (i : Nat) (k : Nat) : Reg := ⟨0xc1000 + 0x40 * i + 8 * k, 0x0⟩
def CTX_MRNG_BASE.EN (i : Nat) (k : Nat) : Fld := ⟨CTX_MRNG_BASE i k, 31, 1⟩
def CTX_MRNG_BASE.ROW0 (i : Nat) (k : Nat) : Fld := ⟨CTX_MRNG_BASE i k, 17, 12⟩
def CTX_MRNG_BASE.BASE (i : Nat) (k : Nat) : Fld := ⟨CTX_MRNG_BASE i k, 0, 17⟩

/-- CTX_MRNG_SHAPE of physical region `i`, index `k` (R465). -/
def CTX_MRNG_SHAPE (i : Nat) (k : Nat) : Reg := ⟨0xc1004 + 0x40 * i + 8 * k, 0x1⟩
def CTX_MRNG_SHAPE.ROWS (i : Nat) (k : Nat) : Fld := ⟨CTX_MRNG_SHAPE i k, 13, 13⟩
def CTX_MRNG_SHAPE.UNITS (i : Nat) (k : Nat) : Fld := ⟨CTX_MRNG_SHAPE i k, 0, 13⟩

/-- CTX_STATUS (R466). -/
def CTX_STATUS : Reg := ⟨0xc0014, 0x0⟩
def CTX_STATUS.OCCUPIED : Fld := ⟨CTX_STATUS, 6, 13⟩
def CTX_STATUS.PAUSED : Fld := ⟨CTX_STATUS, 1, 1⟩
def CTX_STATUS.BUSY : Fld := ⟨CTX_STATUS, 0, 1⟩

/-- CTX_STAT (R466). -/
def CTX_STAT : Reg := ⟨0xc0018, 0x0⟩
def CTX_STAT.COMMITTED : Fld := ⟨CTX_STAT, 16, 16⟩
def CTX_STAT.BAD_RECORDS : Fld := ⟨CTX_STAT, 8, 8⟩
def CTX_STAT.UNKEYED : Fld := ⟨CTX_STAT, 0, 8⟩

/-- CTX_MASK_STAT (R466). -/
def CTX_MASK_STAT : Reg := ⟨0xc001c, 0x0⟩
def CTX_MASK_STAT.BLOCKED : Fld := ⟨CTX_MASK_STAT, 16, 16⟩
def CTX_MASK_STAT.DEADLINES : Fld := ⟨CTX_MASK_STAT, 0, 16⟩

/-- SHT_WEIGHT_STAT (R487). -/
def SHT_WEIGHT_STAT : Reg := ⟨0x80030, 0x1000000⟩
def SHT_WEIGHT_STAT.OP : Fld := ⟨SHT_WEIGHT_STAT, 30, 2⟩
def SHT_WEIGHT_STAT.MIXED : Fld := ⟨SHT_WEIGHT_STAT, 29, 1⟩
def SHT_WEIGHT_STAT.LATE : Fld := ⟨SHT_WEIGHT_STAT, 28, 1⟩
def SHT_WEIGHT_STAT.STAGED : Fld := ⟨SHT_WEIGHT_STAT, 27, 1⟩
def SHT_WEIGHT_STAT.LAYER : Fld := ⟨SHT_WEIGHT_STAT, 16, 9⟩
def SHT_WEIGHT_STAT.RETRIES : Fld := ⟨SHT_WEIGHT_STAT, 0, 16⟩

/-- SHT_WEIGHT_VER (R487). -/
def SHT_WEIGHT_VER : Reg := ⟨0x80034, 0x0⟩
def SHT_WEIGHT_VER.VERSION : Fld := ⟨SHT_WEIGHT_VER, 0, 32⟩

/-- SHT_WEIGHT_LINES (R487). -/
def SHT_WEIGHT_LINES : Reg := ⟨0x80038, 0x0⟩
def SHT_WEIGHT_LINES.LINES : Fld := ⟨SHT_WEIGHT_LINES, 0, 32⟩

/-- SYN_CTRL (R503). -/
def SYN_CTRL : Reg := ⟨0xb0000, 0x1000000⟩
def SYN_CTRL.SUSPECT_PICKS : Fld := ⟨SYN_CTRL, 24, 8⟩
def SYN_CTRL.FAIL_EN : Fld := ⟨SYN_CTRL, 16, 1⟩
def SYN_CTRL.FAIL_OBJ : Fld := ⟨SYN_CTRL, 0, 12⟩

/-- SYN_STATUS (R504). -/
def SYN_STATUS : Reg := ⟨0xb0004, 0x0⟩
def SYN_STATUS.SLOTS : Fld := ⟨SYN_STATUS, 19, 13⟩
def SYN_STATUS.OUTSTANDING : Fld := ⟨SYN_STATUS, 9, 9⟩
def SYN_STATUS.FAILS : Fld := ⟨SYN_STATUS, 0, 7⟩

/-- SYN_STAT (R504). -/
def SYN_STAT : Reg := ⟨0xb0008, 0x0⟩
def SYN_STAT.APPLIED : Fld := ⟨SYN_STAT, 16, 16⟩
def SYN_STAT.TYPE_ERR : Fld := ⟨SYN_STAT, 8, 8⟩
def SYN_STAT.SEM_OVER : Fld := ⟨SYN_STAT, 0, 8⟩

/-- SYN_FILT_STAT (R504). -/
def SYN_FILT_STAT : Reg := ⟨0xb000c, 0x0⟩
def SYN_FILT_STAT.DUPS : Fld := ⟨SYN_FILT_STAT, 16, 16⟩
def SYN_FILT_STAT.BELOW_FLOOR : Fld := ⟨SYN_FILT_STAT, 8, 8⟩
def SYN_FILT_STAT.SLOT_FULL : Fld := ⟨SYN_FILT_STAT, 0, 8⟩

/-- SYN_EVT (R505). -/
def SYN_EVT : Reg := ⟨0xb0010, 0x0⟩
def SYN_EVT.FAIL_LOST : Fld := ⟨SYN_EVT, 3, 1⟩
def SYN_EVT.REMOTE_FAIL : Fld := ⟨SYN_EVT, 2, 1⟩
def SYN_EVT.SUSPECT : Fld := ⟨SYN_EVT, 1, 1⟩
def SYN_EVT.TYPE : Fld := ⟨SYN_EVT, 0, 1⟩

/-- SYN_FAIL_STATUS (R506). -/
def SYN_FAIL_STATUS : Reg := ⟨0xb0014, 0x0⟩
def SYN_FAIL_STATUS.POP : Fld := ⟨SYN_FAIL_STATUS, 31, 1⟩
def SYN_FAIL_STATUS.LOST : Fld := ⟨SYN_FAIL_STATUS, 16, 15⟩
def SYN_FAIL_STATUS.COUNT : Fld := ⟨SYN_FAIL_STATUS, 0, 7⟩

/-- SYN_FAIL_HEAD, index `k` (R506). -/
def SYN_FAIL_HEAD (k : Nat) : Reg := ⟨0xb0018 + 4 * k, 0x0⟩
def SYN_FAIL_HEAD.WORD (k : Nat) : Fld := ⟨SYN_FAIL_HEAD k, 0, 32⟩

/-- MGT_FENCE (R546). -/
def MGT_FENCE : Reg := ⟨0xd0000, 0x0⟩
def MGT_FENCE.FORCED : Fld := ⟨MGT_FENCE, 31, 1⟩
def MGT_FENCE.DRAIN_US : Fld := ⟨MGT_FENCE, 8, 12⟩
def MGT_FENCE.HW : Fld := ⟨MGT_FENCE, 4, 1⟩
def MGT_FENCE.D3 : Fld := ⟨MGT_FENCE, 3, 1⟩
def MGT_FENCE.D2 : Fld := ⟨MGT_FENCE, 2, 1⟩
def MGT_FENCE.D1 : Fld := ⟨MGT_FENCE, 1, 1⟩

/-- MGT_RESET_COUNT (R546). -/
def MGT_RESET_COUNT : Reg := ⟨0xd0004, 0x0⟩
def MGT_RESET_COUNT.D3 : Fld := ⟨MGT_RESET_COUNT, 24, 8⟩
def MGT_RESET_COUNT.D2 : Fld := ⟨MGT_RESET_COUNT, 16, 8⟩
def MGT_RESET_COUNT.D1 : Fld := ⟨MGT_RESET_COUNT, 8, 8⟩
def MGT_RESET_COUNT.FORCED : Fld := ⟨MGT_RESET_COUNT, 0, 8⟩

/-- MGT_HANG_CTRL (R554). -/
def MGT_HANG_CTRL : Reg := ⟨0xd0008, 0x10100⟩
def MGT_HANG_CTRL.EN : Fld := ⟨MGT_HANG_CTRL, 16, 1⟩
def MGT_HANG_CTRL.PICKS : Fld := ⟨MGT_HANG_CTRL, 0, 16⟩

/-- MGT_HANG_STATUS (R554). -/
def MGT_HANG_STATUS : Reg := ⟨0xd000c, 0x0⟩
def MGT_HANG_STATUS.KIND : Fld := ⟨MGT_HANG_STATUS, 30, 2⟩
def MGT_HANG_STATUS.VALID : Fld := ⟨MGT_HANG_STATUS, 29, 1⟩
def MGT_HANG_STATUS.NODES : Fld := ⟨MGT_HANG_STATUS, 16, 8⟩
def MGT_HANG_STATUS.SAMPLES : Fld := ⟨MGT_HANG_STATUS, 0, 16⟩

/-- MGT_HANG_NODE, index `k` (R554). -/
def MGT_HANG_NODE (k : Nat) : Reg := ⟨0xd0010 + 4 * k, 0x0⟩
def MGT_HANG_NODE.IDS (k : Nat) : Fld := ⟨MGT_HANG_NODE k, 0, 32⟩

/-- PCK_START (R564). -/
def PCK_START : Reg := ⟨0x30020, 0x0⟩
def PCK_START.FIRST_DEV : Fld := ⟨PCK_START, 16, 16⟩
def PCK_START.FIRST_STATUS : Fld := ⟨PCK_START, 8, 8⟩
def PCK_START.STATE : Fld := ⟨PCK_START, 0, 3⟩

/-- PCK_START_CNT (R564). -/
def PCK_START_CNT : Reg := ⟨0x30024, 0x0⟩
def PCK_START_CNT.DONE : Fld := ⟨PCK_START_CNT, 16, 16⟩
def PCK_START_CNT.FAILED : Fld := ⟨PCK_START_CNT, 0, 16⟩

/-- PCK_EPOCH (R564). -/
def PCK_EPOCH : Reg := ⟨0x30028, 0x0⟩
def PCK_EPOCH.LATEST : Fld := ⟨PCK_EPOCH, 0, 32⟩

/-- PCK_START_CTRL (R564). -/
def PCK_START_CTRL : Reg := ⟨0x3002c, 0x7d0⟩
def PCK_START_CTRL.TIMEOUT : Fld := ⟨PCK_START_CTRL, 0, 16⟩

/-- SMU_STATUS (R602). -/
def SMU_STATUS : Reg := ⟨0xe0000, 0x384000⟩
def SMU_STATUS.INTERVAL : Fld := ⟨SMU_STATUS, 12, 12⟩
def SMU_STATUS.VERIFIED : Fld := ⟨SMU_STATUS, 2, 1⟩
def SMU_STATUS.KEY_OK : Fld := ⟨SMU_STATUS, 1, 1⟩
def SMU_STATUS.RUN : Fld := ⟨SMU_STATUS, 0, 1⟩

/-- SMU_EVENT_COUNT (R602). -/
def SMU_EVENT_COUNT : Reg := ⟨0xe0004, 0x0⟩
def SMU_EVENT_COUNT.COUNT : Fld := ⟨SMU_EVENT_COUNT, 0, 32⟩

/-- SMU_POWER (R602). -/
def SMU_POWER : Reg := ⟨0xe0008, 0x0⟩
def SMU_POWER.WATTS : Fld := ⟨SMU_POWER, 0, 16⟩

/-- SMU_SEQ_LO (R602). -/
def SMU_SEQ_LO : Reg := ⟨0xe000c, 0x0⟩
def SMU_SEQ_LO.SEQ_LO : Fld := ⟨SMU_SEQ_LO, 0, 32⟩

/-- SMU_SEQ_HI (R602). -/
def SMU_SEQ_HI : Reg := ⟨0xe0010, 0x0⟩
def SMU_SEQ_HI.SEQ_HI : Fld := ⟨SMU_SEQ_HI, 0, 32⟩

/-- MGT_CEILING (R603). -/
def MGT_CEILING : Reg := ⟨0xd0030, 0x708⟩
def MGT_CEILING.WATTS : Fld := ⟨MGT_CEILING, 0, 12⟩

/-- MGT_FM (R603). -/
def MGT_FM : Reg := ⟨0xd0034, 0x0⟩
def MGT_FM.FM_DEV : Fld := ⟨MGT_FM, 0, 16⟩

/-- MGT_THERM (R603). -/
def MGT_THERM : Reg := ⟨0xd0038, 0x0⟩
def MGT_THERM.STACK_CAP : Fld := ⟨MGT_THERM, 2, 1⟩
def MGT_THERM.TRIPPED : Fld := ⟨MGT_THERM, 1, 1⟩
def MGT_THERM.WARN : Fld := ⟨MGT_THERM, 0, 1⟩

/-- MGT_BOOT (R603). -/
def MGT_BOOT : Reg := ⟨0xd003c, 0x0⟩
def MGT_BOOT.PENDING : Fld := ⟨MGT_BOOT, 6, 2⟩
def MGT_BOOT.INSTALL_OK : Fld := ⟨MGT_BOOT, 5, 1⟩
def MGT_BOOT.ID_FAIL : Fld := ⟨MGT_BOOT, 4, 1⟩
def MGT_BOOT.CF_SLOT : Fld := ⟨MGT_BOOT, 2, 2⟩
def MGT_BOOT.MG_SLOT : Fld := ⟨MGT_BOOT, 0, 2⟩

/-- MGT_PERMITTED, index `k` (R603). -/
def MGT_PERMITTED (k : Nat) : Reg := ⟨0xd0040 + 4 * k, 0x0⟩
def MGT_PERMITTED.MASK (k : Nat) : Fld := ⟨MGT_PERMITTED k, 0, 32⟩

/-- SEQ_TRACE_CTRL (R617). -/
def SEQ_TRACE_CTRL : Reg := ⟨0x24, 0x0⟩
def SEQ_TRACE_CTRL.EN : Fld := ⟨SEQ_TRACE_CTRL, 31, 1⟩
def SEQ_TRACE_CTRL.SOURCES : Fld := ⟨SEQ_TRACE_CTRL, 0, 6⟩

/-- SEQ_TRACE_HEAD (R617). -/
def SEQ_TRACE_HEAD : Reg := ⟨0x28, 0x0⟩
def SEQ_TRACE_HEAD.SEQ : Fld := ⟨SEQ_TRACE_HEAD, 0, 32⟩

/-- SEQ_TRACE_LOST (R617). -/
def SEQ_TRACE_LOST : Reg := ⟨0x2c, 0x0⟩
def SEQ_TRACE_LOST.LOST : Fld := ⟨SEQ_TRACE_LOST, 0, 16⟩

/-- PTB_SLOT_CTRL, index `k` (R619). -/
def PTB_SLOT_CTRL (k : Nat) : Reg := ⟨0xf0100 + 16 * k, 0x0⟩
def PTB_SLOT_CTRL.EN (k : Nat) : Fld := ⟨PTB_SLOT_CTRL k, 31, 1⟩
def PTB_SLOT_CTRL.ACTIVE (k : Nat) : Fld := ⟨PTB_SLOT_CTRL k, 30, 1⟩
def PTB_SLOT_CTRL.KIND (k : Nat) : Fld := ⟨PTB_SLOT_CTRL k, 24, 4⟩
def PTB_SLOT_CTRL.PICKS (k : Nat) : Fld := ⟨PTB_SLOT_CTRL k, 16, 8⟩
def PTB_SLOT_CTRL.SUB (k : Nat) : Fld := ⟨PTB_SLOT_CTRL k, 8, 8⟩
def PTB_SLOT_CTRL.TARGET (k : Nat) : Fld := ⟨PTB_SLOT_CTRL k, 0, 8⟩

/-- PTB_SLOT_PARAM, index `k` (R619). -/
def PTB_SLOT_PARAM (k : Nat) : Reg := ⟨0xf0104 + 16 * k, 0x0⟩
def PTB_SLOT_PARAM.PARAM (k : Nat) : Fld := ⟨PTB_SLOT_PARAM k, 0, 32⟩

/-- PTB_SLOT_START_LO, index `k` (R619). -/
def PTB_SLOT_START_LO (k : Nat) : Reg := ⟨0xf0108 + 16 * k, 0x0⟩
def PTB_SLOT_START_LO.START_LO (k : Nat) : Fld := ⟨PTB_SLOT_START_LO k, 0, 32⟩

/-- PTB_SLOT_START_HI, index `k` (R619). -/
def PTB_SLOT_START_HI (k : Nat) : Reg := ⟨0xf010c + 16 * k, 0x0⟩
def PTB_SLOT_START_HI.START_HI (k : Nat) : Fld := ⟨PTB_SLOT_START_HI k, 0, 16⟩

/-- PTB_STATUS (R622). -/
def PTB_STATUS : Reg := ⟨0xf0000, 0xfc000000⟩
def PTB_STATUS.SESSION : Fld := ⟨PTB_STATUS, 26, 6⟩
def PTB_STATUS.OPEN : Fld := ⟨PTB_STATUS, 25, 1⟩
def PTB_STATUS.REHEARSE : Fld := ⟨PTB_STATUS, 24, 1⟩
def PTB_STATUS.BAD : Fld := ⟨PTB_STATUS, 16, 1⟩
def PTB_STATUS.ACTIVE : Fld := ⟨PTB_STATUS, 0, 16⟩

/-- Part 1 of the register table, in the order of R24. -/
def regTable1 : List RegSpec := [
  ⟨0x30000, 0x0, 1, 0, 1, 0x2000, 1, 0x1ffff, 0x0, 0x0, 0x0⟩,
  ⟨0x30004, 0x0, 1, 0, 1, 0x2000180, 1, 0x3fff1fff, 0x0, 0x0, 0x0⟩,
  ⟨0x30008, 0x0, 1, 0, 1, 0x0, 1, 0x0, 0x0, 0x0, 0xffffffff⟩,
  ⟨0x3000c, 0x0, 1, 0, 1, 0x0, 1, 0x0, 0x0, 0x0, 0xffff⟩,
  ⟨0x30010, 0x0, 1, 0, 1, 0x1f1f00, 1, 0x1f1f0f, 0x0, 0x0, 0x0⟩,
  ⟨0x30014, 0x0, 1, 0, 1, 0x0, 1, 0x0, 0x0, 0xffff0000, 0xf307⟩,
  ⟨0x30018, 0x0, 1, 0, 1, 0x0, 1, 0x0, 0x7f, 0x0, 0x0⟩,
  ⟨0x3001c, 0x0, 1, 0, 1, 0x0, 1, 0x0, 0x0, 0xffffffff, 0x0⟩,
  ⟨0x11000, 0x80, 64, 0, 1, 0x0, 3, 0x0, 0x0, 0xffffffff, 0x0⟩,
  ⟨0x20000, 0x0, 1, 0, 1, 0x1, 0, 0x3, 0x0, 0x0, 0x0⟩,
  ⟨0x21000, 0x4, 64, 0, 1, 0x808c80, 0, 0xff, 0x0, 0x0, 0xc0ffff00⟩,
  ⟨0x20004, 0x0, 1, 0, 1, 0x0, 0, 0x0, 0x6, 0x0, 0xffff0001⟩,
  ⟨0x11004, 0x80, 64, 0, 1, 0x0, 3, 0x0, 0x0, 0xffffffff, 0x0⟩,
  ⟨0x11008, 0x80, 64, 0, 1, 0x0, 3, 0x0, 0x0, 0xffff, 0x0⟩,
  ⟨0x0, 0x0, 1, 0, 1, 0x0, 3, 0x3f, 0x0, 0x0, 0x0⟩,
  ⟨0x4, 0x0, 1, 0, 1, 0x0, 3, 0x0, 0x0, 0x0, 0xe03fffff⟩,
  ⟨0x8, 0x0, 1, 0, 1, 0x0, 3, 0x0, 0x0, 0x0, 0xfffffff0⟩,
  ⟨0xc, 0x0, 1, 0, 1, 0x0, 3, 0xfff003, 0x0, 0x0, 0x0⟩,
  ⟨0x10, 0x0, 1, 0, 1, 0x0, 3, 0x0, 0x0, 0x0, 0xffffffff⟩,
  ⟨0x14, 0x0, 1, 0, 1, 0x0, 3, 0x0, 0x0, 0x0, 0xffffffff⟩,
  ⟨0x18, 0x0, 1, 0, 1, 0x0, 3, 0xffffffff, 0x0, 0x0, 0x0⟩,
  ⟨0x1c, 0x0, 1, 0, 1, 0x0, 3, 0xffffffff, 0x0, 0x0, 0x0⟩,
  ⟨0x20, 0x0, 1, 0, 1, 0x0, 3, 0x0, 0x0, 0x0, 0x3ffc⟩,
  ⟨0x1100c, 0x80, 64, 0, 1, 0x0, 3, 0x0, 0x0, 0xffffffff, 0x0⟩,
  ⟨0x11010, 0x80, 64, 0, 1, 0x0, 3, 0x0, 0x7, 0x0, 0x0⟩,
  ⟨0x11014, 0x80, 64, 0, 1, 0x0, 3, 0x0, 0x0, 0xffffffff, 0x0⟩,
  ⟨0x11018, 0x80, 64, 0, 1, 0x0, 3, 0x0, 0x0, 0xffffffff, 0x0⟩,
  ⟨0x1101c, 0x80, 64, 0, 1, 0x0, 3, 0x0, 0x0, 0xffffffff, 0x0⟩,
  ⟨0x11020, 0x80, 64, 8, 8, 0x0, 3, 0x1ffff, 0x0, 0x0, 0x0⟩,
  ⟨0x11024, 0x80, 64, 8, 8, 0x0, 3, 0x8003ffff, 0x0, 0x0, 0x0⟩,
  ⟨0x80000, 0x0, 1, 0, 1, 0x0, 3, 0x0, 0x0, 0xffffffff, 0x0⟩,
  ⟨0x11060, 0x80, 64, 0, 1, 0x0, 3, 0x0, 0x8000, 0xffff0000, 0x0⟩]

/-- Part 2 of the register table, in the order of R24. -/
def regTable2 : List RegSpec := [
  ⟨0x11064, 0x80, 64, 0, 1, 0x0, 3, 0x0, 0x0, 0x0, 0x7ffff⟩,
  ⟨0x91000, 0x20, 16, 0, 1, 0x0, 2, 0x0, 0x8000, 0xffff7fff, 0x0⟩,
  ⟨0x91004, 0x20, 16, 0, 1, 0x0, 2, 0x0, 0x0, 0x0, 0x3ffffff⟩,
  ⟨0xa1000, 0x8, 8, 0, 1, 0x0, 2, 0x0, 0x0, 0x0, 0x1fffffff⟩,
  ⟨0xa1004, 0x8, 8, 0, 1, 0x0, 2, 0x0, 0x0, 0xffffffff, 0x0⟩,
  ⟨0x70000, 0x0, 1, 0, 1, 0x0, 2, 0xff83ffff, 0x0, 0x0, 0x0⟩,
  ⟨0x70004, 0x0, 1, 0, 1, 0x0, 2, 0x1, 0x0, 0x0, 0x0⟩,
  ⟨0x70008, 0x0, 1, 0, 1, 0x0, 2, 0x0, 0x0, 0x0, 0x0⟩,
  ⟨0x7000c, 0x0, 1, 0, 1, 0x0, 2, 0x0, 0x0, 0x0, 0x0⟩,
  ⟨0x70010, 0x0, 1, 0, 1, 0x0, 2, 0x0, 0x6, 0x0, 0xff9⟩,
  ⟨0x70014, 0x0, 1, 0, 1, 0x0, 2, 0x0, 0x0, 0xffffffff, 0x0⟩,
  ⟨0x70018, 0x0, 1, 0, 1, 0x0, 2, 0x0, 0x0, 0x0, 0xffffffff⟩,
  ⟨0x7001c, 0x0, 1, 0, 1, 0x0, 2, 0x0, 0x0, 0x0, 0xfffff⟩,
  ⟨0x70020, 0x0, 1, 0, 1, 0x0, 2, 0x0, 0x80000000, 0x0, 0xfff⟩,
  ⟨0x91008, 0x20, 16, 0, 1, 0x0, 2, 0x0, 0x0, 0xffff, 0x7f0000⟩,
  ⟨0x9100c, 0x20, 16, 0, 1, 0x0, 2, 0x0, 0x0, 0xffffffff, 0x0⟩,
  ⟨0x91010, 0x20, 16, 0, 1, 0x0, 2, 0x0, 0x80000000, 0x0, 0x7fffffff⟩,
  ⟨0x80004, 0x0, 1, 0, 1, 0x10, 3, 0xff, 0x0, 0x0, 0x0⟩,
  ⟨0x81000, 0x4, 88, 0, 1, 0x0, 3, 0x0, 0x0, 0x0, 0xc01f03ff⟩,
  ⟨0x80008, 0x0, 1, 0, 1, 0x0, 3, 0x0, 0x3f, 0x0, 0x0⟩,
  ⟨0x8000c, 0x0, 1, 0, 1, 0x0, 3, 0x0, 0x0, 0x7fff0000, 0x3ff⟩,
  ⟨0x80010, 0x0, 1, 4, 8, 0x0, 3, 0x0, 0x0, 0x0, 0xffffffff⟩,
  ⟨0x41000, 0x40, 24, 0, 1, 0x1, 1, 0xff01, 0x0, 0x0, 0x0⟩,
  ⟨0x41004, 0x40, 24, 0, 1, 0x0, 1, 0x0, 0x0, 0x0, 0xffff3e0f⟩,
  ⟨0x41008, 0x40, 24, 0, 1, 0x0, 1, 0x0, 0x0, 0x0, 0xffffffff⟩,
  ⟨0x4100c, 0x40, 24, 0, 1, 0x0, 1, 0x0, 0x0, 0x0, 0xffffffff⟩,
  ⟨0x41010, 0x40, 24, 0, 1, 0x0, 1, 0x0, 0x0, 0x0, 0xffffffff⟩,
  ⟨0x41014, 0x40, 24, 0, 1, 0x0, 1, 0x0, 0x0, 0xffffffff, 0x0⟩,
  ⟨0x41018, 0x40, 24, 0, 1, 0x0, 1, 0x0, 0x0, 0xffffffff, 0x0⟩,
  ⟨0x4101c, 0x40, 24, 0, 1, 0x0, 1, 0x0, 0x0, 0xffffffff, 0x0⟩,
  ⟨0x41020, 0x40, 24, 0, 1, 0x0, 1, 0x0, 0x0, 0xffffffff, 0x0⟩,
  ⟨0x41024, 0x40, 24, 0, 1, 0x0, 1, 0x0, 0x0, 0x0, 0x8007ffff⟩]

/-- Part 3 of the register table, in the order of R24. -/
def regTable3 : List RegSpec := [
  ⟨0x41028, 0x40, 24, 0, 1, 0x0, 1, 0x0, 0x0, 0xffffffff, 0x0⟩,
  ⟨0x4102c, 0x40, 24, 0, 1, 0x0, 1, 0x0, 0x1ff, 0x0, 0x0⟩,
  ⟨0x50000, 0x0, 1, 0, 1, 0x0, 1, 0x0, 0x0, 0x0, 0x1ffff⟩,
  ⟨0x50004, 0x0, 1, 0, 1, 0x0, 1, 0x1ffff, 0x0, 0x0, 0x0⟩,
  ⟨0x51000, 0x10, 24, 0, 1, 0x0, 1, 0x3ffffff, 0x0, 0x0, 0x0⟩,
  ⟨0x51004, 0x10, 24, 0, 1, 0x0, 1, 0x3ffffff, 0x0, 0x0, 0x0⟩,
  ⟨0x51008, 0x10, 24, 0, 1, 0x1, 1, 0x1, 0x0, 0x0, 0x2⟩,
  ⟨0x5100c, 0x10, 24, 0, 1, 0x0, 1, 0x0, 0x0, 0xffffffff, 0x0⟩,
  ⟨0x50008, 0x0, 1, 0, 1, 0x0, 1, 0x801fffff, 0x0, 0x0, 0x0⟩,
  ⟨0x5000c, 0x0, 1, 0, 1, 0x0, 1, 0x7fffff, 0x0, 0x0, 0x0⟩,
  ⟨0x52000, 0x8, 64, 0, 1, 0x0, 1, 0xffffffff, 0x0, 0x0, 0x0⟩,
  ⟨0x52004, 0x8, 64, 0, 1, 0x0, 1, 0x80000fff, 0x0, 0x0, 0x0⟩,
  ⟨0x50010, 0x0, 1, 0, 1, 0x640004, 1, 0xffffffff, 0x0, 0x0, 0x0⟩,
  ⟨0x50014, 0x0, 1, 0, 1, 0x0, 1, 0x0, 0x0, 0xffff, 0x1fff0000⟩,
  ⟨0x60000, 0x0, 1, 0, 1, 0x0, 1, 0x0, 0x0, 0x0, 0xffffffff⟩,
  ⟨0x60004, 0x0, 1, 0, 1, 0x0, 1, 0x0, 0x0, 0xffffffff, 0x0⟩,
  ⟨0xc0000, 0x0, 1, 0, 1, 0x0, 3, 0xffe00000, 0x0, 0x0, 0x0⟩,
  ⟨0xc0004, 0x0, 1, 0, 1, 0x0, 3, 0xfffff, 0x0, 0x0, 0x0⟩,
  ⟨0xc0008, 0x0, 1, 0, 1, 0x0, 3, 0x1, 0x0, 0x0, 0x2⟩,
  ⟨0xc000c, 0x0, 1, 0, 1, 0x0, 3, 0x7e07ffff, 0x0, 0x0, 0x0⟩,
  ⟨0xc0010, 0x0, 1, 0, 1, 0x0, 3, 0x7e07ffff, 0x0, 0x0, 0x0⟩,
  ⟨0xc1000, 0x40, 64, 8, 8, 0x0, 3, 0x9fffffff, 0x0, 0x0, 0x0⟩,
  ⟨0xc1004, 0x40, 64, 8, 8, 0x1, 3, 0x3ffffff, 0x0, 0x0, 0x0⟩,
  ⟨0xc0014, 0x0, 1, 0, 1, 0x0, 3, 0x0, 0x0, 0x0, 0x7ffc3⟩,
  ⟨0xc0018, 0x0, 1, 0, 1, 0x0, 3, 0x0, 0x0, 0xffffffff, 0x0⟩,
  ⟨0xc001c, 0x0, 1, 0, 1, 0x0, 3, 0x0, 0x0, 0xffffffff, 0x0⟩,
  ⟨0x80030, 0x0, 1, 0, 1, 0x1000000, 3, 0x0, 0x10000000, 0xffff, 0xe9ff0000⟩,
  ⟨0x80034, 0x0, 1, 0, 1, 0x0, 3, 0x0, 0x0, 0x0, 0xffffffff⟩,
  ⟨0x80038, 0x0, 1, 0, 1, 0x0, 3, 0x0, 0x0, 0xffffffff, 0x0⟩,
  ⟨0xb0000, 0x0, 1, 0, 1, 0x1000000, 0, 0xff010fff, 0x0, 0x0, 0x0⟩,
  ⟨0xb0004, 0x0, 1, 0, 1, 0x0, 3, 0x0, 0x0, 0x0, 0xfffbfe7f⟩,
  ⟨0xb0008, 0x0, 1, 0, 1, 0x0, 3, 0x0, 0x0, 0xffffffff, 0x0⟩]

/-- Part 4 of the register table, in the order of R24. -/
def regTable4 : List RegSpec := [
  ⟨0xb000c, 0x0, 1, 0, 1, 0x0, 3, 0x0, 0x0, 0xffffffff, 0x0⟩,
  ⟨0xb0010, 0x0, 1, 0, 1, 0x0, 3, 0x0, 0xf, 0x0, 0x0⟩,
  ⟨0xb0014, 0x0, 1, 0, 1, 0x0, 3, 0x0, 0x0, 0x7fff0000, 0x7f⟩,
  ⟨0xb0018, 0x0, 1, 4, 4, 0x0, 3, 0x0, 0x0, 0x0, 0xffffffff⟩,
  ⟨0xd0000, 0x0, 1, 0, 1, 0x0, 0, 0x0, 0x80000000, 0x0, 0xfff1e⟩,
  ⟨0xd0004, 0x0, 1, 0, 1, 0x0, 0, 0x0, 0x0, 0xffffffff, 0x0⟩,
  ⟨0xd0008, 0x0, 1, 0, 1, 0x10100, 0, 0x1ffff, 0x0, 0x0, 0x0⟩,
  ⟨0xd000c, 0x0, 1, 0, 1, 0x0, 0, 0x0, 0x20000000, 0x0, 0xc0ffffff⟩,
  ⟨0xd0010, 0x0, 1, 4, 8, 0x0, 0, 0x0, 0x0, 0x0, 0xffffffff⟩,
  ⟨0x30020, 0x0, 1, 0, 1, 0x0, 1, 0x0, 0x0, 0x0, 0xffffff07⟩,
  ⟨0x30024, 0x0, 1, 0, 1, 0x0, 1, 0x0, 0x0, 0x0, 0xffffffff⟩,
  ⟨0x30028, 0x0, 1, 0, 1, 0x0, 1, 0x0, 0x0, 0x0, 0xffffffff⟩,
  ⟨0x3002c, 0x0, 1, 0, 1, 0x7d0, 1, 0xffff, 0x0, 0x0, 0x0⟩,
  ⟨0xe0000, 0x0, 1, 0, 1, 0x384000, 4, 0x0, 0x0, 0x0, 0xfff007⟩,
  ⟨0xe0004, 0x0, 1, 0, 1, 0x0, 4, 0x0, 0x0, 0x0, 0xffffffff⟩,
  ⟨0xe0008, 0x0, 1, 0, 1, 0x0, 4, 0x0, 0x0, 0x0, 0xffff⟩,
  ⟨0xe000c, 0x0, 1, 0, 1, 0x0, 4, 0x0, 0x0, 0x0, 0xffffffff⟩,
  ⟨0xe0010, 0x0, 1, 0, 1, 0x0, 4, 0x0, 0x0, 0x0, 0xffffffff⟩,
  ⟨0xd0030, 0x0, 1, 0, 1, 0x708, 0, 0xfff, 0x0, 0x0, 0x0⟩,
  ⟨0xd0034, 0x0, 1, 0, 1, 0x0, 0, 0xffff, 0x0, 0x0, 0x0⟩,
  ⟨0xd0038, 0x0, 1, 0, 1, 0x0, 0, 0x0, 0x1, 0x0, 0x6⟩,
  ⟨0xd003c, 0x0, 1, 0, 1, 0x0, 0, 0x0, 0x0, 0x0, 0xff⟩,
  ⟨0xd0040, 0x0, 1, 4, 4, 0x0, 0, 0xffffffff, 0x0, 0x0, 0x0⟩,
  ⟨0x24, 0x0, 1, 0, 1, 0x0, 3, 0x8000003f, 0x0, 0x0, 0x0⟩,
  ⟨0x28, 0x0, 1, 0, 1, 0x0, 3, 0x0, 0x0, 0x0, 0xffffffff⟩,
  ⟨0x2c, 0x0, 1, 0, 1, 0x0, 3, 0x0, 0x0, 0xffff, 0x0⟩,
  ⟨0xf0100, 0x0, 1, 16, 16, 0x0, 0, 0x8fffffff, 0x0, 0x0, 0x40000000⟩,
  ⟨0xf0104, 0x0, 1, 16, 16, 0x0, 0, 0xffffffff, 0x0, 0x0, 0x0⟩,
  ⟨0xf0108, 0x0, 1, 16, 16, 0x0, 0, 0xffffffff, 0x0, 0x0, 0x0⟩,
  ⟨0xf010c, 0x0, 1, 16, 16, 0x0, 0, 0xffff, 0x0, 0x0, 0x0⟩,
  ⟨0xf0000, 0x0, 1, 0, 1, 0xfc000000, 0, 0x0, 0x10000, 0x0, 0xff00ffff⟩]

/-- Every register of the register space. -/
def regTable : List RegSpec := regTable1 ++ regTable2 ++ regTable3 ++ regTable4

/-- The row holds a register at this address. -/
def RegSpec.covers (r : RegSpec) (a : Nat) : Bool :=
  let off := a - r.base
  let inst := if r.stride = 0 then 0 else off / r.stride
  let rest := if r.stride = 0 then off else off % r.stride
  let k := if r.kstep = 0 then 0 else rest / r.kstep
  decide (r.base ≤ a) && decide (inst < r.count) && decide (k < r.kcount)
    && decide (rest = k * r.kstep)

/-- The row of a register address, if a register lies there (R24). -/
def specAt (a : Nat) : Option RegSpec := regTable.find? (fun r => r.covers a)

/-! ## Reading and writing the stored values -/

/-- The stored value of a register. -/
def State.reg (s : State) (r : Reg) : Reg32 := sget 0 s.regs r.addr ^^^ r.reset

/-- Store a register. -/
def State.setReg (s : State) (r : Reg) (v : Reg32) : State :=
  { s with regs := sset 0 s.regs r.addr (v ^^^ r.reset) }

/-- The stored value of a field. -/
def State.fld (s : State) (f : Fld) : Nat := bitsAt (s.reg f.reg).toNat f.lo f.len

/-- A one-bit field is set. -/
def State.flag (s : State) (f : Fld) : Bool := s.fld f != 0

/-- Store a field. -/
def State.put (s : State) (f : Fld) (v : Nat) : State :=
  s.setReg f.reg (BitVec.ofNat 32 (bitsPut (s.reg f.reg).toNat f.lo f.len v))

/-- Set every bit of a field. -/
def State.raise (s : State) (f : Fld) : State := s.put f (2 ^ f.len - 1)

/-- Add to a count; it holds at its field's maximum, as its layout says (R72, R388, R504). -/
def State.count (s : State) (f : Fld) (n : Nat := 1) : State := s.put f (min (s.fld f + n) (2 ^ f.len - 1))

/-- Keep the larger of a field and a value, up to the field's maximum. -/
def State.putMax (s : State) (f : Fld) (v : Nat) : State := s.put f (max (s.fld f) (min v (2 ^ f.len - 1)))

end Sys2Proof.Machine
end

