-- ==== Sys2Proof/Machine/Ops.lean ====
section
/-! DEFINITION. Operations every family uses: time and the parts of the pick, the units enabled and how virtual regions map
onto them, the sparse stores of units, features and status codes, and the events, log and trace records a unit raises. -/
namespace Sys2Proof.Machine

/-! ## Meanings -/

/-- The outcome of a command whose operands name existing units: its next state. -/
def onUnit (ok : Bool) (t : State) : Out := if ok then .next t else .fault .noSuchUnit

/-! ## Time -/

/-- R11: cycles in a microsecond and in a millisecond. -/
def usCycles : Nat := 1600
def msCycles : Nat := 1600000

/-- A command that happens at a stated time: the timebase has reached it. -/
def State.at_ (s : State) (due : Nat) : State := { s with now := max s.now due }

/-- R581: microseconds since the last D0 reset. -/
def State.uptime (s : State) : Nat := (s.now - s.mgt.bootAt) / usCycles

/-! ## The parts of the pick (R31, R32, R35, R265) -/

def pickIdle : Nat := 0
def pickAcquiring : Nat := 1
def pickLocked : Nat := 2
def pickHoldover : Nat := 3
def pickSlipped : Nat := 4

def State.pickState (s : State) : Nat := s.fld PCK_STATUS.STATE

/-- R35, R265: the module frames its windows at the default length and parts. -/
def State.defaultFramed (s : State) : Bool := decide (s.pickState ≤ pickAcquiring)

/-- R31: pick length in force. -/
def State.pickLen (s : State) : Nat := if s.defaultFramed then 8192 else s.fld PCK_LENGTH.LENGTH
/-- R32: background window in force. -/
def State.pickWin (s : State) : Nat := if s.defaultFramed then 384 else s.fld PCK_PARTS.WINDOW
/-- R32: margin in force. -/
def State.pickMargin (s : State) : Nat := if s.defaultFramed then 512 else s.fld PCK_PARTS.MARGIN
/-- R33: length of the scheduled span by the configuration registers. -/
def State.spanLen (s : State) : Nat :=
  s.fld PCK_LENGTH.LENGTH - s.fld PCK_PARTS.WINDOW - s.fld PCK_PARTS.MARGIN

/-- R34: refreshes each pseudo-channel receives in a window of a pick of `len` cycles: ceil(len × 0.625 / 1,950). -/
def refreshesOf (len : Nat) : Nat := (len * 5 + 15599) / 15600

/-- R34: the least window of a pick of `len` cycles. -/
def windowMin (len : Nat) : Nat := (16 + max 320 (96 * refreshesOf len + 72) + 15) / 16 * 16

/-- R58: the configuration word: L / 16, W / 16 and M / 16. -/
def configWord (len win margin : Nat) : Nat := len / 16 % 8192 + win / 16 % 512 * 8192 + margin / 16 % 1024 * 4194304
def State.config (s : State) : Nat :=
  configWord (s.fld PCK_LENGTH.LENGTH) (s.fld PCK_PARTS.WINDOW) (s.fld PCK_PARTS.MARGIN)

/-- R38: the pick counter. -/
def State.pickNo (s : State) : Nat := s.pick.count.toNat

/-- R614: timebase cycle within the pick or default frame now running. -/
def State.pickCycle (s : State) : Nat := s.now - s.pick.windowAt

/-- R44, R265: an activity of the given hold may start now and end by the last cycle of the window, keeping `reserve`
cycles before it free. -/
def State.fitsWindow (s : State) (start hold reserve : Nat) : Bool :=
  s.pick.inWindow && decide (start + hold + reserve ≤ s.pick.windowAt + s.pickWin)

/-! ## Units -/

def State.region (s : State) (n : Nat) : RegionSt := sget {} s.regions n
def State.setRegion (s : State) (n : Nat) (r : RegionSt) : State := { s with regions := sset {} s.regions n r }
def State.port (s : State) (p : Nat) : PortSt := sget {} s.ports p
def State.setPort (s : State) (p : Nat) (x : PortSt) : State := { s with ports := sset {} s.ports p x }
def State.stack (s : State) (k : Nat) : StackSt := sget {} s.hbmStacks k
def State.setStack (s : State) (k : Nat) (x : StackSt) : State := { s with hbmStacks := sset {} s.hbmStacks k x }
def State.shuttle (s : State) (k : Nat) : ShuttleSt := sget {} s.shuttles k
def State.setShuttle (s : State) (k : Nat) (x : ShuttleSt) : State := { s with shuttles := sset {} s.shuttles k x }
def State.cxlPort (s : State) (p : Nat) : CxlSt := sget {} s.cxl p
def State.setCxl (s : State) (p : Nat) (x : CxlSt) : State := { s with cxl := sset {} s.cxl p x }
def State.pch (s : State) (n : Nat) : PchSt := sget {} s.hbm.pchs n
def State.setPch (s : State) (n : Nat) (x : PchSt) : State :=
  { s with hbm := { s.hbm with pchs := sset {} s.hbm.pchs n x } }
def State.window (s : State) (n : Nat) : WindowEntry := sget {} s.windows n
def State.setWindow (s : State) (n : Nat) (x : WindowEntry) : State := { s with windows := sset {} s.windows n x }
def State.box (s : State) (n : Nat) : MailboxSt := sget {} s.mail.boxes n
def State.setBox (s : State) (n : Nat) (x : MailboxSt) : State :=
  { s with mail := { s.mail with boxes := sset {} s.mail.boxes n x } }

/-- Apply a change to each of a list of units. -/
def State.each (s : State) (l : List Nat) (f : Nat → State → State) : State := l.foldl (fun t n => f n t) s

/-! ## The manufacturing record (R584) -/

def MfgRec.format (m : MfgRec) : Nat := leAt m.bytes 0x0 4
def MfgRec.length (m : MfgRec) : Nat := leAt m.bytes 0x4 4
def MfgRec.orderCode (m : MfgRec) : List Byte := bytesAt m.bytes 0x8 16
def MfgRec.stepping (m : MfgRec) : List Byte := bytesAt m.bytes 0x18 2
def MfgRec.grade (m : MfgRec) : Byte := BitVec.ofNat 8 (leAt m.bytes 0x1A 1)
def MfgRec.rows (m : MfgRec) : Byte := BitVec.ofNat 8 (leAt m.bytes 0x1B 1)
def MfgRec.disabled (m : MfgRec) : BitVec 64 := BitVec.ofNat 64 (leAt m.bytes 0x20 8)
def MfgRec.fabricId (m : MfgRec) : BitVec 64 := BitVec.ofNat 64 (leAt m.bytes 0x28 8)
def MfgRec.serial (m : MfgRec) : List Byte := bytesAt m.bytes 0x30 16
def MfgRec.trim (m : MfgRec) : List Byte := bytesAt m.bytes 0x40 1024
def MfgRec.helperHash (m : MfgRec) : List Byte := bytesAt m.bytes 0x440 32
def MfgRec.dikWrap (m : MfgRec) : List Byte := bytesAt m.bytes 0x460 1632
def MfgRec.akWrap (m : MfgRec) : List Byte := bytesAt m.bytes 0xAC0 1632
def MfgRec.certs (m : MfgRec) : List Byte := bytesAt m.bytes 0x1130 (leAt m.bytes 0x1120 4)
/-- R584: the record's LENGTH bytes: all before its signature, and the signature. -/
def MfgRec.signed (m : MfgRec) : List Byte := bytesAt m.bytes 0 (m.length - 384)
def MfgRec.signature (m : MfgRec) : List Byte := bytesAt m.bytes (m.length - 384) 384

/-! ## Enabled rows and the virtual grid (R2, R98, R524) -/

/-- R2, R584: the physical rows the manufacturing record enables. -/
def State.enabledRows (s : State) : List Nat :=
  match s.mgt.mfg with
  | none => []
  | some m => (List.range 8).filter (fun r => bitAt m.rows.toNat r)

/-- The physical row of each virtual row: as mapped, or every enabled row while no grid is mapped. -/
def State.rows (s : State) : List Nat := if s.mail.grid.isEmpty then s.enabledRows else s.mail.grid

/-- R97 to R99: the region is neither disabled nor bypassed. -/
def State.regionOn (s : State) (n : Nat) : Bool := s.rows.contains (n / 8) && decide (n < 64)

/-- The regions in use, in order of global lane index. -/
def State.regionsOn (s : State) : List Nat := s.rows.flatMap (fun r => (List.range 8).map (fun c => 8 * r + c))

/-- R524: the physical region of a virtual region; none where the grid has no such row. -/
def State.physOf (s : State) (vreg : Nat) : Option Nat := (s.rows[vreg / 8]?).map (fun r => 8 * r + vreg % 8)

/-- The virtual region of a physical region in use. -/
def State.virtOf (s : State) (n : Nat) : Option Nat := (s.rows.idxOf? (n / 8)).map (fun v => 8 * v + n % 8)

/-! ## Features (R517 to R519) and status codes (R516) -/

/-- R517, R519: the features the module supports: bits 0 to 13. -/
def supported : BitVec 128 := 0x3FFF

def featSpill : Nat := 0
def featDelef : Nat := 1
def featSpecTree : Nat := 2
def featAttention : Nat := 3
def featCxl : Nat := 4
def featSwap : Nat := 5
def featPerturb : Nat := 6
def featRehearsal : Nat := 7
def featTenants : Nat := 8
def featPickIn : Nat := 9
def featPickOut : Nat := 10
def featTrace : Nat := 11
def featCheck : Nat := 12
def featBridge : Nat := 13

/-- R518: features that govern D1 units. -/
def d1Features : List Nat := [0, 1, 9, 10, 13]

/-- The feature is in the locked set; the features of D1 units are those of the set last locked, since a D3 reset does not
reach D1. -/
def State.feature (s : State) (n : Nat) : Bool :=
  if d1Features.contains n then s.mail.d1Set.getLsbD n
  else
    match s.mail.locked with
    | none => false
    | some v => v.getLsbD n

def stOk : Nat := 0x00
def stBusy : Nat := 0x01
def stBadArg : Nat := 0x02
def stNoFeature : Nat := 0x03
def stFeatureConflict : Nat := 0x04
def stFenced : Nat := 0x05
def stKeyMismatch : Nat := 0x06
def stUnknownOutcome : Nat := 0x07
def stDeadline : Nat := 0x08
def stCancelled : Nat := 0x09
def stFault : Nat := 0x0A
def stExhausted : Nat := 0x0B
def stAuth : Nat := 0x0C
def stEpochStale : Nat := 0x0D
def stOverrun : Nat := 0x0E

/-! ## Fences -/

/-- R546: domain D`d` is fenced. -/
def State.fenced (s : State) (d : Nat) : Bool := bitAt (s.reg MGT_FENCE).toNat d

/-! ## Records and events -/

/-- The model's own record of what left the module. -/
def State.emit (s : State) (o : Output) : State := { s with outbox := s.outbox ++ [o] }

/-- R580: a log record awaits writing, or is dropped where the queue is full. -/
def State.logRec (s : State) (type source : Nat) (data : List Byte) : State :=
  if 16384 ≤ s.mgt.queue.length then { s with mgt := { s.mgt with dropped := s.mgt.dropped + 1 } }
  else
    { s with mgt := { s.mgt with
        queue := s.mgt.queue ++ [⟨type, source, s.uptime, s.pick.count, padTo 28 data, s.mgt.boots⟩] } }

/-- R615: capture is on for a source: the image has a TRACE section and the bit is set. -/
def State.tracing (s : State) (bit : Nat) : Bool :=
  s.flag SEQ_TRACE_CTRL.EN && bitAt (s.fld SEQ_TRACE_CTRL.SOURCES) bit
    && s.feature featTrace && (match s.mail.image with | some i => !i.trace.isEmpty | none => false)

/-- R614, R616: a trace record is queued, or dropped and counted where the queue is full. -/
def State.trace (s : State) (bit source : Nat) (data : List Byte) : State :=
  if s.tracing bit then
    if 4096 ≤ s.obs.trace.length then
      ({ s with obs := { s.obs with traceDropped := s.obs.traceDropped + 1 } }).count SEQ_TRACE_LOST.LOST
    else
      { s with obs := { s.obs with
          trace := s.obs.trace ++ [⟨bit + 1, source, s.pickCycle, s.pick.count, padTo 16 data⟩] } }
  else s

/-- R550, R579, R581: the events, by log type. -/
def evOverrun : Nat := 1
def evSlip : Nat := 2
def evHang : Nat := 3
def evRemoteWait : Nat := 4
def evSuspect : Nat := 5
def evRefLoss : Nat := 6
def evRetrain : Nat := 7
def evSpillHigh : Nat := 8

/-- R550: raise an event: its log record, its EVENT message to the fault manager, and its trace record. -/
def State.event (s : State) (type source : Nat) (data : List Byte) : State :=
  let t := s.logRec type source data
  let t := { t with mgt := { t.mgt with events := t.mgt.events ++ [(type, t.pick.count, padTo 20 data)] } }
  t.trace 1 0xFF (leBytes 2 type ++ padTo 14 data)

/-- The four bytes of a register, as the data of its log record (R581). -/
def State.regBytes (s : State) (r : Reg) : List Byte := leBytes 4 (s.reg r).toNat

/-- R573, R575, R603: MGT_THERM as it reads, the data of the log records of heat. -/
def State.thermBytes (s : State) : List Byte :=
  leBytes 4 (bitsPut (bitsPut (s.reg MGT_THERM).toNat 2 1 (bnat (s.mgt.stackCap < 140))) 1 1 (bnat s.power.trip))

/-- R572: the management core runs: it has booted, and no restart by its watchdog keeps it down. -/
def State.mgtUp (s : State) : Bool := s.mgt.up && decide (s.mgt.downUntil ≤ s.now)

/-! ## The sequencer's state (R153) -/

def seqStateNo : SeqState → Nat
  | .idle => 0
  | .issuing => 1
  | .waiting => 2
  | .broken => 3
  | .stoppedFault => 4
  | .stoppedSlip => 5
  | .stoppedFence => 6

/-- R145: a stop that only a D3 reset leaves. -/
def SeqState.lasting : SeqState → Bool
  | .stoppedFault | .stoppedSlip | .stoppedFence => true
  | .idle | .issuing | .waiting | .broken => false

/-- A program is running: SEQ_STATUS.STATE is not 0. -/
def State.programOn (s : State) : Bool := s.seq.state != .idle

/-- R107: words executed by every enabled region since the last D3 reset. -/
def State.executed (s : State) : Nat :=
  match s.regionsOn.map (fun n => (s.region n).cycle) with
  | [] => 0
  | c :: r => r.foldl min c

/-- R150: SEQ_RETIRED. -/
def State.retired (s : State) : Nat := s.executed - s.seq.base

/-- R145, R542: the sequencer stops for a lasting cause, unless it is idle or already stopped for one. -/
def State.stopSeq (s : State) (why : SeqState) : State :=
  match s.seq.state with
  | .issuing | .waiting | .broken => { s with seq := { s.seq with state := why, open_ := false } }
  | _ => s

/-- R69, R547: SLIP is raised once, at the boundary at which the module enters SLIPPED, and not from a D3 reset until a
committed start pick has begun. -/
def State.slip (s : State) : State :=
  if s.pickState = pickSlipped || s.pick.quiet then s
  else
    let t := (s.put PCK_STATUS.STATE pickSlipped).raise PCK_EVENT.SLIP
    (t.event evSlip 0xFFFF (t.regBytes PCK_STATUS)).stopSeq .stoppedSlip

/-! ## Membership (R527, R533, R568) -/

/-- Role by PCK_ROLE: 1 member, 2 origin. -/
def State.isMember (s : State) : Bool := s.fld PCK_ROLE.ROLE == 1
def State.isOrigin (s : State) : Bool := s.fld PCK_ROLE.ROLE == 2

/-- R415, R568: the key of the partition the module belongs to. -/
def State.memberKey (s : State) : Option Nat := s.part.joined.map (fun j => j.key)

/-- R422: the device ID with which the module sends. -/
def State.deviceId (s : State) : Nat :=
  if s.flag RTE_ALIAS.EN then s.fld RTE_ALIAS.LOGICAL else s.fld RTE_SELF.PHYSICAL

/-! ## The meter's taps (R594) -/

/-- R594: a key's counts of the running interval grow; without METER_TENANT_COUNTS they fall under the pseudo-key. -/
def State.meter (s : State) (key tiles bme cells : Nat) : State :=
  if !s.smu.run || tiles + bme + cells == 0 then s
  else
    let k := if s.feature featTenants then key else 0x1000
    let here (c : KeyCount) : Bool := c.key == k && !c.closed
    let add (c : KeyCount) : KeyCount := { c with tiles := c.tiles + tiles, bme := c.bme + bme, cells := c.cells + cells }
    let l := if s.smu.keys.any here then s.smu.keys.map (fun c => if here c then add c else c)
      else s.smu.keys ++ [({ key := k, closed := false, tiles := tiles, bme := bme, cells := cells } : KeyCount)]
    { s with smu := { s.smu with keys := l } }

/-- R594: counts under the module's member key. -/
def State.meterOwn (s : State) (tiles bme : Nat) : State := s.meter (s.memberKey.getD 0x1000) tiles bme 0

/-! ## Perturbation slots (R619, R620) -/

def ptbStretch : Nat := 1
def ptbFstep : Nat := 2
def ptbXhold : Nat := 3
def ptbTagwait : Nat := 4
def ptbCelldly : Nat := 5
def ptbReplay : Nat := 6

/-- R619: the slot of a kind that acts on a target: the lowest-numbered active one. -/
def State.actingSlot (s : State) (kind target : Nat) : Option Nat :=
  (List.range 16).find? (fun n => s.flag (PTB_SLOT_CTRL.ACTIVE n) && s.fld (PTB_SLOT_CTRL.KIND n) == kind
    && s.fld (PTB_SLOT_CTRL.TARGET n) == target)

def State.slotSub (s : State) (n : Nat) : Nat := s.fld (PTB_SLOT_CTRL.SUB n)
def State.slotParam (s : State) (n lo len : Nat) : Nat := bitsAt (s.fld (PTB_SLOT_PARAM.PARAM n)) lo len

/-- R620: a count a slot keeps: 0 to 15 items counted, 16 on the cycles of a wait in progress. -/
def State.ptbCount (s : State) (k : Nat) : Nat := sget 0 s.obs.counts k
def State.setPtbCount (s : State) (k v : Nat) : State :=
  { s with obs := { s.obs with counts := sset 0 s.obs.counts k v } }

/-- R620: an XHOLD slot holds a region's outgoing crossing of a class, and for vector exchange of a direction. -/
def State.crossHeld (s : State) (n cls dir : Nat) : Bool :=
  match s.actingSlot ptbXhold n with
  | none => false
  | some k =>
    let c := s.now - s.pick.windowAt - s.pickWin
    let lo := s.slotParam k 16 16
    bitsAt (s.slotSub k) 0 2 == cls && (cls != 2 || bitsAt (s.slotSub k) 2 2 == dir) && decide (lo ≤ c)
      && decide (c < lo + s.slotParam k 0 16)

/-! ## Free values -/

/-- Take a free byte. -/
def State.freeByte (s : State) : Byte × State := (Config.freeByte s.freeCtr, { s with freeCtr := s.freeCtr + 1 })

/-- Take a free choice below `n`. -/
def State.freeNat (s : State) (n : Nat) : Nat × State :=
  (Config.freeNat s.freeCtr % n, { s with freeCtr := s.freeCtr + 1 })

/-- R318: transfers held: launched and not completed, but for dropped launches, which the shuttle never holds. -/
def ShuttleSt.held (x : ShuttleSt) : Nat := (x.transfers.filter (fun t => !t.dropped && t.resolved != t.total)).length

end Sys2Proof.Machine
end

