-- ==== Sys2Proof/Machine/Operands.lean ====
section
/-! DEFINITION. Operand forms: the slots of instruction words (R101, R113, R121, R123 to R135), index-tensor descriptors
(R138 to R141), tag and masked ranges (R231, R447), remote addresses (R238), and the fields of cells (R392, R393). -/
namespace Sys2Proof.Machine

/-! ## The S slot (R113) -/

structure SSlot where
  op  : Nat
  rd  : Nat
  ra  : Nat
  rb  : Nat
  imm : Int
  low : Nat
  deriving DecidableEq, Repr

/-- R form, I form and B form share their upper fields; `imm` is the signed 14-bit field, `low` bits [7:0]. -/
def sSlot (w : BitVec 32) : SSlot :=
  let n := w.toNat
  ⟨bitsAt n 26 6, bitsAt n 20 6, bitsAt n 14 6, bitsAt n 8 6, sext n 14, bitsAt n 0 8⟩

/-! ## The V slot (R121) -/

structure VSlot where
  op     : Nat
  fmt    : Nat
  dst    : Nat
  a      : Nat
  b      : Nat
  c      : Nat
  pred   : Nat
  acc    : Bool
  accRow : Nat
  half   : Nat
  rsvd   : Nat
  imm    : Nat
  deriving DecidableEq, Repr

def vSlot (w : BitVec 64) : VSlot :=
  let n := w.toNat
  ⟨bitsAt n 56 8, bitsAt n 52 4, bitsAt n 47 5, bitsAt n 42 5, bitsAt n 37 5, bitsAt n 32 5, bitsAt n 29 3, bitAt n 28,
    bitsAt n 16 12, bitsAt n 15 1, bitsAt n 8 7, bitsAt n 0 8⟩

/-! ## The M slot (R123) -/

structure MSlot where
  op     : Nat
  wfmt   : Nat
  afmt   : Nat
  base   : Nat
  line   : Nat
  accRow : Nat
  count  : Nat
  accum  : Bool
  rsvd   : Bool
  deriving DecidableEq, Repr

def mSlot (w : BitVec 64) : MSlot :=
  let n := w.toNat
  ⟨bitsAt n 58 6, bitsAt n 54 4, bitsAt n 50 4, bitsAt n 44 6, bitsAt n 25 19, bitsAt n 13 12, bitsAt n 2 11, bitAt n 1,
    bitAt n 0⟩

/-! ## The LD and ST slots (R124, R125, R130, R132) -/

structure LsSlot where
  cls     : Nat
  op      : Nat
  -- LANE
  lreg    : Nat
  base    : Nat
  off     : Nat
  pred    : Nat
  rowmask : Bool
  laneRsvd : Nat
  -- SHUTTLE
  vreg    : Nat
  port    : Nat
  srcDesc : Nat
  dstDesc : Nat
  shBase  : Nat
  shRsvd  : Bool
  -- BME
  stack   : Nat
  pch     : Nat
  start   : Nat
  cmdLine : Nat
  bmeRsvd : Nat
  deriving DecidableEq, Repr

def lsSlot (w : BitVec 64) : LsSlot :=
  let n := w.toNat
  { cls := bitsAt n 62 2, op := bitsAt n 56 6
    lreg := bitsAt n 51 5, base := bitsAt n 45 6, off := bitsAt n 28 17, pred := bitsAt n 25 3
    rowmask := bitAt n 24, laneRsvd := bitsAt n 0 24
    vreg := bitsAt n 50 6, port := bitsAt n 45 5, srcDesc := bitsAt n 26 19, dstDesc := bitsAt n 7 19
    shBase := bitsAt n 1 6, shRsvd := bitAt n 0
    stack := bitsAt n 46 4, pch := bitsAt n 41 5, start := bitsAt n 25 16, cmdLine := bitsAt n 6 19
    bmeRsvd := bitsAt n 0 6 }

/-! ## The Y slot (R135) -/

structure YField where
  op   : Nat
  obj  : Nat
  xreg : Nat
  imm  : Nat
  deriving DecidableEq, Repr

def yField (w : BitVec 32) : YField :=
  let n := w.toNat
  ⟨bitsAt n 26 6, bitsAt n 14 12, bitsAt n 8 6, bitsAt n 0 8⟩

/-- R136: operations the sequencer carries out at issue. -/
def yIssueSide (op : Nat) : Bool := [0x11, 0x12, 0x15, 0x17, 0x18].contains op

/-- R136: issue-side operations that wait. -/
def yWaits (op : Nat) : Bool := [0x11, 0x12, 0x15, 0x17].contains op

/-- R136: retire-side operations. -/
def yRetireSide (op : Nat) : Bool :=
  [0x01, 0x02, 0x10, 0x13, 0x14, 0x16, 0x30, 0x33, 0x34, 0x36].contains op

def yRemote (op : Nat) : Bool := [0x30, 0x33, 0x34, 0x36].contains op

/-- R136: operations that read X[XREG]. -/
def yReadsX (op : Nat) : Bool := [0x10, 0x11, 0x15, 0x30].contains op

/-! ## Index-tensor descriptors (R138) -/

structure Desc where
  base      : Nat
  elemLines : Nat
  space     : Nat
  idxFmt    : Nat
  mayFault  : Bool
  modeRsvd  : Nat
  region    : Nat
  count0    : Nat
  count1    : Nat
  count2    : Nat
  stride0   : Int
  stride1   : Int
  stride2   : Int
  idxAddr   : Nat
  idxAddrHi : Nat
  idxCount  : Nat
  idxLimit  : Nat
  idxStride : Nat
  deriving DecidableEq, Repr

def descOf (b : List Byte) : Desc :=
  let mode := leAt b 0x0A 1
  { base := leAt b 0 8, elemLines := leAt b 8 2, space := bitsAt mode 0 2, idxFmt := bitsAt mode 2 2
    mayFault := bitAt mode 4, modeRsvd := bitsAt mode 5 3, region := leAt b 0x0B 1
    count0 := leAt b 0x0C 4, count1 := leAt b 0x10 4, count2 := leAt b 0x14 4
    stride0 := sext (leAt b 0x18 8) 64, stride1 := sext (leAt b 0x20 8) 64, stride2 := sext (leAt b 0x28 8) 64
    idxAddr := bitsAt (leAt b 0x30 4) 0 25, idxAddrHi := bitsAt (leAt b 0x30 4) 25 7, idxCount := leAt b 0x34 4
    idxLimit := leAt b 0x38 4, idxStride := leAt b 0x3C 4 }

/-- R139: index entries used. -/
def Desc.entries (d : Desc) : Nat := if d.idxFmt = 0 then 1 else d.idxCount

/-- R139: elements of one index entry. -/
def Desc.perEntry (d : Desc) : Nat := d.count0 * d.count1 * d.count2

/-- R139, R140: lines generated. -/
def Desc.total (d : Desc) : Nat := d.entries * d.perEntry * d.elemLines

/-- R138: reserved bits of BASE by SPACE are zero, and BASE and strides are multiples of 64 outside SPACE 3 (R140). -/
def Desc.baseOk (d : Desc) : Bool :=
  match d.space with
  | 0 => d.base < 2 ^ 52 && d.base % 64 == 0
  | 1 => d.base < 2 ^ 25 && d.base % 64 == 0
  | 2 => d.base % 64 == 0
  | _ => d.base < 2 ^ 12

/-- R140: one descriptor's own conditions. An IDX_COUNT of 0 with an index format is taken as a zero count (DEDUCED,
notes/assumptions/24.md). -/
def Desc.ok (d : Desc) : Bool :=
  d.baseOk && (d.space == 3 || (d.stride0 % 64 == 0 && d.stride1 % 64 == 0 && d.stride2 % 64 == 0))
    && d.elemLines != 0 && d.count0 != 0 && d.count1 != 0 && d.count2 != 0 && d.entries != 0
    && d.modeRsvd == 0 && d.idxFmt != 3 && d.idxAddrHi == 0 && (d.space == 1 || d.region == 0)

/-- R139: a line by its ordinal: index entry, ordinal of its element, and the address for an index value. -/
def Desc.entryOf (d : Desc) (n : Nat) : Nat := n / (d.perEntry * d.elemLines)
def Desc.elementOf (d : Desc) (n : Nat) : Nat := n / d.elemLines
def Desc.offsetOf (d : Desc) (n : Nat) : Int :=
  let k := n % d.elemLines
  let e := n / d.elemLines
  let c0 := e % d.count0
  let c1 := e / d.count0 % d.count1
  let c2 := e / d.count0 / d.count1 % d.count2
  d.stride2 * c2 + d.stride1 * c1 + d.stride0 * c0 + 64 * k

/-- R138: offset or address part of BASE. -/
def Desc.origin (d : Desc) : Nat := if d.space = 2 then d.base % 2 ^ 40 else d.base

/-- R139: the address of line `n` for index value `v`; SPACE 2 addresses are offsets in the window. -/
def Desc.addr (d : Desc) (n v : Nat) : Int := (d.origin : Int) + ((v * d.idxStride * 64 : Nat) : Int) + d.offsetOf n

/-- R655: the address lies in the descriptor's space. -/
def Desc.inSpace (d : Desc) (a : Int) : Bool :=
  match d.space with
  | 0 => decide (0 ≤ a) && decide (a < 4503599627370496)
  | 1 => decide (0 ≤ a) && decide (a < 33554432)
  | 2 => decide (0 ≤ a) && decide (a < 1099511627776)
  | _ => true

/-- R138, R143: byte address of index entry `i` in the launching region's slice, its width in bytes and its null. An index
tensor that runs past the end of the slice goes on at address 0 (DESIGN CHOICE, notes/assumptions/24.md). -/
def Desc.idxWidth (d : Desc) : Nat := if d.idxFmt = 1 then 2 else 4
def Desc.idxByte (d : Desc) (i : Nat) : Nat := (d.idxAddr + i * d.idxWidth) % 2 ^ 25
def Desc.idxNull (d : Desc) : Nat := 2 ^ (8 * d.idxWidth) - 1

/-- R138: window ID and device ID of a SPACE 2 descriptor. -/
def Desc.windowId (d : Desc) : Nat := bitsAt d.base 40 8
def Desc.deviceId (d : Desc) : Nat := bitsAt d.base 48 16

/-! ## Scratchpad addresses (R220, R221) -/

/-- R221: the bank of a line address. -/
def bankOf (line : Nat) : Nat := bitsAt line 0 6 ^^^ bitsAt line 6 6

/-- R231: the line is tagged: it lies in an enabled tag range of its region. -/
def State.tagged (s : State) (rgn line : Nat) : Bool :=
  (List.range 8).any (fun k =>
    let u := line / 4
    let base := s.fld (RGN_TAG_BASE.BASE rgn k)
    s.flag (RGN_TAG_LEN.EN rgn k) && decide (base ≤ u) && decide (u < base + s.fld (RGN_TAG_LEN.LEN rgn k)))

/-- R447, R465: the step-table row a ROWMASK store to a 256-byte unit belongs to, by the first masked range that contains
the unit; none in no range, or where the row is beyond 4,095. -/
def State.maskedRow (s : State) (rgn unit : Nat) : Option Nat :=
  let hit := (List.range 8).find? (fun k =>
    let base := s.fld (CTX_MRNG_BASE.BASE rgn k)
    let len := s.fld (CTX_MRNG_SHAPE.ROWS rgn k) * s.fld (CTX_MRNG_SHAPE.UNITS rgn k)
    s.flag (CTX_MRNG_BASE.EN rgn k) && decide (base ≤ unit) && decide (unit < base + len))
  match hit with
  | none => none
  | some k =>
    let row := s.fld (CTX_MRNG_BASE.ROW0 rgn k)
      + (unit - s.fld (CTX_MRNG_BASE.BASE rgn k)) / s.fld (CTX_MRNG_SHAPE.UNITS rgn k)
    if row < 4096 then some row else none

/-! ## Cells (R352, R353, R392, R393) -/

end Sys2Proof.Machine

namespace Sys2Proof
open Sys2Proof.Machine

/-- Header byte 0: kind and NOSEQ. -/
def Cell.kind (c : Cell) : Nat := bitsAt c.header.toNat 0 3
def Cell.noseq (c : Cell) : Bool := bitAt c.header.toNat 3

/-- The first 72 bytes of a cell. -/
def Cell.bytes (c : Cell) : List Byte := leBytes 8 c.header.toNat ++ padTo 64 c.payload

end Sys2Proof

namespace Sys2Proof.Machine

/-- A cell from its 80 bytes. -/
def cellOf (b : List Byte) : Cell := ⟨BitVec.ofNat 64 (leAt b 0 8), bytesAt b 8 64⟩

end Sys2Proof.Machine
end

