-- ==== Sys2Proof/Machine/MemOps.lean ====
section
/-! DEFINITION. The stores and the accesses to them: scratchpad lines with their codes and tags (R220 to R237, R248), HBM
lines (R253 to R265), the CXL ports (R268 to R271), and translation (R273 to R287). -/
namespace Sys2Proof.Machine

/-! ## Scratchpad lines -/

/-- Bytes that a dropped or uncorrectable read delivers (R224, R248). -/
def allOnes (n : Nat) : List Byte := List.replicate n 0xFF

def RegionSt.bytes (r : RegionSt) (a n : Nat) : List Byte := sread 0 r.mem a n
def RegionSt.line (r : RegionSt) (line : Nat) : List Byte := sread 0 r.mem (64 * line) 64
def RegionSt.put (r : RegionSt) (a : Nat) (b : List Byte) : RegionSt := { r with mem := swrite 0 r.mem a b }

/-- R222, R248: write bytes of a line; a whole line replaces its code. -/
def RegionSt.putLine (r : RegionSt) (line off : Nat) (b : List Byte) : RegionSt :=
  let r := r.put (64 * line + off) b
  if b.length = 64 then { r with badLines := r.badLines.filter (fun l => l != line) } else r

/-- The store an error is logged for (R581): 0 scratchpad, 1 HBM, 2 the instruction store. -/
def eccData (addr store : Nat) : List Byte := leBytes 8 addr ++ leBytes 1 store
def logEcc : Nat := 0x10

/-- R248: a read of a line whose error cannot be corrected is reported and logged. -/
def State.spadError (s : State) (rgn line : Nat) : State :=
  let t := if s.flag (RGN_SPAD_ECC.UNCORR rgn) then s else s.put (RGN_SPAD_ECC_LINE.LINE rgn) line
  (t.raise (RGN_SPAD_ECC.UNCORR rgn)).logRec logEcc rgn (eccData (64 * line) 0)

/-- R248: a line is read with what its code finds; whether the read is uncorrectable. -/
def State.spadCheck (s : State) (rgn line : Nat) (e : Ecc) : Bool × State :=
  let r := s.region rgn
  let bad := r.badLines.contains line || e == .uncorrectable
  if bad then
    let t := if r.badLines.contains line then s else s.setRegion rgn { r with badLines := line :: r.badLines }
    (true, t.spadError rgn line)
  else if e = .corrected then (false, s.count (RGN_SPAD_ECC.CORRECTED rgn))
  else (false, s)

/-! ## Tags (R233 to R237) -/

def tagEmpty : Nat := 0
def tagFull : Nat := 1
def tagFaulted : Nat := 2

def RegionSt.tag (r : RegionSt) (line : Nat) : Nat := sget tagEmpty r.tags line
def RegionSt.setTag (r : RegionSt) (line v : Nat) : RegionSt := { r with tags := sset tagEmpty r.tags line v }

/-- R237: the line is held by a store of the region that has not reached its transition. -/
def RegionSt.heldLine (r : RegionSt) (line : Nat) : Bool := r.held.any (fun h => h.1 == line)

/-- R237: a consuming load of the region has tested the line and has not yet read it, which holds it to unscheduled
accesses. -/
def RegionSt.consuming (r : RegionSt) (line : Nat) : Bool :=
  r.accesses.any (fun a => match a.use with
    | .ldRead _ addr _ tagged consume =>
      tagged && consume && decide (addr / 64 ≤ line) && decide (line < addr / 64 + 4)
    | _ => false)

/-- R234: an unscheduled access to a line waits. -/
def State.unschedWaits (s : State) (rgn line : Nat) (kind : UnschedKind) (testsTag : Bool) : Bool :=
  if testsTag && s.tagged rgn line then
    let r := s.region rgn
    r.heldLine line || r.consuming line ||
      (match kind with
        | .read => r.tag line == tagEmpty
        | .write _ | .mark => r.tag line == tagFull
        | .part _ _ => false)
  else false

/-! ## Free ports (R222 to R229) -/

/-- Cycle of a region's own port use after its start, by its kind, for a set of banks; `none` stands for every bank. -/
def PortUse.claims (u : PortUse) (d : Nat) : List (Option Nat × Bool) :=
  let four (a : Nat) (w : Bool) : List (Option Nat × Bool) :=
    (List.range 4).map (fun i => (some (bankOf ((a / 64 + i) % 524288)), w))
  match u with
  | .ldRead _ a _ _ _ => if d = 1 then four a false else []
  | .stWrite a _ k => if d = k then four a true else []
  | .gather _ _ => if 1 ≤ d && decide (d ≤ 16) then [(none, false)] else []
  | .scatter _ => if 2 ≤ d && decide (d ≤ 17) then [(none, true)] else []
  | .scatterAdd _ _ =>
    (if 1 ≤ d && decide (d ≤ 16) then [(none, false)] else []) ++ (if 3 ≤ d && decide (d ≤ 18) then [(none, true)] else [])
  | .addWrite _ => []
  | .cmdRead _ l _ _ _ => if d = 1 then [(some (bankOf l), false)] else []
  | .descRead _ s t _ _ _ => if d = 1 then [(some (bankOf s), false), (some (bankOf t), false)] else []

/-! ## Elastic crossings (R92, R93) -/

/-- R91: the crossings, by what their entries are: the last number is the scan carry of the die, below it the one of a row
(0) and the exchanges by direction (1 to 4). -/
def xPartial : Nat := 0
def xActivation : Nat := 1
def xQueue : Nat := 2
def xResult : Nat := 3
def xSent (kind : Nat) : Nat := 4 + kind

/-- R92: an entry can be read at a clock edge of its reader: the fourth after its write, or later. -/
def RegionSt.ripe (r : RegionSt) (k : Nat × Nat × Nat) (edge : Nat) : Bool :=
  match r.arrivals.find? (fun e => e.1 == k) with
  | some e => decide (e.2 + 4 ≤ edge)
  | none => true

/-- R92: an entry is written for this region, or read by it. -/
def RegionSt.arrive (r : RegionSt) (k : Nat × Nat × Nat) : RegionSt := { r with arrivals := r.arrivals ++ [(k, r.edges)] }
def RegionSt.took (r : RegionSt) (k : Nat × Nat × Nat) : RegionSt := { r with arrivals := r.arrivals.filter (fun e => e.1 != k) }

/-- R92: a slot of a crossing that this region writes is freed, and can be written from the fourth edge after that. -/
def RegionSt.freeSlot (r : RegionSt) (x : Nat) : RegionSt :=
  { r with freedAt := (x, r.edges) :: r.freedAt.filter (fun e => decide (r.edges < e.2 + 4)) }
def RegionSt.notYet (r : RegionSt) (x : Nat) : Nat :=
  (r.freedAt.filter (fun e => e.1 == x && decide (r.edges < e.2 + 4))).length

/-- R230: a region cycle in which an unscheduled access finds its port claimed is counted once. -/
def State.countDelay (s : State) (n : Nat) : State :=
  let r := s.region n
  if r.delayAt = some r.cycle then s
  else (s.setRegion n { r with delayAt := some r.cycle }).count (RGN_SPAD_WAIT.UNSCHED_DELAY n)

/-- R234, R241: an unscheduled access tests tags: every write and mark, and the reads of shuttles. -/
def Unsched.testsTag (u : Unsched) : Bool :=
  match u.kind, u.who with
  | .read, .shuttleRead _ _ _ => true
  | .read, _ => false
  | _, _ => true

/-- R42: an access of the control firmware holds a port of a bank. -/
def State.portBusy (s : State) (n bank : Nat) (write : Bool) : Bool :=
  decide (s.now < sget 0 (s.region n).fwPorts (2 * bank + bnat write))

/-- R81, R92: a clock edge of a region: its generator runs. -/
def State.edge (s : State) (n : Nat) : State :=
  let r := s.region n
  if s.regionOn n && r.clk.stepEnd.isNone then s.setRegion n { r with edges := r.edges + 1 } else s

/-- R41, R81, R107, R144: a region may execute the word at the head of its queue, at a clock edge. -/
def State.canRun (s : State) (n : Nat) (q : QWord) (edge : Nat) : Bool :=
  s.regionOn n && (s.region n).ripe (xQueue, 0, q.num) edge && !s.pick.inWindow && (s.region n).clk.stepEnd.isNone && s.seq.state != .stoppedFence
    && (match s.seq.execLimit with | none => true | some w => decide (q.num ≤ w))

/-- R229: a region is about to execute a word. -/
def State.runsNext (s : State) (n : Nat) : Bool :=
  let r := s.region n
  !r.waiting && (match r.queue with | q :: _ => s.canRun n q (r.edges + 1) | [] => false)

/-- R134: the descriptors or the command of the word's LD slot, in another region, have not been read yet. -/
def State.ldComes (s : State) (ahead : Option Nat) (word : Nat) : Bool :=
  match ahead with
  | none => false
  | some m => decide ((s.region m).cycle ≤ word)

/-- R246: the requester of an access that the on-chip network carries in order: a shuttle, or the remote module that sent a
window request. Other accesses are of requesters whose accesses the spec orders nowhere. -/
def State.networkOrder (s : State) (u : Unsched) : Option (Nat × Nat) :=
  if u.own then none
  else match u.who with
    | .shuttleRead k _ _ | .shuttleWrite k _ _ => some (0, k)
    | .window _ t _ => (s.inbound.find? (fun b => b.token == t)).map (fun b => (1, b.src))
    | .bme _ _ _ | .firmware | .context | .trace | .spill _ _ _ => none

/-- R296: a source read of an OPND that is paused. -/
def State.unschedPaused (s : State) (u : Unsched) : Bool :=
  match u.who with
  | .bme k serial _ => (s.stack k).running.any (fun r => r.serial == serial && r.paused.isSome && u.kind == .read)
  | _ => false

/-- R246: the accesses to a slice whose turn it is: on the network, the oldest of each requester. -/
def State.unschedTurn (s : State) (rgn : Nat) : List Unsched :=
  ((s.unsched.filter (fun u => u.region == rgn)).foldl (fun (p : List (Nat × Nat) × List Unsched) u =>
    match s.networkOrder u with
    | none => (p.1, p.2 ++ [u])
    | some k => if p.1.contains k then p else (p.1 ++ [k], p.2 ++ [u])) ([], [])).2.filter (fun u => !s.unschedPaused u)

/-- R42, R228: which unscheduled access takes a bank's port, where the control firmware does not hold it: those that do not wait, the region's own shuttle and the network
alternating, each oldest first. -/
def State.pickUnsched (s : State) (rgn bank : Nat) (write : Bool) (testsTag : Unsched → Bool) : Option Unsched :=
  let kindOk (u : Unsched) : Bool := match u.kind with
    | .read => !write
    | _ => write
  let l := (s.unschedTurn rgn).filter (fun u => bankOf u.line == bank && kindOk u
    && !s.unschedWaits rgn u.line u.kind (testsTag u) && (u.kind == .mark || !s.portBusy rgn bank write))
  let own := l.find? (fun u => u.own)
  let net := l.find? (fun u => !u.own)
  match own, net with
  | some a, some b => if sget 0 (s.region rgn).alternate (2 * bank + bnat write) = 1 then some a else some b
  | some a, none => some a
  | none, b => b

/-! ## HBM (R253 to R265) -/

/-- R255: the packed form, and its parts. -/
def packHbm (stack pch offset : Nat) : Nat := stack * 2 ^ 36 + pch * 2 ^ 31 + offset
def hbmStack (a : Nat) : Nat := a / 2 ^ 36 % 16
def hbmPch (a : Nat) : Nat := a / 2 ^ 31 % 32
def hbmOffset (a : Nat) : Nat := a % 2 ^ 31

/-- R256: first offset of the service region. -/
def serviceBase : Nat := 0x5F800000

/-- R255: the bytes exist. -/
def hbmExists (a n : Nat) : Bool := hbmOffset a + n ≤ 0x60000000

def State.hbmBytes (s : State) (a n : Nat) : List Byte := sread 0 s.hbm.mem a n

/-- R264: write bytes of HBM; a whole line clears its error. -/
def State.hbmWrite (s : State) (a : Nat) (b : List Byte) : State :=
  let whole (l : Nat) : Bool := decide (a ≤ l) && decide (l + 64 ≤ a + b.length)
  { s with hbm := { s.hbm with
    mem := swrite 0 s.hbm.mem a b, badLines := s.hbm.badLines.filter (fun l => !whole l) } }

/-- R263: a line is read with what its code finds: whether it is poisoned. -/
def State.hbmCheck (s : State) (a : Nat) (e : Ecc) : Bool × State :=
  let line := a / 64 * 64
  let k := hbmStack a
  let bad := s.hbm.badLines.contains line || e == .uncorrectable
  if bad then
    let t := if s.hbm.badLines.contains line then s
      else { s with hbm := { s.hbm with badLines := line :: s.hbm.badLines } }
    let t := if t.flag (BME_STACK_ECC.UNCORR k) then t
      else (t.put (BME_STACK_ECC_ADDR.PCH k) (hbmPch a)).put (BME_STACK_ECC_ADDR.LINE_HI k) (hbmOffset a / 1024)
    (true, (t.raise (BME_STACK_ECC.UNCORR k)).logRec logEcc k (eccData line 1))
  else if e = .corrected then (false, s.count (BME_STACK_ECC.CORRECTED k))
  else (false, s)

/-- Number of a pseudo-channel among all. -/
def pchNo (stack pch : Nat) : Nat := 32 * stack + pch
def pchOf (a : Nat) : Nat := pchNo (hbmStack a) (hbmPch a)

/-! ## Windows on a pseudo-channel (R43, R44) -/

/-- R44: cycles kept free for scrub at the window's end. -/
def State.scrubReserve (s : State) (n : Nat) : Nat := if (s.pch n).scrubbed then 0 else 24

/-- R43, R44: the cycle at which an activity of rank 4 or 5 can start on a pseudo-channel; none in this window. -/
def State.pchSlot (s : State) (n : Nat) : Option Nat :=
  let x := s.pch n
  let start := max s.now (max x.busyUntil (s.pick.windowAt + 16))
  if x.refreshes == some 0 && s.fitsWindow start 24 (s.scrubReserve n) then some start else none

/-! ## Pages (R274 to R278) -/

/-- R274, R330: what translation says of an access: a place, or a fault by its cause: 1 MIGRATING, 2 ABSENT, 4 access
fault. -/
inductive Place where
  | hbm (addr : Nat)
  | cxl (port offset : Nat)
  deriving DecidableEq, Repr

def Leaf.covers (l : Leaf) (va : Nat) : Bool := decide (l.va ≤ va) && decide (va < l.va + l.size)

/-- R257: where a byte of a page lies. -/
def Leaf.place (l : Leaf) (va : Nat) : Place :=
  let b := va - l.va
  if l.cxl then .cxl l.pch (l.frame * 65536 + b)
  else if l.stripe then
    let u := b / 2048
    .hbm (packHbm l.stack (u % 32) (l.frame * 2048 + u / 32 * 2048 + b % 2048))
  else .hbm (packHbm l.stack l.pch (l.frame * 2048 + b))

/-- R275, R276: what an entry of a level says. -/
inductive WalkStep where
  | table (addr : Nat)
  | leaf (l : Leaf)
  | moving
  | absent
  | unmapped
  | error
  deriving DecidableEq, Repr

/-- R275: size of the table an entry of a level points to. -/
def nextTableSize (level : Nat) : Nat := match level with | 0 => 8192 | 1 => 16384 | _ => 256

def hbmLeafOk (stripe : Bool) (size frame : Nat) : Bool :=
  let extent := size / 2048 / (if stripe then 32 else 1)
  let align := if stripe && size == 65536 then 1 else if !stripe && size == 2097152 then 1024 else 32
  frame % align == 0 && decide (frame + extent ≤ 782336)

/-- R275, R276: decode an entry at a level (3 for L3). -/
def State.walkEntry (s : State) (level va : Nat) (e : BitVec 64) : WalkStep :=
  let n := e.toNat
  let size := if level = 3 then 65536 else 2097152
  let base := va / size * size
  match bitsAt n 0 3 with
  | 0 => .unmapped
  | 1 =>
    let off := bitsAt n 17 23 * 256
    if 3 ≤ level || bitsAt n 3 5 != 0 || bitsAt n 40 24 != 0 || off % nextTableSize level != 0
      || decide (serviceBase < off + nextTableSize level) then .error
    else .table (packHbm (bitsAt n 8 4) (bitsAt n 12 5) off)
  | 2 =>
    let stripe := bitAt n 4
    if level < 2 || bitsAt n 5 3 != 0 || bitsAt n 37 27 != 0 || (stripe && bitsAt n 12 5 != 0)
      || !hbmLeafOk stripe size (bitsAt n 17 20) then .error
    else .leaf ⟨base, size, bitAt n 3, false, stripe, bitsAt n 8 4, bitsAt n 12 5, bitsAt n 17 20⟩
  | 3 =>
    let port := bitsAt n 8 3
    let frame := bitsAt n 12 25
    if level < 2 || bitsAt n 4 4 != 0 || bitAt n 11 || bitsAt n 37 27 != 0 || frame % (size / 65536) != 0
      || decide (s.fld (CXL_PORT_STATUS.CAPACITY port) * 32 < frame + size / 65536) then .error
    else .leaf ⟨base, size, bitAt n 3, true, false, 0, port, frame⟩
  | 4 => if level < 2 then .error else .moving
  | 5 => if level < 2 then .error else .absent
  | _ => .error

/-- R275: index of an address at a level. -/
def walkIndex (level va : Nat) : Nat :=
  match level with | 0 => bitsAt va 42 10 | 1 => bitsAt va 32 10 | 2 => bitsAt va 21 11 | _ => bitsAt va 16 5

/-- R284: packed address of the root table. -/
def State.rootTable (s : State) : Nat :=
  packHbm (s.fld MMU_ROOT.STACK) (s.fld MMU_ROOT.PCH) (s.fld MMU_ROOT.OFFSET * 8192)

/-- R275: packed address of the entry a walk reads. -/
def entryAddr (table level va : Nat) : Nat := table + 8 * walkIndex level va

def State.entryAt (s : State) (table level va : Nat) : BitVec 64 :=
  BitVec.ofNat 64 (leNat (s.hbmBytes (entryAddr table level va) 8))

/-- The tables' word on an address, with the entry's packed address, read whole: what the control firmware's own accesses
use. -/
def State.walkAll (s : State) (va : Nat) : Nat → Nat → Nat → WalkStep × Nat
  | 0, _, _ => (.error, 0)
  | fuel + 1, level, table =>
    let a := entryAddr table level va
    if s.hbm.badLines.contains (a / 64 * 64) then (.error, a)
    else
      match s.walkEntry level va (s.entryAt table level va) with
      | .table t => State.walkAll s va fuel (level + 1) t
      | w => (w, a)

def State.lookup (s : State) (va : Nat) : WalkStep :=
  if s.flag MMU_CTRL.EN && decide (va < 2 ^ 52) then (s.walkAll va 4 0 s.rootTable).1 else .unmapped

/-! ## Faults the MMU records (R287) -/

/-- R367, R384: an access of the spill unit. -/
def Requester.spills (w : Requester) : Bool := match w with | .spill _ _ _ => true | _ => false

/-- R287: requester code and physical region of an access. -/
def Requester.mmuCode : Requester → Nat × Nat
  | .shuttleRead k _ _ | .shuttleWrite k _ _ => (0, k % 64)
  | .window _ _ _ => (1, 0)
  | .context => (2, 0)
  | _ => (3, 0)

/-- R274: the requester's writes need W; those of the control firmware do not. -/
def Requester.testsW (w : Requester) : Bool := match w with | .firmware => false | _ => true

def State.recordFault (s : State) (who : Requester) (va : Nat) (write access : Bool) : State :=
  if s.flag MMU_FAULT_INFO.VALID then s
  else
    let t := s.put MMU_FAULT_VA_LO.VA_LO (va % 4294967296)
    let t := t.put MMU_FAULT_VA_HI.VA_HI (va / 4294967296 % 1048576)
    let t := t.put MMU_FAULT_INFO.REQ who.mmuCode.1
    let t := t.put MMU_FAULT_INFO.REGION who.mmuCode.2
    let t := t.put MMU_FAULT_INFO.WRITE (bnat write)
    let t := t.put MMU_FAULT_INFO.KIND (bnat access)
    t.raise MMU_FAULT_INFO.VALID

/-- Causes of R330. -/
def causeMigrating : Nat := 1
def causeAbsent : Nat := 2
def causeIndex : Nat := 3
def causeAccess : Nat := 4
def causePoison : Nat := 5
def causeCxlDown : Nat := 6
def causeTimeout : Nat := 7
def causeRefused : Nat := 8
def causeFaultedLine : Nat := 9
def causeUnknown : Nat := 10
def causeDescriptor : Nat := 11
def causeFenced : Nat := 12

/-! ## Unscheduled accesses to external memory (R260, R270, R277) -/

/-- A request joins its pseudo-channel's queue or its CXL port; the cause at once where the port is down. A port's kind that
is full holds the request back: the first 256 of its list are outstanding (R270). -/
def State.atPlace (s : State) (who : Requester) (va : Nat) (l : Leaf) (write : Option (List Byte)) : Option Nat × State :=
  let big := l.size == 2097152
  match l.place va with
  | .hbm a =>
    let x := s.pch (pchOf a)
    (none, s.setPch (pchOf a) { x with queue := x.queue ++
      [({ who := who, addr := a, write := write, page := some (va / 65536), stale := false, big := big } : MemReq)] })
  | .cxl port off =>
    if s.flag (CXL_PORT_STATUS.UP port) then
      let c := s.cxlPort port
      let r : MemReq := ⟨who, off, write, some (va / 65536), false, c.serial, big⟩
      let c := { c with serial := c.serial + 1 }
      let out (t : State) (l : List MemReq) : State :=
        if l.length < 256 then t.emit (.cxl port write.isSome off (write.getD [])) else t
      match write with
      | none => (none, out (s.setCxl port { c with reads := c.reads ++ [r] }) c.reads)
      | some _ => (none, out (s.setCxl port { c with writes := c.writes ++ [r] }) c.writes)
    else (some causeCxlDown, s)

/-- R277: fill the cache with a leaf; the oldest of 16,384 goes. -/
def State.fillCache (s : State) (l : Leaf) : State :=
  { s with mmu := { s.mmu with cache := l :: s.mmu.cache.take 16383 } }

/-! ## Accesses by the control firmware and the context control (R269, R273, R274) -/

/-- R277: what the MMU says of an address: its cache, and the tables where that has no leaf for it. -/
def State.translate (s : State) (va : Nat) : WalkStep :=
  if s.flag MMU_CTRL.EN && decide (va < 2 ^ 52) then
    match s.mmu.cache.find? (fun l => l.covers va) with
    | some l => .leaf l
    | none => s.lookup va
  else .unmapped

/-- R271: the port that holds a page's frame is up. -/
def State.leafUp (s : State) (l : Leaf) : Bool := !l.cxl || s.flag (CXL_PORT_STATUS.UP l.pch)

/-- R262, R270: the byte that the last of a list of accesses to write it gives an address. -/
def lastWrite (l : List MemReq) (a : Nat) : Option Byte :=
  (l.filterMap (fun r => match r.write with
    | some b => if r.addr ≤ a && decide (a < r.addr + b.length) then b[a - r.addr]? else none
    | none => none)).getLast?

/-- R262: the byte that an unscheduled write waiting at its pseudo-channel gives an address. -/
def State.queuedByte (s : State) (a : Nat) : Option Byte := lastWrite (s.pch (pchOf a)).queue a

/-- R262, R263: a byte of HBM as a read gives it: what an earlier write leaves there; all ones in a line with an
uncorrectable error. -/
def State.hbmByte (s : State) (a : Nat) : Byte :=
  (s.queuedByte a).getD (if s.hbm.badLines.contains (a / 64 * 64) then 0xFF else sget 0 s.hbm.mem a)

/-- R262: a write waiting at a pseudo-channel that an immediate one has overtaken gives its newer bytes. -/
def MemReq.renew (r : MemReq) (a : Nat) (b : List Byte) : MemReq :=
  match r.write with
  | some w => { r with write := some ((List.range w.length).map (fun i =>
      if a ≤ r.addr + i && decide (r.addr + i < a + b.length) then b.getD (r.addr + i - a) 0 else w.getD i 0)) }
  | none => r

/-- R42, R264: bytes of HBM that an activity of a background window writes: earlier writes to them that still wait leave them as
they are. -/
def State.hbmStore (s : State) (a : Nat) (b : List Byte) : State :=
  let x := s.pch (pchOf a)
  let hits (r : MemReq) : Bool := match r.write with
    | some w => decide (r.addr < a + b.length) && decide (a < r.addr + w.length)
    | none => false
  let s := if x.queue.any hits then
      s.setPch (pchOf a) { x with queue := x.queue.map (fun r => r.renew a b) }
    else s
  s.hbmWrite a b

/-- Key of a byte of a CXL device. -/
def cxlKey (port off : Nat) : Nat := port * 2 ^ 45 + off

/-- R269: a byte of a CXL device: the one last written, or else one that the module does not know. -/
def State.cxlHeld (s : State) (port off : Nat) : Byte :=
  (sget none s.hbm.cxlMem (cxlKey port off)).getD (Config.cxlByte (sget 0 s.hbm.cxlLife port) port off)

/-- R270: a byte of a CXL device as a read gives it: what an earlier write at its port leaves there. -/
def State.cxlByte (s : State) (port off : Nat) : Byte := (lastWrite (s.cxlPort port).writes off).getD (s.cxlHeld port off)

/-- R269: bytes that the module writes to a CXL device. -/
def State.cxlStore (s : State) (port off : Nat) (b : List Byte) : State :=
  { s with hbm := { s.hbm with cxlMem := swrite none s.hbm.cxlMem (cxlKey port off) (b.map some) } }

/-- R271: what a failed write leaves in the device is not known. -/
def State.cxlUnknown (s : State) (port off n : Nat) : State :=
  { s.cxlStore port off ((List.range n).map (fun i => Config.freeByte (s.freeCtr + i))) with freeCtr := s.freeCtr + n }

/-- R271: the device of a port has lost its memory. -/
def State.cxlLost (s : State) (port : Nat) : State :=
  { s with hbm := { s.hbm with
    cxlMem := sfilter s.hbm.cxlMem (fun k => k / 2 ^ 45 != port)
    cxlLife := smod 0 s.hbm.cxlLife port (· + 1) } }

/-- R438, R526: bytes from `va` up to an end lie within ranges, one after another; each round takes one range. -/
def coveredBy (l : List (Nat × Nat)) (stop : Nat) : Nat → Nat → Bool
  | 0, va => decide (stop ≤ va)
  | k + 1, va =>
    decide (stop ≤ va) || match l.find? (fun r => decide (r.1 ≤ va) && decide (va < r.1 + r.2)) with
      | some r => coveredBy l stop k (r.1 + r.2)
      | none => false

/-- A byte of a page. -/
def State.leafByte (s : State) (l : Leaf) (va : Nat) : Byte :=
  match l.place va with
  | .hbm a => s.hbmByte a
  | .cxl p off => s.cxlByte p off

/-- R277: the byte that a write gives an address which waits for a walk of its page. -/
def State.walkingByte (s : State) (va : Nat) : Option Byte :=
  (s.mmu.waiting.filterMap (fun w => match w.write with
    | some b => if w.va ≤ va && decide (va < w.va + b.length) then b[va - w.va]? else none
    | none => none)).getLast?

/-- R260, R262, R270, R277: a byte of a page as an access gives it that takes its place behind those that wait. -/
def State.vaByte (s : State) (l : Leaf) (va : Nat) : Byte := (s.walkingByte va).getD (s.leafByte l va)

/-- R271, R274: read bytes at a device virtual address; none where a page of the range is not resident, or its port is
down. -/
def State.vaRead (s : State) (va : Nat) : Nat → List Byte → Option (List Byte) × State
  | 0, acc => (some acc.reverse, s)
  | n + 1, acc =>
    match s.translate va with
    | .leaf l => if s.leafUp l then State.vaRead s (va + 1) n (s.vaByte l va :: acc) else (none, s)
    | _ => (none, s)

/-- The first address in each 64 KiB of a range. -/
def pagesIn (va n : Nat) : List Nat :=
  (List.range ((va + n + 65535) / 65536 - va / 65536)).map (fun i => max va ((va / 65536 + i) * 65536))

/-- R271, R274: the page at an address takes an access: it is resident, its port is up, and it is writable where `test` asks
for it. -/
def State.pageOk (s : State) (test : Bool) (va : Nat) : Bool :=
  match s.translate va with
  | .leaf l => s.leafUp l && (!test || l.w)
  | _ => false

/-- Every page of a range takes an access. -/
def State.vaOk (s : State) (va n : Nat) (test : Bool) : Bool := (pagesIn va n).all (s.pageOk test)

/-- R271, R274: the cause with which an access to an address faults. -/
def State.vaCause (s : State) (va : Nat) : Nat :=
  match s.translate va with
  | .moving => causeMigrating
  | .absent => causeAbsent
  | .leaf l => if s.leafUp l then causeAccess else causeCxlDown
  | _ => causeAccess

/-- The first address of a range at which an access faults. -/
def State.vaFirstBad (s : State) (va n : Nat) (test : Bool) : Nat := ((pagesIn va n).find? (fun a => !s.pageOk test a)).getD va

/-- Every page of a range is RES_HBM. -/
def State.resHbm (s : State) (va n : Nat) : Bool :=
  (pagesIn va n).all (fun a => match s.translate a with
    | .leaf l => !l.cxl
    | _ => false)

/-- R275: the level at which a walk for an address ends. -/
def State.walkLevel (s : State) (va : Nat) : Nat → Nat → Nat → Nat
  | 0, level, _ => level
  | fuel + 1, level, table =>
    match s.walkEntry level va (s.entryAt table level va) with
    | .table t => State.walkLevel s va fuel (level + 1) t
    | _ => level

/-- R277: the tables hold the page of an address, or say that it is not resident, at L2: 2 MiB. -/
def State.bigPage (s : State) (va : Nat) : Bool := s.walkLevel va 4 0 s.rootTable == 2

/-- R277: the page that holds an address, by its first 64 KiB: misses on one page, of either size, share a walk. -/
def State.pageKey (s : State) (va : Nat) : Nat := if s.bigPage va then va / 2097152 * 32 else va / 65536

/-- R277: queue walks for pages that wait without one, while the queue has room. -/
def State.fillWalks (s : State) : State :=
  s.mmu.waiting.foldl (fun t w =>
    if t.mmu.walks.any (fun k => k.page == w.page) || 256 ≤ t.mmu.walks.length then t
    else
      { t with mmu := { t.mmu with walks := t.mmu.walks ++
        [({ page := w.page, started := false, level := 0, table := 0, result := none, big := w.page != w.va / 65536 || t.bigPage w.va } : Walk)] } }) s

/-- R273 to R278: an access by device virtual address: queued, or its fault at once. A fenced D2 refuses it (R328). -/
def State.memAccess (s : State) (who : Requester) (va : Nat) (write : Option (List Byte)) : Option Nat × State :=
  if s.fenced 2 then (some causeFenced, s)
  else if !s.flag MMU_CTRL.EN || decide (2 ^ 52 ≤ va) then
    (some causeAccess, s.recordFault who va write.isSome true)
  else
    match s.mmu.cache.find? (fun l => l.covers va) with
    | some l =>
      if write.isSome && !l.w && who.testsW then (some causeAccess, s.recordFault who va true true)
      else s.atPlace who va l write
    | none =>
      (none, ({ s with mmu := { s.mmu with waiting := s.mmu.waiting ++ [({ page := s.pageKey va, who := who, va := va, write := write } : WalkWait)] } }).fillWalks)

/-- R263: the lines of a range that a read in a window finds with an uncorrectable error are reported and logged. -/
def State.noteLines (s : State) (va n : Nat) : State :=
  (List.range ((va + n + 63) / 64 - va / 64)).foldl (fun (t : State) i =>
    match t.translate (max va ((va / 64 + i) * 64)) with
    | .leaf l =>
      (match l.place (max va ((va / 64 + i) * 64)) with
        | .hbm a => if t.hbm.badLines.contains (a / 64 * 64) then (t.hbmCheck (a / 64 * 64) .good).2 else t
        | .cxl _ _ => t)
    | _ => t) s

/-- R411, R413: lines of 64 bytes that a range touches, from the line of its first byte. -/
def linesTouched (a n : Nat) : Nat := (a + n + 63) / 64 - a / 64

/-- The pieces of a range by line: index, address and bytes. -/
def linePieces (a : Nat) (b : List Byte) : List (Nat × Nat × List Byte) :=
  (List.range (linesTouched a b.length)).map (fun i =>
    let lo := max a ((a / 64 + i) * 64)
    let hi := min (a + b.length) ((a / 64 + i + 1) * 64)
    (i, lo, (b.drop (lo - a)).take (hi - lo)))

/-- R275, R278, R287: an access to a page that its leaf in the cache refuses, or whose leaf is not in the cache: the first fault
is kept, or the access waits for a walk. -/
def State.notePage (s : State) (who : Requester) (write test : Bool) (va : Nat) : State :=
  if s.mmu.cache.any (fun l => l.covers va) then
    if s.pageOk test va || s.vaCause va != causeAccess then s else s.recordFault who va write true
  else (s.memAccess who va (if write then some [] else none)).2

/-- R260, R270: the lines of a range are read as accesses that take their place among those of their pseudo-channels and ports,
after a walk where the MMU does not hold their page. -/
def State.noteReads (s : State) (who : Requester) (va n : Nat) : State :=
  (List.range (linesTouched va n)).foldl (fun (t : State) i => (t.memAccess who ((va / 64 + i) * 64) none).2) s

/-- R260, R263, R270, R273, R277: a range that the control firmware or the context control reads, or tests for a write. Outside a
background window each line read takes its place among the accesses of its pseudo-channel or port, after a walk where the MMU does
not hold its page; its requester has at once what the accesses before it leave there (DESIGN CHOICE, notes/assumptions/74.md). A
write of bytes takes its place when it is made; a page that refuses it is asked for here. -/
def State.noteAccess (s : State) (who : Requester) (va n : Nat) (write test : Bool) : State :=
  if !s.flag MMU_CTRL.EN then s.recordFault who va write true
  else if s.pick.inWindow then
    let s := (pagesIn va n).foldl (fun (t : State) a => t.notePage who write test a) s
    if write then s else s.noteLines va n
  else if write then (if s.vaOk va n test then s else s.notePage who true test (s.vaFirstBad va n test))
  else s.noteReads who va n

/-- R42, R264, R270: bytes of one line of a page are written in a background window: at once in HBM, and through the port's list
on CXL. -/
def State.linePut (s : State) (who : Requester) (l : Leaf) (va : Nat) (b : List Byte) : State :=
  match l.place va with
  | .hbm a => s.hbmStore a b
  | .cxl _ _ => (s.atPlace who va l (some b)).2

/-- R42, R260: write bytes to pages that are resident: in a background window as one of its activities, outside it as accesses
that take their place among the others. -/
def State.vaPut (s : State) (who : Requester) (va : Nat) (b : List Byte) : State :=
  (linePieces va b).foldl (fun (t : State) p =>
    if t.pick.inWindow then
      match t.translate p.2.1 with
      | .leaf l => t.linePut who l p.2.1 p.2.2
      | _ => t
    else (t.memAccess who p.2.1 (some p.2.2)).2) s

/-- R274: write at a device virtual address; nothing is written where a page of the range is not resident, or its port is
down. `test` asks for W, as the context control's writes do. -/
def State.vaStore (s : State) (va : Nat) (b : List Byte) (test : Bool) : State :=
  let who : Requester := if test then .context else .firmware
  let t := s.noteAccess who va b.length true test
  if s.vaOk va b.length test then t.vaPut who va b else t

/-- The same write, and whether every page of the range took it. -/
def State.vaWrite (s : State) (va : Nat) (b : List Byte) (test : Bool) : Bool × State :=
  (s.vaOk va b.length test, s.vaStore va b test)

/-- R260: an access of the context control to a line of HBM by its packed address takes its place at the pseudo-channel. -/
def State.hbmAccess (s : State) (who : Requester) (a : Nat) (write : Option (List Byte)) : State :=
  let x := s.pch (pchOf a)
  s.setPch (pchOf a) { x with queue := x.queue ++ [{ who := who, addr := a, write := write, page := none, stale := false }] }

/-- R280: the page, or every page, is invalidated. -/
def State.invalidate (s : State) (all : Bool) (va size : Nat) : State :=
  if s.flag MMU_STATUS.INV_BUSY then s.raise MMU_STATUS.INV_LOST
  else
    let hit (lo n : Nat) : Bool := all || (decide (lo < va + size) && decide (va < lo + n))
    let spans (p : Nat) (big : Bool) : Bool := if big then hit (p / 32 * 2097152) 2097152 else hit (p * 65536) 65536
    let through (r : MemReq) : MemReq :=
      match r.page with
      | some p => if spans p r.big then { r with stale := true } else r
      | none => r
    let isHit (w : Walk) : Bool := spans w.page w.big
    let again := (s.mmu.walks.filter isHit).map (fun w => { w with started := false, level := 0, table := 0, result := none })
    let t := { s with
      mmu := { s.mmu with
        cache := s.mmu.cache.filter (fun l => !hit l.va l.size)
        walks := s.mmu.walks.filter (fun w => !isHit w) ++ again }
      hbm := { s.hbm with pchs := smapAllTo {} s.hbm.pchs (fun x => { x with queue := x.queue.map through }) }
      cxl := smapAllTo {} s.cxl (fun c => { c with reads := c.reads.map through, writes := c.writes.map through }) }
    t.raise MMU_STATUS.INV_BUSY

/-- R45: the walks that may make their next read, in order: those begun before, then the oldest of the others while the
window's count allows. -/
def State.walkOrder (s : State) : List Walk :=
  s.mmu.walks.filter (fun w => w.started && w.result.isNone)
    ++ (if s.pick.walksStarted < 32 then s.mmu.walks.filter (fun w => !w.started) else [])

def Walk.va (w : Walk) : Nat := w.page * 65536

/-- R45: a walk's packed read address. -/
def State.walkRead (s : State) (w : Walk) : Nat := entryAddr (if w.started then w.table else s.rootTable) w.level w.va

/-- R42: a walk that may make its next read wants the pseudo-channel. -/
def State.walkWants (s : State) (n : Nat) : Bool := s.walkOrder.any (fun w => pchOf (s.walkRead w) == n)

/-- R42, R43, R44: a 64-byte access of the control firmware, of rank 5, takes its pseudo-channel for 24 cycles; none where it
cannot start in this window. -/
def State.holdLine (s : State) (a : Nat) : Option State :=
  if s.walkWants (pchOf a) then none
  else match s.pchSlot (pchOf a) with
    | none => none
    | some start => some ((s.at_ start).setPch (pchOf a) { s.pch (pchOf a) with busyUntil := start + 24 })

/-- The same for each of several lines. -/
def State.holdLines (s : State) (l : List Nat) : Option State := l.foldl (fun o a => o.bind (fun t => t.holdLine a)) (some s)

/-- R42, R81: a 64-byte access of the control firmware, of rank 5, takes a write port of a bank for 24 cycles; none where it
cannot start in this window, or the region is stopped for a frequency step. -/
def State.holdPort (s : State) (n line : Nat) : Option State :=
  let k := 2 * bankOf line + 1
  let r := s.region n
  let start := max (max s.now (s.pick.windowAt + 16)) (sget 0 r.fwPorts k)
  if r.clk.stepEnd.isSome || !s.fitsWindow start 24 0 then none
  else some (s.setRegion n { r with fwPorts := sset 0 r.fwPorts k (start + 24) })

/-- R42: one access of an action: what is left of it, and the state after it. -/
def State.touch (s : State) (x : FwTouch) : Option FwTouch × State :=
  match x with
  | .line a => (match s.holdLine a with | some t => (none, t) | none => (some x, s))
  | .port n l => (match s.holdPort n l with | some t => (none, t) | none => (some x, s))
  | .cxl l va => (some (.await l.pch), (s.atPlace .firmware va l none).2)
  | .await p => (if (s.cxlPort p).reads.any (fun r => r.who == .firmware) then some x else none, s)

/-- R42, R44: the accesses of an action that can be made in this window are made, in their order; those that are left. -/
def State.touchAll (s : State) (l : List FwTouch) : List FwTouch × State :=
  l.foldl (fun (r : List FwTouch × State) x =>
    let q := r.2.touch x
    (r.1 ++ q.1.toList, q.2)) ([], s)

/-- The lines of the frame of a leaf: of HBM as accesses to it, and, where they are read, of a CXL device as reads of it. -/
def Leaf.touches (l : Leaf) (read : Bool) : List FwTouch :=
  (List.range (l.size / 64)).filterMap (fun i =>
    match l.place (l.va + 64 * i) with
    | .hbm a => some (.line a)
    | .cxl _ _ => if read then some (.cxl l (l.va + 64 * i)) else none)

/-- The lines of HBM that hold a range of device virtual addresses. -/
def State.hbmLines (s : State) (va n : Nat) : List Nat :=
  (List.range (linesTouched va n)).filterMap (fun i =>
    match s.translate (max va ((va / 64 + i) * 64)) with
    | .leaf l => (match l.place (max va ((va / 64 + i) * 64)) with
      | .hbm a => some (a / 64 * 64)
      | .cxl _ _ => none)
    | _ => none)

/-- R280: an access through an invalidated entry has not completed. -/
def State.staleLeft (s : State) : Bool :=
  s.hbm.pchs.any (fun e => e.2.queue.any (fun r => r.stale))
    || s.cxl.any (fun e => e.2.reads.any (fun r => r.stale) || e.2.writes.any (fun r => r.stale))

end Sys2Proof.Machine
end

