-- ==== Sys2Proof/Machine/BmeOps.lean ====
section
/-! DEFINITION. Beside-memory engines (R288 to R313): queues, starts, the four commands' results, and their destinations. -/
namespace Sys2Proof.Machine

def opOpnd : Nat := 1
def opGemv : Nat := 2
def opDeq : Nat := 3
def opAttn : Nat := 4

/-- n rounded up to a multiple of 64, and to whole parts of d. -/
def ceil64 (n : Nat) : Nat := (n + 63) / 64 * 64
def ceilDiv (n d : Nat) : Nat := (n + d - 1) / d

/-! ## Blocks (R299, R300, R304, R305) -/

/-- Fields of a GEMV or DEQ block. -/
structure MatBlock where
  wOff    : Nat
  sOff    : Nat
  n       : Nat
  k       : Nat
  wfmt    : Nat
  afmt    : Nat
  batch   : Nat
  xBuf    : Nat
  xStride : Nat
  dst     : Nat
  stride  : Nat
  deriving DecidableEq, Repr

def matBlock (b : List Byte) : MatBlock :=
  { wOff := leAt b 0 8 % 2 ^ 31, sOff := leAt b 8 8 % 2 ^ 31, n := leAt b 0x10 2 + 1
    k := (leAt b 0x12 2 % 2048 + 1) * 32, wfmt := leAt b 0x14 1 % 16, afmt := leAt b 0x14 1 / 16
    batch := leAt b 0x15 1 % 8 + 1, xBuf := leAt b 0x16 2, xStride := leAt b 0x18 2, dst := leAt b 0x1C 4 % 2 ^ 25
    stride := leAt b 0x20 4 }

/-- R301: the weights carry block scales. -/
def MatBlock.scaled (m : MatBlock) : Bool := decide (2 ≤ m.wfmt) && decide (m.wfmt ≤ 6)
def MatBlock.rowBytes (m : MatBlock) : Nat := ceil64 (m.k * fmtBits m.wfmt / 8)
def MatBlock.scaleRow (m : MatBlock) : Nat := if m.scaled then ceil64 (m.k / 32) else 0
/-- R304: bytes of an output row of DEQ. -/
def MatBlock.outRow (m : MatBlock) : Nat := ceil64 (m.k * fmtBits m.afmt / 8)

/-- Fields of an ATTN block. -/
structure AttnBlock where
  ctx    : Nat
  pos0   : Nat
  lenReq : Nat
  list   : Nat
  q      : Nat
  new    : Nat
  mask   : Nat
  qn     : Nat
  nn     : Nat
  kvf    : Nat
  hd     : Nat
  scale  : Nat
  vscale : Nat
  dst    : Nat
  deriving DecidableEq, Repr

def attnBlock (b : List Byte) : AttnBlock :=
  { ctx := leAt b 0 4 % 2 ^ 18, pos0 := leAt b 4 4, lenReq := leAt b 8 4, list := leAt b 0xC 2, q := leAt b 0xE 2
    new := leAt b 0x10 2, mask := leAt b 0x12 2, qn := leAt b 0x14 1 % 64 + 1, nn := leAt b 0x15 1 % 128
    kvf := leAt b 0x16 1 % 4, hd := if bitAt (leAt b 0x16 1) 2 then 128 else 64, scale := leAt b 0x18 4
    vscale := leAt b 0x1C 4, dst := leAt b 0x20 4 % 2 ^ 25 }

/-- R294: bytes of a key or value element; R306: positions of a frame, and entries of the page list. -/
def AttnBlock.esz (a : AttnBlock) : Nat := if a.kvf = 0 then 2 else 1
def AttnBlock.perPage (a : AttnBlock) : Nat := 32768 / (a.hd * a.esz)
def AttnBlock.pages (a : AttnBlock) : Nat := ceilDiv a.lenReq a.perPage
def AttnBlock.fmt (a : AttnBlock) : Nat := match a.kvf with | 0 => 1 | 1 => 2 | _ => 3
/-- R306: lines of the new keys. -/
def AttnBlock.newLines (a : AttnBlock) : Nat := ceilDiv (a.nn * a.hd * a.esz) 64
/-- R310: lines of one query's output. -/
def AttnBlock.outLines (a : AttnBlock) : Nat := if a.hd = 64 then 5 else 9
def AttnBlock.masked (a : AttnBlock) : Bool := a.mask != 0xFFFF

/-! ## Latency (R294) -/

def BmeCmd.latency (c : BmeCmd) : Nat :=
  let m := matBlock c.block
  let a := attnBlock c.block
  match c.op with
  | 1 => 32 + leAt c.block 4 2
  | 2 => 56 + ceilDiv (m.n * (m.rowBytes + m.scaleRow)) 48
  | 3 => 56 + ceilDiv (m.n * m.outRow) 64
  | _ => 96 + max (ceilDiv (a.lenReq * 2 * a.hd * a.esz) 48) (ceilDiv ((a.lenReq + a.nn) * a.qn * a.hd) 384)

/-! ## Lines read and written -/

/-- R293: buffer lines a command reads. -/
def BmeCmd.bufReads (c : BmeCmd) : List (Nat × Nat) :=
  let m := matBlock c.block
  let a := attnBlock c.block
  match c.op with
  | 2 => [(m.xBuf, m.batch * m.xStride)]
  | 4 =>
    [(a.list, ceilDiv (4 * a.pages) 64), (a.q, a.qn * a.hd / 16)]
      ++ (if a.nn = 0 then [] else [(a.new, 2 * a.newLines)])
      ++ (if a.masked then [(a.mask, ceilDiv (8 * a.qn) 64)] else [])
  | _ => []

/-- R299: buffer lines an OPND writes. -/
def BmeCmd.bufWrites (c : BmeCmd) : Nat × Nat := (leAt c.block 6 2, leAt c.block 4 2)

def overlaps (a b : Nat × Nat) : Bool := decide (a.1 < b.1 + b.2) && decide (b.1 < a.1 + a.2) && a.2 != 0 && b.2 != 0

/-- R303, R304, R310: the destination as ranges of whole lines: byte address and lines. -/
def BmeCmd.destinations (c : BmeCmd) : List (Nat × Nat) :=
  let m := matBlock c.block
  let a := attnBlock c.block
  match c.op with
  | 2 => (List.range m.batch).map (fun i => (m.dst + i * m.stride, ceil64 (4 * m.n) / 64))
  | 3 => (List.range m.n).map (fun i => (m.dst + i * m.stride, m.outRow / 64))
  | 4 => [(a.dst, a.qn * a.outLines)]
  | _ => []

/-- The destination's lines. -/
def BmeCmd.dstLines (c : BmeCmd) : List Nat :=
  c.destinations.flatMap (fun d => (List.range d.2).map (fun i => d.1 / 64 + i))

/-- R294, R594: bytes read from DRAM. -/
def BmeCmd.dramBytes (c : BmeCmd) (committed : Nat) : Nat :=
  let m := matBlock c.block
  let a := attnBlock c.block
  match c.op with
  | 2 | 3 => m.n * (m.rowBytes + m.scaleRow)
  | 4 => (min (a.pos0 + a.lenReq) committed - a.pos0) * 2 * a.hd * a.esz
  | _ => 0

/-! ## The operand buffer (R292) -/

def StackSt.bufBytes (k : StackSt) (a n : Nat) : List Byte := sread 0 k.buffer a n

/-! ## Committed lengths (R307) -/

/-- R307, R463: the committed length of a context; 0 for one that is not active. -/
def State.committedOf (s : State) (ctx : Nat) : Nat :=
  match s.serve.rows.find? (fun e => e.2.occupied && e.2.ctx == ctx) with
  | some e => if s.flag CTX_CTRL.EN then e.2.committed else 0
  | none => 0

/-- R306: frame of a page of the list, counted from POS0's page. -/
def AttnBlock.entry (a : AttnBlock) (k : StackSt) (i : Nat) : Nat := leNat (k.bufBytes (64 * a.list + 4 * i) 4)

/-- R306: packed address of the key of a position. -/
def State.keyAddr (_s : State) (a : AttnBlock) (k : StackSt) (stack pch j : Nat) : Nat :=
  let page := j / a.perPage - a.pos0 / a.perPage
  packHbm stack pch (a.entry k page % 2 ^ 20 * 2048 + j % a.perPage * a.hd * a.esz)

/-! ## Command faults (R312) -/

/-- R312: causes 1 to 4, 5 and 7, found at the start; the lowest that applies. -/
def State.bmeFault (s : State) (c : BmeCmd) : Option Nat :=
  let b := c.block
  let m := matBlock b
  let a := attnBlock b
  let k := s.stack c.stack
  let dst4 := leAt b (if c.op = 4 then 0x20 else 0x1C) 4
  let dstBad := decide (2 ^ 25 ≤ dst4) || dst4 % 64 != 0
  let tail := leAt b 0x24 28 != 0
  let strideBad (row : Nat) : Bool := m.stride % 64 != 0 || decide (m.stride < row)
  let matBad := leAt b 0 8 / 2 ^ 31 != 0 || leAt b 8 8 / 2 ^ 31 != 0 || leAt b 0x12 2 / 2048 != 0 || leAt b 0x1A 2 != 0
    || dstBad || tail || (!m.scaled && leAt b 8 8 != 0)
  let one := match c.op with
    | 1 => decide (2 ^ 25 ≤ leAt b 0 4) || leAt b 0 4 % 64 != 0 || leAt b 4 2 == 0 || decide (2048 < leAt b 4 2)
        || leAt b 8 56 != 0
    | 2 => matBad || leAt b 0x15 1 / 8 != 0 || strideBad (ceil64 (4 * m.n))
    | 3 => matBad || leAt b 0x15 5 != 0 || strideBad m.outRow
    | _ => decide (2 ^ 18 ≤ leAt b 0 4) || a.pos0 % a.perPage != 0 || decide (1048576 < a.lenReq)
        || decide (64 ≤ leAt b 0x14 1) || decide (64 < leAt b 0x15 1) || decide (8 ≤ leAt b 0x16 1) || leAt b 0x17 1 != 0
        || dstBad || tail || (List.range a.pages).any (fun i => decide (2 ^ 20 ≤ a.entry k i))
  let two := match c.op with
    | 2 => !((m.scaled && (m.afmt == 2 || m.afmt == 3)) || (m.wfmt == 1 && m.afmt == 1) || (m.wfmt == 7 && m.afmt == 7))
    | 3 => !(m.scaled && decide (m.afmt ≤ 1))
    | 4 => a.kvf == 3
    | _ => false
  let three := match c.op with
    | 2 | 3 => m.wOff % 64 != 0 || m.sOff % 64 != 0 || decide (serviceBase < m.wOff + m.n * m.rowBytes)
        || (m.scaled && decide (serviceBase < m.sOff + m.n * m.scaleRow))
    | 4 => (List.range a.pages).any (fun i => a.entry k i % 32 != 0 || decide (782336 < a.entry k i + 32))
    | _ => false
  let four := if c.op = 1 then decide (4096 < c.bufWrites.1 + c.bufWrites.2)
    else c.bufReads.any (fun r => decide (4096 < r.1 + r.2))
  let five := !(c.dstLines.all (fun l => decide (l < 524288) && s.tagged c.region l))
  let seven := c.op == 4 && (decide (1 < a.nn) || a.masked) && !s.feature featSpecTree
  if one then some 1 else if two then some 2 else if three then some 3 else if four then some 4 else if five then some 5
  else if seven then some 7 else none

/-- R316: the first command fault is recorded. -/
def State.recordBmeFault (s : State) (c : BmeCmd) (cause : Nat) : State :=
  let k := c.stack
  if s.flag (BME_CMD_ERR.VALID k) then s
  else
    let s := s.put (BME_CMD_ERR.CAUSE k) cause
    let s := s.put (BME_CMD_ERR.PCH k) c.pch
    let s := s.put (BME_CMD_ERR.START k) c.start
    let s := s.put (BME_CMD_ERR.OP k) c.op
    s.raise (BME_CMD_ERR.VALID k)

/-! ## Results -/

/-- R303: GEMV's output rows as FP32 words. -/
def State.gemvRow (s : State) (c : BmeCmd) (i : Nat) : List (BitVec 32) :=
  let m := matBlock c.block
  let k := s.stack c.stack
  let xa := 64 * (m.xBuf + i * m.xStride)
  let xBytes := m.k * fmtBits m.afmt / 8
  let x := k.bufBytes xa xBytes
  let xs := if m.scaled then (k.bufBytes (xa + ceil64 xBytes) (m.k / 32)).map BitVec.toNat else []
  (List.range m.n).map (fun n =>
    let w := s.hbmBytes (packHbm c.stack c.pch (m.wOff + n * m.rowBytes)) m.rowBytes
    let ws := if m.scaled then
        (s.hbmBytes (packHbm c.stack c.pch (m.sOff + n * m.scaleRow)) (m.k / 32)).map BitVec.toNat
      else []
    let chunks := (List.range (ceilDiv m.k 128)).map (fun j =>
      let len := min 128 (m.k - 128 * j)
      (tileSum m.wfmt m.afmt (elemsOf (fmtBits m.wfmt) w (128 * j) len) (elemsOf (fmtBits m.afmt) x (128 * j) len)
        ((ws.drop (4 * j)).take 4) ((xs.drop (4 * j)).take 4)).1)
    match chunks with
    | [] => 0
    | y :: r => r.foldl addFp32 y)

/-- R304: one dequantised element. -/
def deqElem (wfmt target scale x : Nat) : Nat :=
  let f := if target = 1 then bf16 else fp32
  if scale = 0xFF then f.canonNan
  else f.encode .toInf (match elemValue wfmt x with
    | .fin neg m e => .fin neg m (e + scale - 127)
    | v => v)

/-- R304: DEQ's output row. -/
def State.deqRow (s : State) (c : BmeCmd) (n : Nat) : List Byte :=
  let m := matBlock c.block
  let w := s.hbmBytes (packHbm c.stack c.pch (m.wOff + n * m.rowBytes)) m.rowBytes
  let ws := s.hbmBytes (packHbm c.stack c.pch (m.sOff + n * m.scaleRow)) (m.k / 32)
  packElems (fmtBits m.afmt) ((elemsOf (fmtBits m.wfmt) w 0 m.k).zipIdx.map (fun e =>
    deqElem m.wfmt m.afmt (leAt ws (e.2 / 32) 1) e.1))

/-- R308: the running values of a query: m, l and o, and whether an entry gave a score or a value that is not usable. -/
structure AttnAcc where
  m   : Nat
  l   : Nat
  o   : List Nat
  bad : Bool
  any : Bool
  deriving DecidableEq, Repr

/-- R199, R205: exp as VEXP gives it. -/
def expFp32 (x : Nat) : Nat := refFunc 0 0x25 x
def mulFp32 (x y : Nat) : Nat := fp32.op2 Num.mul x y
def subFp32 (x y : Nat) : Nat := fp32.op2 (fun a b => a.add b.neg) x y
def maxFp32 (x y : Nat) : Nat := fp32.op2 (Num.minMax true) x y

/-- R308: one entry. -/
def AttnAcc.entry (st : AttnAcc) (fmt scale : Nat) (q : List Nat) (key value : List Nat) : AttnAcc :=
  let products := (q.zip key).map (fun e => (fp32.decode e.1).mul (elemValue fmt e.2))
  let dot := match tileSpecial products false with
    | some v => fp32.encode .toInf v
    | none => fp32.encode .toInf (bf16Sum products).1
  let sc := mulFp32 dot scale
  let unusable := match fp32.decode sc with | .fin _ _ _ => false | _ => true
  let nanValue := value.any (fun v => elemValue fmt v == .nan)
  let m2 := maxFp32 st.m sc
  let a := expFp32 (subFp32 st.m m2)
  let p := expFp32 (subFp32 sc m2)
  { m := m2, l := fp32.fma st.l a p
    o := (st.o.zip value).map (fun e => fp32.fma p (fp32.encode .toInf (elemValue fmt e.2)) (mulFp32 e.1 a))
    bad := st.bad || unusable || nanValue, any := true }

/-- R308 to R310: one query's output words: o, m and l. -/
def State.attnQuery (s : State) (c : BmeCmd) (committed i : Nat) : List Nat :=
  let a := attnBlock c.block
  let k := s.stack c.stack
  let w := fmtBits a.fmt
  let row := a.hd * a.esz
  let q := (List.range a.hd).map (fun d => leNat (k.bufBytes (64 * a.q + i * a.hd * 4 + 4 * d) 4))
  let hi := min (a.pos0 + a.lenReq) committed
  let cached := (List.range (hi - a.pos0)).map (fun j =>
    let ka := s.keyAddr a k c.stack c.pch (a.pos0 + j)
    (elemsOf w (s.hbmBytes ka row) 0 a.hd, elemsOf w (s.hbmBytes (ka + 32768) row) 0 a.hd))
  let mask := if a.masked then leNat (k.bufBytes (64 * a.mask + 8 * i) 8) else 2 ^ 64 - 1
  let fresh := ((List.range a.nn).filter (fun n => bitAt mask n)).map (fun n =>
    (elemsOf w (k.bufBytes (64 * a.new + n * row) row) 0 a.hd,
      elemsOf w (k.bufBytes (64 * (a.new + a.newLines) + n * row) row) 0 a.hd))
  let r := (cached ++ fresh).foldl (fun (st : AttnAcc) e => st.entry a.fmt a.scale q e.1 e.2)
    ⟨0xFF800000, 0, List.replicate a.hd 0, false, false⟩
  if !r.any then List.replicate a.hd 0 ++ [0xFF800000, 0]
  else if r.bad then List.replicate (a.hd + 2) 0x7FC00000
  else r.o.map (fun x => mulFp32 x a.vscale) ++ [r.m, r.l]

/-- The bytes of each destination line, in order (R303, R304, R310). -/
def State.bmeLines (s : State) (c : BmeCmd) (committed : Nat) : List (List Byte) :=
  let m := matBlock c.block
  let a := attnBlock c.block
  let cut (n : Nat) (b : List Byte) : List (List Byte) := chunksOf 64 n (padTo (64 * n) b)
  match c.op with
  | 2 => (List.range m.batch).flatMap (fun i =>
      cut (ceil64 (4 * m.n) / 64) ((s.gemvRow c i).flatMap (fun w => leBytes 4 w.toNat)))
  | 3 => (List.range m.n).flatMap (fun n => cut (m.outRow / 64) (s.deqRow c n))
  | 4 => (List.range a.qn).flatMap (fun i =>
      cut a.outLines ((s.attnQuery c committed i).flatMap (fun w => leBytes 4 w)))
  | _ => []

/-! ## DRAM and buffer errors (R312) -/

/-- Packed addresses and lengths of the extents a command reads from DRAM. -/
def State.bmeExtents (s : State) (c : BmeCmd) (committed : Nat) : List (Nat × Nat) :=
  let m := matBlock c.block
  let a := attnBlock c.block
  let k := s.stack c.stack
  match c.op with
  | 2 | 3 => (packHbm c.stack c.pch m.wOff, m.n * m.rowBytes)
      :: (if m.scaled then [(packHbm c.stack c.pch m.sOff, m.n * m.scaleRow)] else [])
  | 4 =>
    (List.range (min (a.pos0 + a.lenReq) committed - a.pos0)).flatMap (fun j =>
      let ka := s.keyAddr a k c.stack c.pch (a.pos0 + j)
      [(ka, a.hd * a.esz), (ka + 32768, a.hd * a.esz)])
  | _ => []

/-- R312: a poisoned DRAM line or buffer line is read; the reads are counted and recorded (R263). -/
def State.bmePoison (s : State) (c : BmeCmd) (committed : Nat) (ecc : Ecc) : Bool × State :=
  let ext := s.bmeExtents c committed
  let t := match ext with
    | [] => s
    | e :: _ => (s.hbmCheck e.1 ecc).2
  let bad := t.hbm.badLines.filter (fun l => ext.any (fun e => decide (e.1 < l + 64) && decide (l < e.1 + e.2)))
  let known := bad.filter (fun l => s.hbm.badLines.contains l && (match ext with | e :: _ => l != e.1 / 64 * 64 | [] => true))
  let t := known.foldl (fun u l => (u.hbmCheck l .good).2) t
  let buf := (s.stack c.stack).poison.any (fun l => c.bufReads.any (fun r => decide (r.1 ≤ l) && decide (l < r.1 + r.2)))
  (!bad.isEmpty || buf, t)

/-! ## Queueing (R290, R313) -/

/-- A serial that no running command of the stack has. -/
def StackSt.freeSerial (k : StackSt) : Nat := k.running.foldl (fun n r => max n (r.serial + 1)) 0

/-- R311, R234: a result line goes to its slice, or a mark. -/
def State.queueBme (s : State) (c : BmeCmd) (serial line : Nat) (b : Option (List Byte)) : State :=
  { s with unsched := s.unsched ++ [⟨c.region, line, false, .bme c.stack serial line,
      (match b with | some x => .write x | none => .mark)⟩] }

/-- R312, R313: a command ends at once with its destination lines marked FAULTED, where they are tagged. -/
def State.markBme (s : State) (c : BmeCmd) : State :=
  let k := s.stack c.stack
  let lines := c.dstLines.filter (fun l => s.tagged c.region l)
  if lines.isEmpty then s
  else
    let r : BmeRun :=
      { serial := k.freeSerial, cmd := c, endAt := s.now, planned := s.now, paused := none, ended := true, discard := false
        results := [], reads := [], left := lines }
    let s := s.setStack c.stack { k with running := k.running ++ [r] }
    lines.foldl (fun t l => t.queueBme c r.serial l none) s

/-- R290: a command enters its stack's queue; a fenced D2 refuses it. -/
def State.enqueueBme (s : State) (c : BmeCmd) : State :=
  if s.fenced 2 then s.markBme c
  else
    let k := s.stack c.stack
    s.setStack c.stack { k with queue := k.queue ++ [c] }

/-! ## Starting (R133, R291, R293) -/

/-- R295: a command that has ended after its planned end is counted late. -/
def State.countLate (s : State) (stack planned : Nat) : State :=
  let late := s.now - planned
  if late = 0 then s else (s.count (BME_LATE.LATE_CMDS stack)).putMax (BME_LATE.LATE_MAX stack) late

/-- R293: the operand-buffer order allows a command to start. -/
def StackSt.orderOk (k : StackSt) (c : BmeCmd) : Bool :=
  let live := k.running.filter (fun r => !r.ended)
  if c.op = 1 then !live.any (fun r => r.cmd.bufReads.any (fun x => overlaps x c.bufWrites))
  else !live.any (fun r => r.cmd.op == 1 && c.bufReads.any (fun x => overlaps x r.cmd.bufWrites))

/-- R293: the same for a command of the control firmware, which queued commands precede. -/
def StackSt.fwOrderOk (k : StackSt) (c : BmeCmd) : Bool :=
  k.orderOk c && (if c.op = 1 then !k.queue.any (fun q => q.bufReads.any (fun x => overlaps x c.bufWrites))
    else !k.queue.any (fun q => q.op == 1 && c.bufReads.any (fun x => overlaps x q.bufWrites)))

/-- R133: the planned cycle of a command, once its segment's pick has come; none before. -/
def State.plannedAt (s : State) (c : BmeCmd) : Option Nat :=
  if s.pickNo < c.segment then none
  else if s.pickNo = c.segment then some (s.pick.windowAt + s.pickWin + c.start)
  else
    match s.pick.spans.find? (fun e => e.1 == c.segment) with
    | some e => some (e.2 + c.start)
    | none => some (s.pick.windowAt + s.pickWin + c.start - (s.pickNo - c.segment) * s.pickLen)

/-- R291: the cycle in which the head of a stack's queue starts; none while it may not. -/
def State.bmeStart (s : State) (c : BmeCmd) : Option (Nat × Nat) :=
  let k := s.stack c.stack
  match s.plannedAt c with
  | none => none
  | some planned =>
    if s.pick.inWindow || s.fenced 2 || !k.orderOk c then none
    else if c.op != 1 && k.running.any (fun r => !r.ended && r.cmd.op != 1 && r.cmd.pch == c.pch) then none
    else
      let free := if c.op = 1 then s.now else max s.now (s.pch (pchNo c.stack c.pch)).busyUntil
      let next := match k.lastStart with | some t => t + 1 | none => 0
      some (max (max free planned) next, planned)

/-- R297, R299: an OPND of the control firmware reads its source lines in the window, where no word claims a port. -/
def State.copyOpnd (s : State) (c : BmeCmd) : State :=
  let base := leAt c.block 0 4 / 64
  (List.range c.bufWrites.2).foldl (fun (t : State) i =>
    let e := t.spadCheck c.region ((base + i) % 524288) .good
    let k := e.2.stack c.stack
    let line := c.bufWrites.1 + i
    let keep := k.poison.filter (fun l => l != line)
    e.2.setStack c.stack { k with
      buffer := swrite 0 k.buffer (64 * line) (if e.1 then allOnes 64 else (e.2.region c.region).line ((base + i) % 524288))
      poison := if e.1 then line :: keep else keep }) s

/-- A command begins: its faults, its results, and its place among the running. -/
def State.beginBme (s : State) (c : BmeCmd) (planned : Nat) (ecc : Ecc) : State :=
  match s.bmeFault c with
  | some cause =>
    let s := s.recordBmeFault c cause
    let s := if c.fw then s else s.countLate c.stack (planned + c.latency)
    if cause = 5 || c.op = 1 then s else s.markBme c
  | none =>
    let committed := s.committedOf (attnBlock c.block).ctx
    let p := if c.op = 1 then (false, s) else s.bmePoison c committed ecc
    let t := if p.1 then p.2.recordBmeFault c 6 else p.2
    let t := if c.fw then t else t.meterOwn 0 (c.dramBytes committed)
    let lines := c.dstLines
    let results := if p.1 then lines.map (fun l => (l, none))
      else (lines.zip (s.bmeLines c committed)).map (fun e => (e.1, some e.2))
    let reads := if c.op = 1 && !c.fw then List.range c.bufWrites.2 else []
    let t := if c.op = 1 && c.fw then t.copyOpnd c else t
    let k := t.stack c.stack
    let r : BmeRun :=
      { serial := k.freeSerial, cmd := c, endAt := t.now + c.latency, planned := planned + c.latency, paused := none
        ended := false, discard := false, results := results, reads := reads, left := [] }
    let t := t.setStack c.stack { k with running := k.running ++ [r], active := true }
    let base := leAt c.block 0 4 / 64
    reads.foldl (fun u i =>
      { u with unsched := u.unsched ++ [⟨c.region, (base + i) % 524288, false, .bme c.stack r.serial i, .read⟩] }) t

/-- R291: the head of a stack's queue starts, if it is of this operation and may. -/
def State.startBme (s : State) (stack op : Nat) (ecc : Ecc) : State :=
  let k := s.stack stack
  match k.queue with
  | [] => s
  | c :: r =>
    if c.op != op then s
    else
      match s.bmeStart c with
      | none => s
      | some (at_, planned) =>
        let s := s.at_ at_
        let s := s.setStack stack { k with queue := r, lastStart := some s.now }
        (s.count (BME_Q_STAT.STARTED stack)).beginBme c planned ecc

/-! ## Ending (R294, R295) -/

def State.setRun (s : State) (stack : Nat) (r : BmeRun) : State :=
  let k := s.stack stack
  s.setStack stack { k with running := k.running.map (fun u => if u.serial = r.serial then r else u) }

def State.dropRun (s : State) (stack serial : Nat) : State :=
  let k := s.stack stack
  s.setStack stack { k with running := k.running.filter (fun u => u.serial != serial) }

/-- R294, R295, R539: a running command ends; its result lines go to their slice, or are discarded while D3 is fenced. -/
def State.endBme (s : State) (stack : Nat) (r : BmeRun) : State :=
  let s := s.at_ r.endAt
  let late := s.now - r.planned
  let s := s.countLate stack r.planned
  let s := if r.cmd.fw then s
    else s.trace 4 stack (leBytes 1 r.cmd.pch ++ leBytes 1 r.cmd.op ++ leBytes 2 r.cmd.start ++ leBytes 4 late)
  if r.discard || s.fenced 3 || r.results.isEmpty then s.dropRun stack r.serial
  else
    let s := s.setRun stack { r with ended := true, results := [], left := r.results.map (fun e => e.1) }
    r.results.foldl (fun t e => t.queueBme r.cmd r.serial e.1 e.2) s

/-- R299: a source line of an OPND arrives. -/
def State.bmeRead (s : State) (stack serial i : Nat) (bad : Bool) (b : List Byte) : State :=
  let k := s.stack stack
  match k.running.find? (fun r => r.serial == serial) with
  | none => s
  | some r =>
    let line := r.cmd.bufWrites.1 + i
    let keep := k.poison.filter (fun l => l != line)
    let k := { k with buffer := swrite 0 k.buffer (64 * line) b, poison := if bad then line :: keep else keep }
    (s.setStack stack k).setRun stack { r with reads := r.reads.filter (fun j => j != i) }

/-- R294: a destination line is written or marked; with the last the command is complete. -/
def State.bmeWritten (s : State) (stack serial line : Nat) : State :=
  match (s.stack stack).running.find? (fun r => r.serial == serial) with
  | none => s
  | some r =>
    let left := r.left.filter (fun l => l != line)
    if left.isEmpty then s.dropRun stack serial else s.setRun stack { r with left := left }

/-! ## Windows (R296, R298) and fences (R313) -/

/-- R296, R298: a background window begins. -/
def StackSt.pause (k : StackSt) (now : Nat) : StackSt :=
  { k with
    running := k.running.map (fun r => if r.ended || (decide (r.endAt ≤ now) && r.reads.isEmpty) then r else { r with paused := some now })
    active := k.running.any (fun r => !r.ended) }

/-- R296: a span begins. -/
def StackSt.resume (k : StackSt) (now : Nat) : StackSt :=
  { k with running := k.running.map (fun r => match r.paused with
      | some t => { r with endAt := now + (r.endAt - t), paused := none }
      | none => r) }

/-- R313: a fence of D2 ends every command queued or running, with its destination lines marked. -/
def State.fenceBme (s : State) (stack : Nat) : State :=
  let k := s.stack stack
  let live := k.running.filter (fun r => !r.ended)
  let mine (w : Requester) : Bool := match w with
    | .bme a b _ => a == stack && live.any (fun r => r.serial == b)
    | _ => false
  let s := { s with unsched := s.unsched.filter (fun u => !mine u.who) }
  let s := s.setStack stack { k with queue := [], running := k.running.filter (fun r => r.ended) }
  let s := live.foldl (fun (t : State) r => t.countLate stack r.planned) s
  let s := k.queue.foldl (fun (t : State) c => match t.plannedAt c with
    | some p => t.countLate stack (p + c.latency)
    | none => t) s
  (live.map (fun r => r.cmd) ++ k.queue).foldl (fun t c => t.markBme c) s

/-- R313, R539: the slices are fenced or reset: queued commands are gone where `reset`, and result lines are discarded. -/
def State.discardBme (s : State) (stack : Nat) (reset : Bool) : State :=
  let k := s.stack stack
  let mine (w : Requester) : Bool := match w with | .bme a _ _ => a == stack | _ => false
  let s := { s with unsched := s.unsched.filter (fun u => !mine u.who) }
  s.setStack stack { k with
    queue := if reset then [] else k.queue
    running := (k.running.filter (fun r => !r.ended)).map (fun r => { r with discard := true, reads := [] }) }

end Sys2Proof.Machine
end

