-- ==== Sys2Proof/Machine/Bme.lean ====
section
/-! DEFINITION. The commands of the beside-memory engines (R290 to R312). -/
namespace Sys2Proof.Machine

/-- R134: the command of the same word's LD slot for the stack, from another region, enters its queue first. -/
def State.bmeAhead (s : State) (c : BmeCmd) : Bool :=
  s.ldComes c.ahead c.word || s.bmeWay.any (fun e => e.stack == c.stack && e.word == c.word && some e.region == c.ahead)

/-- BME_COMMAND_ENQUEUE (R134, R290): the first command of the region for the stack enters its queue, if there is room. -/
def doBmeCommandEnqueue (stack region : Nat) (s : State) : State :=
  match s.bmeWay.find? (fun c => c.stack == stack && c.region == region) with
  | none => s
  | some c =>
    if 64 ≤ (s.stack stack).queue.length || s.bmeAhead c then s
    else ({ s with bmeWay := s.bmeWay.erase c }).enqueueBme c
def execBmeCommandEnqueue (stack region : Nat) (s : State) : Out :=
  onUnit (decide (stack < 16) && decide (region < 64)) (doBmeCommandEnqueue stack region s)

/-- OPND (R299). -/
def execOpnd (stack : Nat) (s : State) : Out := onUnit (stack < 16) (s.startBme stack opOpnd .good)

/-- GEMV (R300 to R303). -/
def execGemv (stack : Nat) (ecc : Ecc) (s : State) : Out := onUnit (stack < 16) (s.startBme stack opGemv ecc)

/-- DEQ (R304). -/
def execDeq (stack : Nat) (ecc : Ecc) (s : State) : Out := onUnit (stack < 16) (s.startBme stack opDeq ecc)

/-- ATTN (R305 to R310). -/
def execAttn (stack : Nat) (ecc : Ecc) (s : State) : Out := onUnit (stack < 16) (s.startBme stack opAttn ecc)

/-- BME_COMMAND_END (R294, R295): a command that is not paused and, for an OPND, has read its source. -/
def doBmeCommandEnd (stack serial : Nat) (s : State) : State :=
  match (s.stack stack).running.find? (fun r => r.serial == serial) with
  | none => s
  | some r => if r.ended || r.paused.isSome || !r.reads.isEmpty then s else s.endBme stack r
def execBmeCommandEnd (stack serial : Nat) (s : State) : Out := onUnit (stack < 16) (doBmeCommandEnd stack serial s)

end Sys2Proof.Machine
end

