-- ==== Sys2Proof/Machine/Crypto.lean ====
section
/-! DEFINITION. SHA-256, HMAC-SHA-256, RSA-3072 and CRC-32C, the module's only hash, signature and check functions (R28, R354,
R585). -/
namespace Sys2Proof.Machine

/-! ## SHA-256 -/

/-- The greatest number below `r + 2 ^ k` whose power `e` does not pass `n`, found bit by bit from the root's top bits `r`. -/
def rootFrom (e n : Nat) : Nat → Nat → Nat
  | 0, r => r
  | k + 1, r => rootFrom e n k (if (r + 2 ^ k) ^ e ≤ n then r + 2 ^ k else r)

/-- The first 32 fraction bits of the root of degree `e` of a prime. -/
def rootFraction (e p : Nat) : BitVec 32 := BitVec.ofNat 32 (rootFrom e (p * 2 ^ (32 * e)) 36 0)

/-- The first `n` primes. -/
def firstPrimes (n : Nat) : List Nat :=
  ((List.range 320).filter (fun p => decide (2 ≤ p) && ([2, 3, 5, 7, 11, 13, 17].all (fun d => p == d || p % d != 0)))).take n

/-- The constants of the 64 rounds: fractions of the cube roots of the first 64 primes. -/
def roundConstants : List (BitVec 32) := (firstPrimes 64).map (rootFraction 3)

/-- The eight words before the first block: fractions of the square roots of the first eight primes. -/
def firstDigest : List (BitVec 32) := (firstPrimes 8).map (rootFraction 2)

/-- A 32-bit word of four bytes, the first the most significant. -/
def beWord (b : List Byte) : BitVec 32 :=
  BitVec.ofNat 32 (b.foldl (fun v x => 256 * v + x.toNat) 0)

/-- Four bytes of a word, the most significant first. -/
def beBytes (w : BitVec 32) : List Byte := (leBytes 4 w.toNat).reverse

/-- The exclusive or of a word turned right by each of some amounts. -/
def turns (x : BitVec 32) (l : List Nat) : BitVec 32 := l.foldl (fun v n => v ^^^ x.rotateRight n) 0

/-- The schedule word that follows sixteen others. -/
def scheduleWord (w : List (BitVec 32)) : BitVec 32 :=
  let at_ (i : Nat) : BitVec 32 := w.getD i 0
  at_ 0 + (turns (at_ 1) [7, 18] ^^^ at_ 1 >>> 3) + at_ 9 + (turns (at_ 14) [17, 19] ^^^ at_ 14 >>> 10)

/-- One round over the eight working words, with its constant and schedule word added already. -/
def digestRound (kw : BitVec 32) : List (BitVec 32) → List (BitVec 32)
  | [a, b, c, d, e, f, g, h] =>
    let choice := g ^^^ (e &&& (f ^^^ g))
    let majority := (a &&& b) ||| (c &&& (a ||| b))
    let low := h + choice + kw + turns e [6, 11, 25]
    [low + majority + turns a [2, 13, 22], a, b, c, d + low, e, f, g]
  | l => l

/-- The rounds of a block: what is left of the constants, and the next sixteen words of its schedule. -/
def digestRounds : List (BitVec 32) → List (BitVec 32) → List (BitVec 32) → List (BitVec 32)
  | k :: more, w, l => digestRounds more (w.tail ++ [scheduleWord w]) (digestRound (k + w.headD 0) l)
  | [], _, l => l

/-- A 64-byte block is taken into the digest. -/
def digestBlock (l : List (BitVec 32)) (b : List Byte) : List (BitVec 32) :=
  List.zipWith (· + ·) l (digestRounds roundConstants ((chunksOf 4 16 b).map beWord) l)

/-- A message with its padding. -/
def shaPad (m : List Byte) : List Byte :=
  let z := (119 - m.length % 64) % 64
  m ++ [0x80] ++ List.replicate z 0 ++ (leBytes 8 (8 * m.length)).reverse

/-- SHA-256 of a message. -/
def sha256 (m : List Byte) : List Byte :=
  let p := shaPad m
  ((chunksOf 64 (p.length / 64) p).foldl digestBlock firstDigest).flatMap beBytes

/-- HMAC-SHA-256 of a message under a key (R585). -/
def hmac (key m : List Byte) : List Byte :=
  let k := padTo 64 (if 64 < key.length then sha256 key else key)
  sha256 (k.map (· ^^^ 0x5C) ++ sha256 (k.map (· ^^^ 0x36) ++ m))

/-- R585: the first `n` bytes of the keystream HMAC-SHA-256(KW, salt ‖ i). -/
def keystream (kw salt : List Byte) (n : Nat) : List Byte :=
  ((List.range ((n + 31) / 32)).flatMap (fun i => hmac kw (salt ++ leBytes 4 i))).take n

/-- R585: the private key of a wrapped key (salt, ciphertext, tag), or none where the tag fails. -/
def unwrapKey (kw w : List Byte) : Option (List Byte) :=
  let salt := bytesAt w 0 32
  let text := bytesAt w 32 1568
  if hmac kw (salt ++ text) = bytesAt w 1600 32 then
    some (List.zipWith (· ^^^ ·) text (keystream kw salt 1568))
  else none

/-- R585: a private key as it is wrapped under KW with a salt of 32 bytes. -/
def wrapKey (kw salt key : List Byte) : List Byte :=
  let salt := padTo 32 salt
  let text := List.zipWith (· ^^^ ·) (padTo 1568 key) (keystream kw salt 1568)
  salt ++ text ++ hmac kw (salt ++ text)

/-! ## RSA-3072 (R28, R577) -/

/-- A number raised to a power of at most the given count of bits, by a modulus. -/
def powMod (m : Nat) : Nat → Nat → Nat → Nat
  | 0, _, _ => 1 % m
  | k + 1, b, e =>
    let h := powMod m k (b * b % m) (e / 2)
    if e % 2 = 1 then b * h % m else h

/-- What a signature of a message encodes in RSASSA-PKCS1-v1_5 with SHA-256: 384 bytes, the most significant first. -/
def rsaEncoded (message : List Byte) : List Byte :=
  [0, 1] ++ List.replicate 330 0xFF ++ [0]
    ++ [0x30, 0x31, 0x30, 0x0D, 0x06, 0x09, 0x60, 0x86, 0x48, 0x01, 0x65, 0x03, 0x04, 0x02, 0x01, 0x05, 0x00, 0x04, 0x20]
    ++ sha256 message

/-- R28, R577, R583, R584, R588, R600: a signature of 384 bytes over a message verifies under a public key, given as a modulus
of 384 and an exponent of 4 bytes, both little-endian (R15); the signature is an octet string, the most significant byte
first (PRESUMED, notes/assumptions/12.md). -/
def rsaVerify (key message signature : List Byte) : Bool :=
  let m := leNat (bytesAt key 0 384)
  let x := leNat signature.reverse
  signature.length == 384 && decide (x < m) && powMod m 32 x (leAt key 384 4) == leNat (rsaEncoded message).reverse

/-! ## CRC-32C -/

/-- Shift eight bits of a reflected CRC with polynomial 0x1EDC_6F41. -/
def crcBits : Nat → BitVec 32 → BitVec 32
  | 0, c => c
  | n + 1, c => crcBits n (if c.getLsbD 0 then (c >>> 1) ^^^ 0x82F63B78 else c >>> 1)

/-- R354: CRC-32C: reflected, initial value and final XOR all ones. -/
def crc32c (m : List Byte) : BitVec 32 :=
  ~~~(m.foldl (fun c b => crcBits 8 (c ^^^ b.setWidth 32)) 0xFFFFFFFF)

end Sys2Proof.Machine
end

