-- ==== Sys2Proof/Machine/SeqDecode.lean ====
section
/-! DEFINITION. Instruction words: fetching a word from the instruction store, and the decode faults of R104 in the order
of R656. -/
namespace Sys2Proof.Machine

/-- R100: a unit of the instruction store; addresses are modulo 2^22. -/
def State.unit (s : State) (a : Nat) : BitVec 32 := sget 0 s.seq.istore (a % 4194304)

/-- R102: the header of a word. -/
structure Header where
  len     : Nat
  rsvdHi  : Nat
  tag     : BitVec 12
  tagv    : Bool
  ext     : Bool
  extY    : Bool
  rsvdLo  : Nat
  present : Nat
  deriving DecidableEq, Repr

def headerOf (w : BitVec 32) : Header :=
  let n := w.toNat
  ⟨bitsAt n 28 4, bitsAt n 24 4, BitVec.ofNat 12 (bitsAt n 12 12), bitAt n 11, bitAt n 10, bitAt n 9, bitsAt n 6 3,
    bitsAt n 0 6⟩

/-- R101, R103: a slot is present; the units before it; and the word's length. -/
def Header.has (h : Header) (k : Nat) : Bool := bitAt h.present k
def Header.units (h : Header) : Nat → Nat
  | 0 => 1
  | 1 => 1 + bnat (h.has 0)
  | k + 2 => h.units (k + 1) + 2 * bnat (h.has (k + 1))
def Header.fullLen (h : Header) : Nat := h.units 5 + bnat (h.has 5) + bnat h.ext

/-- A word with its slots (R101). -/
structure InsnWord where
  hdr : Header
  s   : Option (BitVec 32)
  v   : Option (BitVec 64)
  m   : Option (BitVec 64)
  ld  : Option (BitVec 64)
  st  : Option (BitVec 64)
  y   : Option (BitVec 32)
  ext : BitVec 32
  deriving DecidableEq, Repr

/-- R101: the word at a unit address, laid out as its header says. -/
def State.wordAt (s : State) (pc : Nat) : InsnWord :=
  let h := headerOf (s.unit pc)
  let pair (k : Nat) : Option (BitVec 64) :=
    if h.has k then some (s.unit (pc + h.units k + 1) ++ s.unit (pc + h.units k)) else none
  { hdr := h
    s := if h.has 0 then some (s.unit (pc + 1)) else none
    v := pair 1, m := pair 2, ld := pair 3, st := pair 4
    y := if h.has 5 then some (s.unit (pc + h.units 5)) else none
    ext := if h.ext then s.unit (pc + h.fullLen - 1) else 0 }

/-- R252: a unit of the word has an uncorrectable error. -/
def State.wordBad (s : State) (pc : Nat) (h : Header) : Bool :=
  (List.range (max 1 h.len)).any (fun i => s.seq.istoreBad.contains ((pc + i) % 4194304 / 2))

/-! ## Conditions of one slot (R104): the least cause it meets, or 0 -/

/-- The least of the causes whose condition holds. -/
def leastCause (l : List (Nat × Bool)) : Nat :=
  l.foldl (fun m c => if c.2 && (m == 0 || decide (c.1 < m)) then c.1 else m) 0

/-- R114: the S-slot operations. -/
def sKnown (op : Nat) : Bool :=
  decide (op ≤ 0x09) || (decide (0x10 ≤ op) && decide (op ≤ 0x13)) || (decide (0x18 ≤ op) && decide (op ≤ 0x1A))
    || (decide (0x20 ≤ op) && decide (op ≤ 0x28))

/-- R114: branches, jumps and calls. -/
def sBranches (op : Nat) : Bool := decide (0x20 ≤ op) && decide (op ≤ 0x28)

/-- R113, R114: operations of the R form, whose bits [7:0] are reserved. -/
def sFormR (op : Nat) : Bool := (decide (1 ≤ op) && decide (op ≤ 9)) || op == 0x27

def sCause (w : BitVec 32) (extS delaySlot : Bool) : Nat :=
  let f := sSlot w
  leastCause [(1, sFormR f.op && f.low != 0), (4, f.op == 0x13 && !extS), (5, !sKnown f.op),
    (6, sBranches f.op && delaySlot)]

/-- R198: formats a V-slot operation allows: true for the code. -/
def vFmtOk (op fmt : Nat) : Bool :=
  let fp := fmt == 0 || fmt == 1
  let int := fmt == 8 || fmt == 9
  match op with
  | 0x01 | 0x02 | 0x03 | 0x05 | 0x06 => fp || int
  | 0x04 => fp
  | 0x07 | 0x08 => fp || fmt == 8
  | 0x0C | 0x0D | 0x0E => int
  | 0x10 | 0x30 | 0x38 | 0x39 | 0x40 | 0x41 => fmt == 0 || int
  | 0x19 | 0x58 => fmt == 0
  | 0x48 => fmt == 0 || fmt == 9
  | 0x52 => fmt == 0 || fmt == 8
  | _ => if decide (0x20 ≤ op) && decide (op ≤ 0x28) then fp else decide (fmt ≤ 9)

/-- R198: the V-slot operations. -/
def vKnown (op : Nat) : Bool :=
  decide (op ≤ 0x14) || op == 0x18 || op == 0x19 || (decide (0x20 ≤ op) && decide (op ≤ 0x28))
    || (decide (0x30 ≤ op) && decide (op ≤ 0x32)) || op == 0x38 || op == 0x39
    || (decide (0x40 ≤ op) && decide (op ≤ 0x45)) || op == 0x48 || (decide (0x50 ≤ op) && decide (op ≤ 0x52))
    || op == 0x58

/-- R202: the conversions VCVT accepts. -/
def cvtPair (src target : Nat) : Bool :=
  match src, target with
  | 0, 1 => true
  | 0, t | 1, t => (decide (2 ≤ t) && decide (t ≤ 9)) || (src == 1 && t == 0)
  | 7, 0 | 7, 1 | 7, 8 | 8, 0 | 8, 1 | 9, 0 | 9, 1 => true
  | 2, 0 | 3, 0 | 4, 0 | 5, 0 | 6, 0 => true
  | _, _ => false

/-- R202: a part of 64 elements lies within the register. -/
def partOk (fmt q : Nat) : Bool := decide ((64 * q + 64) * fmtBitsOf fmt ≤ 2048)
where
  /-- R122: element width of a format code. -/
  fmtBitsOf : Nat → Nat
    | 1 => 16
    | 2 | 3 | 7 => 8
    | 4 | 5 => 6
    | 6 => 4
    | _ => 32

/-- R196: operations whose SRC_A can be an accumulator row: those that read SRC_A as elements of FMT. -/
def vAccOk (op fmt : Nat) : Bool :=
  fmt == 0 && ((decide (1 ≤ op) && decide (op ≤ 0x0B)) || op == 0x0F || op == 0x10 || op == 0x18 || op == 0x19
    || (decide (0x20 ≤ op) && decide (op ≤ 0x28)) || (decide (0x30 ≤ op) && decide (op ≤ 0x32)) || op == 0x38
    || op == 0x39 || op == 0x40 || op == 0x41)

/-- R195: operations that name a predicate in DST. -/
def vWritesPred (op : Nat) : Bool := decide (0x10 ≤ op) && decide (op ≤ 0x14)

/-- Conditions that make a V slot's codes reserved: cause 5 (R195, R196, R198, R201, R202, R206, R217). -/
def vReserved (f : VSlot) : Bool :=
  !vKnown f.op || !vFmtOk f.op f.fmt || decide (9 < f.fmt)
    || (vWritesPred f.op && decide (8 ≤ f.dst))
    || (decide (0x11 ≤ f.op) && decide (f.op ≤ 0x13) && (decide (8 ≤ f.a) || decide (8 ≤ f.b)))
    || (f.acc && !vAccOk f.op f.fmt)
    || (f.op == 0x10 && f.imm % 8 == 7)
    || (f.op == 0x18 && (!cvtPair f.fmt (f.imm % 16) || !partOk f.fmt (f.b % 4) || !partOk (f.imm % 16) (f.c % 4)))
    || (f.op == 0x19 && (decide (f.imm % 16 < 2) || decide (6 < f.imm % 16)))
    || (f.op == 0x30 && (f.imm % 4 == 3 || f.imm / 4 % 4 == 3))
    || ((f.op == 0x38 || f.op == 0x39) && f.dst % 2 == 1)
    || (f.op == 0x39 && (f.a % 2 == 1 || f.b % 2 == 1))
    || (f.op == 0x48 && f.c % 2 == 1)

def vCause (w : BitVec 64) : Nat :=
  let f := vSlot w
  leastCause [(1, f.rsvd != 0 || (f.op == 0x18 && decide (128 ≤ f.imm))), (5, vReserved f)]

/-- R160: fields that are written as zero. -/
def mMustZero (f : MSlot) : Bool :=
  match f.op with
  | 0x01 | 0x02 | 0x03 => f.afmt != 0 || f.accRow != 0 || f.count != 0 || f.accum
  | 0x08 => f.wfmt != 0 || f.afmt != 0 || f.base != 0 || f.line != 0 || f.accRow != 0 || f.count != 0 || f.accum
  | _ => false

/-- R163: block formats of a load. -/
def loadFmtOk (op fmt : Nat) : Bool :=
  match op with
  | 0x01 => [1, 2, 3, 7].contains fmt
  | 0x02 => decide (2 ≤ fmt) && decide (fmt ≤ 6)
  | _ => decide (4 ≤ fmt) && decide (fmt ≤ 6)

/-- R161, R163: a stream's activations against the active buffer's record. -/
def streamOk (mx : Bool) (act : BufRec) (wfmt afmt : Nat) : Bool :=
  act.kind != 0 && wfmt == act.fmt &&
  (match act.kind, mx with
    | 1, false =>
      if act.fmt = 1 then afmt == 1 else if act.fmt = 7 then afmt == 7 else afmt == 2 || afmt == 3
    | 1, true => (act.fmt == 2 || act.fmt == 3) && decide (2 ≤ afmt) && decide (afmt ≤ 6)
    | 2, false => afmt == 2 || afmt == 3
    | 2, true => decide (2 ≤ afmt) && decide (afmt ≤ 6)
    | 3, true => decide (4 ≤ afmt) && decide (afmt ≤ 6)
    | _, _ => false)

def mReserved (f : MSlot) (act : BufRec) : Bool :=
  match f.op with
  | 0x00 => decide (9 < f.wfmt) || decide (9 < f.afmt)
  | 0x01 | 0x02 | 0x03 => !loadFmtOk f.op f.wfmt
  | 0x08 => false
  | 0x10 => !streamOk false act f.wfmt f.afmt
  | 0x11 => !streamOk true act f.wfmt f.afmt
  | _ => true

def mCause (w : BitVec 64) (act : BufRec) : Nat :=
  let f := mSlot w
  leastCause [(1, f.rsvd || mMustZero f), (5, mReserved f act)]

/-- R124 to R132, R289: an LD or ST slot; `attn` says that BME_ATTENTION is accepted. -/
def lsCause (w : BitVec 64) (load attn : Bool) (span : Nat) : Nat :=
  let f := lsSlot w
  match f.cls with
  | 0 => leastCause [(1, f.laneRsvd != 0 || (load && f.rowmask)), (5, decide (f.op < 1) || decide (3 < f.op))]
  | 1 => leastCause [(1, f.shRsvd), (5, decide (f.op < 1) || decide (2 < f.op))]
  | 2 => leastCause [(1, f.bmeRsvd != 0), (5, decide (f.op < 1) || decide (4 < f.op) || (f.op == 4 && !attn)),
      (7, decide (span ≤ f.start))]
  | _ => 5

/-- R136: the Y-slot operations. -/
def yKnown (op : Nat) : Bool :=
  decide (op ≤ 2) || (decide (0x10 ≤ op) && decide (op ≤ 0x18)) || yRemote op

def yCause (w : BitVec 32) (extY : Bool) (ext : BitVec 32) : Nat :=
  let f := yField w
  leastCause [(1, yRemote f.op && extY && bitsAt ext.toNat 16 16 != 0), (4, yRemote f.op && !extY), (5, !yKnown f.op)]

/-- R656: the header's own conditions, the least cause, or 0. -/
def headerCause (h : Header) : Nat :=
  leastCause [(1, h.rsvdHi != 0 || h.rsvdLo != 0), (2, h.len != h.fullLen), (3, h.present == 0),
    (4, h.ext && !(if h.extY then h.has 5 else h.has 0))]

/-- R656: the fault a word meets, as cause and slot; none where it may issue. -/
def State.decodeFault (s : State) (w : InsnWord) (bad : Bool) : Option (Nat × Nat) :=
  if bad then some (1, 7)
  else if headerCause w.hdr != 0 then some (headerCause w.hdr, 7)
  else
    let extS := w.hdr.ext && !w.hdr.extY
    let extY := w.hdr.ext && w.hdr.extY
    let slot (k : Nat) (c : Option Nat) : Option (Nat × Nat) :=
      match c with
      | some n => if n = 0 then none else some (n, k)
      | none => none
    let l : List (Option (Nat × Nat)) := [
      slot 0 (w.s.map (fun x => sCause x extS s.seq.branch.isSome)),
      slot 1 (w.v.map vCause),
      slot 2 (w.m.map (fun x => mCause x s.seq.active)),
      slot 3 (w.ld.map (fun x => lsCause x true (s.feature featAttention) s.spanLen)),
      slot 4 (w.st.map (fun x => lsCause x false (s.feature featAttention) s.spanLen)),
      slot 5 (w.y.map (fun x => yCause x extY w.ext))]
    l.foldl (fun a b => match a with | some _ => a | none => b) none

end Sys2Proof.Machine
end

