-- ==== Sys2Proof/Machine/VectorOps.lean ====
section
/-! DEFINITION. The vector engine's results (R192 to R217): what each V-slot operation makes of a region's lane registers,
predicates and accumulator row, and its latency. -/
namespace Sys2Proof.Machine

/-! ## A region's registers (R192, R193, R196) -/

def RegionSt.reg (r : RegionSt) (n : Nat) : List (BitVec 32) := sread 0 r.lanes (64 * n) 64
def RegionSt.setReg (r : RegionSt) (n : Nat) (lanes : List (Nat × BitVec 32)) : RegionSt :=
  { r with lanes := lanes.foldl (fun m e => sset 0 m (64 * n + e.1) e.2) r.lanes }

def RegionSt.pred (r : RegionSt) (n : Nat) : BitVec 64 := if n = 0 then BitVec.allOnes 64 else sget 0 r.preds n
def RegionSt.setPred (r : RegionSt) (n : Nat) (v : BitVec 64) : RegionSt :=
  if n = 0 then r else { r with preds := sset 0 r.preds n v }

/-- R196: half a row of the accumulator. -/
def RegionSt.accHalf (r : RegionSt) (row half : Nat) : List (BitVec 32) := sread 0 r.acc (128 * row + 64 * half) 64
def RegionSt.accRow (r : RegionSt) (row : Nat) : List (BitVec 32) := sread 0 r.acc (128 * row) 128
def RegionSt.setAcc (r : RegionSt) (row col : Nat) (v : BitVec 32) : RegionSt :=
  { r with acc := sset 0 r.acc (128 * row + col) v }

/-- The bytes a register holds (R193). -/
def laneBytes (l : List (BitVec 32)) : List Byte := l.flatMap (fun w => leBytes 4 w.toNat)

/-- The lanes of a byte string from a lane on, each whole. -/
def lanesFrom (lo : Nat) (b : List Byte) : List (Nat × BitVec 32) :=
  (List.range (b.length / 4)).map (fun i => (lo + i, BitVec.ofNat 32 (leAt b (4 * i) 4)))

/-! ## One lane -/

/-- R199: one operation on floating-point elements; R200: on integers. -/
def fpLane2 (op : Nat) (f : FloatFmt) (x y : Nat) : Nat :=
  match op with
  | 0x01 => f.op2 Num.add x y
  | 0x02 => f.op2 (fun a b => a.add b.neg) x y
  | 0x03 => f.op2 Num.mul x y
  | 0x05 => f.op2 (Num.minMax false) x y
  | _ => f.op2 (Num.minMax true) x y

def intOf (fmt x : Nat) : Int := if fmt = 8 then sext x 32 else (x : Int)

def intLane2 (op fmt : Nat) (sat : Bool) (x y : Nat) : Nat :=
  let a := intOf fmt x
  let b := intOf fmt y
  let v := match op with
    | 0x01 => a + b
    | 0x02 => a - b
    | 0x03 => a * b
    | 0x05 => min a b
    | _ => max a b
  let r := intRange fmt
  intBits fmt (if sat then clampInt r.1 r.2 v else v)

/-- Apply an operation to the elements of a lane: one of 32 bits, or two of BF16 (R195). -/
def perElem (fmt : Nat) (g : FloatFmt → Nat → Nat → Nat → Nat) (x y z : Nat) : Nat :=
  if fmt = 1 then
    g bf16 (x % 65536) (y % 65536) (z % 65536) + 65536 * g bf16 (x / 65536) (y / 65536) (z / 65536)
  else g fp32 x y z

def lane2 (op fmt : Nat) (sat : Bool) (x y : Nat) : Nat :=
  if fmt ≤ 1 then perElem fmt (fun f a b _ => fpLane2 op f a b) x y 0 else intLane2 op fmt sat x y

/-- R198: VABS and VNEG. -/
def lane1 (op fmt : Nat) (sat : Bool) (x : Nat) : Nat :=
  if fmt ≤ 1 then
    perElem fmt (fun f a _ _ =>
      let s := f.signBit true
      if op = 0x07 then a % s else if a < s then a + s else a - s) x 0 0
  else
    let v := sext x 32
    let w := if op = 0x07 then (v.natAbs : Int) else -v
    intBits 8 (if sat then clampInt (-2147483648) 2147483647 w else w)

/-- R198: bitwise operations and shifts. -/
def bitLane (op : Nat) (x y : BitVec 32) : BitVec 32 :=
  match op with
  | 0x09 => x &&& y
  | 0x0A => x ||| y
  | 0x0B => x ^^^ y
  | 0x0C => x <<< (y.toNat % 32)
  | 0x0D => x >>> (y.toNat % 32)
  | _ => x.sshiftRight (y.toNat % 32)

/-- R201: VCMP on one lane. -/
def cmpLane (fmt cond x y : Nat) : Bool :=
  if fmt = 0 then
    let a := fp32.decode x
    let b := fp32.decode y
    if a == .nan || b == .nan then cond == 1 || cond == 6
    else
      let e := a.eqv b
      let l := !e && a.lt b
      match cond with
      | 0 => e | 1 => !e | 2 => l | 3 => l || e | 4 => !l && !e | 5 => !l | _ => false
  else
    let a := intOf fmt x
    let b := intOf fmt y
    match cond with
    | 0 => a == b | 1 => a != b | 2 => decide (a < b) | 3 => decide (a ≤ b) | 4 => decide (b < a) | 5 => decide (b ≤ a)
    | _ => false

/-! ## Conversions (R202, R203) -/

/-- R202: the lanes VCVT writes. -/
def cvtLanes (f : VSlot) (a : List (BitVec 32)) : List (Nat × BitVec 32) :=
  let target := f.imm % 16
  let rnd := f.imm / 16 % 4
  let sat := bitAt f.imm 6
  let src := elemsOf (fmtBits f.fmt) (laneBytes a) (64 * (f.b % 4)) 64
  lanesFrom (2 * fmtBits target * (f.c % 4)) (packElems (fmtBits target) (src.map (cvtElem f.fmt target rnd sat)))

/-- R203: the element lanes VQMX writes, and its two scales. -/
def qmxLanes (f : VSlot) (a : List (BitVec 32)) (mask : BitVec 64) : List (Nat × BitVec 32) × Nat :=
  let target := f.imm % 16
  let h := f.imm / 16 % 2
  let v := a.zipIdx.map (fun e => if mask.getLsbD e.2 then fp32.decode e.1.toNat else fp32.decode 0)
  let b0 := mxBlock target (v.take 32)
  let b1 := mxBlock target (v.drop 32)
  (lanesFrom (2 * fmtBits target * h) (packElems (fmtBits target) (b0.2 ++ b1.2)), b0.1 + 256 * b1.1)

/-! ## Scans (R206, R207) -/

def scanOp (imm fmt x y : Nat) : Nat :=
  match imm % 4 with
  | 0 => lane2 0x01 fmt false x y
  | 1 => lane2 0x06 fmt false x y
  | _ => lane2 0x05 fmt false x y

/-- R206: the identity of a scan. -/
def scanIdentity (imm fmt : Nat) : Nat :=
  match imm % 4 with
  | 0 => 0
  | 1 => if fmt = 0 then 0xFF800000 else intBits fmt (intRange fmt).1
  | _ => if fmt = 0 then 0x7F800000 else intBits fmt (intRange fmt).2

/-- R207: the local results of a region. -/
def scanLocal (imm fmt : Nat) : Nat → List (Nat × Bool) → List Nat
  | _, [] => []
  | prev, (x, f) :: r =>
    let v := if f then x else scanOp imm fmt prev x
    v :: scanLocal imm fmt v r

def scanLocals (imm fmt : Nat) : List (Nat × Bool) → List Nat
  | [] => []
  | (x, _) :: r => x :: scanLocal imm fmt x r

/-- R207: inclusive results of a region with its carry. -/
def scanIncl (imm fmt : Nat) (carry : Option Nat) (loc : List Nat) (flags : List Bool) : List Nat :=
  match carry with
  | none => loc
  | some c => loc.zipIdx.map (fun e =>
      if (flags.take (e.2 + 1)).any id then e.1 else scanOp imm fmt c e.1)

/-- R207: what a scan writes: `before` is the inclusive result of the last lane of the region before, none at the scope's
start. -/
def scanOut (imm fmt : Nat) (carry : Option Nat) (before : Option Nat) (loc : List Nat) (flags : List Bool) : List Nat :=
  let incl := scanIncl imm fmt carry loc flags
  if bitAt imm 4 then
    (List.range 64).map (fun i =>
      if flags.getD i false then scanIdentity imm fmt
      else if i = 0 then before.getD (scanIdentity imm fmt)
      else incl.getD (i - 1) 0)
  else incl

/-! ## Sorting (R210, R211) -/

/-- R210: key `x` goes before key `y` in the direction. -/
def keyBefore (fmt : Nat) (desc : Bool) (x y : Nat) : Bool :=
  if fmt = 0 then
    let a := fp32.decode x
    let b := fp32.decode y
    if a == .nan then false else if b == .nan then true else if desc then b.lt a else a.lt b
  else if desc then decide (intOf fmt y < intOf fmt x) else decide (intOf fmt x < intOf fmt y)

/-- Insert after every entry that does not go after it. -/
def sortInsert (before : Nat → Nat → Bool) (e : Nat × Nat) : List (Nat × Nat) → List (Nat × Nat)
  | [] => [e]
  | x :: r => if before e.1 x.1 then e :: x :: r else x :: sortInsert before e r

/-- R211: merge, entries of the first list first among equals. -/
def mergePairs (before : Nat → Nat → Bool) : Nat → List (Nat × Nat) → List (Nat × Nat) → List (Nat × Nat)
  | 0, _, _ => []
  | _ + 1, [], b => b
  | _ + 1, a, [] => a
  | n + 1, x :: a, y :: b =>
    if before y.1 x.1 then y :: mergePairs before n (x :: a) b else x :: mergePairs before n a (y :: b)

/-- R210: 64 places, the last without an entry. -/
def padPairs (l : List (Nat × Nat)) : List (Nat × Nat) :=
  let t := l.take 64
  t ++ List.replicate (64 - t.length) (0xFFFFFFFF, 0xFFFFFFFF)

/-- The lanes of a predicate. -/
def maskLanes (m : BitVec 64) : List Nat := (List.range 64).filter (fun i => m.getLsbD i)

def keyed (keys pay : List (BitVec 32)) (mask : BitVec 64) : List (Nat × Nat) :=
  (maskLanes mask).map (fun i => ((keys.getD i 0).toNat, (pay.getD i 0).toNat))

def sortPairs (fmt : Nat) (desc : Bool) (l : List (Nat × Nat)) : List (Nat × Nat) :=
  padPairs (l.foldl (fun t e => sortInsert (keyBefore fmt desc) e t) [])

/-! ## VRAND (R217) -/

def rand64 (seed counter index : BitVec 64) : BitVec 64 :=
  let x := seed + counter * 0xA3C59E217B4D0F63 + index * 0x6F1BD8472C95E3A9
  let round (x : BitVec 64) : BitVec 64 :=
    let x := (x ^^^ (x >>> 29)) * 0xC2B75A1E93F64D1D
    let x := (x ^^^ (x >>> 32)) * 0x8E45F0A367C1B92B
    x ^^^ (x >>> 31)
  round (round (round x))

/-- x[63:40] × 2^−24 in FP32, or x[63:32]. -/
def randLane (fmt : Nat) (x : BitVec 64) : Nat :=
  if fmt = 0 then fp32.encode .toInf (.fin false (x.toNat / 2 ^ 40) (-24)) else x.toNat / 2 ^ 32

/-! ## Summaries (R216) -/

/-- A region's part of a summary: value, lanes counted, and whether a lane is NaN. `base` is the global index of the region's
first lane. -/
def sumPart (f : VSlot) (a : List (BitVec 32)) (mask : BitVec 64) (base : Nat) : BitVec 64 × Nat × Bool :=
  let on := maskLanes mask
  let xs := on.map (fun i => (a.getD i 0).toNat)
  let n := on.length
  match f.op with
  | 0x40 | 0x41 =>
    let op := if f.op = 0x40 then 0x06 else 0x05
    let nan := f.fmt == 0 && xs.any (fun x => fp32.decode x == .nan)
    (match xs with
      | [] => (0, 0, false)
      | x :: r => (BitVec.ofNat 64 (r.foldl (lane2 op f.fmt false) x), n, nan))
  | 0x45 => (match on with | [] => (0, 0, false) | i :: _ => (BitVec.ofNat 64 (base + i), n, false))
  | _ => (BitVec.ofNat 64 n, n, false)

/-- R216: the summary of the regions' parts, in order of global lane index; `lanes` is the number of enabled lanes. -/
def sumValue (op fmt lanes : Nat) (parts : List (BitVec 64 × Nat × Bool)) : BitVec 64 :=
  let got := parts.filter (fun p => p.2.1 != 0)
  let count := got.foldl (fun n p => n + p.2.1) 0
  let maxOp := op == 0x40
  let wide (x : Nat) : BitVec 64 := if fmt = 8 then BitVec.ofInt 64 (sext x 32) else BitVec.ofNat 64 x
  match op with
  | 0x40 | 0x41 =>
    if got.any (fun p => p.2.2) then 0x7FC00000
    else
      (match got with
        | [] => if fmt = 0 then (if maxOp then 0xFF800000 else 0x7F800000)
            else wide (intBits fmt (if maxOp then (intRange fmt).1 else (intRange fmt).2))
        | p :: r => wide (r.foldl (fun x q => lane2 (if maxOp then 0x06 else 0x05) fmt false x q.1.toNat) p.1.toNat))
  | 0x42 => BitVec.ofNat 64 count
  | 0x43 => if count = 0 then 0 else 1
  | 0x44 => if count = lanes then 1 else 0
  | _ => match got with
    | [] => BitVec.allOnes 64
    | p :: _ => p.1

/-! ## Latency and registers read -/

/-- R198: latency of an operation that writes a register. -/
def vLatency (f : VSlot) : Nat :=
  match f.op with
  | 0x01 | 0x02 | 0x03 | 0x04 | 0x18 => 4
  | 0x11 | 0x12 | 0x13 | 0x14 => 1
  | 0x19 | 0x39 => 8
  | 0x20 | 0x21 | 0x22 => 10
  | 0x23 | 0x24 => 12
  | 0x25 | 0x26 | 0x27 | 0x28 => 16
  | 0x30 => if f.imm / 4 % 4 = 0 then 6 else if f.imm / 4 % 4 = 1 then 14 else 24
  | 0x31 | 0x48 => 6
  | 0x32 => 3
  | 0x38 => 21
  | 0x50 => 20
  | _ => 2

/-- Lane registers an operation reads. -/
def VSlot.reads (f : VSlot) : List Nat :=
  let a := if f.acc then [] else [f.a]
  match f.op with
  | 0x00 | 0x11 | 0x12 | 0x13 | 0x14 | 0x42 | 0x43 | 0x44 | 0x45 => []
  | 0x07 | 0x08 | 0x18 | 0x19 | 0x31 | 0x40 | 0x41 | 0x50 => a
  | 0x04 => a ++ [f.b, f.c]
  | 0x30 => if bitAt f.imm 5 then a ++ [f.b] else a
  | 0x32 => if bitAt f.imm 6 then a else a ++ [f.b]
  | 0x39 => [f.a, f.a + 1, f.b, f.b + 1]
  | 0x48 => [f.a, f.b, f.c, f.c + 1]
  | 0x58 => [f.b]
  | op => if 0x20 ≤ op && decide (op ≤ 0x28) then a else a ++ [f.b]

/-! ## What an operation writes -/

/-- R195: whole lanes under a predicate. -/
def underMask (mask : BitVec 64) (l : List (Nat × BitVec 32)) : List (Nat × BitVec 32) :=
  l.filter (fun e => mask.getLsbD e.1)

/-- The bits of a predicate result, as lanes of 0 and 1. -/
def predLanes (mask : BitVec 64) (p : Nat → Bool) : List (Nat × BitVec 32) :=
  (maskLanes mask).map (fun i => (i, if p i then 1 else 0))

/-- The destinations of an operation that writes registers of its own region, with the lanes each receives. -/
def RegionSt.vResult (r : RegionSt) (f : VSlot) : List (Dest × List (Nat × BitVec 32)) :=
  let a := if f.acc then r.accHalf f.accRow f.half else r.reg f.a
  let b := r.reg f.b
  let c := r.reg f.c
  let mask := r.pred f.pred
  let at_ (l : List (BitVec 32)) (i : Nat) : Nat := (l.getD i 0).toNat
  let sat := bitAt f.imm 0
  let all (g : Nat → Nat) : List (Dest × List (Nat × BitVec 32)) :=
    [(.lane f.dst, (maskLanes mask).map (fun i => (i, BitVec.ofNat 32 (g i))))]
  let pair (l : List (Nat × Nat)) : List (Dest × List (Nat × BitVec 32)) :=
    [(.lane f.dst, l.zipIdx.map (fun e => (e.2, BitVec.ofNat 32 e.1.1))),
     (.lane (f.dst + 1), l.zipIdx.map (fun e => (e.2, BitVec.ofNat 32 e.1.2)))]
  let p1 := r.pred (f.a % 8)
  let p2 := r.pred (f.b % 8)
  match f.op with
  | 0x01 | 0x02 | 0x03 | 0x05 | 0x06 => all (fun i => lane2 f.op f.fmt (sat && decide (f.op ≤ 3)) (at_ a i) (at_ b i))
  | 0x04 => all (fun i => perElem f.fmt (fun g x y z => g.fma x y z) (at_ a i) (at_ b i) (at_ c i))
  | 0x07 | 0x08 => all (fun i => lane1 f.op f.fmt sat (at_ a i))
  | 0x09 | 0x0A | 0x0B | 0x0C | 0x0D | 0x0E => all (fun i => (bitLane f.op (a.getD i 0) (b.getD i 0)).toNat)
  | 0x0F => all (fun i => if (r.pred (f.imm % 8)).getLsbD i then at_ a i else at_ b i)
  | 0x10 => [(.pred f.dst, predLanes mask (fun i => cmpLane f.fmt (f.imm % 8) (at_ a i) (at_ b i)))]
  | 0x11 => [(.pred f.dst, predLanes mask (fun i => p1.getLsbD i && p2.getLsbD i))]
  | 0x12 => [(.pred f.dst, predLanes mask (fun i => p1.getLsbD i || p2.getLsbD i))]
  | 0x13 => [(.pred f.dst, predLanes mask (fun i => p1.getLsbD i && !p2.getLsbD i))]
  | 0x14 => [(.pred f.dst, predLanes mask (fun _ => sat))]
  | 0x18 => [(.lane f.dst, underMask mask (cvtLanes f a))]
  | 0x19 =>
    let q := qmxLanes f a mask
    [(.lane f.dst, q.1), (.scales f.dst (f.imm / 16 % 2), [(63, BitVec.ofNat 32 q.2)])]
  | 0x30 =>
    let xs := (List.range 64).map (fun i =>
      (if mask.getLsbD i then at_ a i else scanIdentity f.imm f.fmt, bitAt f.imm 5 && bitAt (at_ b i) 0))
    let out := scanOut f.imm f.fmt none none (scanLocals f.imm f.fmt xs) (xs.map (fun e => e.2))
    all (fun i => out.getD i 0)
  | 0x32 =>
    all (fun i => if bitAt f.imm 6 then at_ a (f.imm % 64) else if 64 ≤ at_ b i then 0 else at_ a (at_ b i))
  | 0x38 => pair (sortPairs f.fmt sat (keyed a b mask))
  | 0x39 =>
    pair (padPairs (mergePairs (keyBefore f.fmt sat) 128 (keyed a (r.reg (f.a + 1)) mask)
      (keyed b (r.reg (f.b + 1)) mask)))
  | 0x48 =>
    all (fun i => randLane f.fmt (rand64 (b.getD i 0 ++ a.getD i 0) ((r.reg (f.c + 1)).getD i 0 ++ c.getD i 0)
      (BitVec.ofNat 64 (i + 64 * (f.imm % 64)))))
  | 0x58 => [(.acc f.accRow f.half, (maskLanes mask).map (fun i => (i, b.getD i 0)))]
  | op =>
    if 0x20 ≤ op && decide (op ≤ 0x28) then
      all (fun i => perElem f.fmt (fun _ x _ _ => refFunc f.fmt op x) (at_ a i) 0 0)
    else []

end Sys2Proof.Machine
end

