-- ==== Sys2Proof/Machine/ArrayOps.lean ====
section
/-! DEFINITION. The matrix array (R157 to R186): streams, loads and flips as the regions meet them, each in its own advancing
cycles. A position is virtual row and column; entries on the crossings are keyed by stream, row and position. -/
namespace Sys2Proof.Machine

/-- The virtual row and column of a region in use. -/
def State.gridPos (s : State) (n : Nat) : Option (Nat × Nat) := (s.rows.idxOf? (n / 8)).map (fun v => (v, n % 8))
/-- R157: the number V of virtual rows. -/
def State.gridRows (s : State) : Nat := s.rows.length

/-- R92: what a read or a write of a crossing does to the region at a virtual row and column. -/
def State.atRegion (s : State) (r c : Nat) (f : RegionSt → RegionSt) : State :=
  match s.physOf (8 * r + c) with
  | some n => s.setRegion n (f (s.region n))
  | none => s

/-- R170: cycles by which an operation reaches a tile after tile (0, 0). -/
def skew (r c : Nat) : Nat := 8 * r + 6 * c

/-! ## Shapes (R163, R165, R166) -/

def kindDepth (kind : Nat) : Nat := if kind = 3 then 256 else 128
/-- R166: lines of a record. -/
def Stream.recLines (x : Stream) : Nat := (kindDepth x.kind * fmtBits x.afmt + 511) / 512
/-- R166: scale bytes of a record. -/
def Stream.scales (x : Stream) : Nat := if x.mx then kindDepth x.kind / 32 else 0
/-- R166: records of a group. -/
def Stream.group (x : Stream) : Nat := 64 / x.scales
/-- R166: first line of a record, and its group's scale line. -/
def Stream.record (x : Stream) (m : Nat) : Nat :=
  if x.mx then x.line + m / x.group * (x.group * x.recLines + 1) + m % x.group * x.recLines else x.line + m * x.recLines
def Stream.scaleLine (x : Stream) (m : Nat) : Nat := x.line + m / x.group * (x.group * x.recLines + 1) + x.group * x.recLines

/-- R165: lines of a tile image. -/
def imageLines (kind fmt : Nat) : Nat :=
  kindDepth kind * fmtBits fmt / 4 + (if kind = 1 then 0 else kindDepth kind / 16)
/-- R165, R168: load groups of an operation. -/
def ArrayOp.groups (o : ArrayOp) : Nat := (o.lines + 3) / 4

/-- R172, R174: the row of a stream whose event at an offset falls in a cycle. -/
def Stream.rowAt (x : Stream) (off t : Nat) : Option Nat :=
  let t0 := x.start + off
  if t < t0 || (t - t0) % x.p != 0 then none
  else
    let m := (t - t0) / x.p
    let kept := match x.cut with | none => true | some c => decide (x.start + x.p * m < c)
    if m < x.rows && kept then some m else none

/-- R175: the rows of all streams whose event at an offset falls in a cycle. -/
def State.rowsAt (s : State) (off t : Nat) : List (Stream × Nat) :=
  s.array.streams.filterMap (fun x => (x.rowAt off t).map (fun m => (x, m)))

/-- Key of an entry: stream, row of the stream, virtual row and column; column 8 holds a group's scale line. -/
def arrKey (x : Stream) (m r c : Nat) : Nat := ((x.start * 2048 + m) * 16 + r) * 16 + c
/-- Entries waiting at a position. -/
def entriesAt {β : Type} (m : SMap β) (r c : Nat) : List Nat := (m.map (fun e => e.1)).filter (fun k => k / 16 % 16 == r && k % 16 == c)

/-! ## Entering operations (R161, R169, R174) -/

/-- R161: the records after an M-slot operation. -/
def recordsAfter (f : MSlot) (active shadow : BufRec) : BufRec × BufRec :=
  match f.op with
  | 0x01 | 0x02 | 0x03 => (active, ⟨f.op, f.wfmt⟩)
  | 0x08 => (shadow, active)
  | _ => (active, shadow)

/-- The M slot of a word executed at a cycle enters the array, when the first region executes it. -/
def State.enterArray (s : State) (t : Nat) (slot : Option Slot) : State :=
  if t < s.array.front then s
  else
    let a := { s.array with front := t + 1 }
    match slot with
    | none => { s with array := a }
    | some w =>
      let f := mSlot w.bits
      let recs := recordsAfter f a.active a.shadow
      match f.op with
      | 0x01 | 0x02 | 0x03 =>
        { s with array := { a with
            shadow := recs.2
            ops := a.ops ++ [({ start := t, flip := false, kind := f.op, fmt := f.wfmt, line := w.addr
                                lines := imageLines f.op f.wfmt, shadow := !a.flip } : ArrayOp)] } }
      | 0x08 =>
        { s with array := { a with
            active := recs.1, shadow := recs.2, flip := !a.flip
            ops := a.ops ++ [({ start := t, flip := true, kind := recs.1.kind, fmt := recs.1.fmt, line := 0, lines := 0, shadow := !a.flip } : ArrayOp)] } }
      | 0x10 | 0x11 =>
        let running (x : Stream) : Bool :=
          let rows := match x.cut with | none => x.rows | some c => min x.rows ((c - x.start + x.p - 1) / x.p)
          decide (0 < rows) && decide (t ≤ x.start + x.p * (rows - 1))
        let cutAny := a.streams.any running
        let x : Stream :=
          { start := t, p := if a.active.fmt = 1 then 2 else 1, mx := f.op == 0x11, kind := a.active.kind, wfmt := f.wfmt
            afmt := f.afmt, line := w.addr, accRow := f.accRow, rows := f.count + 1, accum := f.accum, cut := none }
        let s := { s with array := { a with
          streams := a.streams.map (fun y => if running y then { y with cut := some t } else y) ++ [x] } }
        if cutAny then s.each (s.rows.map (fun row => 8 * row)) (fun n u => u.raise (RGN_ARRAY_EVT.TRUNC n)) else s
      | _ => { s with array := a }

/-- Operations that every region has left behind are forgotten. -/
def State.pruneArray (s : State) : State :=
  let low := s.executed
  let span := 18 + skew s.gridRows 8
  let streams := s.array.streams.filter (fun x => decide (low ≤ x.start + span + x.p * x.rows))
  let live (k : Nat) : Bool := streams.any (fun x => x.start == k / 524288)
  { s with array := { s.array with
    streams := streams
    records := sfilter s.array.records live
    tileSums := sfilter s.array.tileSums live
    partials := sfilter s.array.partials live
    ops := s.array.ops.filter (fun o => decide (low ≤ o.start + span + o.groups)) } }

/-! ## Reads of the slices (R166 to R168) -/

/-- A read of a slice by the array: what it is for (0 record, 1 scale line, 2 tile image), its order among the lines of its
purpose, and the line. -/
structure ArrayRead where
  use  : Nat
  op   : Nat
  ord  : Nat
  line : Nat
  deriving DecidableEq, Repr

/-- R167: of two reads, a record's goes before a tile image's, and of one kind, the one at the lower line address. -/
def ArrayRead.before (a b : ArrayRead) : Bool :=
  let image (x : ArrayRead) : Nat := if x.use = 2 then 1 else 0
  decide (image a < image b) || (image a == image b && decide (a.line < b.line))

/-- R168, R175: the array's reads in a region's cycle; `op` is the start of the stream or load, `ord` counts the lines. -/
def State.arrayReads (s : State) (n t : Nat) : List ArrayRead :=
  match s.gridPos n with
  | none => []
  | some (r, c) =>
    let recs := if c != 0 then [] else
      (s.rowsAt (1 + 8 * r) t).flatMap (fun e =>
        (List.range e.1.recLines).map (fun i => (⟨0, e.1.start, i, (e.1.record e.2 + i) % 524288⟩ : ArrayRead))
          ++ (if e.1.mx && e.2 % e.1.group == 0 then [⟨1, e.1.start, 0, e.1.scaleLine e.2 % 524288⟩] else []))
    let loads := s.array.ops.flatMap (fun o =>
      let t0 := o.start + 1 + skew r c
      let i := t - t0
      if o.flip || decide (t < t0) || decide (o.groups ≤ i) then []
      else (List.range (min 4 (o.lines - 4 * i))).map (fun j => (⟨2, o.start, 4 * i + j, (o.line + 4 * i + j) % 524288⟩ : ArrayRead)))
    recs ++ loads

/-- R167: the read is dropped. Two reads of one kind at one line address are both served (DESIGN CHOICE,
notes/assumptions/77.md: the rule ranks them by address alone). -/
def readDropped (l : List ArrayRead) (a : ArrayRead) : Bool :=
  l.any (fun b => bankOf b.line == bankOf a.line && b.before a)

/-- R228, R229: a region that will execute its next word may claim the port in that cycle. -/
def State.portClaimed (s : State) (n bank : Nat) (write : Bool) : Bool :=
  let r := s.region n
  s.runsNext n && ((!write && (s.arrayReads n r.cycle).any (fun a => bankOf a.line == bank))
    || r.accesses.any (fun a => (a.use.claims (r.cycle - a.start)).any (fun c =>
      (match c.1 with | none => true | some b => b == bank) && c.2 == write)))

/-! ## Waits on the array's crossings (R93, R176) -/

/-- R172: region row that receives a row of a stream. -/
def State.sumRow (s : State) (m : Nat) : Nat := m % s.gridRows

/-- Cycle of the accumulator write of a column after a stream's start (R175). -/
def State.accOffset (s : State) (c : Nat) : Nat := 18 + 8 * (s.gridRows - 1) + 6 * c

/-- R51: a region needs an activation that has not come from the left. -/
def State.actEmpty (s : State) (n t : Nat) : Bool :=
  match s.gridPos n with
  | none => false
  | some (r, c) => (s.rowsAt (2 + skew r c) t).any (fun e =>
      sget [] s.array.records (arrKey e.1 e.2 r c) == []
        || !(s.region n).ripe (xActivation, 0, arrKey e.1 e.2 r c) (s.region n).edges)

/-- R51, R176: a region needs a partial sum that has not come from above, 6 cycles after its write. -/
def State.partEmpty (s : State) (n t : Nat) : Bool :=
  match s.gridPos n with
  | none => false
  | some (r, c) =>
    r != 0 && (s.rowsAt (10 + skew r c) t).any (fun e =>
      sget [] s.array.partials (arrKey e.1 e.2 r c) == []
        || !(s.region n).ripe (xPartial, 0, arrKey e.1 e.2 r c) (s.region n).edges)

/-- R51, R176: a region needs a column sum that has not come from the last row. -/
def State.sumEmpty (s : State) (n t : Nat) : Bool :=
  match s.gridPos n with
  | none => false
  | some (r, c) =>
    (s.region n).sumsAt != some t && (s.rowsAt (s.accOffset c) t).any (fun e =>
      s.sumRow e.2 == r && (sget [] s.array.partials (arrKey e.1 e.2 s.gridRows c) == []
        || !(s.region n).ripe (xResult, 0, arrKey e.1 e.2 s.gridRows c) (s.region n).edges))

/-- R51: a region waits on an entry of the array's crossings that it needs in this cycle. -/
def State.arrayEmpty (s : State) (n t : Nat) : Bool := s.actEmpty n t || s.partEmpty n t || s.sumEmpty n t

/-- R93: a region must write a full activation crossing. -/
def State.actFull (s : State) (n t : Nat) (held : Nat → Bool) : Bool :=
  match s.gridPos n with
  | none => false
  | some (r, c) =>
    !(s.rowsAt (2 + skew r c) t).isEmpty && decide (c < 7)
      && (held 1 || decide (32 ≤ (entriesAt s.array.records r (c + 1)).length + (s.region n).notYet xActivation))

/-- R93, R176: a region must write a full partial-sum crossing, or as the last row a full result path: the region that is to
read it. -/
def State.downFull (s : State) (n t : Nat) (held : Nat → Bool) : Option Nat :=
  match s.gridPos n with
  | none => none
  | some (r, c) =>
    let v := s.gridRows
    (((s.rowsAt (12 + skew r c) t).find? (fun e =>
      if r + 1 < v then held 0 || decide (32 ≤ (entriesAt s.array.partials (r + 1) c).length + (s.region n).notYet xPartial)
      else decide (32 ≤ ((entriesAt s.array.partials v c).filter (fun k => s.sumRow (k / 256 % 2048) == s.sumRow e.2)).length
        + (s.region n).notYet (xResult + 64 * (1 + s.sumRow e.2)))))).map
      (fun e => 8 * (if r + 1 < v then r + 1 else s.sumRow e.2) + c)

/-- R51, R93: a region waits to write a full crossing: 0 partial sum or result path, 1 activation. -/
def State.arrayFull (s : State) (n t : Nat) (held : Nat → Bool) : Bool := s.actFull n t held || (s.downFull n t held).isSome

/-! ## Events of one cycle of one region -/

/-- R168: bytes of a tile image held by a buffer. -/
def TileBuf.bytes (b : TileBuf) (n : Nat) : List Byte :=
  (List.range ((n + 255) / 256)).flatMap (fun i => padTo 256 (sget [] b.groups i))

def RegionSt.activeBuf (r : RegionSt) : TileBuf := if r.flip then r.buf1 else r.buf0

def zeroGroup (b : List Byte) : List Byte := if b.all (fun x => x == 0) then [] else b

/-- R187: the class of a block by its record: 1 BF16, 2 FP8, 3 FP4, in rising order of the half-watts of R531 per tile. -/
def BufRec.tileClass (b : BufRec) : Nat := if b.kind = 0 then 0 else if b.kind = 3 then 3 else if b.fmt = 1 then 1 else 2

/-- R168: loads whose write falls by this cycle reach their buffer. -/
def RegionSt.writeLoads (r : RegionSt) (t : Nat) : RegionSt :=
  let r' := (r.loads.filter (fun l => decide (l.due ≤ t))).foldl (fun (x : RegionSt) l =>
    let put (b : TileBuf) : TileBuf := { b with groups := sset [] b.groups l.group (zeroGroup l.bytes) }
    if l.buf then { x with buf1 := put x.buf1 } else { x with buf0 := put x.buf0 }) r
  { r' with loads := r.loads.filter (fun l => decide (t < l.due)) }

/-- R170, R171: flips that reach a tile in this cycle. -/
def State.flipTile (s : State) (n r c t : Nat) : State :=
  (s.array.ops.filter (fun o => o.flip && o.start + 2 + skew r c == t)).foldl (fun u o =>
    let early := u.array.ops.any (fun l => !l.flip && l.shadow == o.shadow && decide (l.start < o.start)
      && decide (o.start ≤ l.start + l.groups))
    let u := u.setRegion n { u.region n with flip := !(u.region n).flip, active := ⟨o.kind, o.fmt⟩ }
    if early then u.raise (RGN_ARRAY_EVT.FLIP_EARLY n) else u) s

/-- R163, R170: the block that is active when a row reaches the tile and the stream's activations are of the permitted
formats, and of one depth. -/
def Stream.fits (x : Stream) (block : BufRec) : Bool :=
  streamOk x.mx block block.fmt x.afmt && kindDepth block.kind == kindDepth x.kind

/-- R157, R170, R179, R184: the tile sums of a streamed row against the block that is active, one for each of 128 columns,
and how many were aligned. -/
def tileRow (x : Stream) (block : BufRec) (buf : TileBuf) (record : List Byte) : List (BitVec 32) × Nat :=
  let depth := kindDepth x.kind
  let wb := fmtBits block.fmt
  let img := buf.bytes (64 * imageLines block.kind block.fmt)
  let a := elemsOf (fmtBits x.afmt) record 0 depth
  let xs := (bytesAt record (64 * x.recLines) x.scales).map BitVec.toNat
  let sums := (List.range 128).map (fun n =>
    let w := (List.range depth).map (fun k => elemAt wb img (128 * k + n))
    let ws := if block.kind = 1 then [] else (List.range (depth / 32)).map (fun j => leAt img (16 * depth * wb + 128 * j + n) 1)
    tileSum block.fmt x.afmt w a ws xs)
  (sums.map (fun e => e.1), (sums.filter (fun e => e.2)).length)

/-- Sums the spec states no value for: a row meets, by a flip in mid-stream, a block that R163 permits no stream of its
activations over (notes/assumptions/15.md, DESIGN CHOICE). -/
def State.freeSums (s : State) : (List (BitVec 32) × Nat) × State :=
  (((List.range 128).map (fun i => BitVec.ofNat 32 (Config.freeNat (s.freeCtr + i))), Config.freeNat (s.freeCtr + 128) % 129),
    { s with freeCtr := s.freeCtr + 129 })

/-- R175: streamed rows reach a tile: multiplied, and passed to the next column. -/
def State.multiplyRows (s : State) (n r c t : Nat) : State :=
  (s.rowsAt (2 + skew r c) t).foldl (fun u e =>
    let here := arrKey e.1 e.2 r c
    let rec_ := sget [] u.array.records here
    let g := u.region n
    let w := if e.1.fits g.active then (tileRow e.1 g.active g.activeBuf rec_, u) else u.freeSums
    let sums := w.1
    let u := w.2
    let records := sset [] u.array.records here []
    let records := if c < 7 then sset [] records (arrKey e.1 e.2 r (c + 1)) rec_ else records
    let u := { u with array := { u.array with
        records := records
        tileSums := sset [] u.array.tileSums here (sums.1 ++ [BitVec.ofNat 32 sums.2]) } }
    let u := if c = 0 then u
      else (u.atRegion r c (fun g => g.took (xActivation, 0, here))).atRegion r (c - 1) (fun g => g.freeSlot xActivation)
    if c < 7 then u.atRegion r (c + 1) (fun g => g.arrive (xActivation, 0, arrKey e.1 e.2 r (c + 1))) else u) s

/-- R176, R183, R189: sums are rounded, and counted; the partial sum from above is read, 6 cycles after its write, and
added. -/
def State.roundRows (s : State) (n r c t : Nat) : State :=
  (s.rowsAt (10 + skew r c) t).foldl (fun u e =>
    let here := arrKey e.1 e.2 r c
    let l := sget [] u.array.tileSums here
    let own := l.take 128
    let odd := (own.filter (fun x => match fp32.decode x.toNat with | .fin _ _ _ => false | _ => true)).length
    let a := u.array
    let u := if r = 0 then u
      else
        let u := { u with array := { a with
          tileSums := sset [] a.tileSums here (List.zipWith addFp32 (sget [] a.partials here) own)
          partials := sset [] a.partials here [] } }
        (u.atRegion r c (fun g => g.took (xPartial, 0, here))).atRegion (r - 1) c (fun g => g.freeSlot xPartial)
    (u.count (RGN_ARRAY_STAT.NONFINITE n) odd).count (RGN_ARRAY_STAT.SPREAD n) (l.getD 128 0).toNat) s

/-- R183, R176: the result leaves down the column, or from its last row on the result path. -/
def State.addRows (s : State) (r c t : Nat) : State :=
  (s.rowsAt (12 + skew r c) t).foldl (fun u e =>
    let here := arrKey e.1 e.2 r c
    let down := arrKey e.1 e.2 (r + 1) c
    let u := { u with array := { u.array with
        tileSums := sset [] u.array.tileSums here []
        partials := sset [] u.array.partials down ((sget [] u.array.tileSums here).take 128) } }
    if r + 1 < u.gridRows then u.atRegion (r + 1) c (fun g => g.arrive (xPartial, 0, down))
    else u.atRegion (u.sumRow e.2) c (fun g => g.arrive (xResult, 0, down))) s

/-- R172, R173, R178: column sums reach a region's bank in a cycle; a V-slot write to the same row in the same cycle is
lost. `rows` are the rows V-slot writes reach in this cycle. -/
def State.writeSums (s : State) (n r c t : Nat) (rows : List Nat) : State :=
  ((s.rowsAt (s.accOffset c) t).filter (fun e => s.sumRow e.2 == r)).foldl (fun u e =>
    let v := u.gridRows
    let key := arrKey e.1 e.2 v c
    let y := sget [] u.array.partials key
    if y == [] then u
    else
      let row := (e.1.accRow + e.2 / v) % 4096
      let g := u.region n
      let z := if e.1.accum then List.zipWith addFp32 (g.accRow row) y else y
      let g := z.zipIdx.foldl (fun (g : RegionSt) w => g.setAcc row w.2 w.1) g
      let u := { u.setRegion n (g.took (xResult, 0, key)) with array := { u.array with partials := sset [] u.array.partials key [] } }
      let u := u.atRegion (v - 1) c (fun g => g.freeSlot (xResult + 64 * (1 + u.sumRow e.2)))
      if rows.contains row then u.raise (RGN_ARRAY_EVT.ACC_CLASH n) else u) s

/-- R172, R148: a column sum on its way to a row of a region's bank, from the execution of its stream to its write. -/
def State.sumFlight (s : State) (n t row : Nat) : Bool :=
  match s.gridPos n with
  | none => false
  | some (r, c) =>
    s.array.streams.any (fun x => (List.range x.rows).any (fun m =>
      s.sumRow m == r && (x.accRow + m / s.gridRows) % 4096 == row
        && (match x.cut with | none => true | some k => decide (x.start + x.p * m < k))
        && decide (t < x.start + s.accOffset c + x.p * m)))

/-- R148: rows a column sum overwrites in a cycle, without having added to them. -/
def State.sumOver (s : State) (n r c t : Nat) : List Nat :=
  if (s.region n).sumsAt = some t then []
  else ((s.rowsAt (s.accOffset c) t).filter (fun e => s.sumRow e.2 == r && !e.1.accum)).map
    (fun e => (e.1.accRow + e.2 / s.gridRows) % 4096)

/-- Rows the array writes in a region's bank in a cycle. -/
def State.sumRows (s : State) (r c t : Nat) : List Nat :=
  ((s.rowsAt (s.accOffset c) t).filter (fun e => s.sumRow e.2 == r)).map (fun e => (e.1.accRow + e.2 / s.gridRows) % 4096)

/-- R166, R168: what the array's reads of a cycle deliver: `got` gives each read's bytes. -/
def State.takeReads (s : State) (n r c t : Nat) (got : List (ArrayRead × List Byte)) : State :=
  let line (use op ord : Nat) : List Byte :=
    match got.find? (fun g => g.1.use == use && g.1.op == op && g.1.ord == ord) with
    | some g => g.2
    | none => allOnes 64
  let s := if c != 0 then s else
    (s.rowsAt (1 + 8 * r) t).foldl (fun u e =>
      let x := e.1
      let m0 := e.2 / (max 1 x.group) * (max 1 x.group)
      let u := if x.mx && e.2 == m0 then
          { u with array := { u.array with records := sset [] u.array.records (arrKey x m0 r 8) (line 1 x.start 0) } }
        else u
      let data := (List.range x.recLines).flatMap (fun i => line 0 x.start i)
      let sc := if x.mx then bytesAt (sget [] u.array.records (arrKey x m0 r 8)) ((e.2 - m0) * x.scales) x.scales else []
      let records := sset [] u.array.records (arrKey x e.2 r 0) (data ++ sc)
      let last := x.mx && (e.2 + 1 == m0 + x.group || e.2 + 1 == x.rows)
      { u with array := { u.array with records := if last then sset [] records (arrKey x m0 r 8) [] else records } }) s
  s.array.ops.foldl (fun u o =>
    let t0 := o.start + 1 + skew r c
    let i := t - t0
    if o.flip || decide (t < t0) || decide (o.groups ≤ i) then u
    else
      let b := (List.range (min 4 (o.lines - 4 * i))).flatMap (fun j => line 2 o.start (4 * i + j))
      let g := u.region n
      u.setRegion n { g with loads := g.loads ++ [⟨t + 2, o.shadow, i, b, ⟨o.kind, o.fmt⟩⟩] }) s

/-- R187, R594: the tile multiplies a row or writes a load group in this cycle. -/
def State.tileActive (s : State) (n r c t : Nat) : Bool :=
  !(s.rowsAt (2 + skew r c) t).isEmpty || (s.region n).loads.any (fun l => l.due == t)

/-- R187: the class a tile is active in counts toward the costliest of its pick. -/
def State.classTile (s : State) (n r c t : Nat) (loads : List LoadGroup) : State :=
  let g := s.region n
  let rows := if (s.rowsAt (2 + skew r c) t).isEmpty then 0 else g.active.tileClass
  let loads := (loads.filter (fun l => l.due == t)).foldl (fun k l => max k l.block.tileClass) 0
  s.setRegion n { g with tileClass := max g.tileClass (max rows loads) }

end Sys2Proof.Machine
end

