-- ==== Sys2Proof/Machine/Fec.lean ====
section
/-! DEFINITION. The link's forward error correction: RS(256,240) over GF(2^8) (R349, R351). -/
namespace Sys2Proof.Machine

/-- Product in GF(2^8) with field polynomial x^8 + x^4 + x^3 + x^2 + 1, over the bits of the second factor. -/
def gfMulGo : Nat → Byte → Byte → Byte → Byte
  | 0, _, _, acc => acc
  | n + 1, a, b, acc =>
    let acc := if b.getLsbD 0 then acc ^^^ a else acc
    let a2 := if a.getLsbD 7 then (a <<< 1) ^^^ 0x1D else a <<< 1
    gfMulGo n a2 (b >>> 1) acc
def gfMul (a b : Byte) : Byte := gfMulGo 8 a b 0

/-- Powers of an element. -/
def gfPow (a : Byte) : Nat → Byte
  | 0 => 1
  | n + 1 => gfMul (gfPow a n) a

/-- The inverse of an element that is not zero: its 254th power. -/
def gfInv (a : Byte) : Byte :=
  let a2 := gfMul a a
  let a4 := gfMul a2 a2
  let a8 := gfMul a4 a4
  let a16 := gfMul a8 a8
  let a32 := gfMul a16 a16
  let a64 := gfMul a32 a32
  let a128 := gfMul a64 a64
  gfMul a128 (gfMul a64 (gfMul a32 (gfMul a16 (gfMul a8 (gfMul a4 a2)))))

/-- Value of a polynomial, highest coefficient first. -/
def polyEval (c : List Byte) (x : Byte) : Byte := c.foldl (fun v b => gfMul v x ^^^ b) 0

/-- Value of a polynomial, lowest coefficient first. -/
def polyEvalLow (c : List Byte) (x : Byte) : Byte := polyEval c.reverse x

/-- Sum of polynomials, lowest coefficient first. -/
def polyAdd : List Byte → List Byte → List Byte
  | [], q => q
  | p, [] => p
  | a :: p, b :: q => (a ^^^ b) :: polyAdd p q

/-- Product of polynomials, lowest coefficient first. -/
def polyMul : List Byte → List Byte → List Byte
  | [], _ => []
  | a :: p, q => polyAdd (q.map (gfMul a)) (0 :: polyMul p q)

/-- R349: the generator (x − α^0)…(x − α^15), lowest coefficient first. -/
def rsGenerator : List Byte :=
  (List.range 16).foldl (fun g i => polyMul g [gfPow 2 i, 1]) [1]

/-- R349: the parity of 240 data bytes: the remainder of data × x^16, highest coefficient first. -/
def rsParity (data : List Byte) : List Byte :=
  let g := (rsGenerator.take 16).reverse
  data.foldl (fun r b =>
    let f := b ^^^ r.headD 0
    List.zipWith (· ^^^ ·) (r.drop 1 ++ [0]) (g.map (gfMul f))) (List.replicate 16 0)

/-- R349: the 256 bytes of a codeword. -/
def rsEncode (data : List Byte) : List Byte := data ++ rsParity data

/-- The sixteen syndromes of a received word. -/
def rsSyndromes (w : List Byte) : List Byte := (List.range 16).map (fun j => polyEval w (gfPow 2 j))

/-- The state of the search for the locator: locator, previous locator, length, gap, previous discrepancy. -/
structure RsSearch where
  loc  : List Byte
  prev : List Byte
  len  : Nat
  gap  : Nat
  disc : Byte

/-- One syndrome of the search. -/
def rsStep (syn : List Byte) (r : RsSearch) (n : Nat) : RsSearch :=
  let d := (List.range (r.len + 1)).foldl (fun v i =>
    if i ≤ n then v ^^^ gfMul (r.loc.getD i 0) (syn.getD (n - i) 0) else v) 0
  if d = 0 then { r with gap := r.gap + 1 }
  else
    let scale := gfMul d (gfInv r.disc)
    let loc := polyAdd r.loc (List.replicate r.gap 0 ++ r.prev.map (gfMul scale))
    if 2 * r.len ≤ n then ⟨loc, r.loc, n + 1 - r.len, 1, d⟩
    else { r with loc := loc, gap := r.gap + 1 }

/-- The formal derivative, lowest coefficient first. -/
def polyDeriv (p : List Byte) : List Byte :=
  (List.range (p.length - 1)).map (fun i => if i % 2 = 0 then p.getD (i + 1) 0 else 0)

/-- The errors the decoder finds, as locator exponents and values; none where it declares the word uncorrectable. The
exponents 0 and 255 are one locator: it stands for byte 255 or byte 0. -/
def rsErrors (w : List Byte) : Option (List (Nat × Byte)) :=
  let syn := rsSyndromes w
  if syn.all (· == 0) then some []
  else
    let r := (List.range 16).foldl (rsStep syn) ⟨[1], [1], 0, 1, 1⟩
    let roots := (List.range 255).filter (fun e => polyEvalLow r.loc (gfPow 2 ((255 - e) % 255)) == 0)
    if 8 < r.len || roots.length ≠ r.len then none
    else
      let om := (polyMul syn r.loc).take 16
      let dl := polyDeriv r.loc
      some (roots.map (fun e =>
        let xi := gfPow 2 ((255 - e) % 255)
        let v := gfMul (gfMul (gfPow 2 e) (polyEvalLow om xi)) (gfInv (polyEvalLow dl xi))
        (e, v)))

/-- R351: the decoder: the corrected word and whether it corrected a symbol, or none where it is uncorrectable. `first`
says that the locator shared by byte 0 and byte 255 is taken for byte 0 (notes/assumptions/21.md). -/
def rsDecode (w : List Byte) (first : Bool) : Option (List Byte × Bool) :=
  match rsErrors w with
  | none => none
  | some errs =>
    some (errs.foldl (fun c e =>
      let i := if e.1 = 0 then (if first then 0 else 255) else 255 - e.1
      c.set i (c.getD i 0 ^^^ e.2)) w, !errs.isEmpty)

end Sys2Proof.Machine
end

