-- ==== Sys2Proof/Machine/CellOps.lean ====
section
/-! DEFINITION. Cells and ports: header fields (R392, R393), the cells a module builds, LINK_CTRL payloads (R381), port
states and widths (R346, R370), and admission by allow-sets (R414, R416). -/
namespace Sys2Proof
open Sys2Proof.Machine

/-! ## Header fields (R392, R393) -/

def Cell.fault (c : Cell) : Bool := bitAt c.header.toNat 4
/-- TICK of a scheduled cell, HEAD of a sprayed cell, SVC of an addressed cell. -/
def Cell.mark (c : Cell) : Bool := bitAt c.header.toNat 5
def Cell.cls (c : Cell) : Nat := bitsAt c.header.toNat 6 2
def Cell.key (c : Cell) : Nat := bitsAt c.header.toNat 8 12
def Cell.circuit (c : Cell) : Nat := bitsAt c.header.toNat 20 12
def Cell.xfer (c : Cell) : Nat := bitsAt c.header.toNat 32 8
def Cell.index (c : Cell) : Nat := bitsAt c.header.toNat 40 24
def Cell.dst (c : Cell) : Nat := bitsAt c.header.toNat 20 16
def Cell.src (c : Cell) : Nat := bitsAt c.header.toNat 36 16
def Cell.fseq (c : Cell) : Nat := bitsAt c.header.toNat 52 12

/-- The addressed header's second eight bytes. -/
def Cell.aAddr (c : Cell) : Nat := leAt c.payload 0 6
def Cell.aLen (c : Cell) : Nat := leAt c.payload 6 1 % 64 + 1
def Cell.aOp (c : Cell) : Nat := leAt c.payload 6 1 / 64
def Cell.aTag (c : Cell) : Nat := leAt c.payload 7 1
def Cell.aData (c : Cell) : List Byte := bytesAt c.payload 8 c.aLen

/-- A service cell (R416). -/
def Cell.svc (c : Cell) : Bool := c.kind == 4 && c.mark

/-- The cell with a flow count's low bits as its FSEQ (R393). -/
def Cell.withFseq (c : Cell) (n : Nat) : Cell := { c with header := BitVec.ofNat 64 (bitsPut c.header.toNat 52 12 n) }

end Sys2Proof

namespace Sys2Proof.Machine

/-- A header from its fields. -/
def header (kind : Nat) (noseq fault mark : Bool) (cls key rest : Nat) : BitVec 64 :=
  BitVec.ofNat 64 (kind + 8 * bnat noseq + 16 * bnat fault + 32 * bnat mark + 64 * (cls % 4) + 256 * (key % 4096)
    + 1048576 * rest)

/-- A scheduled data cell (R393, R394). -/
def scheduledCell (key circuit xfer index : Nat) (data : Option (List Byte)) : Cell :=
  ⟨header 2 false data.isNone false 0 key (circuit % 4096 + xfer % 256 * 2 ^ 12 + index % 2 ^ 24 * 2 ^ 20),
    padTo 64 (data.getD [])⟩

/-- The part of a header from bit 20 of sprayed and addressed cells. -/
def flowBits (dst src fseq : Nat) : Nat := dst % 2 ^ 16 + src % 2 ^ 16 * 2 ^ 16 + fseq % 4096 * 2 ^ 32

def sprayedCell (cls key dst src : Nat) (head fault : Bool) (payload : List Byte) : Cell :=
  ⟨header 3 false fault head cls key (flowBits dst src 0), padTo 64 payload⟩

/-- An addressed cell (R393); SVC cells carry no key. -/
def addressedCell (svc : Bool) (key dst src op tag addr : Nat) (data : List Byte) : Cell :=
  let len := max 1 (min 56 data.length)
  ⟨header 4 false false svc 0 (if svc then 0 else key) (flowBits dst src 0),
    padTo 64 (leBytes 6 addr ++ leBytes 1 (len - 1 + 64 * op) ++ leBytes 1 tag ++ data.take 56)⟩

/-- IDLE and LINK_CTRL cells (R353). -/
def idleCell : Cell := ⟨header 0 true false false 0 0 0, padTo 64 []⟩
def controlCell (payload : List Byte) : Cell := ⟨header 1 true false false 0 0 0, padTo 64 payload⟩

/-! ## LINK_CTRL payloads (R381): offsets from cell offset 0x08 -/

def ctlReplay (all : Bool) (first last : Nat) : List Byte :=
  padTo 64 (leBytes 1 1 ++ leBytes 1 (bnat all) ++ leBytes 2 first ++ leBytes 2 (if all then 0 else last))
def ctlMeasure (index : Nat) : List Byte := padTo 64 (leBytes 1 2 ++ leBytes 1 index)
/-- An echo on its way; bytes 12 to 19 keep the cycle from which more hold time counts, and are zero when sent. -/
def ctlEcho (index stamp hold since : Nat) : List Byte :=
  padTo 64 (leBytes 1 3 ++ leBytes 1 index ++ leBytes 2 0 ++ leBytes 4 stamp ++ leBytes 4 hold ++ leBytes 8 since)
def ctlWidth (op lanes at_ : Nat) : List Byte :=
  padTo 64 (leBytes 1 op ++ leBytes 1 lanes ++ leBytes 2 0 ++ leBytes 4 at_)

/-! ## Port states and widths -/

def lnkDown : Nat := 0
def lnkDetect : Nat := 1
def lnkEqualise : Nat := 2
def lnkLock : Nat := 3
def lnkMeasure : Nat := 4
def lnkIdentify : Nat := 5
def lnkActive : Nat := 6
def lnkRetrain : Nat := 7
def lnkSwitch : Nat := 8

def State.lnkState (s : State) (p : Nat) : Nat := s.fld (LNK_STATUS.STATE p)
def State.lnkUp (s : State) (p : Nat) : Bool := s.lnkState p == lnkActive
def State.compat (s : State) (p : Nat) : Bool := s.flag (LNK_STATUS.COMPAT p)

/-- R346: lanes of a width code of LNK_STATUS, and back. -/
def widthLanes (code : Nat) : Nat := match code with | 1 => 8 | 2 => 4 | 3 => 2 | _ => 0
def widthCode (lanes : Nat) : Nat := match lanes with | 8 => 1 | 4 => 2 | 2 => 3 | _ => 0
def State.lnkWidth (s : State) (p : Nat) : Nat := widthLanes (s.fld (LNK_STATUS.WIDTH p))

/-- The lanes of a mask, ascending. -/
def lanesOf (mask : Nat) : List Nat := (List.range 8).filter (fun l => bitAt mask l)
def maskOf (l : List Nat) : Nat := l.foldl (fun m n => m + 2 ^ n) 0

/-- R376: the widest width that usable lanes allow, on the lowest-numbered of them; 0 where it is below two. -/
def chooseLanes (usable : Nat) : Nat :=
  let l := lanesOf usable
  if 8 ≤ l.length then 255 else if 4 ≤ l.length then maskOf (l.take 4) else if 2 ≤ l.length then maskOf (l.take 2) else 0

/-- The module's fabric identity (R372, R584). -/
def State.identity (s : State) : Nat := match s.mgt.mfg with | some m => m.fabricId.toNat | none => 0

/-! ## Admission (R414, R416) -/

/-- R414, R427: a key is in a port's allow-set. -/
def State.allows (s : State) (p key : Nat) : Bool :=
  let two (r : Reg) : Bool :=
    let v := (s.reg r).toNat
    (bitAt v 24 && bitsAt v 0 12 == key) || (bitAt v 25 && bitsAt v 12 12 == key)
  two (RTE_ALLOW_LO p) || two (RTE_ALLOW_HI p)

/-- The cell may pass the port. -/
def State.admits (s : State) (p : Nat) (c : Cell) : Bool :=
  if c.svc then s.flag (RTE_PORT_CFG.SVC_EN p) else s.allows p c.key

/-- Count a cell that admission drops: an allow-set mismatch in KEY, a service cell in ROUTE (R414, R416, R428). -/
def State.dropUnadmitted (s : State) (p : Nat) (c : Cell) : State :=
  if c.svc then s.count (RTE_DROP.ROUTE p) else s.count (RTE_DROP.KEY p)

/-! ## The host port (R423) -/

def State.bridging (s : State) : Bool := s.feature featBridge && s.flag RTE_HOST.EN
def State.isHostPort (s : State) (p : Nat) : Bool := s.bridging && s.fld RTE_HOST.PORT == p

/-! ## Warps (R395) and claims (R401 to R403) -/

def State.warp (s : State) (circuit : Nat) : Nat := (sget 0 s.router.warps circuit).toNat
def warpPorts (w : Nat) : List Nat := (List.range 24).filter (fun p => bitAt w p)
def warpLocal (w : Nat) : Bool := bitAt w 24
def warpValid (w : Nat) : Bool := bitAt w 25
def warpIn (w : Nat) : Nat := bitsAt w 26 5
def warpKey (w : Nat) : Nat := bitsAt w 32 12

/-- R401: the slots an entry claims. -/
def schedFirst (e : BitVec 64) : Nat := bitsAt e.toNat 0 16
def schedCount (e : BitVec 64) : Nat := bitsAt e.toNat 16 16
def schedStride (e : BitVec 64) : Nat := bitsAt e.toNat 32 8
def schedCircuit (e : BitVec 64) : Nat := bitsAt e.toNat 40 12
def schedSlots (e : BitVec 64) : List Nat := (List.range (schedCount e)).map (fun j => schedFirst e + j * schedStride e)

/-- R401: the entry claims the slot. -/
def schedClaims (e : BitVec 64) (slot : Nat) : Bool :=
  decide (schedFirst e ≤ slot) &&
    (if schedStride e = 0 then decide (slot = schedFirst e) && decide (0 < schedCount e)
     else (slot - schedFirst e) % schedStride e == 0 && decide ((slot - schedFirst e) / schedStride e < schedCount e))

def State.schedule (s : State) (p : Nat) : List (BitVec 64) := sget [] s.router.schedules p

/-- R404: no entry claims the slot. -/
def State.unclaimed (s : State) (p slot : Nat) : Bool := !(s.schedule p).any (fun e => schedClaims e slot)

/-- R402: the `n`-th claim of a circuit on a port, in slot order. -/
def State.claim (s : State) (p circuit n : Nat) : Option Nat :=
  (((s.schedule p).filter (fun e => schedCircuit e == circuit)).flatMap schedSlots).mergeSort[n]?

/-- R403: slots between one cell position and the next at the port's width. -/
def State.slotStep (s : State) (p : Nat) : Nat := if s.lnkWidth p = 0 then 1 else 8 / s.lnkWidth p

/-! ## Remapping (R420, R422) -/

/-- R420: remap(KEY, X). -/
def State.remap (s : State) (key x : Nat) : Nat :=
  match (List.range 64).find? (fun n =>
    s.flag (RTE_REMAP_HI.VALID n) && s.fld (RTE_REMAP_HI.KEY n) == key && s.fld (RTE_REMAP_LO.LOGICAL n) == x) with
  | some n => s.fld (RTE_REMAP_LO.PHYSICAL n)
  | none => x

end Sys2Proof.Machine
end

