-- ==== Sys2Proof/Machine/Lane.lean ====
section
/-! DEFINITION. How a codeword goes over the lanes of a port (R347): the share of each lane, its scrambler, and PAM4 symbols. -/
namespace Sys2Proof.Machine

/-! ## PAM4 symbols -/

/-- R347: the Gray mapping of two bits. -/
def pamOf (b : BitVec 2) : Pam4 := match b.toNat with | 0 => .m3 | 1 => .m1 | 3 => .p1 | _ => .p3
def pamBits : Pam4 → Byte
  | .m3 => 0 | .m1 => 1 | .p1 => 3 | .p3 => 2

/-- R347: a byte as four symbols, bits [7:6] first, and back. -/
def symbolsOf (b : Byte) : List Pam4 := [6, 4, 2, 0].map (fun i => pamOf (b.extractLsb' i 2))
def byteOfSymbols (l : List Pam4) : Byte := l.foldl (fun b x => b <<< 2 ||| pamBits x) 0

/-! ## Scramblers -/

/-- R347: one bit of the scrambler of a lane, x^31 + x^28 + 1, and its register after it. -/
def scramBit (r : BitVec 31) : Bool × BitVec 31 :=
  let o := r.getLsbD 30 ^^ r.getLsbD 27
  (o, r <<< 1 ||| (BitVec.ofBool o).setWidth 31)

/-- R347: a byte is scrambled, or descrambled, in the order in which its bits are sent. -/
def scramByte (r : BitVec 31) (b : Byte) : Byte × BitVec 31 :=
  [7, 6, 5, 4, 3, 2, 1, 0].foldl (fun (p : Byte × BitVec 31) i =>
    let o := scramBit p.2
    (if o.1 then p.1 ^^^ BitVec.twoPow 8 i else p.1, o.2)) (b, r)

def scramBytes (r : BitVec 31) : List Byte → List Byte × BitVec 31
  | [] => ([], r)
  | b :: l =>
    let x := scramByte r b
    let y := scramBytes x.2 l
    (x.1 :: y.1, y.2)

/-! ## Codewords on lanes -/

/-- R347: the share of logical lane `i` of `w`: bytes i, i + w, ... of the codeword. -/
def laneShare (w i : Nat) (b : List Byte) : List Byte := (List.range (256 / w)).map (fun k => b.getD (k * w + i) 0)

/-- R347: the scramblers of a port's lanes, by physical lane. -/
def scramOf (l : List (BitVec 31)) (lane : Nat) : BitVec 31 := l.getD lane 0

/-- R347: a codeword as the symbols of each logical lane, with the scramblers after it. -/
def toLanes (lanes : List Nat) (scram : List (BitVec 31)) (b : List Byte) : List (List Pam4) × List (BitVec 31) :=
  let sent := lanes.zipIdx.map (fun e => (e.1, scramBytes (scramOf scram e.1) (laneShare lanes.length e.2 b)))
  (sent.map (fun e => e.2.1.flatMap symbolsOf), sent.foldl (fun l e => l.set e.1 e.2.2) scram)

/-- The bytes of a lane's symbols. -/
def bytesOfSymbols : List Pam4 → List Byte
  | a :: b :: c :: d :: l => byteOfSymbols [a, b, c, d] :: bytesOfSymbols l
  | _ => []

/-- R347: the codeword that the symbols of the logical lanes carry, with the scramblers after it. -/
def fromLanes (lanes : List Nat) (scram : List (BitVec 31)) (got : List (List Pam4)) : List Byte × List (BitVec 31) :=
  let shares := lanes.zipIdx.map (fun e =>
    (e.1, scramBytes (scramOf scram e.1) ((bytesOfSymbols (got.getD e.2 [])).take (256 / lanes.length))))
  let w := lanes.length
  ((List.range 256).map (fun j => ((shares.map (fun e => e.2.1)).getD (j % w) []).getD (j / w) 0),
    shares.foldl (fun l e => l.set e.1 e.2.2) scram)

/-- R347: sixteen scramblers out of one number: eight of the lanes sent on, eight of the lanes received on. -/
def scramblersOf (n first : Nat) : List (BitVec 31) := (List.range 8).map (fun i => BitVec.ofNat 31 (n / 2 ^ (31 * (first + i))))

end Sys2Proof.Machine
end

