-- ==== Sys2Proof/Machine/LinkOps.lean ====
section
/-! DEFINITION. What a port does with cells: its egress queue and backlog (R365 to R369, R402), its replay store (R356 to
R363), its receiver (R351, R354, R358, R361), and its states (R370 to R379). -/
namespace Sys2Proof.Machine

/-! ## Perturbation slots (R620) -/

/-- R620: count one item of an acting slot; the count before it. -/
def State.slotCount (s : State) (n : Nat) : Nat × State :=
  let c := sget 0 s.obs.counts n
  (c, { s with obs := { s.obs with counts := sset 0 s.obs.counts n (c + 1) } })

/-! ## Egress (R365 to R369) -/

/-- R402: the class of a cell at its egress port. -/
def egressClass (c : Cell) : EgressClass :=
  if c.kind = 2 then .scheduled
  else if c.kind = 3 then (if c.cls = 2 then .grant else if c.cls = 1 then .response else .request)
  else if c.svc then .service else .keyed

/-- R367: scheduled cells are one class of the backlog, sprayed and addressed cells the other. -/
def EgressClass.isScheduled : EgressClass → Bool
  | .scheduled => true
  | _ => false

/-- R384: the spill unit holds its ring traffic while D2 is in reset. -/
def State.spillHeld (s : State) : Bool := s.fence.resets.any (fun r => r.domain == 2)

/-- R365, R384: the ring takes cells: native spill is in force and D2 is not in reset. -/
def State.ringOpen (s : State) (p : Nat) : Bool := s.flag (LNK_STATUS.SPILL p) && !s.spillHeld

/-- R368: SPILL_HIGH thresholds. -/
def State.spillRaise (s : State) (p : Nat) : Nat := if s.flag (LNK_STATUS.SPILL p) then 368640 else 3072
def State.spillClear (s : State) (p : Nat) : Nat := if s.flag (LNK_STATUS.SPILL p) then 245760 else 2048

def PortSt.backlog (x : PortSt) : Nat := x.queue.length + x.ring.length

/-- The cells of the egress queue and of the backlog ring. -/
def PortSt.backlogCells (x : PortSt) : List EgressCell := x.queue ++ x.ring.map (fun r => r.cell)

/-- R368, R390: the backlog count follows the stores, and SPILL_HIGH is raised or cleared. -/
def State.noteBacklog (s : State) (p : Nat) : State :=
  let n := (s.port p).backlog
  let t := s.put (LNK_SPILL.BACKLOG p) n
  if t.flag (LNK_SPILL.HIGH p) then
    if n < s.spillClear p then t.put (LNK_SPILL.HIGH p) 0 else t
  else if s.spillRaise p < n then
    let t := (t.raise (LNK_SPILL.HIGH p)).raise (LNK_EVT.SPILL_HIGH p)
    t.event evSpillHigh p (t.regBytes (LNK_SPILL p))
  else t

/-! ### The ring in HBM (R366, R367) -/

/-- The 80 bytes of a cell on the link (R352, R354). -/
def linkCell (c : Cell) (n ack : Nat) : List Byte :=
  let tail := leBytes 2 n ++ leBytes 2 ack
  c.bytes ++ leBytes 4 (crc32c (c.bytes ++ tail)).toNat ++ tail

/-- R366: packed address of a slot of a port's ring: slots 0 to 32,767 hold the replay tail, the others the backlog. -/
def spillAddr (p slot : Nat) : Nat :=
  let u := slot / 16
  packHbm (u % 16) (u / 16 % 32) (serviceBase + p * 0x20000 + u / 512 * 2048 + slot % 16 * 128)

/-- R366: the 128 bytes of a slot: the cell, its class and zeros. The spec gives no code of the classes: 0 is scheduled and 1 the
other; a cell in the backlog has no sequence number yet, and ACK is written when it is sent: both are 0 (DESIGN CHOICE,
notes/assumptions/76.md). -/
def slotBytes (c : Cell) (n : Nat) : List Byte := padTo 128 (linkCell c n 0 ++ leBytes 1 (bnat (c.kind != 2)))

/-- R367, R260: an access of the spill unit to a line of a slot waits at its pseudo-channel. -/
def State.spillAccess (s : State) (p slot line : Nat) (write : Option (List Byte)) : State :=
  let a := spillAddr p slot + 64 * line
  let x := s.pch (pchOf a)
  s.setPch (pchOf a)
    { x with queue := x.queue ++ [{ who := .spill p slot line, addr := a, write := write, page := none, stale := false }] }

/-- R367: a slot is written, or read back. -/
def State.writeSlot (s : State) (p slot : Nat) (c : Cell) (n : Nat) : State :=
  let b := slotBytes c n
  (s.spillAccess p slot 0 (some (b.take 64))).spillAccess p slot 1 (some (b.drop 64))
def State.readSlot (s : State) (p slot : Nat) : State := (s.spillAccess p slot 0 none).spillAccess p slot 1 none

/-- The first slot of the backlog that holds no cell. -/
def PortSt.freeSlot (x : PortSt) : Nat :=
  ((List.range (x.ring.length + 1)).find? (fun n => !x.ring.any (fun r => r.slot == 32768 + n))).getD 0 + 32768

/-- R367, R369: a cell joins the port's egress queue, or its ring, or is dropped. -/
def State.appendEgress (s : State) (p : Nat) (e : EgressCell) : State :=
  let x := s.port p
  let inRing := x.ring.any (fun f => f.cell.cls.isScheduled == e.cls.isScheduled)
  if !inRing && decide (x.queue.length + (x.ring.filter (fun r => r.reading)).length < 4096) then
    (s.setPort p { x with queue := x.queue ++ [e] }).noteBacklog p
  else if s.ringOpen p && decide (x.ring.length < 491520) then
    ((s.setPort p { x with ring := x.ring ++ [{ slot := x.freeSlot, cell := e }] }).writeSlot p x.freeSlot e.cell 0).noteBacklog p
  else (s.count (LNK_SPILL_DROP.DROPS p)).raise (LNK_EVT.SPILL_DROP p)

/-- R620: the delay a CELLDLY slot gives this cell, in cycles. -/
def State.cellDelay (s : State) (p : Nat) (cls : EgressClass) : Nat × State :=
  match s.actingSlot ptbCelldly p with
  | none => (0, s)
  | some n =>
    let sub := s.fld (PTB_SLOT_CTRL.SUB n)
    let bit := match cls with
      | .scheduled => 0
      | .grant | .response | .request => 1
      | .keyed | .service => 2
    if bitAt sub bit then
      let param := s.fld (PTB_SLOT_PARAM.PARAM n)
      let period := bitsAt param 16 16
      let r := s.slotCount n
      if period = 0 || (r.1 + 1) % period == 0 then (bitsAt param 0 16 * 8 / 5, r.2) else (0, r.2)
    else (0, s)

/-- R402: the scheduled cells that have become ready by `now` take the next claims of their circuits in this pick, in the order
in which they became ready; `claim` is a circuit's n-th claim that can still be met. -/
def PortSt.ripen (x : PortSt) (now : Nat) (claim : Nat → Nat → Option Nat) : PortSt :=
  let due := (x.backlogCells.zipIdx).filter (fun e => e.1.waits && decide (e.1.ready ≤ now))
  let before (e : EgressCell) (i : Nat) : Nat := (due.filter (fun f => f.1.cell.circuit == e.cell.circuit
    && (decide (f.1.ready < e.ready) || (f.1.ready == e.ready && decide (f.2 < i))))).length
  let settle (e : EgressCell) (i : Nat) : EgressCell :=
    if e.waits && decide (e.ready ≤ now) then
      { e with waits := false, claim := claim e.cell.circuit (sget 0 x.ready e.cell.circuit + before e i) }
    else e
  { x with
    queue := x.queue.zipIdx.map (fun e => settle e.1 e.2)
    ring := (x.ring.zipIdx x.queue.length).map (fun r => { r.1 with cell := settle r.1.cell r.2 })
    ready := due.foldl (fun m e => sset 0 m e.1.cell.circuit (sget 0 m e.1.cell.circuit + 1)) x.ready }

/-- R402, R403: a claim is met if its slot exists and has not gone by. -/
def State.ripenPort (s : State) (p : Nat) : State :=
  let x := s.port p
  s.setPort p (x.ripen s.now (fun c n => (s.claim p c n).filter (fun k => k % s.slotStep p == 0 && decide (x.slot ≤ k))))

/-- R402: a cell becomes ready at its egress port in a cycle; a scheduled cell takes a claim then. -/
def State.egress (s : State) (p : Nat) (c : Cell) (ready : Nat) (own : Option Nat := none) : State :=
  let cls := egressClass c
  let d := s.cellDelay p cls
  let s := d.2
  match cls with
  | .scheduled => s.appendEgress p ⟨cls, c, none, ready + d.1, own, true⟩
  | _ => s.appendEgress p ⟨cls, c, none, ready + d.1, none, false⟩

/-! ### Reading the ring back (R367) -/

/-- R367: room in the queue has cells read back from the head of the ring. -/
def State.refillEgress (s : State) (p : Nat) : State :=
  let x := s.port p
  let room := 4096 - x.queue.length - (x.ring.filter (fun r => r.reading)).length
  if s.spillHeld || room = 0 || x.ring.all (fun r => r.reading) then s
  else
    let next := ((x.ring.filter (fun r => !r.reading)).take room).map (fun r => r.slot)
    let t := s.setPort p { x with ring := x.ring.map (fun r => if next.contains r.slot then { r with reading := true } else r) }
    next.foldl (fun (t : State) n => t.readSlot p n) t

/-- The bytes of a slot whose two lines have been read; none where one had an uncorrectable error. -/
def slotRead (got : List (Nat × Option (List Byte))) : Option (List Byte) :=
  match got.find? (fun e => e.1 == 0), got.find? (fun e => e.1 == 1) with
  | some (_, some a), some (_, some b) => some (a ++ b)
  | _, _ => none

/-- R367: what leaves the ring for the queue: the cells read back, in the order of each class; one whose slot has an
uncorrectable error is lost (DESIGN CHOICE, notes/assumptions/76.md). `held` says which class waits for one ahead of it. -/
def ringOut : Bool → Bool → List RingCell → List EgressCell × List RingCell
  | _, _, [] => ([], [])
  | hs, ho, r :: l =>
    let mine := if r.cell.cls.isScheduled then hs else ho
    if mine || decide (r.got.length < 2) then
      let q := ringOut (hs || r.cell.cls.isScheduled) (ho || !r.cell.cls.isScheduled) l
      (q.1, r :: q.2)
    else
      let q := ringOut hs ho l
      match slotRead r.got with
      | some b => ({ r.cell with cell := cellOf b } :: q.1, q.2)
      | none => q

/-- R367: a line of a slot has been read back. -/
def State.spillRead (s : State) (p slot line : Nat) (d : Option (List Byte)) : State :=
  let x := s.port p
  if slot < 32768 then
    match x.tail with
    | some (n, got) => if n % 32768 = slot then s.setPort p { x with tail := some (n, got ++ [(line, d)]) } else s
    | none => s
  else
    let ring := x.ring.map (fun r => if r.slot = slot && r.reading then { r with got := r.got ++ [(line, d)] } else r)
    let q := ringOut false false ring
    (s.setPort p { x with queue := x.queue ++ q.1, ring := q.2 }).noteBacklog p

/-! ## Sequence numbers (R356 to R360) -/

/-- Distance from one sequence number to another, modulo 2^16. -/
def seqDist (a b : Nat) : Nat := (b + 65536 - a % 65536) % 65536

/-- R360, R365: the most sequenced cells a port may have unacknowledged. -/
def State.unackLimit (s : State) (p : Nat) : Nat := if s.flag (LNK_STATUS.SPILL p) then 32767 else 8192

/-- R365: cells of the replay store on die. -/
def PortSt.onDie (x : PortSt) : Nat := x.replay.length - x.spilled

/-- R360, R365, R384: a new sequenced cell may be sent: the limit allows it, and the replay store has room on die or in the
ring. -/
def State.mayNew (s : State) (p : Nat) : Bool :=
  let x := s.port p
  decide (seqDist x.txOldest x.txNext < s.unackLimit p) && (decide (x.onDie < 8192) || s.ringOpen p)

/-- R359: an ACK value arrives. -/
def State.takeAck (s : State) (p a : Nat) : State :=
  let x := s.port p
  if seqDist x.txOldest a ≤ seqDist x.txOldest x.txNext then
    if a % 65536 = x.txOldest then s
    else
      let replay := x.replay.filter (fun e => decide (seqDist x.txOldest a ≤ seqDist x.txOldest e.1))
      s.setPort p { x with
        txOldest := a % 65536, ackAt := s.now
        replay := replay
        spilled := x.spilled - (x.replay.length - replay.length)
        resend := x.resend.filter (fun n => decide (seqDist x.txOldest a ≤ seqDist x.txOldest n)) }
  else s.count (LNK_REPLAY.ACK_BAD p)

/-- R356: number `b` is `a` or comes after it, modulo 2^16. -/
def seqFrom (a b : Nat) : Bool := decide (seqDist a b < 32768)

/-- R362: held cells from one number on, to another if there is one, are queued for free slots, in ascending order. -/
def State.queueReplay (s : State) (p first : Nat) (last : Option Nat) : State :=
  let x := s.port p
  let upto (n : Nat) : Bool := match last with | none => true | some l => seqFrom n l
  let held := (x.replay.map (fun e => e.1)).filter (fun n => seqFrom first n && upto n)
  let order (a b : Nat) : Bool := decide (seqDist x.txOldest a ≤ seqDist x.txOldest b)
  s.setPort p { x with resend := (x.resend ++ held).mergeSort order }

/-- R362: a REPLAY_REQ reaches the sender. -/
def State.takeReplayReq (s : State) (p first last : Nat) (all : Bool) : State :=
  if all || s.compat p then (s.queueReplay p first none).count (LNK_REPLAY.GO_BACKS p)
  else s.queueReplay p first (some last)

/-- R363, R376: the sender replays every cell it holds. -/
def State.goBack (s : State) (p : Nat) : State :=
  let x := s.port p
  if x.replay.isEmpty then s
  else
    let t := (s.queueReplay p x.txOldest none).count (LNK_REPLAY.GO_BACKS p)
    t.setPort p { t.port p with ackAt := t.now }

/-- A LINK_CTRL cell waits for the next free slot. -/
def State.sendControl (s : State) (p : Nat) (payload : List Byte) : State :=
  let x := s.port p
  s.setPort p { x with control := x.control ++ [payload] }

/-! ## States (R370 to R380) -/

/-- R374: training passes through EQUALISE. -/
def State.resetSequence (s : State) (p : Nat) : State :=
  let x := s.port p
  let t := (s.count (LNK_LOST.CELLS_LOST p) x.replay.length).raise (LNK_EVT.SEQ_RESET p)
  t.setPort p { x with
    txNext := 0, txOldest := 0, replay := [], spilled := 0, tail := none, resend := [], control := [], rxNext := 0, rxMarks := []
    rxSeen := 0, gaps := [], badRun := 0, ackSent := 0, ackCount := 0, width := none }

/-- R385: lanes that may be used: passing and not disabled (R376). -/
def State.usableLanes (s : State) (p : Nat) : Nat := (s.port p).passing.toNat &&& (255 - s.fld (LNK_CTRL.LANE_DIS p))

/-- R371: the message of the training blocks that a port sends; `retrain` is its request code, and its sequence is that of
this end's own requests, each of which counts it on. -/
def State.trainMsg (s : State) (p st lanes : Nat) (retrain : Bool) : TrainMsg :=
  ⟨true, BitVec.ofNat 4 st, retrain, BitVec.ofNat 64 s.identity, BitVec.ofNat 8 lanes, (s.port p).requests⟩

/-- R371: the 32 bytes of a message; its fields in the order in which R371 names them, then zeros and the CRC (DESIGN CHOICE,
notes/assumptions/75.md: the spec gives the message no layout). -/
def trainBytes (m : TrainMsg) : List Byte :=
  let b := padTo 28 (leBytes 1 m.state.toNat ++ leBytes 1 (bnat m.retrain) ++ leBytes 8 m.identity.toNat ++ leBytes 1 m.lanes.toNat
    ++ leBytes 1 m.sequence.toNat)
  b ++ leBytes 4 (crc32c b).toNat

/-- R371: the 2,048 symbols of a training block: a marker of 64 symbols, the message, and PRBS31 filler. The spec gives neither
the marker nor the state in which the filler begins: both are free values (notes/assumptions/75.md). -/
def trainingBlock (m : TrainMsg) : List Pam4 :=
  (padTo 16 Config.trainMarker ++ trainBytes m ++ (scramBytes Config.trainFiller (List.replicate 464 0)).1).flatMap symbolsOf

/-- R371, R372: what a port sends in its state beside codewords: training blocks outside DOWN and ACTIVE, and who it is in
IDENTIFY. -/
def State.sendState (s : State) (p st : Nat) : State :=
  let s := if st = lnkDown || st = lnkActive then s
    else
      let m := s.trainMsg p st (s.usableLanes p) (st == lnkRetrain && (s.port p).asked)
      s.emit (.training p m (trainingBlock m))
  if st = lnkIdentify then s.emit (.identity p s.identity s.deviceId false (s.feature featSpill)) else s

/-- R357, R370: the port enters a state; a tick that waits is lost outside ACTIVE. -/
def State.enterLnk (s : State) (p st : Nat) : State :=
  let t := s.put (LNK_STATUS.STATE p) st
  let t := if st ≤ lnkEqualise then (t.put (LNK_STATUS.WIDTH p) 0).put (LNK_STATUS.LANES p) 0 else t
  let x := t.port p
  let t := t.setPort p { x with since := t.now, relocked := false, tick := if st = lnkActive then x.tick else none }
  let t := t.sendState p st
  if st = lnkEqualise then t.resetSequence p else t

/-- R370: the port goes to DOWN. -/
def State.lnkToDown (s : State) (p : Nat) : State :=
  let t := (s.enterLnk p lnkDown).raise (LNK_EVT.DOWN p)
  t.setPort p { t.port p with asked := false, width := none }

/-- R382: the delay of a compatibility-mode link is measured from training blocks, by a means the spec does not give: a
free value. -/
def State.delefDelay (s : State) (p : Nat) : State :=
  let c := s.freeNat 4096
  let f := c.2.freeNat 16
  (f.2.put (LNK_DELAY.CYCLES p) c.1).put (LNK_DELAY.FRACTION p) f.1

/-- R373: the delay is measured: sixteen MEASURE cells are to be exchanged; on a compatibility-mode port it is taken from
training blocks (R382). -/
def State.startMeasure (s : State) (p : Nat) : State :=
  if s.compat p then
    let t := s.delefDelay p
    t.setPort p { t.port p with measured := 16, delaySum := 0 }
  else
    let x := s.port p
    s.setPort p { x with measured := 0, delaySum := 0, control := x.control ++ (List.range 16).map ctlMeasure }

/-- R347: the scramblers of the lanes are synchronised; what they hold then is free (DESIGN CHOICE, notes/assumptions/75.md). -/
def State.syncScramblers (s : State) (p : Nat) : State :=
  let f := s.freeNat (2 ^ 496)
  f.2.setPort p { f.2.port p with scramTx := scramblersOf f.1 0, scramRx := scramblersOf f.1 8 }

/-- R371: the lanes that pass their test. -/
def lanePasses (t : LaneTest) : Bool := t.lock && decide (t.errors < 4)
def passingOf (tests : List LaneTest) : Nat :=
  maskOf ((List.range 8).filter (fun l => match tests[l]? with | some t => lanePasses t | none => false))

/-- R377, R386: lanes that fail their test are recorded; after a fast retrain a lane dropped before stays out. -/
def State.recordLanes (s : State) (p passing : Nat) (fast : Bool) : State :=
  let old := s.fld (LNK_STATUS.FAILED p)
  let failed := (255 - passing) ||| (if fast then old else 0)
  let t := s.setPort p { s.port p with passing := BitVec.ofNat 8 (255 - failed) }
  let t := if failed &&& (255 - old) = 0 then t else t.raise (LNK_EVT.LANE_DROP p)
  t.put (LNK_STATUS.FAILED p) failed

/-- The port runs on a set of lanes. -/
def State.useLanes (s : State) (p lanes : Nat) : State :=
  (s.put (LNK_STATUS.LANES p) lanes).put (LNK_STATUS.WIDTH p) (widthCode (lanesOf lanes).length)

/-- R375, R379: a fast retrain starts; `lead` is false where the partner asked first. -/
def State.fastRetrain (s : State) (p : Nat) (lead : Bool) : State :=
  if s.lnkUp p || s.lnkState p = lnkSwitch then
    let x := s.port p
    let collided := !lead && (match x.width with | some w => w.mine && !w.agreed | none => false)
    let t := if collided then s.raise (LNK_EVT.COLLISION p) else s
    let t := t.setPort p { x with
      asked := lead, width := none, badRun := 0, leadLanes := 0xFF, requests := if lead then x.requests + 1 else x.requests }
    let t := (t.enterLnk p lnkRetrain).raise (LNK_EVT.RETRAIN p)
    let t := t.put (LNK_STATUS.LEAD p) (bnat lead)
    t.event evRetrain p (t.regBytes (LNK_STATUS p))
  else s

/-- R374, R376: a full retrain from EQUALISE. -/
def State.fullRetrainPort (s : State) (p : Nat) : State :=
  let t := s.enterLnk p lnkEqualise
  t.setPort p { t.port p with asked := false }

/-- R378: ask the partner for a width switch at least 128 codewords ahead. -/
def State.requestWidth (s : State) (p lanes : Nat) : State :=
  if s.lnkUp p && lanes != 0 && lanes != s.fld (LNK_STATUS.LANES p) then
    let x := s.port p
    let at_ := (x.codewords + 256) % 4294967296
    (s.setPort p { x with width := some ⟨BitVec.ofNat 8 lanes, at_, true, false⟩ }).sendControl p (ctlWidth 4 lanes at_)
  else s

/-- R378, R379: the partner asks for a width switch; one that meets this end's own request for a retrain loses to it. -/
def State.takeWidthReq (s : State) (p lanes at_ : Nat) : State :=
  if s.lnkState p = lnkRetrain && (s.port p).asked then s.raise (LNK_EVT.COLLISION p) else
  if s.lnkUp p then
    let x := s.port p
    let mine := match x.width with | some w => w.mine && !w.agreed | none => false
    let partner := s.fld (LNK_PARTNER_LO.ID_LO p) + 4294967296 * s.fld (LNK_PARTNER_HI.ID_HI p)
    let t := if mine then s.raise (LNK_EVT.COLLISION p) else s
    if mine && decide (s.identity < partner) then t
    else
      let fits := lanes &&& (255 - s.usableLanes p) = 0 && widthCode (lanesOf lanes).length != 0
      if fits then
        (t.setPort p { x with width := some ⟨BitVec.ofNat 8 lanes, at_, false, true⟩ }).sendControl p (ctlWidth 5 lanes at_)
      else (t.setPort p { x with width := none }).sendControl p (ctlWidth 6 lanes at_)
  else s

/-- R378: the partner accepts, or refuses, this end's request. -/
def State.takeWidthAck (s : State) (p lanes at_ : Nat) : State :=
  let x := s.port p
  match x.width with
  | some w =>
    if w.mine && w.lanes.toNat == lanes && w.at_ == at_ then s.setPort p { x with width := some { w with agreed := true } }
    else s
  | none => s

def State.takeWidthNak (s : State) (p lanes at_ : Nat) : State :=
  let x := s.port p
  match x.width with
  | some w => if w.mine && !w.agreed && w.lanes.toNat == lanes && w.at_ == at_ then s.setPort p { x with width := none } else s
  | none => s

/-- R373: a MEASURE cell is echoed with the cycles it was held. -/
def State.takeMeasure (s : State) (p index stamp hold : Nat) : State :=
  if s.compat p then s.count (LNK_ERR.CRC p) else s.sendControl p (ctlEcho index stamp hold s.now)

/-- R373: an echo adds to the average of sixteen exchanges. -/
def State.takeEcho (s : State) (p stamp hold : Nat) : State :=
  if s.compat p then s.count (LNK_ERR.CRC p)
  else
    let x := s.port p
    if 16 ≤ x.measured then s
    else
      let trip := (s.now + 4294967296 - stamp % 4294967296) % 4294967296
      let x := { x with measured := x.measured + 1, delaySum := x.delaySum + (trip - hold) * 8 }
      let t := s.setPort p x
      if x.measured = 16 then
        let d := x.delaySum / 16
        (t.put (LNK_DELAY.CYCLES p) (min (d / 16) 4095)).put (LNK_DELAY.FRACTION p) (d % 16)
      else t

/-- R381: a LINK_CTRL cell; an unknown operation is discarded and counted. -/
def State.takeControl (s : State) (p : Nat) (b : List Byte) : State :=
  let w (o n : Nat) := leAt b o n
  match w 0 1 with
  | 1 => s.takeReplayReq p (w 2 2) (w 4 2) (bitAt (w 1 1) 0)
  | 2 => s.takeMeasure p (w 1 1) (w 4 4) 0
  | 3 => s.takeEcho p (w 4 4) (w 8 4)
  | 4 => s.takeWidthReq p (w 1 1) (w 4 4)
  | 5 => s.takeWidthAck p (w 1 1) (w 4 4)
  | 6 => s.takeWidthNak p (w 1 1) (w 4 4)
  | _ => s.count (LNK_ERR.CRC p)

/-! ## Receiving (R351, R354, R358, R361) -/

/-- R358: advance the expected number past marked numbers. -/
def advanceE : Nat → Nat → List Nat → Nat × List Nat
  | 0, e, marks => (e, marks)
  | fuel + 1, e, marks =>
    if marks.contains e then advanceE fuel ((e + 1) % 65536) (marks.filter (fun n => n != e)) else (e, marks)

/-- R383: a coalescing point. -/
def PortSt.coalesce (x : PortSt) (now : Nat) : PortSt := { x with ackSent := x.rxNext, ackCount := 0, ackPoint := now }

/-- R358, R382: a sequenced cell: whether it is new, and the receiver after it. -/
def PortSt.receive (x : PortSt) (compat : Bool) (n now : Nat) : Bool × PortSt :=
  let d := seqDist x.rxNext n
  if 32768 ≤ d || x.rxMarks.contains (n % 65536) || (compat && d != 0) then (false, x)
  else
    let r := advanceE (x.rxMarks.length + 1) x.rxNext (n % 65536 :: x.rxMarks)
    let x := { x with rxNext := r.1, rxMarks := r.2, ackCount := x.ackCount + 1 }
    (true, if compat && decide (32 ≤ x.ackCount) then x.coalesce now else x)

/-- A number of an open gap is still missing. -/
def PortSt.gapOpen (x : PortSt) (g : Gap) : Bool :=
  decide (seqDist x.rxNext g.last < 32768) &&
    (List.range (seqDist g.first g.last + 1)).any (fun i =>
      let n := (g.first + i) % 65536
      decide (seqDist x.rxNext n < 32768) && !x.rxMarks.contains n)

/-- R356, R361: numbers below `n` are known to have been sent; those newly known and not received form a gap. -/
def State.noteSent (s : State) (p n missingTo : Nat) : State :=
  let x := s.port p
  let x := { x with gaps := x.gaps.filter x.gapOpen }
  let seen := if seqDist x.rxNext x.rxSeen < 32768 && !s.compat p then x.rxSeen else x.rxNext
  let ahead := seqDist x.rxNext n
  if 32768 ≤ ahead || ahead ≤ seqDist x.rxNext seen then s.setPort p { x with rxSeen := seen }
  else
    let x := { x with rxSeen := n % 65536 }
    if seqDist x.rxNext missingTo ≤ seqDist x.rxNext seen then s.setPort p x
    else
      let last := (missingTo + 65535) % 65536
      let t := s.setPort p x
      if s.compat p then
        if x.gaps.isEmpty then
          (t.setPort p { x with gaps := [⟨seen, last, 1, s.now⟩] }).sendControl p (ctlReplay true x.rxNext 0)
        else t
      else if x.gaps.length < 16 then
        (t.setPort p { x with gaps := x.gaps ++ [⟨seen, last, 1, s.now⟩] }).sendControl p (ctlReplay false seen last)
      else t.sendControl p (ctlReplay true x.rxNext 0)

/-- R353 to R361: one received cell of 80 bytes. -/
def State.receiveCell (s : State) (p : Nat) (b : List Byte) : State :=
  let c := cellOf b
  let good := leAt b 72 4 == (crc32c (b.take 72 ++ bytesAt b 76 4)).toNat
  if !good || decide (5 ≤ c.kind) then s.count (LNK_ERR.CRC p)
  else
    let n := leAt b 76 2
    let compat := s.compat p
    let deliver (t : State) : State :=
      if c.kind ≤ 1 then t else t.setPort p { t.port p with ingress := (t.port p).ingress ++ [c] }
    let t :=
      if !c.noseq then
        let r := (s.port p).receive compat n s.now
        let t := s.setPort p r.2
        if r.1 then deliver t else t
      else if c.kind = 1 then s.takeControl p c.payload
      else deliver s
    let t := if c.noseq then t.noteSent p n n else t.noteSent p ((n + 1) % 65536) n
    t.takeAck p (leAt b 78 2)

/-- R620: a REPLAY slot has this codeword treated as uncorrectable. -/
def State.replaySlot (s : State) (p : Nat) : Bool × State :=
  match s.actingSlot ptbReplay p with
  | none => (false, s)
  | some n =>
    let period := bitsAt (s.fld (PTB_SLOT_PARAM.PARAM n)) 0 16
    let run := bitsAt (s.fld (PTB_SLOT_CTRL.SUB n)) 0 4
    let r := s.slotCount n
    (decide (period - run ≤ r.1 % period), r.2)

/-- R377: the symbols that the decoder corrected are counted for their lanes, millisecond by millisecond (DESIGN CHOICE,
notes/assumptions/75.md: the spec does not say when a millisecond begins). -/
def State.noteSymbols (s : State) (p : Nat) (got sent : List Byte) : State :=
  let x := s.port p
  let fresh := decide (x.symFrom + msCycles ≤ s.now)
  let lanes := lanesOf (s.fld (LNK_STATUS.LANES p))
  let errs := (List.range 256).filter (fun j => got.getD j 0 != sent.getD j 0)
  let counts := errs.foldl (fun (m : SMap Nat) j =>
    let l := lanes.getD (j % lanes.length) 0
    sset 0 m l (sget 0 m l + 1)) (if fresh then [] else x.symErrs)
  s.setPort p { x with symErrs := counts, symFrom := if fresh then s.now else x.symFrom }

/-- R347: the codeword that arrives on the lanes. -/
def State.takeLanes (s : State) (p : Nat) (got : List (List Pam4)) : List Byte × State :=
  let x := s.port p
  let r := fromLanes (lanesOf (s.fld (LNK_STATUS.LANES p))) x.scramRx got
  (r.1, s.setPort p { x with scramRx := r.2 })

/-- R351, R375: the bytes of a codeword are decoded. -/
def State.decodeCodeword (s : State) (p : Nat) (bytes : List Byte) : State :=
  let f := s.replaySlot p
  let s := f.2
  let choice := s.freeNat 2
  match (if f.1 then none else rsDecode bytes (choice.1 == 0)) with
  | none =>
    let x := s.port p
    let t := (s.count (LNK_ERR.UNCORR p)).setPort p { x with badRun := x.badRun + 1 }
    if 4 ≤ x.badRun + 1 && s.lnkUp p then t.fastRetrain p true else t
  | some (w, corrected) =>
    let t := if corrected then (choice.2.count (LNK_CORR.CORRECTED p)).noteSymbols p bytes w else s
    let t := t.setPort p { t.port p with badRun := 0 }
    [0, 80, 160].foldl (fun u o => u.receiveCell p (bytesAt w o 80)) t

/-- R347, R351: a codeword arrives. -/
def State.receiveCodeword (s : State) (p : Nat) (got : List (List Pam4)) : State :=
  let r := s.takeLanes p got
  r.2.decodeCodeword p r.1

/-! ## Sending (R350, R362, R401 to R404) -/

/-- R381: the fields a LINK_CTRL payload takes as it leaves. -/
def stampControl (now : Nat) (b : List Byte) : List Byte :=
  match leAt b 0 1 with
  | 2 => putAt b 4 (leBytes 4 now)
  | 3 => putAt b 8 (leBytes 4 (leAt b 8 4 + (now - leAt b 12 8)) ++ leBytes 8 0)
  | _ => b

/-- R404: what a free slot may carry from the egress queue, best first. -/
def freeClasses : List EgressClass := [.scheduled, .grant, .response, .keyed, .service, .request]

/-- R382: a compatibility-mode port sends no cell of kind SCHEDULED, ticks among them. -/
def State.noScheduled (s : State) (p : Nat) (c : Cell) : Bool := c.kind == 2 && s.compat p

/-- R382, R414: the cell may leave on the port; one that may not is dropped when it would be sent, and counted. -/
def State.maySend (s : State) (p : Nat) (c : Cell) : Bool := s.admits p c && !s.noScheduled p c
def State.dropUnsent (s : State) (p : Nat) (c : Cell) : State :=
  if s.noScheduled p c then s.count (RTE_DROP.ROUTE p) else s.dropUnadmitted p c

/-- R404: of a list of cells, the one that became ready first. -/
def firstReady (l : List EgressCell) : Option EgressCell :=
  l.foldl (fun (m : Option EgressCell) e => match m with
    | none => some e
    | some g => some (if e.ready < g.ready then e else g)) none

/-- The first cell of the queue that meets a test, without it: in order of readiness or of arrival; cells that come before it
and may not be sent are dropped. -/
def State.takeEgress (s : State) (p : Nat) (byReady : Bool) (want : EgressCell → Bool) : Option EgressCell × State :=
  let x := s.port p
  let l := x.queue.filter want
  let good := l.filter (fun e => s.maySend p e.cell)
  let hit := if byReady then firstReady good else good.head?
  let before (e : EgressCell) : Bool := hit.all (fun h => decide (e.ready ≤ h.ready))
  let dropped := (if byReady then l.filter before else l.takeWhile (fun e => hit != some e)).filter (fun e => !s.maySend p e.cell)
  let queue := dropped.foldl (fun q e => q.erase e) x.queue
  let queue := hit.elim queue (fun h => queue.erase h)
  let t := dropped.foldl (fun u e => u.dropUnsent p e.cell) (s.setPort p { x with queue := queue })
  (hit, t.noteBacklog p)

/-- The first class, in the order of R404, that has a cell for a free slot. -/
def State.takeFree (s : State) (p : Nat) : List EgressClass → Option EgressCell × State
  | [] => (none, s)
  | cls :: r =>
    let slot := (s.port p).slot
    let late (e : EgressCell) : Bool := !e.waits &&
      match e.claim with | none => true | some k => decide (k < slot)
    match s.takeEgress p (cls == .scheduled) (fun e => e.cls == cls && late e && decide (e.ready ≤ s.now)) with
    | (some e, t) => (some e, t)
    | (none, t) => State.takeFree t p r

/-- R356, R365, R367, R594: a new sequenced cell leaves; a full store on die moves its oldest cell to the ring. -/
def State.sendSequenced (s : State) (p : Nat) (c : Cell) : (Cell × Nat) × State :=
  let s := if c.svc then s else s.meter c.key 0 0 1
  let x := s.port p
  let n := x.txNext
  let full := decide (8192 ≤ x.onDie)
  let t := s.setPort p { x with
    txNext := (n + 1) % 65536, replay := x.replay ++ [(n, c)], ackAt := if x.replay.isEmpty then s.now else x.ackAt
    spilled := if full then x.spilled + 1 else x.spilled }
  ((c, n), match x.replay[x.spilled]? with
    | some e => if full then t.writeSlot p (e.1 % 32768) e.2 e.1 else t
    | none => t)

/-- R362, R367: the cell of a replay: on die, or read back from the ring; none while it is being read. One that is no longer
held, or whose slot has an uncorrectable error, is not sent (DESIGN CHOICE, notes/assumptions/76.md). -/
inductive Replay where
  | cell (c : Cell)
  | reading
  | gone
  deriving DecidableEq, Repr

def PortSt.replayOf (x : PortSt) (n : Nat) : Replay :=
  match x.replay.findIdx? (fun e => e.1 == n) with
  | none => .gone
  | some i =>
    if x.spilled ≤ i then (match x.replay[i]? with | some e => .cell e.2 | none => .gone)
    else
      match x.tail with
      | some (m, got) =>
        if m = n && decide (2 ≤ got.length) then (match slotRead got with | some b => .cell (cellOf b) | none => .gone) else .reading
      | none => .reading

/-- R367: the replay that comes next is read back from the ring. -/
def State.fetchReplay (s : State) (p n : Nat) : State :=
  let x := s.port p
  let mine := match x.tail with | some (m, _) => m == n | none => false
  if mine || s.spillHeld then s else (s.setPort p { x with tail := some (n, []) }).readSlot p (n % 32768)

/-- R404: a free slot without a replay carries a cell of the egress queue. -/
def State.newCell (s : State) (p : Nat) : (Cell × Nat) × State :=
  if s.mayNew p then
    match s.takeFree p freeClasses with
    | (some e, t) => t.sendSequenced p e.cell
    | (none, t) => ((idleCell, (s.port p).txNext), t)
  else ((idleCell, (s.port p).txNext), s)

/-- The cell a position carries, with its sequence number. -/
def State.nextCell (s : State) (p : Nat) : (Cell × Nat) × State :=
  let x := s.port p
  let slot := x.slot
  let open_ := s.lnkUp p
  let plain (c : Cell) (t : State) : (Cell × Nat) × State := ((c, x.txNext), t)
  match (if open_ && decide (x.tickAt ≤ s.now) then x.tick else none) with
  | some c => plain c (s.setPort p { x with tick := none })
  | none =>
    if open_ && !s.unclaimed p slot then
      if s.mayNew p then
        match s.takeEgress p false (fun e => e.claim == some slot && decide (e.ready ≤ s.now)) with
        | (some e, t) => t.sendSequenced p e.cell
        | (none, t) => plain idleCell t
      else plain idleCell s
    else
      match x.control with
      | b :: r => plain (controlCell (stampControl s.now b)) (s.setPort p { x with control := r })
      | [] =>
        if !open_ then plain idleCell s
        else
          match x.resend with
          | n :: r =>
            (match x.replayOf n with
              | .cell c => ((c, n), (s.setPort p { x with resend := r, tail := none }).count (LNK_REPLAY.CELLS p))
              | .gone => plain idleCell (s.setPort p { x with resend := r, tail := none })
              | .reading => (s.fetchReplay p n).newCell p)
          | [] => s.newCell p

/-- R382, R414: a tick that waits on a port that may not send it is dropped when it would be sent. -/
def State.checkTick (s : State) (p : Nat) : State :=
  let x := s.port p
  match (if s.lnkUp p && decide (x.tickAt ≤ s.now) then x.tick else none) with
  | some c => if s.maySend p c then s else (s.setPort p { x with tick := none }).dropUnsent p c
  | none => s

/-- One cell position: its cell's bytes, and the next slot. -/
def State.sendCell (s : State) (p : Nat) : List Byte × State :=
  let r := ((s.ripenPort p).checkTick p).nextCell p
  let x := r.2.port p
  let ack := if r.2.compat p then x.ackSent else x.rxNext
  (linkCell r.1.1 r.1.2 ack, r.2.setPort p { x with slot := x.slot + r.2.slotStep p })

/-- Slots of a pick at width 8 (R401). -/
def State.slotCountPick (s : State) : Nat := 15 * s.pickLen / 16

/-- R347: a codeword goes out on the lanes. -/
def State.putLanes (s : State) (p : Nat) (bytes : List Byte) : State :=
  let x := s.port p
  let r := toLanes (lanesOf (s.fld (LNK_STATUS.LANES p))) x.scramTx bytes
  (s.setPort p { x with codewords := (x.codewords + 1) % 4294967296, scramTx := r.2 }).emit (.codeword p r.1)

/-- R402, R403: the slot of the next cell position: not one that has gone by, and one that exists at the port's width. -/
def State.nextSlot (s : State) (p : Nat) : Nat :=
  let gone := if s.pick.boundaryAt.isSome then 15 * (s.now - s.pick.windowAt) / 16 else 0
  let step := s.slotStep p
  (max (s.port p).slot gone + step - 1) / step * step

/-- R402: the port has come to its next cell position, which begins no earlier than its slot. -/
def State.reachSlot (s : State) (p : Nat) : State :=
  let slot := s.nextSlot p
  let t := s.setPort p { s.port p with slot := slot }
  if t.pick.boundaryAt.isSome && decide (slot < t.slotCountPick) then t.at_ (t.pick.windowAt + slot * 16 / 15) else t

/-- R350: three cells leave as a codeword. -/
def State.sendCodeword (s : State) (p : Nat) : State :=
  let s := s.reachSlot p
  let a := s.sendCell p
  let b := a.2.sendCell p
  let c := b.2.sendCell p
  (c.2.putLanes p (rsEncode (a.1 ++ b.1 ++ c.1))).refillEgress p

end Sys2Proof.Machine
end

