-- ==== Sys2Proof/Machine/Route.lean ====
section
/-! DEFINITION. Sending on the fabric: routes and spraying (R405, R406), the host port (R423), warps (R395, R396, R398),
flows at their sender (R408, R411), messages (R413), and the reed's flows at their receiver (R407 to R412). -/
namespace Sys2Proof.Machine

/-! ## Routes (R405, R406, R423) -/

/-- R423: the cell is for the host adapter, and the module is its group's bridge. -/
def State.toHost (s : State) (c : Cell) : Bool := s.bridging && s.remap c.key c.dst == s.fld RTE_HOST.HOST_DEV

/-- R405, R423: the ports of a cell's route entry; the host port for a cell of the host adapter, whatever its entry holds. -/
def State.routePorts (s : State) (c : Cell) : List Nat :=
  if s.toHost c then [s.fld RTE_HOST.PORT]
  else (List.range 24).filter (fun p => bitAt (sget 0 s.router.routes (s.remap c.key c.dst)).toNat p)

/-- R406: ports that may take the cell. -/
def State.eligible (s : State) (c : Cell) : List Nat :=
  (s.routePorts c).filter (fun p => s.lnkUp p && s.admits p c && (!s.isHostPort p || c.kind == 4))

/-- R406: of the eligible ports the one with the fewest cells waiting, ties by the rotating pointer; for an addressed cell
the lowest-numbered. -/
def State.choosePort (s : State) (c : Cell) : Option Nat × State :=
  let l := s.eligible c
  if c.kind = 4 then (l.head?, s)
  else
    let best := l.foldl (fun m p => min m (s.port p).backlog) (2 ^ 30)
    let ties := l.filter (fun p => (s.port p).backlog == best)
    match ties with
    | [] => (none, s)
    | [p] => (some p, s)
    | p :: _ =>
      let q := (ties.find? (fun k => decide (s.router.pointer ≤ k))).getD p
      (some q, { s with router := { s.router with pointer := (q + 1) % 24 } })

/-- R405, R406: the cell goes on its way; `from_` is the port at which a drop is counted, but for a cell that may not cross the
host port, which is counted there (R423). A cell for this module itself waits for its command at port 0. -/
def State.forward (s : State) (c : Cell) (from_ : Nat) : State :=
  if s.remap c.key c.dst = s.fld RTE_SELF.PHYSICAL && s.flag RTE_SELF.VALID then
    s.setPort 0 { s.port 0 with ingress := (s.port 0).ingress ++ [c] }
  else
    match s.choosePort c with
    | (some p, t) => t.egress p c t.now
    | (none, t) => t.count (RTE_DROP.ROUTE (if s.toHost c && c.kind != 4 then s.fld RTE_HOST.PORT else from_))

/-- The port at which a cell of the module's own is dropped for want of a route: the first of its route entry, else 0. -/
def State.ownDrop (s : State) (c : Cell) : Nat := (s.routePorts c).headD 0

/-- A cell of the module's own goes out. -/
def State.sendOwn (s : State) (c : Cell) : State := s.forward c (s.ownDrop c)

/-! ## Warps (R396, R398) -/

/-- R396 step 3: copies for each port of the mask, each with the cycle in which it is ready there. -/
def State.replicate (s : State) (c : Cell) (w : Nat) (ready : Nat → Nat) (own : Option Nat := none) : State :=
  (warpPorts w).foldl (fun t e =>
    if t.compat e || t.isHostPort e then t.count (RTE_DROP.ROUTE e)
    else if t.allows e c.key then t.egress e c (ready e) own
    else t.count (RTE_DROP.KEY e)) s

/-- R395, R398: a port shuttle hands a cell over; `p` is the shuttle's port, `seg` the segment that issued its transfer. -/
def State.launchCell (s : State) (p : Nat) (c : Cell) (seg : Nat) : State :=
  let w := s.warp c.circuit
  if warpValid w && warpKey w == c.key && (warpIn w == 0x1E || warpIn w == 0x1F) then s.replicate c w (fun _ => s.now) (some seg)
  else s.count (RTE_DROP.ROUTE p)

/-- R380, R402: cycles from a scheduled cell's arrival on port `i` to its readiness on port `e`, rounded up. -/
def State.transit (s : State) (i e : Nat) : Nat :=
  let add (p : Nat) : Nat := match s.lnkWidth p with | 4 => 32 | 2 => 96 | _ => 0
  (640 + add i + add e + 9) / 10

/-! ## Flows at their sender (R408, R410, R411) -/

/-- Key of a sender's flow record: destination and class. -/
def sendKey (dst cls : Nat) : Nat := 4 * dst + cls % 4

def State.sendFlow (s : State) (dst cls : Nat) : SendFlow := sget {} s.reed.sends (sendKey dst cls)
def State.setSendFlow (s : State) (dst cls : Nat) (f : SendFlow) : State :=
  { s with reed := { s.reed with sends := sset {} s.reed.sends (sendKey dst cls) f } }

/-- R408: `a` is below `b`, modulo 2^32. -/
def countBelow (a b : Nat) : Bool :=
  let d := (b + 4294967296 - a % 4294967296) % 4294967296
  decide (0 < d) && decide (d < 2147483648)

/-- R410: a grant cell with one record. -/
def grantCell (key dst src cls : Nat) (request : Bool) (count : Nat) : Cell :=
  sprayedCell 2 key dst src false false (leBytes 1 (cls % 4 + 4 * bnat request + 8) ++ leBytes 3 0 ++ leBytes 4 count)

/-- R408: cells go out while their count is below GRANT. -/
def State.pumpFlow : State → Nat → Nat → List Cell → State
  | s, dst, cls, [] => s.setSendFlow dst cls { s.sendFlow dst cls with waiting := [] }
  | s, dst, cls, c :: r =>
    let f := s.sendFlow dst cls
    if countBelow f.next f.grant then
      let s := s.setSendFlow dst cls { f with next := (f.next + 1) % 4294967296 }
      State.pumpFlow (s.sendOwn (c.withFseq f.next)) dst cls r
    else s.setSendFlow dst cls { f with waiting := c :: r }

/-- R411: a sender with cells it has no room for asks for a grant. -/
def State.askGrant (s : State) (dst cls key : Nat) : State :=
  let f := s.sendFlow dst cls
  (s.setSendFlow dst cls { f with asked := some s.now }).sendOwn (grantCell key dst s.deviceId cls true f.next)

/-- R408, R411: cells join a flow. -/
def State.sendCells (s : State) (dst cls : Nat) (l : List Cell) : State :=
  let f := s.sendFlow dst cls
  let t := s.pumpFlow dst cls (f.waiting ++ l)
  let g := t.sendFlow dst cls
  match g.waiting with
  | [] => t
  | c :: _ => if g.asked.isNone then t.askGrant dst cls c.key else t

/-! ## Messages (R413) -/

/-- The HEAD payload of a message. -/
def headOf (op : Nat) (tag lines status opid addr : Nat) (operands : List Byte) : List Byte :=
  padTo 64 (leBytes 1 op ++ leBytes 1 0 ++ leBytes 2 tag ++ leBytes 1 lines ++ leBytes 1 status ++ leBytes 2 0
    ++ leBytes 4 opid ++ leBytes 4 0 ++ leBytes 8 addr ++ operands)

def opRead : Nat := 1
def opWrite : Nat := 2
def opReadResp : Nat := 3
def opWriteAck : Nat := 4
def opSync : Nat := 5
def opSyncAck : Nat := 6

/-- R413: data cells that follow a HEAD. -/
def dataCells (head : List Byte) : Nat :=
  let op := leAt head 0 1
  if op = opWrite || op = opReadResp then leAt head 4 1 else 0

/-- R408, R413: send a message on its flow; a line is its FAULT bit and its bytes. -/
def State.sendMessage (s : State) (dst cls key : Nat) (head : List Byte) (lines : List (Bool × List Byte)) : State :=
  let src := s.deviceId
  s.sendCells dst cls (sprayedCell cls key dst src true false head
    :: lines.map (fun l => sprayedCell cls key dst src false l.1 (if l.1 then [] else l.2)))

/-- R413: the answer to a message: its TAG, OPID and ADDR echoed. -/
def answerHead (op : Nat) (head : List Byte) (lines status : Nat) (operands : List Byte) : List Byte :=
  headOf op (leAt head 2 2) lines status (leAt head 8 4) (leAt head 16 8) operands

/-- R415, R416: send one addressed cell; a service cell takes no grant. -/
def State.sendAddressed (s : State) (svc : Bool) (dst op tag addr : Nat) (data : List Byte) : State :=
  let key := s.memberKey.getD 0
  let c := addressedCell svc key dst s.deviceId op tag addr data
  if svc then s.sendOwn c else s.sendCells dst 3 [c]

/-! ## Flows at their receiver (R407 to R412) -/

def State.findFlow (s : State) (src cls : Nat) : Option Flow := s.reed.flows.find? (fun f => f.src == src && f.cls == cls)

/-- Replace a flow, or add it. -/
def State.putFlow (s : State) (f : Flow) : State :=
  let here (g : Flow) : Bool := g.src == f.src && g.cls == f.cls
  let l := if s.reed.flows.any here then s.reed.flows.map (fun g => if here g then f else g) else s.reed.flows ++ [f]
  { s with reed := { s.reed with flows := l } }

/-- R407: room granted, modulo 2^32. -/
def Flow.room (f : Flow) : Nat := (f.grant + 4294967296 - f.next) % 4294967296

/-- R241, R412: a WRITE message of the fabric waits on FULL tagged lines. -/
def State.writeWaits (s : State) (b : Inbound) : Bool :=
  b.write && !b.svc && !b.head.isEmpty &&
    b.left.any (fun i =>
      match s.physOf (s.window b.window).vreg with
      | some r =>
        let line := (bitsAt b.addr 0 40 + (s.window b.window).base) / 64 + i
        !(s.window b.window).deviceVa && s.tagged r line && sget 0 (s.region r).tags line == 1
      | none => false)

/-- R412: a WRITE of the flow waits on FULL tagged lines. -/
def State.flowBlocked (s : State) (src cls : Nat) : Bool := cls == 0 && s.inbound.any (fun b => b.src == src && s.writeWaits b)

/-- R407, R412: the cells that a flow holds: those not yet delivered, and those of messages that no consumer has taken. -/
def Flow.delivering (f : Flow) : Nat := f.ready.foldl (fun n m => n + 1 + m.lines.length) 0
def Flow.cells (f : Flow) : Nat := f.held.length + f.delivering

/-- R241, R412: the cells of WRITE messages that wait on FULL tagged lines. -/
def State.waitingCells (s : State) : Nat :=
  (s.inbound.filter s.writeWaits).foldl (fun n b => n + 1 + b.left.length) 0

/-- R407, R432: the cells that the reed holds. -/
def State.reedCells (s : State) : Nat := s.reed.flows.foldl (fun n f => n + f.cells) 0 + s.waitingCells

/-- R407, R412: the grant the bounds allow a flow: what the flows may still send and what they have delivered, and no consumer
has taken, stays within the reed's 65,536 cells. The grant of a flow whose WRITE waits does not advance. -/
def State.grantTo (s : State) (f : Flow) : Nat :=
  if s.flowBlocked f.src f.cls then f.grant
  else
    let others := (s.reed.flows.filter (fun g => !(g.src == f.src && g.cls == f.cls))).foldl (fun n g => n + g.room + g.delivering) 0
    (f.next + max f.room (min 1024 (65536 - (others + f.delivering + s.waitingCells)))) % 4294967296

/-- R411: send a flow's grant to its sender. -/
def State.sendGrant (s : State) (f : Flow) : State :=
  (s.putFlow { f with granted := f.grant }).sendOwn (grantCell f.key f.src s.deviceId f.cls false f.grant)

/-- R407, R411: the grant advances as far as the bounds allow, and is sent when it has advanced by 64 or more. -/
def State.advanceGrant (s : State) (src cls : Nat) : State :=
  match s.findFlow src cls with
  | none => s
  | some f =>
    let g := { f with grant := s.grantTo f }
    let t := s.putFlow g
    if 64 ≤ (g.grant + 4294967296 - g.granted) % 4294967296 then t.sendGrant g else t

/-- R409: one act of delivery at NEXT: what it gives and the flow after it; none where NEXT must wait. -/
inductive Delivery where
  | message (m : Message)
  | addressed (c : Cell)
  | discarded
  /-- a cell of a message that was discarded, and counted, before -/
  | passed
  deriving DecidableEq, Repr

def Flow.take (f : Flow) (n : Nat) : Flow :=
  { f with
    next := (f.next + n) % 4294967296
    held := f.held.filter (fun h => decide (n ≤ (h.1 + 4294967296 - f.next) % 4294967296))
    discard := f.discard - n }

def Flow.at (f : Flow) (i : Nat) : Option Cell :=
  (f.held.find? (fun h => h.1 == (f.next + i) % 4294967296)).map (fun h => h.2.2)

/-- R409: the next act of delivery of a flow. -/
def Flow.deliver (f : Flow) : Option (Delivery × Flow) :=
  match f.at 0 with
  | none => none
  | some c =>
    if f.cls = 3 then some (.addressed c, f.take 1)
    else if !c.mark then some (if f.discard = 0 then .discarded else .passed, f.take 1)
    else
      let f := { f with discard := 0 }
      let n := dataCells c.payload
      let data := (List.range n).filterMap (fun i => f.at (i + 1))
      match data.find? (fun d => d.mark) with
      | some _ => some (.discarded, f.take (1 + (data.takeWhile (fun d => !d.mark)).length))
      | none =>
        if data.length = n then
          some (.message ⟨f.src, f.cls, c.key, c.payload, data.map (fun d => (d.fault, d.payload))⟩, f.take (1 + n))
        else none

/-- R409, R412: deliver what a flow holds whole, in order; keyed addressed cells come back to be carried out. -/
def State.deliverFlow : Nat → State → Nat → Nat → List Cell → State × List Cell
  | 0, s, _, _, out => (s, out)
  | fuel + 1, s, src, cls, out =>
    if s.flowBlocked src cls then (s, out)
    else
      match s.findFlow src cls with
      | none => (s, out)
      | some f =>
        match f.deliver with
        | none => (s, out)
        | some (d, g) =>
          let g := { g with used := s.now }
          (match d with
            | .message m =>
              State.deliverFlow fuel (s.putFlow { g with ready := g.ready ++ [m], delivered := some s.now }) src cls out
            | .addressed c => State.deliverFlow fuel (s.putFlow { g with delivered := some s.now }) src cls (out ++ [c])
            | .discarded => State.deliverFlow fuel ((s.putFlow g).count REED_DROP.GAP) src cls out
            | .passed => State.deliverFlow fuel (s.putFlow g) src cls out)

/-- R409, R411: deliver what can be delivered and let the grant follow. -/
def State.pumpReed (s : State) (src cls : Nat) : State × List Cell :=
  match s.findFlow src cls with
  | none => (s, [])
  | some f =>
    let r := s.deliverFlow (f.held.length + 1) src cls []
    (r.1.advanceGrant src cls, r.2)

/-- R408: the count of a cell, as the value near NEXT with its FSEQ; none for one below NEXT. -/
def Flow.countOf (f : Flow) (fseq : Nat) : Option Nat :=
  let d := (fseq + 4096 - f.next % 4096) % 4096
  if d < 2048 then some d else none

/-- R408: a cell of a flow arrives; keyed addressed cells that are delivered come back. A cell of a flow the reed does not
know has no grant and is at or above it. -/
def State.reedTake (s : State) (c : Cell) (cls : Nat) : State × List Cell :=
  match s.findFlow c.src cls with
  | none => (s.count REED_DROP.BEYOND, [])
  | some f =>
    match f.countOf c.fseq with
    | none => (s.count REED_DROP.DUP, [])
    | some d =>
      let n := (f.next + d) % 4294967296
      if f.held.any (fun h => h.1 == n) then (s.count REED_DROP.DUP, [])
      else if f.room ≤ d then (s.count REED_DROP.BEYOND, [])
      else (s.putFlow { f with held := f.held ++ [(n, s.now, c)], used := s.now }).pumpReed c.src cls

/-- R411: a grant request reaches the receiver. -/
def State.takeGrantRequest (s : State) (src cls key count : Nat) : State :=
  let answer (t : State) : State :=
    match t.findFlow src cls with
    | none => t
    | some f => t.sendGrant { f with grant := t.grantTo f }
  match s.findFlow src cls with
  | some _ => answer s
  | none =>
    let fresh : Flow := ⟨src, cls, key, count, count, [], [], count, none, s.now, none, 0⟩
    if s.reed.flows.length < 16384 then answer (s.putFlow fresh)
    else
      let idle := s.reed.flows.filter (fun f => f.next == f.grant)
      match idle.foldl (fun (m : Option Flow) f => match m with
          | none => some f
          | some g => some (if f.used < g.used then f else g)) none with
      | none => s.count REED_DROP.NO_FLOW
      | some v =>
        let l := s.reed.flows.filter (fun f => f != v)
        answer ({ s with reed := { s.reed with flows := l } }.putFlow fresh)

/-- R411: a grant reaches the sender; a lower one is ignored. -/
def State.takeGrant (s : State) (dst cls count : Nat) : State :=
  let f := s.sendFlow dst cls
  if countBelow f.grant count then
    let t := s.setSendFlow dst cls { f with grant := count, asked := none }
    t.sendCells dst cls []
  else s

/-- R410: the records of a grant cell; class 2 names no flow. -/
def State.takeGrantCell (s : State) (c : Cell) : State :=
  (List.range 8).foldl (fun t i =>
    let flags := leAt c.payload (8 * i) 1
    let count := leAt c.payload (8 * i + 4) 4
    if bitAt flags 3 && flags % 4 != 2 then
      if bitAt flags 2 then t.takeGrantRequest c.src (flags % 4) c.key count else t.takeGrant c.src (flags % 4) count
    else t) s

/-- R409: skip the first missing count of a flow that holds a later one; the counts of its message that are still to come go
with it. -/
def Flow.skip (f : Flow) : Option (Nat × Flow) :=
  let f := match f.at 0 with | some c => { f with discard := dataCells c.payload + 1 } | none => f
  let dist (n : Nat) : Nat := (n + 4294967296 - f.next) % 4294967296
  let missing := ((List.range 1025).find? (fun i => (f.at i).isNone)).getD 0
  let later := f.held.filter (fun h => decide (missing < dist h.1))
  match later with
  | [] => none
  | h :: r => some (r.foldl (fun m e => min m e.2.1) h.2.1, f.take (missing + 1))

end Sys2Proof.Machine
end

