-- ==== Sys2Proof/Machine/SyncOps.lean ====
section
/-! DEFINITION. Synchronisation objects: their changes and tests (R488 to R494), the OPID count (R496), the duplicate
filter (R498) and the failure queue (R499). -/
namespace Sys2Proof.Machine

/-! ## Objects -/

/-- R488, R490: the state of an object; objects 0 to 90 are counters that remote operations do not reach. -/
def State.obj (s : State) (n : Nat) : SyncObj :=
  let o := sget {} s.sync.objects n
  if n ≤ 90 then { o with type := 1, target := 0, remote := false } else o

/-- Store an object; the TYPE of objects 0 to 90 is not stored. -/
def State.setObj (s : State) (n : Nat) (o : SyncObj) : State :=
  let o := if n ≤ 90 then { o with type := 0, target := 0, remote := false } else o
  { s with sync := { s.sync with objects := sset {} s.sync.objects n o } }

/-- R489: the type an operation code works on; a remote code has the low four bits of the local one. -/
def opType (op : Nat) : Nat :=
  match op % 16 with
  | 0 | 1 => 1
  | 2 | 3 => 2
  | 4 | 5 => 3
  | 6 | 7 => 4
  | _ => 0

/-- R489: the object after a change, and whether a semaphore release saturated. -/
def SyncObj.apply (o : SyncObj) (op : Nat) (x : BitVec 64) (imm : Nat) : SyncObj × Bool :=
  match op % 16 with
  | 0 => ({ o with value := o.value + x }, false)
  | 2 => ({ o with value := o.value - 1 }, false)
  | 3 => if o.value.toNat < o.target.toNat then ({ o with value := o.value + 1 }, false) else (o, true)
  | 4 =>
    let arrived := o.value.extractLsb' 0 32 + 1
    let phase := o.value.extractLsb' 32 32
    if arrived = o.target then ({ o with value := (phase + 1) ++ (0 : BitVec 32) }, false)
    else ({ o with value := phase ++ arrived }, false)
  | 6 => ({ o with value := BitVec.ofNat 64 (imm % 256) }, false)
  | _ => (o, false)

/-! ## Changes of one cycle (R492, R493) -/

/-- R493: where an operation comes among the changes of one cycle: the module's own, remote ones, the words' retire-side ones,
the subtraction of SEM_ACQUIRE. -/
def changeRank (op : Nat) : Nat := if op = 0x12 then 3 else if op / 16 = 0 then 0 else if op / 16 = 3 then 1 else 2

def SyncObj.change (o : SyncObj) (c : ObjChange) : SyncObj × Bool := o.apply c.op c.x c.imm

/-- R493: changes one after another: the object after them, and how many releases saturated. -/
def SyncObj.changeAll (o : SyncObj) (l : List ObjChange) : SyncObj × Nat :=
  l.foldl (fun r c => ((r.1.change c).1, r.2 + bnat (r.1.change c).2)) (o, 0)

/-- R493: what has reached an object in this cycle. -/
def State.objCycle (s : State) (n : Nat) : ObjCycle :=
  (s.sync.changes.find? (fun e => e.obj == n && e.cycle == s.now)).getD ⟨n, s.now, s.obj n, []⟩

/-- R492: the changes of this cycle and the last are kept. -/
def State.putCycle (s : State) (e : ObjCycle) : State :=
  { s with sync := { s.sync with
    changes := e :: s.sync.changes.filter (fun c => decide (s.now ≤ c.cycle + 1) && !(c.obj == e.obj && c.cycle == e.cycle)) } }

/-- R493: a change takes its place among those of its cycle: the object after them all, the releases that saturate now and did
not before, and whether this one does. Additions give the same in any order. -/
def ObjCycle.place (e : ObjCycle) (o : SyncObj) (c : ObjChange) : SyncObj × Nat × Bool :=
  let behind := e.done.filter (fun d => decide (c.rank < d.rank))
  if behind.isEmpty || c.op % 16 = 0 then ((o.change c).1, bnat (o.change c).2, (o.change c).2)
  else
    let p := e.before.changeAll (e.done.filter (fun d => decide (d.rank ≤ c.rank)))
    let q := p.1.change c
    let z := q.1.changeAll behind
    (z.1, p.2 + bnat q.2 + z.2 - (e.before.changeAll e.done).2, q.2)

/-- R493: the changes of a cycle with one more in its place. -/
def ObjCycle.add (e : ObjCycle) (c : ObjChange) : ObjCycle :=
  { e with done := e.done.filter (fun d => decide (d.rank ≤ c.rank)) ++ c :: e.done.filter (fun d => decide (c.rank < d.rank)) }

/-- R492: an object as a cycle begins: as it was before the first of the changes since. -/
def State.objAt (s : State) (n c : Nat) : SyncObj :=
  match (s.sync.changes.filter (fun e => e.obj == n && decide (c ≤ e.cycle))).getLast? with
  | some e => e.before
  | none => s.obj n

/-- R489: the wait condition of an issue-side operation. -/
def SyncObj.holds (o : SyncObj) (op : Nat) (x : BitVec 64) (imm : Nat) : Bool :=
  match op % 16 with
  | 1 => decide (x.toNat ≤ o.value.toNat)
  | 2 => decide (1 ≤ o.value.toNat)
  | 5 => decide ((o.value.extractLsb' 32 32 - x.extractLsb' 0 32).toNat < 2147483648)
  | 7 => o.value.toNat % 256 == imm % 256
  | _ => true

/-- R491: an operation met an object of another type. -/
def State.typeError (s : State) : State := (s.raise SYN_EVT.TYPE).count SYN_STAT.TYPE_ERR

/-- R489 to R493: a change reaches an object: the state after it, and whether a semaphore release saturated. -/
def State.changeObjX (s : State) (op n : Nat) (x : BitVec 64) (imm : Nat) : State × Bool :=
  let o := s.obj n
  if o.type = opType op then
    let c : ObjChange := ⟨changeRank op, op, x, imm⟩
    let r := (s.objCycle n).place o c
    let t := (s.setObj n r.1).putCycle ((s.objCycle n).add c)
    (if r.2.1 = 0 then t else t.count SYN_STAT.SEM_OVER r.2.1, r.2.2)
  else (s.typeError, false)

def State.changeObj (s : State) (op n : Nat) (x : BitVec 64) (imm : Nat := 0) : State := (s.changeObjX op n x imm).1

/-- R322, R453: the module adds to one of its own counters. -/
def State.addObj (s : State) (n v : Nat) : State := s.changeObj 0x00 n (BitVec.ofNat 64 v)

/-- R489: OBJ_READ. -/
def State.readObj (s : State) (n : Nat) : BitVec 64 := if (s.obj n).type = 0 then 0 else (s.obj n).value

/-- R137, R491, R492: a wait sees its condition hold in a cycle; one on an object of another type passes at once. -/
def State.testHolds (s : State) (op n : Nat) (x : BitVec 64) (imm c : Nat) : Bool :=
  (s.objAt n c).type != opType op || (s.objAt n c).holds op x imm

/-- R137, R492: the cycle after the first test that passes: tests are made from the cycle in which the wait begins, and a change
of this cycle is seen in the next. None where no test passes. -/
def State.waitFrom (s : State) (op n : Nat) (x : BitVec 64) (imm : Nat) : Option Nat :=
  ((if s.sync.wait.isSome then [s.now] else []) ++ [s.now + 1, s.now + 2]).find? (fun t => s.testHolds op n x imm (t - 1))

/-! ## Failure records (R499, R506) -/

/-- R499: a failure record. -/
def failureRecord (opid dst obj op status segment : Nat) : List (BitVec 32) :=
  let b := leBytes 4 opid ++ leBytes 2 dst ++ leBytes 2 obj ++ leBytes 1 op ++ leBytes 1 status ++ leBytes 2 0
    ++ leBytes 4 segment
  [BitVec.ofNat 32 (leAt b 0 4), BitVec.ofNat 32 (leAt b 4 4), BitVec.ofNat 32 (leAt b 8 4), BitVec.ofNat 32 (leAt b 12 4)]

/-- R499: a remote operation completes with a status. -/
def State.remoteDone (s : State) (opid dst obj op status segment : Nat) : State :=
  if status = stOk then s
  else
    let t := s.raise SYN_EVT.REMOTE_FAIL
    let t := if t.flag SYN_CTRL.FAIL_EN then t.addObj (t.fld SYN_CTRL.FAIL_OBJ) 1 else t
    if 64 ≤ t.sync.failures.length then (t.count SYN_FAIL_STATUS.LOST).raise SYN_EVT.FAIL_LOST
    else { t with sync := { t.sync with
      failures := t.sync.failures ++ [failureRecord opid dst obj op status segment] } }

/-! ## OPIDs and the duplicate filter (R496, R498) -/

/-- R496: take the next OPID: 1 to 0xFFFF_FFFF, then 1 again. -/
def State.takeOpid (s : State) : Nat × State :=
  (s.sync.opid,
    { s with sync := { s.sync with opid := if s.sync.opid = 4294967295 then 1 else s.sync.opid + 1 } })

/-- R498: `a` comes after `b` modulo 2^32 within a distance of 2^31. -/
def opidAfter (a b : Nat) : Bool :=
  let d := (a + 4294967296 - b) % 4294967296
  decide (0 < d) && decide (d < 2147483648)

/-- R498: the lowest OPID of a slot. -/
def lowestOpid : List (Nat × Nat) → Option Nat
  | [] => none
  | (i, _) :: r =>
    match lowestOpid r with
    | none => some i
    | some j => some (if opidAfter i j then j else i)

/-- R498: record an OPID with its status; of more than 256 the lowest is dropped. -/
def FilterSlot.record (f : FilterSlot) (opid status : Nat) : FilterSlot :=
  let ids := f.ids ++ [(opid, status)]
  { f with ids := if ids.length ≤ 256 then ids
                  else match lowestOpid ids with
                    | none => ids
                    | some j => ids.filter (fun e => e.1 != j) }

/-- R498: what the filter says of a message: a status to answer it with, or none for a new one. -/
inductive FilterVerdict where
  | fresh
  | answer (status : Nat)
  deriving DecidableEq, Repr

/-- R498: the filter's slots with one for this source, where one can be had. -/
def State.filterSlots (s : State) (src : Nat) : Option (List FilterSlot) :=
  let l := s.sync.filter
  if l.any (fun f => f.src == src) then some l
  else if l.length < 4096 then some (l ++ [⟨src, s.now, []⟩])
  else
    let limit := 2 * s.fld RTE_REQ_CTRL.TIMEOUT * usCycles
    let old := l.foldl (fun (m : Option FilterSlot) f =>
      match m with
      | none => some f
      | some g => some (if f.lastAt < g.lastAt then f else g)) none
    match old with
    | none => none
    | some f => if limit < s.now - f.lastAt then some (l.filter (fun g => g.src != f.src) ++ [⟨src, s.now, []⟩]) else none

/-- R498: a message from `src` with an OPID meets the filter. -/
def State.filterCheck (s : State) (src opid : Nat) : FilterVerdict × State :=
  match s.filterSlots src with
  | none => (.answer stBusy, s.count SYN_FILT_STAT.SLOT_FULL)
  | some l =>
    let t := { s with sync := { s.sync with
      filter := l.map (fun f => if f.src = src then { f with lastAt := s.now } else f) } }
    match l.find? (fun f => f.src == src) with
    | none => (.fresh, t)
    | some f =>
      match f.ids.find? (fun e => e.1 == opid) with
      | some e => (.answer e.2, t.count SYN_FILT_STAT.DUPS)
      | none =>
        match lowestOpid f.ids with
        | some floor =>
          if 256 ≤ f.ids.length && opidAfter floor opid then
            (.answer stUnknownOutcome, t.count SYN_FILT_STAT.BELOW_FLOOR)
          else (.fresh, t)
        | none => (.fresh, t)

/-- R498: record the status of a message that the filter let through. -/
def State.filterRecord (s : State) (src opid status : Nat) : State :=
  { s with sync := { s.sync with
    filter := s.sync.filter.map (fun f => if f.src = src then f.record opid status else f) } }

end Sys2Proof.Machine
end

