-- ==== Sys2Proof/Machine/ReqOps.lean ====
section
/-! DEFINITION. The outstanding-request table (R417 to R419, R495). -/
namespace Sys2Proof.Machine

def State.reqEntry (s : State) (n : Nat) : Option ReqEntry := sget none s.requests.entries n

/-- R495: entries 3,840 to 4,095 are the synchronisation unit's. -/
def reqSync : Nat := 3840

/-- A free entry of a range. -/
def State.freeReq (s : State) (lo n : Nat) : Option Nat :=
  (List.range n).findSome? (fun i => if (s.reqEntry (lo + i)).isNone then some (lo + i) else none)

/-- R417: the TAG of an entry. -/
def reqTag (n gen : Nat) : Nat := n + gen % 16 * 4096

/-- R417: take an entry and send its message; none where no entry of the range is free. -/
def State.sendRequest (s : State) (lo n : Nat) (who : ReqWho) (dst op lines addr : Nat) (operands : List Byte)
    (data : List (Bool × List Byte)) : Option State :=
  match s.freeReq lo n with
  | none => none
  | some i =>
    let gen := (sget 0 s.requests.gens i + 1) % 16
    let o := if op = opRead then (0, s) else s.takeOpid
    let s := o.2
    let head := headOf op (reqTag i gen) lines 0 o.1 addr operands
    let key := s.memberKey.getD 0
    let e : ReqEntry := ⟨who, dst, key, gen, head, data, s.now, s.now⟩
    let s := { s with requests := { entries := sset none s.requests.entries i (some e), gens := sset 0 s.requests.gens i gen } }
    some (s.sendMessage dst 0 key head data)

/-- R418: resend an entry whole, with RETRY set. -/
def State.resend (s : State) (n : Nat) : State :=
  match s.reqEntry n with
  | none => s
  | some e =>
    let head := putAt e.head 1 [1]
    let t := { s with requests := { s.requests with
      entries := sset none s.requests.entries n (some { e with lastAt := s.now }) } }
    t.sendMessage e.dst 0 e.key head e.lines

/-- R419: an answer of ST_BUSY restarts the time. -/
def State.restartReq (s : State) (n : Nat) : State :=
  match s.reqEntry n with
  | none => s
  | some e => { s with requests := { s.requests with
      entries := sset none s.requests.entries n (some { e with countsAt := s.now }) } }

def State.closeReq (s : State) (n : Nat) : State :=
  { s with requests := { s.requests with entries := sset none s.requests.entries n none } }

/-- R417: the entry a response's TAG names, if it is in use under that generation. -/
def State.reqOfTag (s : State) (tag : Nat) : Option (Nat × ReqEntry) :=
  match s.reqEntry (tag % 4096) with
  | none => none
  | some e => if e.gen = tag / 4096 then some (tag % 4096, e) else none

/-- R496: the operands of a SYNC or of its answer. -/
def syncOperands (obj op imm epoch : Nat) (value : BitVec 64) : List Byte :=
  leBytes 2 obj ++ leBytes 1 op ++ leBytes 1 imm ++ leBytes 4 epoch ++ leBytes 8 value.toNat

/-- R495: the status with which a remote operation ends at once: no entry, or 64 already outstanding to the target. -/
def State.syncExhausted (s : State) (dst : Nat) : Bool :=
  let mine := s.requests.entries.filterMap (fun e => match e.2 with
    | some r => (match r.who with | .sync _ _ _ _ => some r.dst | _ => none)
    | none => none)
  decide (256 ≤ mine.length) || decide (64 ≤ (mine.filter (fun d => d == dst)).length)

/-- R495: a REMOTE_ operation becomes a SYNC message. -/
def State.sendSync (s : State) (dst op obj : Nat) (x : BitVec 64) (imm segment : Nat) : State :=
  let value := if op = 0x30 then x else 0
  let fail (t : State) : State := t.remoteDone 0 dst obj op stExhausted (segment % 4294967296)
  if s.syncExhausted dst then fail s
  else
    match s.sendRequest reqSync 256 (.sync op obj value segment) dst opSync 0 0
        (syncOperands obj op (if op = 0x36 then imm else 0) s.part.epoch.toNat value) [] with
    | some t => t
    | none => fail s

end Sys2Proof.Machine
end

