-- ==== Sys2Proof/Machine/ShuttleOps.lean ====
section
/-! DEFINITION. Shuttles (R317 to R333): launches, source reads, destination writes, faults and their records, aborts, and
the cells of warps they send and receive (R398, R399). -/
namespace Sys2Proof.Machine

/-! ## Descriptor pairs (R138 to R142) -/

def Transfer.srcDesc (t : Transfer) : Desc := descOf t.src
def Transfer.dstDesc (t : Transfer) : Desc := descOf t.dst

/-- R247: REGION names the launching slice or a virtual region of the grid. -/
def State.descRegionOk (s : State) (d : Desc) : Bool :=
  d.space != 1 || d.region == 0xFF || (decide (d.region < 64) && (s.physOf d.region).isSome)

def State.descOk (s : State) (d : Desc) : Bool := d.ok && s.descRegionOk d

/-- R140: the spaces a shuttle accepts. -/
def spacesOk (k a b : Nat) : Bool :=
  if k < 64 then (a == 1 && decide (b ≤ 1)) || (b == 1 && decide (a ≤ 1))
  else (a == 1 && (b == 2 || b == 3)) || (b == 1 && (a == 2 || a == 3))

/-- R140, R398: the pair is valid. -/
def State.pairOk (s : State) (k : Nat) (a b : Desc) : Bool :=
  s.descOk a && s.descOk b && a.total == b.total && decide (a.total ≤ 2 ^ 32) && spacesOk k a.space b.space
    && !((a.space == 3 || b.space == 3) && decide (2 ^ 24 < a.total))

/-- The physical region a SPACE 1 descriptor of a transfer names. -/
def State.descRegion (s : State) (t : Transfer) (d : Desc) : Nat :=
  if d.region = 0xFF then t.region else (s.physOf d.region).getD t.region

/-! ## Records (R329, R330) -/

/-- R330: a fault record; ADDR is zero for causes 11 and 12, and FLAGS[1] is clear in every record of cause 12. -/
def faultRecord (t : Transfer) (k : Nat) (addr element index cause status : Nat) (dest aborted dropped : Bool) :
    List Reg32 :=
  let b := leBytes 8 (if cause = causeDescriptor || cause = causeFenced then 0 else addr) ++ leBytes 4 element ++ leBytes 4 index ++ leBytes 8 t.segment
    ++ leBytes 2 (t.tag.toNat + 32768 * bnat t.tagv) ++ leBytes 1 k ++ leBytes 1 cause
    ++ leBytes 1 (bnat dest + 2 * bnat (aborted && cause != causeFenced) + 4 * bnat dropped) ++ leBytes 1 status ++ leBytes 2 0
  (List.range 8).map (fun i => BitVec.ofNat 32 (leAt b (4 * i) 4))

/-- R329: a record joins the queue, or is lost. -/
def State.pushFault (s : State) (r : List Reg32) : State :=
  if 512 ≤ s.faultQ.length then (s.count SHT_FQ_STATUS.LOST).raise SHT_EVT.FQ_OVERFLOW
  else { s with faultQ := s.faultQ ++ [r] }

/-- R330: the address of a line in the form of its side's space. A generated address outside its space (R655) has no such
form: the record gives 0 for a negative one, and the offset in a remote window modulo 2^40 (DESIGN CHOICE,
notes/assumptions/64.md). -/
def recordAddr (d : Desc) (a : Int) : Nat := if d.space = 2 then d.windowId * 2 ^ 40 + a.toNat % 2 ^ 40 else a.toNat

/-! ## A transfer among its shuttle's -/

def State.transfer (s : State) (k serial : Nat) : Option Transfer :=
  (s.shuttle k).transfers.find? (fun t => t.serial == serial)

def State.setTransfer (s : State) (k : Nat) (t : Transfer) : State :=
  let x := s.shuttle k
  s.setShuttle k { x with transfers := x.transfers.map (fun u => if u.serial = t.serial then t else u) }

def Transfer.line (t : Transfer) (n : Nat) : Option LineInfo := sget none t.lines n
def Transfer.setLine (t : Transfer) (n : Nat) (l : Option LineInfo) : Transfer := { t with lines := sset none t.lines n l }

/-- R319: the line waits for its source. -/
def LineState.isReading : LineState → Bool
  | .reading _ => true
  | .arrived _ | .writing => false

/-- R319: source lines outstanding: reads that are not answered. The lines of a warp are sent by another module and read
nowhere, so they are none (DEDUCED, notes/assumptions/64.md). -/
def Transfer.outstanding (t : Transfer) : Nat :=
  if t.srcDesc.space = 3 then 0 else (t.lines.filter (fun e => match e.2 with | some l => l.state.isReading | none => false)).length

/-- R321: a line is resolved. -/
def Transfer.resolve (t : Transfer) (n : Nat) (written : Bool) : Transfer :=
  { t with lines := sset none t.lines n none, resolved := t.resolved + 1, faulted := t.faulted || !written }

/-- R321: every destination line is resolved. -/
def Transfer.done (t : Transfer) : Bool := t.resolved == t.total

/-! ## Destinations -/

/-- R325: the destination line is a tagged line of a slice. -/
def State.dstTagged (s : State) (t : Transfer) (a : Nat) : Bool :=
  t.dstDesc.space == 1 && s.tagged (s.descRegion t t.dstDesc) (a / 64)

/-- R228: an access of a shuttle to a slice. -/
def State.queueSpad (s : State) (k : Nat) (t : Transfer) (rgn line : Nat) (who : Requester) (kind : UnschedKind) : State :=
  { s with unsched := s.unsched ++ [⟨rgn, line, decide (k < 64) && rgn == k && rgn == t.region, who, kind⟩] }

/-- R319: the destination lines of two transfers lie in one space: one slice, or one window of one device. -/
def State.sameSpace (s : State) (t u : Transfer) : Bool :=
  u.dstDesc.space == t.dstDesc.space && (match t.dstDesc.space with
    | 1 => s.descRegion u u.dstDesc == s.descRegion t t.dstDesc
    | 2 => u.dstDesc.windowId == t.dstDesc.windowId && u.dstDesc.deviceId == t.dstDesc.deviceId
    | _ => true)

/-- R319: an earlier line to the same destination is not resolved yet. -/
def State.earlierWrite (s : State) (k : Nat) (t : Transfer) (n a : Nat) : Bool :=
  t.dstDesc.space != 3 && (s.shuttle k).transfers.any (fun u =>
    s.sameSpace t u
      && u.lines.any (fun e => (decide (u.serial < t.serial) || (u.serial == t.serial && decide (e.1 < n)))
        && (match e.2 with | some l => l.dst == some a | none => false)))

/-! ## Faults and aborts (R325 to R333) -/

/-- Drop the accesses of a transfer that have not been made. -/
def State.dropAccesses (s : State) (k serial : Nat) : State :=
  let mine (w : Requester) : Bool := match w with
    | .shuttleRead a b _ => a == k && b == serial
    | .shuttleWrite a b _ => a == k && b == serial
    | _ => false
  let keep (q : List MemReq) : List MemReq := q.filter (fun r => !mine r.who)
  { s with
    unsched := s.unsched.filter (fun u => !mine u.who)
    mmu := { s.mmu with waiting := s.mmu.waiting.filter (fun w => !mine w.who) }
    hbm := { s.hbm with pchs := smapAllTo {} s.hbm.pchs (fun x => { x with queue := keep x.queue }) } }

/-- R139, R143: the entry of a side that was read last. -/
def lastEntry (d : Desc) (last : Option (Nat × Nat)) (i : Nat) : Option Nat :=
  if d.idxFmt = 0 then some 0
  else match last with
    | some (j, v) => if i = j then some v else none
    | none => none

/-- R139, R143, R248: the value of index entry `i` of a side, read once; all ones where its line has an uncorrectable
error. -/
def State.indexAt (s : State) (t : Transfer) (d : Desc) (last : Option (Nat × Nat)) (i : Nat) : Nat :=
  (lastEntry d last i).getD (
    if (s.region t.region).badLines.contains (d.idxByte i / 64) then d.idxNull
    else leNat ((s.region t.region).bytes (d.idxByte i) d.idxWidth))

/-- R228, R246: a read that a requester makes at once, through the network or as the region's own shuttle, has the turn at a
bank's port: no access to the bank that waits goes before it. -/
def State.readTurn (s : State) (rgn bank : Nat) (own : Bool) : Bool :=
  let l := (s.unschedTurn rgn).filter (fun u => bankOf u.line == bank && u.kind == .read
    && !s.unschedWaits rgn u.line u.kind (u.testsTag))
  !l.any (fun u => u.own == own)
    && (!l.any (fun u => u.own != own) || (sget 0 (s.region rgn).alternate (2 * bank) == 1) == own)

/-- R228: the region's own shuttle, or the network, has taken a bank's port. -/
def State.tookPort (s : State) (rgn bank : Nat) (write own : Bool) : State :=
  let r := s.region rgn
  s.setRegion rgn { r with alternate := sset 0 r.alternate (2 * bank + bnat write) (bnat (!own)) }

/-- R228: a shuttle is the own one of a region. -/
def ownShuttle (k rgn : Nat) : Bool := decide (k < 64) && k == rgn

/-- R246: accesses of a shuttle to a slice that wait on the network. -/
def State.waitsOnNet (s : State) (k rgn : Nat) : Bool :=
  !ownShuttle k rgn && s.unsched.any (fun u => u.region == rgn && s.networkOrder u == some (0, k))

/-- R228, R229, R246: the bank port that a shuttle takes to read an index entry is free, and it is the shuttle's turn. -/
def State.indexPort (s : State) (k : Nat) (t : Transfer) (d : Desc) (last : Option (Nat × Nat)) (i : Nat) : Bool :=
  let bank := bankOf (d.idxByte i / 64)
  (lastEntry d last i).isSome
    || ((s.region t.region).clk.stepEnd.isNone && !s.portClaimed t.region bank false && !s.portBusy t.region bank false
      && !s.waitsOnNet k t.region && s.readTurn t.region bank (ownShuttle k t.region))

/-- R230: a read of an index entry finds its port claimed by the region's words. -/
def State.indexDelayed (s : State) (t : Transfer) (d : Desc) (last : Option (Nat × Nat)) (i : Nat) : Bool :=
  (lastEntry d last i).isNone && (s.region t.region).clk.stepEnd.isNone
    && s.portClaimed t.region (bankOf (d.idxByte i / 64)) false

/-- R143, R228, R248: an index entry is read, with what its line's code finds. -/
def State.readIndex (s : State) (k : Nat) (t : Transfer) (d : Desc) (last : Option (Nat × Nat)) (i : Nat) : Nat × State :=
  (s.indexAt t d last i,
    if (lastEntry d last i).isSome then s
    else (s.tookPort t.region (bankOf (d.idxByte i / 64)) false (ownShuttle k t.region)).spadCheck t.region (d.idxByte i / 64) .good |>.2)

def Desc.isNull (d : Desc) (v : Nat) : Bool := d.idxFmt != 0 && v == d.idxNull
def Desc.outOfRange (d : Desc) (v : Nat) : Bool := d.idxFmt != 0 && v != d.idxNull && decide (d.idxLimit ≤ v)

/-- The destination address of a line, where it has one. -/
def State.dstOf (s : State) (t : Transfer) (n : Nat) : Option Nat :=
  let d := t.dstDesc
  let v := s.indexAt t d t.dstIdx (d.entryOf n)
  let a := d.addr n v
  if d.isNull v || d.outOfRange v || !d.inSpace a then none else some a.toNat

/-- R328, R333: what ends a transfer early: nothing more is read, data not yet written is discarded, and every tagged
destination line in a slice not yet written is marked FAULTED. -/
def State.endTransfer (s : State) (k : Nat) (t : Transfer) (aborted : Bool) : State :=
  let s := s.dropAccesses k t.serial
  let d := t.dstDesc
  let rgn := s.descRegion t d
  let dstOf (n : Nat) : Option Nat := match t.line n with
    | some l => l.dst
    | none => s.dstOf t n
  let left := (t.lines.map (fun e => e.1)) ++ (List.range (t.total - t.next)).map (fun i => t.next + i)
  let marks := if d.space = 1 then left.filterMap (fun n => match dstOf n with
      | some a => if s.tagged rgn (a / 64) then some (n, a) else none
      | none => none) else []
  let u := { t with
    next := t.total, started := true, aborted := aborted, faulted := true, resolved := t.total - marks.length
    lines := marks.foldl (fun m e => sset none m e.1 (some { dst := some e.2, state := .writing })) [] }
  let s := s.setTransfer k u
  marks.foldl (fun s e => s.queueSpad k u rgn (e.2 / 64) (.shuttleWrite k u.serial e.1) .mark) s

/-- R333, R340: an abort is recorded: in the next background window the rows are masked and the record is reported. -/
def State.recordAbort (s : State) (r : List Reg32) : State :=
  let kept := decide (s.faultQ.length < 512)
  let s := (s.pushFault r).raise SHT_EVT.ABORT
  { s with
    serve := { s.serve with abortDue := true, abortRecs := if kept then s.serve.abortRecs ++ [r] else s.serve.abortRecs }
    seq := { s.seq with yieldFault := s.seq.yieldFault || s.seq.yieldReq.isSome } }

/-- R333: abort a transfer, with its record. -/
def State.abort (s : State) (k : Nat) (t : Transfer) (addr element index cause status : Nat) (dest : Bool) : State :=
  (s.recordAbort (faultRecord t k addr element index cause status dest true false)).endTransfer k t true

/-- R329: one record for each element, side and cause. -/
def State.recordOnce (s : State) (k : Nat) (t : Transfer) (addr element index cause status : Nat) (dest : Bool) :
    Transfer × State :=
  if t.recorded.contains (element, dest, cause) then (t, s)
  else ({ t with recorded := (element, dest, cause) :: t.recorded },
    s.pushFault (faultRecord t k addr element index cause status dest false false))

/-- The address a record gives for a line's side. -/
def State.sideAddr (s : State) (t : Transfer) (n : Nat) (dest : Bool) : Nat × Nat :=
  let d := if dest then t.dstDesc else t.srcDesc
  let v := match t.line n with
    | some l => if dest then l.di else l.si
    | none => s.indexAt t d (if dest then t.dstIdx else t.srcIdx) (d.entryOf n)
  (recordAddr d (d.addr n v), v)

/-- R326, R327: a destination-side fault of a line: it is left unwritten, or the transfer is aborted. A line
of a transfer that has been aborted already makes no second record (R333). -/
def State.destFault (s : State) (k serial n cause status : Nat) : State :=
  match s.transfer k serial with
  | none => s
  | some t =>
    let a := s.sideAddr t n true
    let element := t.dstDesc.elementOf n
    if (t.line n).isNone then s
    else if t.mayFault && cause != causeAccess then
      let r := s.recordOnce k t a.1 element a.2 cause status true
      r.2.setTransfer k (r.1.resolve n false)
    else s.abort k t a.1 element a.2 cause status true

/-! ## Arrivals -/

/-- R324: an answer carries data, sound or poisoned. -/
def LineData.isData : LineData → Bool
  | .data _ => true
  | .failed c _ => c == causePoison

/-- R319, R324: a source line's data, or its failure, comes in; data for a line that has timed out is discarded. -/
def State.lineArrives (s : State) (k serial n : Nat) (d : LineData) : State :=
  let x := s.shuttle k
  if x.late.contains (serial, n) then
    let s := s.setShuttle k { x with late := x.late.filter (fun e => e != (serial, n)) }
    if d.isData then s.raise SHT_EVT.LATE_DATA else s
  else
    match s.transfer k serial with
    | none => s
    | some t =>
      match t.line n with
      | some l => if l.state.isReading then s.setTransfer k (t.setLine n (some { l with state := .arrived d })) else s
      | none => s

/-- R321: a destination line is resolved: written, or marked. A line sent with a fault mark is not written. -/
def State.lineWritten (s : State) (k serial n : Nat) (written : Bool) : State :=
  match s.transfer k serial with
  | none => s
  | some t =>
    match t.line n with
    | some l => s.setTransfer k (t.resolve n (written && !t.aborted && !l.marked))
    | none => s

/-! ## Source reads (R319, R323) -/

/-- R323: lines of one READ of a remote window: consecutive lines of one element. -/
def readRun (d : Desc) (n left : Nat) : Nat := min (min 64 left) (d.elemLines - n % d.elemLines)

/-- Where a line goes: nowhere for the null index; on a warp its number stands for the place. -/
def Desc.goal (d : Desc) (n v : Nat) (a : Int) : Option Nat :=
  if d.isNull v then none else if d.space = 3 then some n else some a.toNat

/-- R323: how many lines the next READ of a remote window may ask for, by its source. -/
def Transfer.readLen (t : Transfer) (a : Int) (room : Nat) : Nat :=
  let sd := t.srcDesc
  let m := max 1 (min room (readRun sd t.next (t.total - t.next)))
  if sd.inSpace (a + 64 * (m - 1 : Nat)) then m else 1

/-- R323, R141, R655: the lines of one READ, each with where it goes and its index entry. The READ ends before a line whose
destination faults, and before an index entry that cannot be read yet. -/
def State.remoteLines (s : State) (k : Nat) (t : Transfer) (m : Nat) : List (Nat × Option Nat × Nat) × Transfer × State :=
  let dd := t.dstDesc
  let r := (List.range m).foldl (fun (p : Bool × List (Nat × Option Nat × Nat) × Transfer × State) i =>
    let (stop, l, u, x) := p
    let n := t.next + i
    let e := dd.entryOf n
    if stop || !x.indexPort k u dd u.dstIdx e then (true, l, u, x)
    else
      let v := x.readIndex k u dd u.dstIdx e
      let b := dd.addr n v.1
      if !dd.isNull v.1 && (dd.outOfRange v.1 || !dd.inSpace b) then (true, l, u, x)
      else (false, l ++ [(n, dd.goal n v.1 b, v.1)], { u with dstIdx := if dd.idxFmt = 0 then none else some (e, v.1) }, v.2))
    (false, [], t, s)
  r.2

/-- R143: the index entries of the next line are read, once, and kept; none where a port they need is taken. -/
def State.readEntries (s : State) (k : Nat) (t : Transfer) : Option (Nat × Nat × Transfer × State) :=
  let sd := t.srcDesc
  let dd := t.dstDesc
  let i := sd.entryOf t.next
  let j := dd.entryOf t.next
  if !s.indexPort k t sd t.srcIdx i || !s.indexPort k t dd t.dstIdx j then none
  else
    let a := s.readIndex k t sd t.srcIdx i
    let b := a.2.readIndex k t dd t.dstIdx j
    some (a.1, b.1, { t with
      srcIdx := if sd.idxFmt = 0 then none else some (i, a.1)
      dstIdx := if dd.idxFmt = 0 then none else some (j, b.1) }, b.2)

/-- R230: the read of the next line's index entries waits for a port that the region's words claim, which is counted. -/
def State.delayEntries (s : State) (t : Transfer) : State :=
  if s.indexDelayed t t.srcDesc t.srcIdx (t.srcDesc.entryOf t.next) || s.indexDelayed t t.dstDesc t.dstIdx (t.dstDesc.entryOf t.next) then
    s.countDelay t.region
  else s

/-- R319, R141, R655: issue the next source line, or lines, of a transfer whose index entries have been read. A destination
index out of range is met first: its line's address is not tested against its space, and its source line is not read (DESIGN
CHOICE, notes/assumptions/77.md). -/
def State.issueRead (s : State) (k : Nat) (t : Transfer) (room si di : Nat) : Option (Transfer × State) :=
  let sd := t.srcDesc
  let dd := t.dstDesc
  let n := t.next
  let sa := sd.addr n si
  let da := dd.addr n di
  let one (st : LineState) : Transfer :=
    { t.setLine n (some { dst := dd.goal n di da, state := st, si := si, di := di }) with next := n + 1 }
  let arrive (d : LineData) (s : State) : Option (Transfer × State) := some (one (.arrived d), s)
  let ends (x : State) : Option (Transfer × State) := (x.transfer k t.serial).map (fun u => (u, x))
  if dd.outOfRange di then
    if t.mayFault then
      let r := s.recordOnce k t (recordAddr dd da) (dd.elementOf n) di causeIndex 0 true
      some ({ r.1 with next := n + 1, resolved := r.1.resolved + 1, faulted := true }, r.2)
    else ends (s.abort k t (recordAddr dd da) (dd.elementOf n) di causeIndex 0 true)
  else if !dd.isNull di && !dd.inSpace da then
    ends (s.abort k t (recordAddr dd da) (dd.elementOf n) di causeAccess 0 true)
  else if sd.isNull si then arrive (.data (List.replicate 64 0)) s
  else if sd.outOfRange si then arrive (.failed causeIndex 0) s
  else if !sd.inSpace sa then ends (s.abort k t (recordAddr sd sa) (sd.elementOf n) si causeAccess 0 false)
  else
    let a := sa.toNat
    match sd.space with
    | 1 =>
      let rgn := s.descRegion t sd
      some (one (.reading s.now), s.queueSpad k t rgn (a / 64) (.shuttleRead k t.serial n) .read)
    | 0 =>
      let r := s.memAccess (.shuttleRead k t.serial n) (a / 64 * 64) none
      (match r.1 with
        | none => some (one (.reading s.now), r.2)
        | some c => arrive (.failed c 0) r.2)
    | 2 =>
      let g := s.remoteLines k t (t.readLen sa room)
      let addr := sd.windowId * 2 ^ 40 + a
      let m := g.1.length
      (match g.2.2.sendRequest 0 reqSync (.shuttle k t.serial n m) sd.deviceId opRead m addr [] [] with
        | none => none
        | some s' =>
          some ({ g.1.foldl (fun u e => u.setLine e.1
              (some { dst := e.2.1, state := .reading s.now, si := si, di := e.2.2 })) g.2.1 with next := n + m }, s'))
    | _ => some (one (.reading s.now), s)

/-- R319: issue the next source line, or lines, of a transfer; none where it must wait. -/
def State.issueLine (s : State) (k : Nat) (t : Transfer) (room : Nat) : Option (Transfer × State) :=
  match s.readEntries k t with
  | none => none
  | some (si, di, u, x) => x.issueRead k u room si di

/-- R81, R320: the shuttle makes no access while its region is stopped for a frequency step. -/
def State.shuttleStopped (s : State) (k : Nat) : Bool := decide (k < 64) && (s.region k).clk.stepEnd.isSome

/-- R319: issue source reads while fewer than 512 source lines are outstanding and the fence allows (R328). -/
def State.pumpTransfer : Nat → State → Nat → Nat → State
  | 0, s, _, _ => s
  | fuel + 1, s, k, serial =>
    match s.transfer k serial with
    | none => s
    | some t =>
      let room := 512 - ((s.shuttle k).transfers.foldl (fun n u => n + u.outstanding) 0)
      let warp := t.srcDesc.space == 3
      if !t.started || t.total ≤ t.next || (room == 0 && !warp) || s.fenced 3 || s.shuttleStopped k then s
      else
        match s.issueLine k t room with
        | none => s.delayEntries t
        | some (u, s') => State.pumpTransfer fuel (s'.setTransfer k u) k serial

/-- R319, R320: the transfers whose turn it is issue what they can. -/
def State.pumpShuttle (s : State) (k : Nat) : State :=
  (s.shuttle k).transfers.foldl (fun u t => if t.started then State.pumpTransfer (t.total - t.next) u k t.serial else u) s

/-! ## Launches (R131, R318) -/

/-- R398: the circuit of a pair, and whether it is received. -/
def warpCircuit (a b : Desc) : Option (Nat × Bool) :=
  if a.space = 3 then some (a.base % 4096, true) else if b.space = 3 then some (b.base % 4096, false) else none

/-- R134, R318: a launch joins the launch queue: last, or before the launch of its word's ST slot that has come earlier from
another region, whose number on a circuit they share it takes. -/
def ShuttleSt.enter (x : ShuttleSt) (t : Transfer) : Transfer × ShuttleSt :=
  match x.transfers.find? (fun u => (!u.started || u.aborted) && u.word == t.word && u.ahead == some t.region) with
  | none => (t, { x with transfers := x.transfers ++ [t], serial := x.serial + 1 })
  | some u =>
    let same := (warpCircuit t.srcDesc t.dstDesc).isSome && warpCircuit t.srcDesc t.dstDesc == warpCircuit u.srcDesc u.dstDesc
    let t' := { t with serial := u.serial, xfer := if same then u.xfer else t.xfer }
    let u' := { u with serial := x.serial, ahead := none, xfer := if same then (u.xfer + 1) % 256 else u.xfer }
    (t', { x with
      transfers := x.transfers.flatMap (fun v => if v.serial = u.serial then [t', u'] else [v]), serial := x.serial + 1 })

/-- R398, R399: a circuit as one port shuttle numbers its transfers on it. -/
def circuitKey (k circuit : Nat) : Nat := 4096 * (k - 64) + circuit

/-- R398, R399: the number of the next transfer of a shuttle on a circuit. -/
def State.warpNext (s : State) (k : Nat) (circuit : Option (Nat × Bool)) : Nat :=
  match circuit with
  | some (c, true) => sget 0 s.router.launched (circuitKey k c)
  | some (c, false) => sget 0 s.router.sent (circuitKey k c)
  | none => 0
def State.setWarpNext (s : State) (k : Nat) (circuit : Option (Nat × Bool)) (n : Nat) : State :=
  match circuit with
  | some (c, true) => { s with router := { s.router with launched := sset 0 s.router.launched (circuitKey k c) (n % 256) } }
  | some (c, false) => { s with router := { s.router with sent := sset 0 s.router.sent (circuitKey k c) (n % 256) } }
  | none => s

/-- R318, R333: a launch that finds 16 transfers held is dropped. -/
def State.dropLaunch (s : State) (k : Nat) (t : Transfer) : State :=
  let f := s.freeNat 2
  let s := (f.2.raise SHT_EVT.LAUNCH_DROP).recordAbort (faultRecord t k 0 0 0 causeDescriptor 0 (f.1 == 1) true true)
  s.setTransfer k { t with started := true, aborted := true, faulted := true, dropped := true, total := 0 }

/-- R134, R318: the launch of the ST slot of a word, waiting as the sixteenth held, before which that word's LD launch from
another region takes its place. -/
def ShuttleSt.bumped (x : ShuttleSt) (word rgn : Nat) : Option Transfer :=
  if x.held = 16 then x.transfers.find? (fun u => !u.started && u.word == word && u.ahead == some rgn) else none

/-- R131, R134, R140, R318: a launch with its two descriptor lines as read. The record of a descriptor fault names no side:
its FLAGS[0] is a free value (notes/assumptions/64.md). -/
def State.launch (s : State) (k rgn segment : Nat) (tagv : Bool) (tag : BitVec 12) (srcLine dstLine : Nat)
    (src dst : List Byte) (word : Nat) (ahead : Option Nat) : State :=
  let x := s.shuttle k
  let a := descOf src
  let b := descOf dst
  let ok := s.pairOk k a b
  let last := x.bumped word rgn
  let dropped := decide (16 ≤ x.held) && last.isNone
  let circuit := warpCircuit a b
  let xfer := s.warpNext k circuit
  let t : Transfer :=
    { serial := x.serial, segment := segment, tagv := tagv, tag := tag, region := rgn, src := src, dst := dst
      srcLine := srcLine, dstLine := dstLine, started := false, mayFault := a.mayFault && b.mayFault
      total := if dropped then 0 else if ok then a.total else 0
      next := 0, lines := [], srcIdx := none, dstIdx := none, resolved := 0, faulted := false, aborted := false
      recorded := [], xfer := xfer % 256, dropped := dropped, word := word, ahead := ahead }
  let e := x.enter t
  let t := e.1
  let s := s.setShuttle k e.2
  let s := if dropped then s.dropLaunch k t
    else if !ok then
      let f := s.freeNat 2
      let s := f.2.raise SHT_EVT.DESC_FAULT
      let dstOk := s.descOk b && decide (b.total ≤ 2 ^ 32)
      let t := { t with total := if dstOk && b.space == 1 then b.total else 0 }
      (s.setTransfer k t).abort k t 0 0 0 causeDescriptor 0 (f.1 == 1)
    else s.setWarpNext k circuit (xfer + 1)
  match last.bind (fun _ => s.transfer k x.serial) with
  | none => s
  | some u => (s.setWarpNext k (warpCircuit u.srcDesc u.dstDesc) u.xfer).dropLaunch k u

/-! ## Destination lines (R325) -/

/-- Send a line out of the module: to a remote window by a WRITE, or on a warp; none where it must wait for an entry. -/
def State.sendLine (s : State) (k : Nat) (t : Transfer) (n : Nat) (a : Nat) (data : Option (List Byte)) : Option State :=
  let d := t.dstDesc
  if d.space = 2 then
    s.sendRequest 0 reqSync (.shuttle k t.serial n 1) d.deviceId opWrite 1 (d.windowId * 2 ^ 40 + a) []
      [(data.isNone, data.getD [])]
  else some (s.launchCell (k - 64) (scheduledCell (s.memberKey.getD 0) (d.base % 4096) t.xfer n data) t.segment)

/-- R325, R327, R399: an arrived line is written, marked, sent or left; a failure of cause 0 is a fault mark that another
module has recorded. -/
def State.placeLine (s : State) (k : Nat) (t : Transfer) (n : Nat) (l : LineInfo) (data : LineData) : State :=
  let d := t.dstDesc
  let writing (s : State) : State := s.setTransfer k (t.setLine n (some { l with state := .writing }))
  match data with
  | .data b =>
    (match l.dst, d.space with
      | none, _ => s.setTransfer k (t.resolve n true)
      | some _, 3 => (match s.sendLine k t n 0 (some b) with
        | some s => s.setTransfer k (t.resolve n true)
        | none => s)
      | some a, 1 => (writing s).queueSpad k t (s.descRegion t d) (a / 64) (.shuttleWrite k t.serial n) (.write b)
      | some a, 0 =>
        let r := (writing s).memAccess (.shuttleWrite k t.serial n) (a / 64 * 64) (some b)
        (match r.1 with
          | none => r.2
          | some c => r.2.destFault k t.serial n c 0)
      | some a, _ => (match s.sendLine k t n a (some b) with
        | some s => writing s
        | none => s))
  | .failed cause status =>
    let a := s.sideAddr t n false
    let element := t.srcDesc.elementOf n
    if cause != 0 && (!t.mayFault || cause == causeAccess) then s.abort k t a.1 element a.2 cause status false
    else
      let r := if cause = 0 then (t, s) else s.recordOnce k t a.1 element a.2 cause status false
      let t := r.1
      let s := r.2.setTransfer k t
      (match l.dst, d.space with
        | none, _ => s.setTransfer k (t.resolve n false)
        | some _, 3 => (match s.sendLine k t n 0 none with
          | some s => s.setTransfer k (t.resolve n false)
          | none => s)
        | some a, 1 =>
          if s.dstTagged t a then
            (s.setTransfer k (t.setLine n (some { l with state := .writing }))).queueSpad k t (s.descRegion t d) (a / 64)
              (.shuttleWrite k t.serial n) .mark
          else s.setTransfer k (t.resolve n false)
        | some _, 0 => s.setTransfer k (t.resolve n false)
        | some a, _ => (match s.sendLine k t n a none with
          | some s => s.setTransfer k ((t.setLine n (some { l with state := .writing, marked := true })))
          | none => s))

/-! ## Fences (R328) -/

/-- R328: a fence of D3 ends every transfer held, with a record of cause 12. -/
def State.fenceShuttle (s : State) (k : Nat) : State :=
  (s.shuttle k).transfers.foldl (fun s t =>
    if t.done then s
    else
      let s := s.pushFault (faultRecord t k 0 0 0 causeFenced 0 false false false)
      s.endTransfer k t false) s

/-! ## Warps received (R399) -/

/-- R399: transfers of a circuit that have started, modulo 256. -/
def State.warpStarted (s : State) (k circuit : Nat) : Nat :=
  let waiting := ((s.shuttle k).transfers.filter (fun t =>
    !t.started && t.srcDesc.space == 3 && t.srcDesc.base % 4096 == circuit)).length
  (sget 0 s.router.launched (circuitKey k circuit) + 256 - waiting % 256) % 256

/-- R399: what becomes of a cell delivered locally. -/
inductive WarpVerdict where
  | take (serial : Nat)
  | wait
  | drop
  deriving DecidableEq, Repr

def State.warpVerdict (s : State) (k : Nat) (c : Cell) : WarpVerdict :=
  match (s.shuttle k).transfers.find? (fun t => t.started && !t.done && t.srcDesc.space == 3
      && t.srcDesc.base % 4096 == c.circuit && t.xfer == c.xfer) with
  | some t =>
    (match t.line c.index with
      | some l =>
        if !l.state.isReading then .drop
        else (match l.dst with
          | some a =>
            if s.dstTagged t a && (s.region (s.descRegion t t.dstDesc)).tag (a / 64) == tagFull then .wait
            else .take t.serial
          | none => .take t.serial)
      | none => if t.next ≤ c.index && decide (c.index < t.total) then .wait else .drop)
  | none =>
    let ahead := (c.xfer + 257 - s.warpStarted k c.circuit) % 256
    if 1 ≤ ahead && decide (ahead ≤ 127) then .wait else .drop

/-- R394, R399: a cell delivered locally at port `p`. -/
def State.deliverWarp (s : State) (p : Nat) (c : Cell) : State :=
  match s.warpVerdict (64 + p) c with
  | .take serial =>
    s.lineArrives (64 + p) serial c.index (if c.fault then .failed 0 0 else .data c.payload)
  | .wait =>
    let x := s.port p
    if 16384 ≤ x.inbound.length then s.count (RTE_DROP.INBOUND p) else s.setPort p { x with inbound := x.inbound ++ [c] }
  | .drop => s.count (RTE_DROP.INBOUND p)

end Sys2Proof.Machine
end

