-- ==== Sys2Proof/Machine/MailOps.lean ====
section
/-! DEFINITION. Mailboxes (R507 to R516): areas, doorbells, taking and answering, the checks common to all commands, and the
command catalogue (R522). -/
namespace Sys2Proof.Machine

/-! ## Areas (R507) -/

def reqArea (mb : Nat) : Nat := mb * 0x2000
def respArea (mb : Nat) : Nat := mb * 0x2000 + 0x1000

def State.sram (s : State) (a n : Nat) : List Byte := sread 0 s.mail.sram a n
def State.sramPut (s : State) (a : Nat) (b : List Byte) : State :=
  { s with mail := { s.mail with sram := swrite 0 s.mail.sram a b } }

/-! ## Doorbells (R510, R513) -/

/-- R513: a source may use a mailbox. -/
def State.mayUse (s : State) (mb src : Nat) : Bool := 4 ≤ mb || src == s.fld MGT_FM.FM_DEV

/-- R510: a doorbell write: its status. -/
def State.ringDoorbell (s : State) (mb src seq : Nat) : Nat × State :=
  if !s.mayUse mb src then (stAuth, s)
  else
    let b := s.box mb
    if b.lastSeq == some (BitVec.ofNat 32 seq) then (stOk, s)
    else if b.pending.isSome || b.busy.isSome then (stBusy, s)
    else
      let s := s.setBox mb { b with lastSeq := some (BitVec.ofNat 32 seq), pending := some s.mail.order }
      (stOk, { s with mail := { s.mail with order := s.mail.order + 1 } })

/-! ## Requests and responses (R508, R509, R512) -/

/-- A request as copied: its header fields and body bytes. -/
def rqCode (b : List Byte) : Nat := leAt b 0 1
def rqFlags (b : List Byte) : Nat := leAt b 1 1
def rqLen (b : List Byte) : Nat := leAt b 2 2
def rqSeq (b : List Byte) : Nat := leAt b 4 4
def rqBody (b : List Byte) (o n : Nat) : Nat := leAt b (0x20 + o) n
def rqBytes (b : List Byte) (o n : Nat) : List Byte := bytesAt b (0x20 + o) n

/-- R509: a response header. -/
def responseHeader (code st len seq status detail : Nat) (pick : BitVec 48) : List Byte :=
  leBytes 1 code ++ leBytes 1 st ++ leBytes 2 len ++ leBytes 4 seq ++ leBytes 1 status ++ leBytes 3 0
    ++ leBytes 4 detail ++ leBytes 8 pick.toNat ++ leBytes 8 0

/-! ## Management messages (R577) -/

/-- R577: the 16-byte header of a message. -/
def messageHeader (op flags len seq status : Nat) : List Byte :=
  leBytes 1 op ++ leBytes 1 flags ++ leBytes 2 len ++ leBytes 4 seq ++ leBytes 1 status ++ leBytes 7 0

/-- R577: an MCTP message of type 0x7F of the vendor with IANA enterprise number 0x0001_3A5C. -/
def mernorMessage (op flags seq status : Nat) (body : List Byte) : List Byte :=
  [0x7F, 0x00, 0x01, 0x3A, 0x5C] ++ messageHeader op flags body.length seq status ++ body

/-- R577, R578: an answer, whose FLAGS the spec leaves open (notes/assumptions/65.md). -/
def answerMessage (op seq status : Nat) (body : List Byte) : List Byte :=
  mernorMessage op (Config.answerFlags op).toNat seq status body

/-- R512: a mailbox command finishes: its response, and the notify write if the request asks for one; a relayed request's
response area goes back to management (R578). -/
def State.finish (s : State) (mb status detail : Nat) (body : List Byte) : State :=
  let b := s.box mb
  match b.busy with
  | none => s
  | some rq =>
    let s := s.sramPut (respArea mb + 0x20) body
    let s := s.sramPut (respArea mb) (responseHeader (rqCode rq) 2 body.length (rqSeq rq) status detail s.pick.count)
    let s := s.setBox mb { b with busy := none, running := false, relayed := none }
    let s := { s with mgt := { s.mgt with cfReady := true } }
    let s := if bitAt (rqFlags rq) 0 then
        let a := leAt rq 8 8
        s.sendAddressed true (a / 2 ^ 48) 0 0 (a % 2 ^ 48)
          (leBytes 8 (rqSeq rq + status % 256 * 2 ^ 32 + mb * 2 ^ 40))
      else s
    match b.relayed with
    | some seq => s.emit (.message 0 0x23 status (answerMessage 0x23 seq status (s.sram (respArea mb) (0x20 + body.length))))
    | none => s

/-- The number under which a management message waits in place of a mailbox: its SEQ, and whether it is RESET_DOMAIN. -/
def messageBox (seq : Nat) (reset : Bool) : Nat := 64 + 2 * seq + bnat reset

/-- R512, R578: answer a command by its mailbox, or by the message it came in. -/
def State.answer (s : State) (mb status : Nat) (body : List Byte := []) (detail : Nat := 0) : State :=
  if mb < 64 then s.finish mb status detail body
  else
    let op := if mb % 2 = 0 then 0x20 else 0x22
    s.emit (.message 0 op status (answerMessage op ((mb - 64) / 2) status []))

/-- R623, R622: a REHEARSE ends with a status. -/
def State.endRehearsal (s : State) (r : Rehearsal) (status : Nat) : State :=
  let s := { s with obs := { s.obs with rehearse := none } }
  (s.put PTB_STATUS.REHEARSE 0).answer r.mailbox status

/-- R623: the port of a rehearsed link drop is ACTIVE again. -/
def State.rehearsalUp (s : State) (p : Nat) : State :=
  match s.obs.rehearse with
  | some r => if r.running.isSome && r.kind == 0 && r.target == p then s.endRehearsal r stOk else s
  | none => s

/-! ## The catalogue (R522) -/

/-- A catalogue row: code, mailboxes (0 any, 1 the fault manager's, 2 the others), body bytes, and the fields of the body:
offset, size, and the bits that are not reserved. -/
structure MailRow where
  code   : Nat
  boxes  : Nat
  len    : Nat
  fields : List (Nat × Nat × Nat)
  deriving DecidableEq, Repr

/-- A whole field of `n` bytes. -/
def whole (o n : Nat) : Nat × Nat × Nat := (o, n, 2 ^ (8 * n) - 1)

/-- R632: a device virtual address, whose bits [63:52] are reserved. -/
def vaField (o : Nat) : Nat × Nat × Nat := (o, 8, 2 ^ 52 - 1)

def mailRows : List MailRow := [
  ⟨0x01, 0, 0, []⟩,
  ⟨0x02, 0, 16, [whole 0 16]⟩,
  ⟨0x10, 2, 0x48, [vaField 0, whole 8 8, whole 0x10 32, vaField 0x30, whole 0x38 4, (0x3C, 4, 1), vaField 0x40]⟩,
  ⟨0x11, 2, 0x0C, [vaField 0, whole 8 4]⟩,
  ⟨0x12, 2, 0x02, [whole 0 1, whole 1 1]⟩,
  ⟨0x13, 2, 0x28, [whole 0 1, whole 8 32]⟩,
  ⟨0x14, 2, 0x01, [whole 0 1]⟩,
  ⟨0x20, 2, 0x38, [vaField 0, whole 8 4, whole 0x10 32, vaField 0x30]⟩,
  ⟨0x21, 2, 0x02, [(0, 2, 0xFFF)]⟩,
  ⟨0x22, 2, 0x10, [(0, 2, 0xFFF), whole 4 4, (8, 8, 0xFFFFFFFFFFFF)]⟩,
  ⟨0x23, 2, 0x10, [(0, 2, 0xFFF), whole 4 4, (8, 8, 0xFFFFFFFFFFFF)]⟩,
  ⟨0x24, 2, 0x0C, [whole 0 8, whole 8 4]⟩,
  ⟨0x25, 2, 0x20, [whole 0 8, whole 8 4, vaField 0x10, whole 0x18 8]⟩,
  ⟨0x30, 2, 0x48, [whole 0 4, whole 4 1, whole 5 1, whole 8 8, whole 0x10 8, whole 0x18 8, whole 0x20 8,
    whole 0x28 4, whole 0x2C 4, whole 0x30 4, whole 0x34 4, whole 0x38 8, whole 0x40 8]⟩,
  ⟨0x31, 0, 0x04, [(0, 4, 0x3FFFF)]⟩,
  ⟨0x32, 0, 0x10, [(0, 4, 0x3FFFF), (8, 8, 0xFFFFFFFFFFFF)]⟩,
  ⟨0x33, 2, 0x04, [(0, 4, 0x3FFFF)]⟩,
  ⟨0x34, 2, 0x30, [(0, 4, 0xFFFFF), vaField 8, whole 0x10 32]⟩,
  ⟨0x40, 2, 0x30, [whole 0 8, whole 8 4, whole 0x0C 1, whole 0x10 32]⟩,
  ⟨0x41, 2, 0x38, [whole 0 8, whole 8 4, whole 0x10 32, whole 0x30 8]⟩,
  ⟨0x50, 2, 0x08, [whole 0 8]⟩,
  ⟨0x51, 0, 0x08, [whole 0 8]⟩,
  ⟨0x60, 1, 0x08, [(0, 1, 0x0E), whole 4 4]⟩,
  ⟨0x61, 1, 0x01, [(0, 1, 0x0E)]⟩,
  ⟨0x62, 1, 0x01, [(0, 1, 0x0E)]⟩,
  ⟨0x63, 1, 0x02, [(0, 2, 0xFFF)]⟩,
  ⟨0x70, 2, 0x08, [whole 0 1, whole 4 4]⟩,
  ⟨0x71, 1, 0x10, [whole 0 1, whole 2 2, whole 8 8]⟩,
  ⟨0x72, 2, 0x12, [whole 0 1, whole 8 8, (0x10, 2, 0xFFF)]⟩]

def mailRow (code : Nat) : Option MailRow := mailRows.find? (fun r => r.code == code)

/-- R508, R522: a byte of the body may hold these bits. -/
def MailRow.mask (r : MailRow) (i : Nat) : Nat :=
  r.fields.foldl (fun m f => if f.1 ≤ i && decide (i < f.1 + f.2.1) then m ||| bitsAt f.2.2 (8 * (i - f.1)) 8 else m) 0

/-- R515: a reserved field of the header or the body is not zero. -/
def MailRow.reservedSet (r : MailRow) (b : List Byte) : Bool :=
  decide (2 ≤ rqFlags b) || leAt b 0x10 16 != 0
    || (List.range r.len).any (fun i => rqBody b i 1 &&& (255 - r.mask i) != 0)

/-- R522: PERTURB's body carries COUNT pairs after its fixed eight bytes. -/
def MailRow.lenOk (r : MailRow) (b : List Byte) : Bool :=
  if r.code = 0x70 then decide (rqBody b 4 4 ≤ 500) && rqLen b == 8 + 8 * rqBody b 4 4 else rqLen b == r.len

/-- R515: a fault-manager command. -/
def MailRow.ofFaultManager (r : MailRow) : Bool := r.boxes == 1

/-- R515, R522: the feature a command needs. -/
def mailFeature (code : Nat) (b : List Byte) : Option Nat :=
  match code with
  | 0x70 => some featPerturb
  | 0x71 => some featRehearsal
  | 0x41 => some featSwap
  | 0x40 => if rqBody b 0x0C 1 = 1 then some featSwap else none
  | _ => none

/-- R515: the checks common to all commands: the first that fails gives the answer. -/
def State.mailCheck (s : State) (mb : Nat) (b : List Byte) : Option Nat :=
  match mailRow (rqCode b) with
  | none => some stBadArg
  | some r =>
    if !r.lenOk b || r.reservedSet b then some stBadArg
    else if r.ofFaultManager && decide (4 ≤ mb) then some stAuth
    else if r.boxes == 2 && decide (mb < 4) then some stBadArg
    else if !(r.code ≤ 2 || r.ofFaultManager) && s.mail.locked.isNone then some stBadArg
    else if (match mailFeature r.code b with | some f => !s.feature f | none => false) then some stNoFeature
    else if s.fenced 3 && !([0x01, 0x51, 0x21].contains r.code || r.ofFaultManager) then some stFenced
    else none

/-- A mailbox command is carried out once: the mailbox is BUSY with a request of its code, and the common checks pass. -/
def State.withMail (s : State) (mb code : Nat) (f : List Byte → State → State) : State :=
  match (s.box mb).busy with
  | none => s
  | some b =>
    if rqCode b = code && !(s.box mb).running then
      match s.mailCheck mb b with
      | some st => s.finish mb st 0 []
      | none => f b (s.setBox mb { s.box mb with running := true })
    else s

/-! ## Taking (R511) -/

/-- R511: rank of a pending mailbox by its request. -/
def State.mailRank (s : State) (mb : Nat) : Nat :=
  let code := leAt (s.sram (reqArea mb) 1) 0 1
  if code = 0x31 || code = 0x32 then 0 else if mb < 4 then 1 else 2

/-- R511: the pending mailbox that is taken next. -/
def State.nextMail (s : State) : Option Nat :=
  (List.range 64).foldl (fun m n =>
    match (s.box n).pending with
    | none => m
    | some o =>
      match m with
      | none => some n
      | some k =>
        let ok := ((s.box k).pending).getD 0
        if s.mailRank n < s.mailRank k || (s.mailRank n == s.mailRank k && decide (o < ok)) then some n else some k) none

/-- R511: take a mailbox: copy its request and show it BUSY; a code not in the catalogue is answered at once (R515). -/
def State.takeMail (s : State) : State :=
  match s.nextMail with
  | none => s
  | some mb =>
    let rq := s.sram (reqArea mb) 4096
    let s := s.setBox mb { s.box mb with pending := none, busy := some rq }
    let s := s.sramPut (respArea mb) (responseHeader (rqCode rq) 1 0 (rqSeq rq) 0 0 s.pick.count)
    if (mailRow (rqCode rq)).isNone then s.finish mb stBadArg 0 [] else s

end Sys2Proof.Machine
end

