-- ==== Sys2Proof/Machine/WeightOps.lean ====
section
/-! DEFINITION. Weight shards (R468 to R487): the map, fetches, layer gates and swaps. -/
namespace Sys2Proof.Machine

/-! ## The map (R468 to R470) -/

/-- R470: a chunk record from its 64 bytes and its index. -/
def chunkOf (i : Nat) (b : List Byte) : Chunk :=
  { index := i, layer := leAt b 0 2, altGw := if bitAt (leAt b 6 2) 0 then some (leAt b 4 2) else none
    dst := leAt b 8 8 % 2 ^ 52, src := leAt b 0x10 8 % 2 ^ 48, gw := leAt b 0x10 8 / 2 ^ 48, lines := leAt b 0x18 4
    digest := bytesAt b 0x20 32 }

/-- R472: a reserved field of a record is not zero, or a field is outside its range. -/
def chunkBad (layers : Nat) (b : List Byte) : Bool :=
  decide (2 ≤ leAt b 6 2) || leAt b 8 8 / 2 ^ 52 != 0 || leAt b 8 8 % 64 != 0 || leAt b 0x1C 4 != 0
    || decide (layers ≤ leAt b 0 2) || leAt b 0x18 4 == 0 || decide (2 ^ 20 < leAt b 0x18 4)

/-- R469: bytes of a layer table. -/
def layerTable (layers : Nat) : Nat := (8 * layers + 63) / 64 * 64

/-- R468: fields of the header, and the record bytes at an index. -/
def mapLayers (b : List Byte) : Nat := leAt b 8 2
def mapMembers (b : List Byte) : Nat := leAt b 0xA 2
def mapRecords (b : List Byte) : Nat := leAt b 0xC 4
def mapRecord (b : List Byte) (i : Nat) : List Byte := bytesAt b (64 + layerTable (mapLayers b) + 64 * i) 64

/-- R468, R469: the header and the layer table are as they must be. -/
def mapHeaderOk (b : List Byte) : Bool :=
  leAt b 0 4 == 1 && leAt b 4 4 != 0 && decide (1 ≤ mapLayers b) && decide (mapLayers b ≤ 256) && decide (1 ≤ mapMembers b)
    && decide (1 ≤ mapRecords b) && decide (mapRecords b ≤ 2 ^ 20) && decide (leAt b 0x10 8 < 2 ^ 52)
    && leAt b 0x10 8 % 2097152 == 0 && leAt b 0x18 40 == 0
    && (List.range (mapLayers b)).all (fun l => decide (1 ≤ leAt b (64 + 8 * l) 8) && decide (leAt b (64 + 8 * l) 8 < 65536))
    && b.length == 64 + layerTable (mapLayers b) + 64 * mapRecords b

/-- R471: the module's member index. -/
def State.memberIndex (s : State) : Option Nat :=
  match s.part.joined with
  | none => none
  | some j => j.members.idxOf? s.deviceId

/-- R471: the records the module takes, with their bytes. -/
def State.ownChunks (s : State) (b : List Byte) : List (Chunk × List Byte) :=
  (List.range (mapRecords b)).filterMap (fun i =>
    let r := mapRecord b i
    let m := leAt r 2 2
    if m = 0xFFFF || s.memberIndex == some m then some (chunkOf i r, r) else none)

/-- Where a chunk is written: staged, or in place. -/
def Chunk.at_ (c : Chunk) (m : ShardMap) (staged : Bool) : Nat := if staged then c.dst + m.stageOffset else c.dst

/-- R472: the pages of a chunk's destination are as the mode needs them. -/
def State.chunkPages (s : State) (va n : Nat) (staged : Bool) : Bool :=
  (List.range ((va + n + 65535) / 65536 - va / 65536)).all (fun i =>
    let a := max va ((va / 65536 + i) * 65536)
    match s.translate a with
    | .leaf l => staged || (!l.cxl && (match s.mail.image with
        | some im => im.resident.any (fun r => decide (r.1 ≤ a) && decide (min (va + n) ((a / 65536 + 1) * 65536) ≤ r.1 + r.2))
        | none => false))
    | _ => false)

/-- R472: the first record a fetch refuses; a MEMBERS that is not the partition's refuses the first record the module takes, or
record 0 where it takes none (DESIGN CHOICE, notes/assumptions/39.md). -/
def State.badChunk (s : State) (b : List Byte) (m : ShardMap) (staged : Bool) : Option Nat :=
  let members := match s.part.joined with | some j => j.members.length | none => 0
  let cs := s.ownChunks b
  if mapMembers b != members then some (match cs with | e :: _ => e.1.index | [] => 0)
  else (cs.find? (fun e =>
    chunkBad m.layers e.2
      || cs.any (fun f => decide (f.1.index < e.1.index) && decide (f.1.dst < e.1.dst + 64 * e.1.lines)
          && decide (e.1.dst < f.1.dst + 64 * f.1.lines))
      || !s.chunkPages (e.1.at_ m staged) (64 * e.1.lines) staged)).map (fun e => e.1.index)

/-- R468: the map the module keeps, its records in the order of R474. -/
def State.shardMap (s : State) (b : List Byte) : ShardMap :=
  let cs := (s.ownChunks b).map (fun e => e.1)
  { version := leAt b 4 4, layers := mapLayers b, stageOffset := leAt b 0x10 8, digest := sha256 b
    budgets := (List.range (mapLayers b)).map (fun l => leAt b (64 + 8 * l) 2)
    chunks := (List.range (mapLayers b)).flatMap (fun l => cs.filter (fun c => c.layer == l)) }

def ShardMap.chunk (m : ShardMap) (i : Nat) : Option Chunk := m.chunks.find? (fun c => c.index == i)

/-! ## Registers (R487) -/

/-- R486: what is recorded for a layer that a swap has left unverified: no version (DEDUCED, notes/assumptions/39.md). -/
def noVersion : Nat := 2 ^ 32

/-- R485 to R487: the recorded layer versions differ, or a layer has none. -/
def State.versionsDiffer (s : State) : Bool :=
  s.weights.versions.any (fun e => e.2 == noVersion)
    || (match s.weights.gates with
      | some (_, layers) =>
        let v0 := sget 0 s.weights.versions 0
        (List.range layers).any (fun l => sget 0 s.weights.versions l != v0)
      | none =>
        match s.weights.versions with
        | [] => false
        | (_, v) :: r => r.any (fun e => e.2 != v))

/-- R487: the status register follows the operation, the versions and the staged map. -/
def State.weightRegs (s : State) : State :=
  let op := match s.weights.op with | none => 0 | some o => if o.swap then 2 else 1
  let layer := match s.weights.op with
    | none => 0x100
    | some o =>
      if o.swap then (if o.copying then o.layers.headD 0x100 else 0x100)
      else match o.left with
        | [] => 0x100
        | i :: _ => (match o.map.chunk i with | some c => c.layer | none => 0x100)
  let s := s.put SHT_WEIGHT_STAT.OP op
  let s := s.put SHT_WEIGHT_STAT.MIXED (bnat s.versionsDiffer)
  let s := s.put SHT_WEIGHT_STAT.STAGED (bnat s.weights.staged.isSome)
  s.put SHT_WEIGHT_STAT.LAYER layer

/-- R485: on recovery the firmware shows the versions that its area of HBM keeps; VERSION where they do not differ. -/
def State.recoverWeights (s : State) : State :=
  let t := s.weightRegs
  match s.weights.versions with
  | (_, v) :: _ => if s.versionsDiffer then t else t.put SHT_WEIGHT_VER.VERSION v
  | [] => t

def State.setWeightOp (s : State) (o : Option WeightOp) : State :=
  ({ s with weights := { s.weights with op := o } }).weightRegs

/-! ## Reading (R473 to R475) -/

/-- R475: the gateway of a try: SRC first, then ALT_GW where it is valid, then SRC. -/
def Chunk.gateway (c : Chunk) (fails : Nat) : Nat := if fails = 1 then c.altGw.getD c.gw else c.gw

/-- R473: entries of the request table that the fetch holds. -/
def State.weightEntries (s : State) : Nat :=
  (s.requests.entries.filter (fun e => match e.2 with
    | some r => (match r.who with | .weight _ _ => true | _ => false)
    | none => false)).length

/-- R475: the next READ of the chunks asked for; none where nothing is left or it must wait. -/
def State.issueWeight (s : State) : Option State :=
  match s.weights.op with
  | none => none
  | some o =>
    match o.queue with
    | [] => none
    | (i, n) :: r =>
      match o.map.chunk i with
      | none => none
      | some c =>
        if s.fenced 3 || 1024 ≤ s.weightEntries then none
        else
          let m := min 64 (c.lines - n)
          match s.sendRequest 0 reqSync (.weight i n) (c.gateway (sget 0 o.fails i)) opRead m (c.src + 64 * n) [] [] with
          | none => none
          | some t =>
            let q := if c.lines ≤ n + m then r else (i, n + m) :: r
            some { t with weights := { t.weights with op := some { o with queue := q } } }

/-- R473, R474: issue READ messages of up to 64 lines, records in order, while entries are to be had. -/
def State.pumpWeights : Nat → State → State
  | 0, s => s
  | fuel + 1, s =>
    match s.issueWeight with
    | none => s
    | some t => State.pumpWeights fuel t

/-- Enough turns to issue whatever can be issued. -/
def State.feedWeights (s : State) : State := s.pumpWeights 1025

/-- R474: the record's chunk lands in place, or in the staging area. -/
def WeightOp.target (o : WeightOp) (c : Chunk) : Nat := c.at_ o.map o.staged

/-- R473, R475: one line of a chunk comes in. -/
def State.weightLine (s : State) (i n : Nat) (d : Option (List Byte)) : State :=
  match s.weights.op with
  | none => s
  | some o =>
    let bad (s : State) : State :=
      { s with weights := { s.weights with op := some { o with bad := i :: o.bad.filter (fun j => j != i) } } }
    match (if s.fenced 2 then none else d), o.map.chunk i with
    | some b, some c =>
      let r := s.vaWrite (o.target c + 64 * n) b false
      let t := r.2.count SHT_WEIGHT_LINES.LINES
      if r.1 then { t with weights := { t.weights with op := some { o with got := sset [] o.got (2 ^ 20 * i + n) b } } }
      else bad (t.recordFault .firmware (o.target c + 64 * n) true (t.vaCause (o.target c + 64 * n) == causeAccess))
    | _, _ => bad s

/-- R473, R475: a READ of a chunk ends: its lines, or none where its status was not ST_OK. -/
def State.weightLines (s : State) (i n count : Nat) (lines : Option (List (Bool × List Byte))) : State :=
  let l := lines.getD []
  (List.range count).foldl (fun t j =>
    t.weightLine i (n + j) (match l[j]? with
      | some (false, b) => some b
      | _ => none)) s

/-! ## Ends (R475, R476, R484) -/

/-- R475: a record of the operation is to be fetched again whole. -/
def WeightOp.again (o : WeightOp) (i : Nat) : WeightOp :=
  { o with
    queue := (i, 0) :: o.queue.filter (fun e => e.1 != i), bad := o.bad.filter (fun j => j != i)
    fails := smod 0 o.fails i (fun n => n + 1), got := sfilter o.got (fun k => k / 2 ^ 20 != i) }

/-- Entries of the fetch are given up; their later responses count as LATE. -/
def State.dropWeightEntries (s : State) : State :=
  { s with requests := { s.requests with entries := s.requests.entries.filter (fun e => match e.2 with
      | some r => (match r.who with | .weight _ _ => false | _ => true)
      | none => false) } }

/-- The operation ends with a status. -/
def State.endWeights (s : State) (status record : Nat) : State :=
  match s.weights.op with
  | none => s
  | some o =>
    let s := s.dropWeightEntries.setWeightOp none
    s.answer o.mailbox status (leBytes 4 (if o.swap then o.map.version else record)) (if o.swap then 0 else record)

/-- R476, R485: VERSION is recorded for layers. -/
def State.recordVersions (s : State) (layers : List Nat) (v : Nat) : State :=
  { s with weights := { s.weights with versions := layers.foldl (fun m l => sset 0 m l v) s.weights.versions } }

/-- R476: every chunk of a fetch has verified. -/
def State.fetchDone (s : State) (o : WeightOp) : State :=
  if o.staged then ({ s with weights := { s.weights with staged := some o.map } }).endWeights stOk 0
  else
    let s := s.recordVersions (List.range o.map.layers) o.map.version
    (s.put SHT_WEIGHT_VER.VERSION o.map.version).endWeights stOk 0

/-- R475, R486: a chunk failed: fetched again, or the third failure ends the operation; a swap leaves its layer unverified. -/
def State.chunkFailed (s : State) (o : WeightOp) (i : Nat) : State :=
  if 2 ≤ sget 0 o.fails i then (if o.swap then s.recordVersions (o.layers.take 1) noVersion else s).endWeights stFault i
  else
    let o := o.again i
    (({ s with weights := { s.weights with op := some o } }).count
      SHT_WEIGHT_STAT.RETRIES).feedWeights

/-- R482: a read of a page of a chunk's staging area waits, for a walk or at its pseudo-channel or port. -/
def State.stageReads (s : State) (o : WeightOp) (i : Nat) : Bool :=
  match o.map.chunk i with
  | none => false
  | some c =>
    let lo := c.at_ o.map true
    let here (p : Nat) : Bool := decide (lo / 65536 ≤ p) && decide (p ≤ (lo + 64 * c.lines - 1) / 65536)
    let mine (r : MemReq) : Bool := r.who == .firmware && r.write.isNone && r.page.any here
    s.cxl.any (fun e => e.2.reads.any mine) || s.hbm.pchs.any (fun e => e.2.queue.any mine)
      || s.mmu.waiting.any (fun w => w.who == .firmware && w.write.isNone && here (w.va / 65536))

/-- R482: the chunks of a layer are read from the staging area, as unscheduled accesses. -/
def State.readStage (s : State) (o : WeightOp) (l : Nat) : State :=
  (o.map.chunks.filter (fun c => c.layer == l)).foldl (fun (t : State) c =>
    t.noteReads .firmware (c.at_ o.map true) (64 * c.lines)) s

/-- R486: a read of a swap's staging area fails at its port: its chunk fails. -/
def State.stageFailed (s : State) (r : MemReq) : State :=
  match s.weights.op, r.page with
  | some o, some p =>
    let va := p * 65536 + r.addr % 65536
    if o.copying && r.who == .firmware && r.write.isNone then
      match o.map.chunks.find? (fun c => o.left.contains c.index && decide (c.at_ o.map true ≤ va)
        && decide (va < c.at_ o.map true + 64 * c.lines)) with
      | some c => { s with weights := { s.weights with op := some { o with bad := c.index :: o.bad.filter (fun j => j != c.index) } } }
      | none => s
    else s
  | _, _ => s

/-- R475, R482: no READ of a record is outstanding or to be issued, and, of one to be copied, no read of its staging area waits. -/
def State.chunkHere (s : State) (o : WeightOp) (i : Nat) : Bool :=
  o.left.contains i && !o.queue.any (fun e => e.1 == i) && !(o.swap && sget 0 o.fails i == 0 && s.stageReads o i)
    && !s.requests.entries.any (fun e => match e.2 with
      | some r => (match r.who with | .weight j _ => i == j | _ => false)
      | none => false)

/-! ## Gates (R477 to R481) -/

def gatePass (w l : Nat) : Nat := w + 3 * l
def gateOpen (w l : Nat) : Nat := w + 3 * l + 1
def gateAt (w l : Nat) : Nat := w + 3 * l + 2

def State.setValue (s : State) (n : Nat) (v : Nat) : State :=
  (s.setObj n { s.obj n with value := BitVec.ofNat 64 v }).putCycle (s.objCycle n)

/-- R115: the program segment number of a segment. -/
def State.programSegment (s : State) (p : Nat) : Nat := (p + 2 ^ 48 - s.seq.segBase.toNat) % 2 ^ 48

/-- R479, R481: an increment has reached a counter: where it is PASS_L, OPEN_L follows it or the cut comes into force. -/
def State.gatePassed (s : State) (n segment : Nat) : State :=
  match s.weights.gates with
  | none => s
  | some (w, layers) =>
    if n < w || w + 3 * layers ≤ n || (n - w) % 3 != 0 then s
    else
      let l := (n - w) / 3
      if s.weights.cuts.contains l then s
      else
        match s.weights.op with
        | some o =>
          if o.swap && o.gated && o.layers.contains l && decide (o.k ≤ (s.obj n).value.toNat) then
            let prev := if l = 0 then 0 else (s.obj (gateAt w (l - 1))).value.toNat
            let s := s.setValue (gateAt w l) (max (s.programSegment segment) prev + o.map.budgets.getD l 0)
            { s with weights := { s.weights with cuts := l :: s.weights.cuts } }
          else s.setValue (gateOpen w l) ((s.obj (gateOpen w l)).value.toNat + 1)
        | none => s.setValue (gateOpen w l) ((s.obj (gateOpen w l)).value.toNat + 1)

/-! ## Copying (R482, R484, R485) -/

/-- R482, R486: a chunk that has been read is copied from the staging area over the live bytes; false where it does not verify, a
read of it failed, or D2 is fenced. -/
def State.copyChunk (s : State) (o : WeightOp) (c : Chunk) : Bool × State :=
  if s.fenced 2 || o.bad.contains c.index then (false, s) else
  let r := s.vaRead (c.at_ o.map true) (64 * c.lines) []
  match r.1 with
  | none =>
    let at_ := s.vaFirstBad (c.at_ o.map true) (64 * c.lines) false
    (false, s.recordFault .firmware at_ false (s.vaCause at_ == causeAccess))
  | some b =>
    let poisoned := (List.range c.lines).any (fun n => match r.2.translate (c.at_ o.map true + 64 * n) with
      | .leaf l => (match l.place (c.at_ o.map true + 64 * n) with
        | .hbm a => r.2.hbm.badLines.contains (a / 64 * 64)
        | .cxl _ _ => false)
      | _ => true)
    let t := r.2.count SHT_WEIGHT_LINES.LINES c.lines
    if poisoned || sha256 b != c.digest then (false, t)
    else
      let w := t.vaWrite c.dst b false
      let at_ := t.vaFirstBad c.dst b.length false
      (w.1, if w.1 then w.2 else w.2.recordFault .firmware at_ true (t.vaCause at_ == causeAccess))

/-- R484: the last layer has reopened. -/
def State.swapDone (s : State) (o : WeightOp) : State :=
  let s := { s with weights := { s.weights with staged := none } }
  (s.put SHT_WEIGHT_VER.VERSION o.map.version).endWeights stOk 0

/-- R482, R484: a layer's copy has ended: it reopens, and the next one follows. -/
def State.layerDone (s : State) (o : WeightOp) : State :=
  match o.layers with
  | [] => s
  | l :: r =>
    let s := s.recordVersions [l] o.map.version
    let s := match s.weights.gates with
      | some (w, _) =>
        if o.gated then
          let late := match s.seq.segment with
            | some p =>
              let at_ := (s.obj (gateAt w l)).value.toNat
              decide (at_ < s.programSegment p) || (at_ == s.programSegment p && s.seq.open_)
            | none => false
          let s := if late then s.raise SHT_WEIGHT_STAT.LATE else s
          let s := s.setValue (gateOpen w l) (o.k + 1)
          { s with weights := { s.weights with cuts := s.weights.cuts.filter (fun j => j != l) } }
        else s
      | none => s
    let o := { o with layers := r, copying := false }
    if r.isEmpty then (s.setWeightOp (some o)).swapDone o else s.setWeightOp (some o)

/-- R486: a fence of D3, or its reset, ends a fetch or a swap. -/
def State.fenceWeights (s : State) : State := s.endWeights stFenced 0

end Sys2Proof.Machine
end

