-- ==== Sys2Proof/Machine/StartOps.lean ====
section
/-! DEFINITION. Starting a partition (R555 to R562): start records going down the tick tree and acknowledgements coming
up. -/
namespace Sys2Proof.Machine

/-! ## Records (R556, R557) -/

def startRecord (op key epoch pick timeout : Nat) : List Byte :=
  padTo 48 (leBytes 1 op ++ leBytes 1 0 ++ leBytes 2 key ++ leBytes 4 epoch ++ leBytes 8 pick ++ leBytes 4 timeout)
def srOp (b : List Byte) : Nat := leAt b 0 1
def srKey (b : List Byte) : Nat := leAt b 2 2 % 4096
def srEpoch (b : List Byte) : Nat := leAt b 4 4
def srPick (b : List Byte) : Nat := leAt b 8 8 % 2 ^ 48
def srTimeout (b : List Byte) : Nat := leAt b 0x10 4

def startAck (op status epoch done failed firstDev firstStatus : Nat) : List Byte :=
  padTo 32 (leBytes 1 op ++ leBytes 1 status ++ leBytes 2 0 ++ leBytes 4 epoch ++ leBytes 4 done ++ leBytes 4 failed
    ++ leBytes 2 firstDev ++ leBytes 1 firstStatus)

/-- PCK_START.STATE (R564). -/
def startIdle : Nat := 0
def startArmed : Nat := 1
def startCommitted : Nat := 2
def startStarted : Nat := 3
def startDisarmed : Nat := 4

/-! ## The tick tree -/

/-- R400, R555: the child ports of the tick tree, and the parents. -/
def State.childPorts (s : State) : List Nat := if warpValid (s.warp 0xFFF) then warpPorts (s.warp 0xFFF) else []
def State.isParentPort (s : State) (p : Nat) : Bool :=
  s.isMember && (p == s.fld PCK_ROLE.PRIMARY_PORT || p == s.fld PCK_ROLE.ALT_PORT)

/-- R555: offsets of the start area in window 0. -/
def startArea : Nat := 0x80000
def ackSlot (q : Nat) : Nat := 0x80100 + 32 * q

/-! ## Acknowledging (R557, R560, R562) -/

/-- R560: the waits but for that of a record's operation; an ARM and its COMMIT can wait for the children at once. -/
def State.dropWait (s : State) (op : Nat) : State :=
  { s with part := { s.part with starts := s.part.starts.filter (fun w => w.op != op) } }

/-- R560, R562: the module acknowledges upward, or answers its own command at the origin. -/
def State.sendStartAck (s : State) (w : StartWait) : State :=
  let f := w.first.getD (0, 0)
  let s := s.put PCK_START.FIRST_DEV f.1
  let s := s.put PCK_START.FIRST_STATUS f.2
  let s := s.put PCK_START_CNT.DONE (min w.done 65535)
  let s := s.put PCK_START_CNT.FAILED (min w.failed 65535)
  match w.parent with
  | none => s.answer w.mailbox w.own
  | some p =>
    s.sendAddressed false (s.fld (LNK_DELAY.PARTNER_DEV p)) 0 0 (ackSlot (s.port p).partner)
      (startAck w.op w.own w.epoch.toNat w.done w.failed f.1 f.2)

/-- R560: the module's own share of the sums. -/
def State.ownShare (s : State) (w : StartWait) (status : Nat) : StartWait :=
  let counts := s.part.joined.isSome
  if status = stOk then { w with own := status, done := w.done + bnat counts }
  else { w with own := status, failed := w.failed + bnat counts
                first := match w.first with | some f => some f | none => some (s.deviceId, status) }

/-- R560: a wait ends; each silent child counts as failed. -/
def State.endStartWait (s : State) (w : StartWait) : State :=
  let first := match w.first, w.waiting with
    | some f, _ => some f
    | none, p :: _ => some (s.fld (LNK_DELAY.PARTNER_DEV p), stUnknownOutcome)
    | none, [] => none
  (s.dropWait w.op).sendStartAck { w with waiting := [], failed := w.failed + w.waiting.length, first := first }

/-- R570: the wait of an ARM, or of a COMMIT, that one of another epoch crosses ends with ST_EPOCH_STALE; an origin's own
command repeated for its epoch ends as its time would end it. -/
def State.crossWait (s : State) (n : StartWait) : State :=
  match s.part.starts.find? (fun w => w.op == n.op) with
  | none => s
  | some w =>
    if w.epoch != n.epoch then
      let counts := s.part.joined.isSome
      (s.dropWait w.op).sendStartAck { w with
        own := stEpochStale, waiting := [], done := w.done - bnat counts, failed := w.failed + bnat counts
        first := some (s.deviceId, stEpochStale) }
    else if w.parent.isNone then s.endStartWait w
    else s.dropWait w.op

/-- R559, R561: relay a record to each child, and wait for them. -/
def State.relayStart (s : State) (w : StartWait) (rec : List Byte) : State :=
  let kids := s.childPorts
  let s := s.crossWait w
  let s := kids.foldl (fun t p => t.sendAddressed false (t.fld (LNK_DELAY.PARTNER_DEV p)) 0 0 startArea rec) s
  let w := { s.ownShare w stOk with waiting := kids }
  if kids.isEmpty then s.sendStartAck w else { s with part := { s.part with starts := s.part.starts ++ [w] } }

/-! ## ARM and COMMIT (R559, R561) -/

/-- R31 to R35: the pick configuration is one a program may start with. -/
def State.configOk (s : State) : Bool :=
  let len := s.fld PCK_LENGTH.LENGTH
  let win := s.fld PCK_PARTS.WINDOW
  let margin := s.fld PCK_PARTS.MARGIN
  len % 16 == 0 && decide (4096 ≤ len) && decide (len ≤ 65536) && win % 16 == 0 && margin % 16 == 0
    && decide (256 ≤ margin) && decide (margin ≤ 8192) && decide (2048 ≤ s.spanLen) && decide (windowMin len ≤ win)
    && decide (win ≤ 4096)

/-- R33, R485, R559: what forbids a start. -/
def State.startForbidden (s : State) : Bool :=
  s.mail.image.isNone || s.programOn || !(s.pickState == pickLocked || s.pickState == pickHoldover)
    || !s.configOk || s.versionsDiffer

/-- R559: epoch `a` is older than `b`, modulo 2^32 within 2^31. -/
def epochOlder (a b : Nat) : Bool := decide (2147483648 ≤ (a + 4294967296 - b) % 4294967296)

/-- R559, R561: a fresh wait for a record. -/
def startWaitOf (rec : List Byte) (parent : Option Nat) (mailbox now : Nat) : StartWait :=
  ⟨srOp rec, BitVec.ofNat 32 (srEpoch rec), srPick rec, now, srTimeout rec, parent, mailbox, [], 0, 0, none, 0⟩

/-- R559: an ARM arrives; one that repeats the epoch of the start in hand passes the same checks and changes nothing. -/
def State.takeArm (s : State) (w : StartWait) (rec : List Byte) : State :=
  let latest := (s.reg PCK_EPOCH).toNat
  let st := s.fld PCK_START.STATE
  let refuse (status : Nat) : State := s.sendStartAck (s.ownShare w status)
  if s.fenced 3 then refuse stFenced
  else if s.memberKey != some (srKey rec) then refuse stKeyMismatch
  else if epochOlder (srEpoch rec) latest then refuse stEpochStale
  else if s.startForbidden then refuse stBadArg
  else if srEpoch rec = latest && (st == startArmed || st == startCommitted) then s.relayStart w rec
  else
    let s := s.setReg PCK_EPOCH (BitVec.ofNat 32 (srEpoch rec))
    let s := s.put PCK_START.STATE startArmed
    let s := { s with part := { s.part with startPick := some (srPick rec) }, seq := { s.seq with committed := none } }
    s.relayStart w rec

/-- R561, R496, R498: a COMMIT arrives. -/
def State.takeCommit (s : State) (w : StartWait) (rec : List Byte) : State :=
  let refuse (s : State) (status : Nat) : State := s.sendStartAck (s.ownShare w status)
  if s.fenced 3 then refuse s stFenced
  else if s.memberKey != some (srKey rec) then refuse s stKeyMismatch
  else if srEpoch rec != (s.reg PCK_EPOCH).toNat || s.fld PCK_START.STATE != startArmed
      || s.part.startPick != some (srPick rec) then refuse s stEpochStale
  else if srPick rec < s.pickNo + 64 then
    let s := s.put PCK_START.STATE startDisarmed
    refuse { s with part := { s.part with startPick := none } } stOverrun
  else
    let s := s.put PCK_START.STATE startCommitted
    let s := { s with
      part := { s.part with epoch := BitVec.ofNat 32 (srEpoch rec) }
      seq := { s.seq with committed := some (srPick rec) }
      sync := { s.sync with opid := 1, filter := [] } }
    s.relayStart w rec

/-- R558 to R561: a start record from a parent, or the origin's own command. -/
def State.takeStart (s : State) (rec : List Byte) (parent : Option Nat) (mailbox : Nat) : State :=
  let w := startWaitOf rec parent mailbox s.now
  if srOp rec = 1 then s.takeArm w rec
  else if srOp rec = 2 then s.takeCommit w rec
  else s

/-- R560: a child's acknowledgement. -/
def State.takeStartAck (s : State) (p : Nat) (b : List Byte) : State :=
  match s.part.starts.find? (fun w => w.waiting.contains p && leAt b 0 1 == w.op && leAt b 4 4 == w.epoch.toNat) with
  | none => s
  | some w =>
    let first := match w.first with
      | some f => some f
      | none => if leAt b 0x0C 4 = 0 then none else some (leAt b 0x10 2, leAt b 0x12 1)
    let w := { w with
      waiting := w.waiting.filter (fun q => q != p), done := w.done + leAt b 8 4, failed := w.failed + leAt b 0x0C 4
      first := first }
    if w.waiting.isEmpty then (s.dropWait w.op).sendStartAck w
    else { s with part := { s.part with starts := s.part.starts.map (fun v => if v.op = w.op then w else v) } }

/-- R560: when a wait ends: TIMEOUT less 100 µs for each step of depth after its record arrived. -/
def State.waitDue (s : State) (w : StartWait) : Nat := w.at_ + (w.timeout - s.part.depth * 100) * usCycles

/-- R560: the wait that ends first ends. -/
def State.startTimeout (s : State) : State :=
  match s.part.starts with
  | [] => s
  | w :: r =>
    let first := r.foldl (fun m v => if s.waitDue v < s.waitDue m then v else m) w
    (s.at_ (s.waitDue first)).endStartWait first

end Sys2Proof.Machine
end

