-- ==== Sys2Proof/Machine/WindowOps.lean ====
section
/-! DEFINITION. Windows (R238 to R244): the checks on a request, requests in progress and their answers, the windows that
are always open (R507, R510, R513, R555, R606), and addressed cells (R393, R416). -/
namespace Sys2Proof.Machine

/-! ## Remote addresses (R238) -/

def remoteWindow (a : Nat) : Nat := a / 2 ^ 40 % 256
def remoteOffset (a : Nat) : Nat := a % 2 ^ 40

/-! ## Checks (R240) -/

/-- A request as the window unit sees it. -/
structure WinReq where
  addr      : Nat
  len       : Nat
  key       : Nat
  src       : Nat
  write     : Bool
  /-- carried by an addressed cell -/
  addressed : Bool
  deriving DecidableEq, Repr

/-- R240: check 1. -/
def State.winFenced (s : State) (r : WinReq) : Bool :=
  let e := s.window (remoteWindow r.addr)
  if e.deviceVa then s.fenced 2 else s.fenced 3

/-- R240: the pages of a KIND 1 range, and whether the access would be an access fault rather than a page fault. -/
def State.winPage (s : State) (e : WindowEntry) (r : WinReq) : Option (Nat × Bool) :=
  let a := e.base + remoteOffset r.addr
  (List.range ((a + r.len + 65535) / 65536 - a / 65536)).findSome? (fun i =>
    let va := max a ((a / 65536 + i) * 65536)
    match s.translate va with
    | .leaf l => if r.write && !l.w then some (va, true) else none
    | .moving | .absent => some (va, false)
    | .table _ | .unmapped | .error => some (va, true))

/-- R240: checks 2 to 8: the status of the first that fails, and the state with what it records. -/
def State.winCheck (s : State) (r : WinReq) : Option Nat × State :=
  let w := remoteWindow r.addr
  let e := s.window w
  let a := e.base + remoteOffset r.addr
  if w < 16 || !e.valid then (some stBadArg, s)
  else if r.key != e.key then (some stKeyMismatch, s)
  else if !e.anySource && r.src != e.source then (some stAuth, s)
  else if (if r.write then !e.writeOk else !e.readOk) then (some stAuth, s)
  else if e.size < remoteOffset r.addr + r.len then (some stBadArg, s)
  else if e.deviceVa then
    match s.winPage e r with
    | none => (none, s)
    | some (va, access) => (some stFault, s.recordFault (.window w 0 0) va r.write access)
  else
    match s.physOf e.vreg with
    | none => (some stBadArg, s)
    | some rgn =>
      if r.write && r.addressed && (List.range (linesTouched a r.len)).any (fun i => s.tagged rgn (a / 64 + i)) then
        (some stBadArg, s)
      else (none, s)

/-- R244: a request to an opened or reserved window is refused. -/
def State.refused (s : State) : State := s.count SHT_WIN_STAT.REFUSED

/-! ## Answers (R393, R413, R416) -/

/-- R416: a status cell. -/
def State.sendStatus (s : State) (svc : Bool) (dst tag addr status : Nat) : State :=
  s.sendAddressed svc dst 3 tag addr [BitVec.ofNat 8 status]

/-- R413, R416: the answer to a request that has ended. -/
def State.answerInbound (s : State) (b : Inbound) : State :=
  if b.head.isEmpty then
    if b.write then (if b.tag = 0 then s else s.sendStatus b.svc b.src b.tag b.addr b.status)
    else
      let status := if b.status = stOk && b.got.any (fun g => g.2.1) then stFault else b.status
      if status = stOk then
        let off := b.addr % 64
        let bytes := (List.range (linesTouched off b.len)).flatMap (fun i =>
          match b.got.find? (fun g => g.1 == i) with
          | some g => g.2.2
          | none => List.replicate 64 0)
        s.sendAddressed b.svc b.src 2 b.tag b.addr (bytesAt bytes off b.len)
      else s.sendStatus b.svc b.src b.tag b.addr status
  else if b.write then
    (s.filterRecord b.src (leAt b.head 8 4) b.status).sendMessage b.src 1 b.key (answerHead opWriteAck b.head 0 b.status []) []
  else
    let n := b.got.length
    let lines := (List.range n).filterMap (fun i => (b.got.find? (fun g => g.1 == i)).map (fun g => (g.2.1, g.2.2)))
    s.sendMessage b.src 1 b.key (answerHead opReadResp b.head lines.length b.status []) lines

/-- R242: a closing window with no access left in progress. -/
def State.windowDrained (s : State) (w : Nat) : State :=
  let e := s.window w
  match e.closing with
  | none => s
  | some (mb, n) =>
    if s.inbound.any (fun b => b.window == w) then s
    else (s.setWindow w { e with closing := none }).answer mb stOk (leBytes 4 n)

/-- A request of the fabric ends with its status: its answer, and the flow that waited for it goes on. -/
def State.finishInbound (s : State) (b : Inbound) : State :=
  let s := { s with inbound := s.inbound.filter (fun c => c.token != b.token) }
  let s := s.answerInbound b
  let s := if b.head.isEmpty then s else (s.pumpReed b.src 0).1
  s.windowDrained b.window

/-- A request in progress is replaced, and ends when no line is left. -/
def State.putInbound (s : State) (b : Inbound) : State :=
  if b.left.isEmpty then s.finishInbound b
  else { s with inbound := s.inbound.map (fun c => if c.token = b.token then b else c) }

/-- R241, R263: a line of a window read comes back, or fails. -/
def State.windowRead (s : State) (token i : Nat) (d : LineData) : State :=
  match s.inbound.find? (fun b => b.token == token) with
  | none => s
  | some b =>
    let kind1 := (s.window b.window).deviceVa
    let got := match d with
      | .data x => (i, false, x)
      | .failed _ _ => (i, true, [])
    let status := match d with
      | .data _ => b.status
      | .failed _ _ => if kind1 then stFault else b.status
    s.putInbound { b with left := b.left.filter (fun j => j != i), got := b.got ++ [got], status := status }

/-- R241: a line of a window write is written, or refused. -/
def State.windowWritten (s : State) (token i : Nat) (ok : Bool) : State :=
  match s.inbound.find? (fun b => b.token == token) with
  | none => s
  | some b =>
    s.putInbound { b with left := b.left.filter (fun j => j != i), status := if ok then b.status else stFault }

/-- R242, R539: a request in progress ends with a status; what it has not done it does not do. -/
def State.endInbound (s : State) (b : Inbound) (status : Nat) : State :=
  let mine (w : Requester) : Bool := match w with | .window _ t _ => t == b.token | _ => false
  let keep (q : List MemReq) : List MemReq := q.filter (fun r => !mine r.who)
  let s := { s with
    unsched := s.unsched.filter (fun u => !mine u.who)
    mmu := { s.mmu with waiting := s.mmu.waiting.filter (fun w => !mine w.who) }
    hbm := { s.hbm with pchs := smapAllTo {} s.hbm.pchs (fun x => { x with queue := keep x.queue }) } }
  s.finishInbound { b with left := [], status := status }

/-! ## Starting a request (R241) -/

/-- One line of a request goes to its slice or its page: `data` is none for a read, the FAULT bit, offset and bytes for a
write. -/
def State.startLine (s : State) (w : Nat) (e : WindowEntry) (token i a : Nat) (data : Option (Bool × List Byte)) : State :=
  let who : Requester := .window w token i
  let line := a / 64
  if e.deviceVa then
    match data with
    | none =>
      let r := s.memAccess who (64 * line) none
      (match r.1 with | none => r.2 | some c => r.2.windowRead token i (.failed c 0))
    | some (true, _) => s.windowWritten token i true
    | some (false, b) =>
      let r := s.memAccess who a (some b)
      (match r.1 with | none => r.2 | some _ => r.2.windowWritten token i false)
  else
    match s.physOf e.vreg with
    | none => s.windowWritten token i false
    | some rgn =>
      let queue (k : UnschedKind) : State := { s with unsched := s.unsched ++ [⟨rgn, line, false, who, k⟩] }
      match data with
      | none => queue .read
      | some (true, _) => if s.tagged rgn line then queue .mark else s.windowWritten token i true
      | some (false, b) => queue (if b.length = 64 then .write b else .part (a % 64) b)

/-- A request that passed its checks is in progress. -/
def State.openInbound (s : State) (b : Inbound) : State :=
  { s with inbound := s.inbound ++ [{ b with token := s.tokens }], tokens := s.tokens + 1 }

/-! ## The windows that are always open -/

/-- R513: a range of window 0 reaches the areas of mailboxes 0 to 3. -/
def reachesManager (off : Nat) : Bool := decide (off < 4 * 0x2000)

/-- R243, R606: a read of windows 0 to 2: status and bytes. The doorbells read free bytes. -/
def State.fixedRead (s : State) (addr len : Nat) (svc : Bool) (key : Nat) : Nat × List Byte × State :=
  let off := remoteOffset addr
  match remoteWindow addr with
  | 0 => if off + len ≤ 0x80400 then (stOk, s.sram off len, s) else (stBadArg, [], s)
  | 1 =>
    if off + len ≤ 512 then
      let r := (List.range len).foldl (fun (p : List Byte × State) _ =>
        let f := p.2.freeByte
        (p.1 ++ [f.1], f.2)) ([], s)
      (stOk, r.1, r.2)
    else (stBadArg, [], s)
  | _ =>
    if !svc && s.memberKey != some key then (stKeyMismatch, [], s)
    else if off + len ≤ 0x1000 then
      (stOk, bytesAt ((List.range ((len + off % 4 + 3) / 4)).flatMap (fun i =>
        leBytes 4 (sget 0 s.obs.shadows (off / 4 * 4 + 4 * i)).toNat)) (off % 4) len, s)
    else (stBadArg, [], s)

/-- R421, R555: the partner of a port sent a cell. -/
def State.sentBy (s : State) (p src key : Nat) : Bool := s.remap key src == s.fld (LNK_DELAY.PARTNER_DEV p)

/-- R555: a write into the start area by an addressed cell: status. -/
def State.startWrite (s : State) (off : Nat) (b : List Byte) (svc : Bool) (key src : Nat) : Nat × State :=
  if svc || s.memberKey != some key then (stAuth, s)
  else
    let parent := (List.range 24).find? (fun p => s.isParentPort p && s.sentBy p src key)
    let child := (List.range 24).find? (fun q => s.childPorts.contains q && s.sentBy q src key && off == ackSlot q)
    match parent, child with
    | some p, none =>
      if off = startArea && b.length == 48 then (stOk, (s.sramPut off b).takeStart b (some p) 0) else (stAuth, s)
    | _, some q => if b.length = 32 then (stOk, (s.sramPut off b).takeStartAck q b) else (stAuth, s)
    | none, none => (stAuth, s)

/-- R243, R507, R510, R513, R555, R606: a write to windows 0 to 2: status. -/
def State.fixedWrite (s : State) (addr : Nat) (b : List Byte) (svc addressed : Bool) (key src : Nat) : Nat × State :=
  let off := remoteOffset addr
  match remoteWindow addr with
  | 0 =>
    if off + b.length ≤ 0x80000 then
      if reachesManager off && src != s.fld MGT_FM.FM_DEV then (stAuth, s) else (stOk, s.sramPut off b)
    else if 0x80000 ≤ off && decide (off + b.length ≤ 0x80400) then
      (if addressed then s.startWrite off b svc key src else (stAuth, s))
    else (stBadArg, s)
  | 1 =>
    if b.length = 8 && off % 8 == 0 && decide (off < 512) then s.ringDoorbell (off / 8) src (leNat (b.take 4))
    else (stBadArg, s)
  | _ => (stAuth, s)

/-! ## Addressed cells -/

/-- R393, R416, R240: an addressed write reaches its window. -/
def State.addressedWrite (s : State) (c : Cell) : State :=
  let w := remoteWindow c.aAddr
  let status (st : Nat) (t : State) : State := if c.aTag = 0 then t else t.sendStatus c.svc c.src c.aTag c.aAddr st
  if w ≤ 2 then
    let r := s.fixedWrite c.aAddr c.aData c.svc true c.key c.src
    status r.1 r.2
  else
    let q : WinReq := ⟨c.aAddr, c.aLen, c.key, c.src, true, true⟩
    if 16 ≤ w && s.winFenced q then status stFenced s.refused
    else
      let r := s.winCheck q
      match r.1 with
      | some st => status st r.2.refused
      | none =>
        let s := r.2
        let e := s.window w
        let a := e.base + remoteOffset c.aAddr
        let ps := linePieces a c.aData
        let token := s.tokens
        let s := s.openInbound ⟨0, w, c.src, c.key, [], c.aTag, c.svc, true, c.aAddr, c.aLen, ps.map (fun p => p.1), [], stOk⟩
        ps.foldl (fun t p => t.startLine w e token p.1 p.2.1 (some (false, p.2.2))) s

/-- R393, R416, R240: an addressed read reaches its window. -/
def State.addressedRead (s : State) (c : Cell) : State :=
  let w := remoteWindow c.aAddr
  let status (st : Nat) (t : State) : State := t.sendStatus c.svc c.src c.aTag c.aAddr st
  if w ≤ 2 then
    let r := s.fixedRead c.aAddr c.aLen c.svc c.key
    if r.1 = stOk then r.2.2.sendAddressed c.svc c.src 2 c.aTag c.aAddr r.2.1 else status r.1 r.2.2
  else
    let q : WinReq := ⟨c.aAddr, c.aLen, c.key, c.src, false, true⟩
    if 16 ≤ w && s.winFenced q then status stFenced s.refused
    else
      let r := s.winCheck q
      match r.1 with
      | some st => status st r.2.refused
      | none =>
        let s := r.2
        let e := s.window w
        let a := e.base + remoteOffset c.aAddr
        let l := List.range (linesTouched a c.aLen)
        let token := s.tokens
        let s := s.openInbound ⟨0, w, c.src, c.key, [], c.aTag, c.svc, false, c.aAddr, c.aLen, l, [], stOk⟩
        l.foldl (fun t i => t.startLine w e token i ((a / 64 + i) * 64) none) s

/-- R393: an addressed cell is carried out: a write, a read, or an answer, which nothing in the module waits for. -/
def State.carryOut (s : State) (c : Cell) : State :=
  match c.aOp with
  | 0 => s.addressedWrite c
  | 1 => s.addressedRead c
  | _ => s

/-! ## Messages (R413) -/

/-- R413: operations of a message by class. -/
def opOfClass (cls op : Nat) : Bool :=
  if cls = 0 then op == opRead || op == opWrite || op == opSync else op == opReadResp || op == opWriteAck || op == opSyncAck

/-- R413: the remote address of a message. -/
def msgAddr (m : Message) : Nat := leAt m.head 0x10 6
def msgLines (m : Message) : Nat := leAt m.head 4 1

/-- R412: a WRITE to an opened window stays in the reed while it waits: its flow's grant goes on when it ends. -/
def Message.mayWait (m : Message) : Bool := leAt m.head 0 1 == opWrite && decide (16 ≤ remoteWindow (msgAddr m))

/-- R412: the consumer takes the message at the head of a flow, if it is of its kind; a message of a reserved operation is
passed by. The room that it leaves is granted. -/
def State.takeMessage (s : State) (src cls op : Nat) : Option (Message × State) :=
  match s.findFlow src cls with
  | none => none
  | some f =>
    match f.ready.dropWhile (fun m => !opOfClass cls (leAt m.head 0 1)) with
    | [] => none
    | m :: r =>
      if leAt m.head 0 1 = op then
        let t := s.putFlow { f with ready := r, used := s.now }
        some (m, if m.mayWait then t else t.advanceGrant src cls)
      else none

/-- R413, R240: a READ message reaches its window. -/
def State.takeRead (s : State) (m : Message) : State :=
  let w := remoteWindow (msgAddr m)
  let n := msgLines m
  let refuse (st : Nat) (t : State) : State := t.sendMessage m.src 1 m.key (answerHead opReadResp m.head 0 st []) []
  let q : WinReq := ⟨msgAddr m, 64 * n, m.key, m.src, false, false⟩
  if w ≤ 2 then
    let r := if n = 0 || 64 < n then (stBadArg, [], s) else s.fixedRead (msgAddr m) (64 * n) false m.key
    if r.1 = stOk then
      r.2.2.sendMessage m.src 1 m.key (answerHead opReadResp m.head n stOk [])
        ((chunksOf 64 n r.2.1).map (fun b => (false, b)))
    else refuse r.1 r.2.2
  else if 16 ≤ w && s.winFenced q then refuse stFenced s.refused
  else if n = 0 || 64 < n then refuse stBadArg s.refused
  else
    let r := s.winCheck q
    match r.1 with
    | some st => refuse st r.2.refused
    | none =>
      let s := r.2
      let e := s.window w
      let a := e.base + remoteOffset (msgAddr m)
      let token := s.tokens
      let s := s.openInbound ⟨0, w, m.src, m.key, m.head, 0, false, false, msgAddr m, 64 * n, List.range n, [], stOk⟩
      (List.range n).foldl (fun t i => t.startLine w e token i ((a / 64 + i) * 64) none) s

/-- R394, R413, R507: a WRITE message to windows 0 to 2: status; a line sent with a fault mark is left unwritten. -/
def State.fixedMessage (s : State) (m : Message) : Nat × State :=
  let r := s.fixedWrite (msgAddr m) (m.lines.flatMap (fun l => l.2)) false false m.key m.src
  if r.1 = stOk && m.lines.any (fun l => l.1) then
    (stOk, m.lines.zipIdx.foldl (fun (t : State) e =>
      if e.1.1 then t else t.sramPut (remoteOffset (msgAddr m) + 64 * e.2) e.1.2) s)
  else r

/-- R413, R418, R498, R240: a WRITE message passes the duplicate filter and reaches its window. -/
def State.takeWrite (s : State) (m : Message) : State :=
  let w := remoteWindow (msgAddr m)
  let n := msgLines m
  let opid := leAt m.head 8 4
  let ack (st : Nat) (t : State) : State :=
    (if m.mayWait then t.advanceGrant m.src 0 else t).sendMessage m.src 1 m.key (answerHead opWriteAck m.head 0 st []) []
  let record (st : Nat) (t : State) : State := ack st (t.filterRecord m.src opid st)
  let q : WinReq := ⟨msgAddr m, 64 * n, m.key, m.src, true, false⟩
  if 16 ≤ w && s.winFenced q then ack stFenced s.refused
  else if s.inbound.any (fun b => b.src == m.src && b.write && !b.head.isEmpty && leAt b.head 8 4 == opid) then ack stBusy s
  else
    let v := s.filterCheck m.src opid
    match v.1 with
    | .answer st => ack st v.2
    | .fresh =>
      let s := v.2
      if w ≤ 2 then
        let r := if n = 0 || 64 < n then (stBadArg, s)
          else s.fixedMessage m
        record r.1 r.2
      else if n = 0 || 64 < n then record stBadArg s.refused
      else
        let r := s.winCheck q
        match r.1 with
        | some st => record st r.2.refused
        | none =>
          let s := r.2
          let e := s.window w
          let a := e.base + remoteOffset (msgAddr m)
          let token := s.tokens
          let s := s.openInbound ⟨0, w, m.src, m.key, m.head, 0, false, true, msgAddr m, 64 * n, List.range n, [], stOk⟩
          ((List.range n).zip m.lines).foldl (fun t e' => t.startLine w e token e'.1 ((a / 64 + e'.1) * 64) (some e'.2)) s

/-- R497: a reserved field of a SYNC is not zero, or its OP is not a remote one. -/
def syncBad (h : List Byte) : Bool :=
  leAt h 0x18 2 / 4096 != 0 || !([0x30, 0x33, 0x34, 0x36].contains (leAt h 0x1A 1)) || leAt h 0x28 24 != 0
    || leAt h 1 1 / 2 != 0 || leAt h 6 2 != 0 || leAt h 0xC 4 != 0

/-- R497: a SYNC message is checked and applied, and answered. -/
def State.takeSync (s : State) (m : Message) : State :=
  let h := m.head
  let opid := leAt h 8 4
  let obj := leAt h 0x18 2 % 4096
  let op := leAt h 0x1A 1
  let epoch := leAt h 0x1C 4
  let ack (st : Nat) (value : BitVec 64) (t : State) : State :=
    t.sendMessage m.src 1 m.key (answerHead opSyncAck h 0 st (syncOperands obj op 0 epoch value)) []
  let record (st : Nat) (value : BitVec 64) (t : State) : State := ack st value (t.filterRecord m.src opid st)
  if s.fenced 3 || s.seq.yielded || s.part.joined.isNone then ack stFenced 0 s
  else if epoch != s.part.epoch.toNat then ack stEpochStale 0 s
  else if s.memberKey != some m.key then ack stKeyMismatch 0 s
  else
    let v := s.filterCheck m.src opid
    match v.1 with
    | .answer st => ack st 0 v.2
    | .fresh =>
      let s := v.2
      if syncBad h then record stBadArg 0 s
      else if !(s.obj obj).remote then record stAuth 0 s
      else if (s.obj obj).type != opType op then record stBadArg 0 s.typeError
      else
        let r := s.changeObjX op obj (BitVec.ofNat 64 (leAt h 0x20 8)) (leAt h 0x1B 1)
        let t := r.1.count SYN_STAT.APPLIED
        record (if r.2 then stOverrun else stOk) (t.readObj obj) t

/-! ## Closing (R242) -/

/-- R242: a write in progress waits on a tag. -/
def State.waitsOnTag (s : State) (b : Inbound) : Bool :=
  s.unsched.any (fun u => (match u.who with | .window _ t _ => t == b.token | _ => false)
    && (match u.kind with | .write _ | .mark => true | .read | .part _ _ => false)
    && s.unschedWaits u.region u.line u.kind true)

/-- R242, R244: an open window closes: VALID clears, and writes that wait on tags are abandoned and counted; how many were. -/
def State.closeWindow (s : State) (w : Nat) : Nat × State :=
  let s := s.setWindow w { s.window w with valid := false }
  let gone := s.inbound.filter (fun b => b.window == w && b.write && s.waitsOnTag b)
  (gone.length, gone.foldl (fun (t : State) b => (t.count SHT_WIN_STAT.ABANDONED).endInbound b stBadArg) s)

/-- R242, R335: windows 16 to 255 close. -/
def State.closeWindows (s : State) : State :=
  (s.windows.filter (fun e => e.2.valid)).foldl (fun (t : State) e => (t.closeWindow e.1).2) s

end Sys2Proof.Machine
end

