-- ==== Sys2Proof/Machine/AccessOps.lean ====
section
/-! DEFINITION. How the accesses that the plan does not time end: a line read, a line written, or a fault, for whichever
requester asked (R234, R241, R263, R271, R278); and when a pseudo-channel may begin one (R43, R44, R260). -/
namespace Sys2Proof.Machine

/-! ## Answers to the requester -/

/-- A line comes back to its requester, or its read fails. -/
def State.readDone (s : State) (who : Requester) (d : LineData) : State :=
  match who with
  | .shuttleRead k t n => s.lineArrives k t n d
  | .window _ t i => s.windowRead t i d
  | .bme k r i =>
    (match d with
      | .data b => s.bmeRead k r i false b
      | .failed _ _ => s.bmeRead k r i true (allOnes 64))
  | .spill p n l => s.spillRead p n l (match d with | .data b => some b | .failed _ _ => none)
  | .shuttleWrite _ _ _ | .firmware | .context | .trace => s

/-- A line is written, or marked FAULTED where `written` is false. -/
def State.writeDone (s : State) (who : Requester) (written : Bool) : State :=
  match who with
  | .shuttleWrite k t n => s.lineWritten k t n written
  | .window _ t i => s.windowWritten t i true
  | .bme k r l => s.bmeWritten k r l
  | .shuttleRead _ _ _ | .firmware | .context | .trace | .spill _ _ _ => s

/-- A write fails for a cause of R330. -/
def State.writeFailed (s : State) (who : Requester) (cause : Nat) : State :=
  match who with
  | .shuttleWrite k t n => s.destFault k t n cause 0
  | .window _ t i => s.windowWritten t i false
  | .bme _ _ _ | .shuttleRead _ _ _ | .firmware | .context | .trace | .spill _ _ _ => s

/-- An access ends with a fault of its translation or its port. -/
def State.accessFailed (s : State) (who : Requester) (write : Bool) (cause : Nat) : State :=
  if write then s.writeFailed who cause else s.readDone who (.failed cause 0)

/-! ## Slices (R228, R234, R248) -/

/-- R330, R248: what a read of a slice gives its requester: a shuttle treats an uncorrectable or FAULTED line as failed, the
buffer of a stack marks it, and any other reader gets all ones. -/
def spadData (who : Requester) (faulted bad : Bool) (b : List Byte) : LineData :=
  match who with
  | .shuttleRead _ _ _ =>
    if bad then .failed causePoison 0 else if faulted then .failed causeFaultedLine 0 else .data b
  | .bme _ _ _ => if bad then .failed causePoison 0 else .data b
  | _ => .data (if bad then allOnes 64 else b)

/-- R222: a region about to execute a word keeps, for the reads of that cycle, what a line held before a write. The cycle is
that of the region's next clock edge. -/
def State.keepBefore (s : State) (n line : Nat) : State :=
  let r := s.region n
  if s.runsNext n && !r.before.any (fun x => x.1 == r.edges + 1 && x.2.1 == line) then
    s.setRegion n { r with before := (r.edges + 1, line, r.badLines.contains line, r.line line) :: r.before }
  else s

/-- R234: the access is made: the line's bytes and state, and the requester's answer. -/
def State.makeUnsched (s : State) (u : Unsched) (ecc : Ecc) : State :=
  let tagged := u.testsTag && s.tagged u.region u.line
  match u.kind with
  | .read =>
    let c := s.spadCheck u.region u.line ecc
    let s := c.2
    let r := s.region u.region
    let d := spadData u.who (tagged && r.tag u.line == tagFaulted) c.1 (r.line u.line)
    let s := if tagged then s.setRegion u.region (r.setTag u.line tagEmpty) else s
    s.readDone u.who d
  | .write b =>
    let s := s.keepBefore u.region u.line
    let r := (s.region u.region).putLine u.line 0 b
    (s.setRegion u.region (if tagged then r.setTag u.line tagFull else r)).writeDone u.who true
  | .part o b =>
    let s := s.keepBefore u.region u.line
    (s.setRegion u.region ((s.region u.region).putLine u.line o b)).writeDone u.who true
  | .mark =>
    (if tagged then s.setRegion u.region ((s.region u.region).setTag u.line tagFaulted) else s).writeDone u.who false

/-- R228: which of own shuttle and network took the port; a marking takes none. -/
def State.portTaken (s : State) (u : Unsched) (bank : Nat) (write : Bool) : State :=
  if u.kind = .mark then s else s.tookPort u.region bank write u.own

/-! ## Pseudo-channels (R260) -/

/-- R41, R265: the cycle in which the next background window begins, as far as it is known. -/
def State.nextWindow (s : State) : Option Nat :=
  if s.defaultFramed then some (match s.pick.nextAt with
    | some t => min t (s.pick.windowAt + 8192)
    | none => s.pick.windowAt + 8192)
  else s.pick.nextAt

/-- R259: a command that owns the pseudo-channel runs. -/
def State.pchOwned (s : State) (stack pch : Nat) : Bool :=
  (s.stack stack).running.any (fun r => !r.ended && r.cmd.op != opOpnd && r.cmd.pch == pch)

/-- R260: an access that ends at `end_` may begin: it ends before the next window, and before the START cycle of the next
command queued for the pseudo-channel. -/
def State.runFits (s : State) (stack pch end_ : Nat) : Bool :=
  let before (t : Option Nat) : Bool := match t with | none => true | some t => decide (end_ ≤ t)
  !s.pick.inWindow && !s.pchOwned stack pch && before s.nextWindow
    && (match (s.stack stack).queue.find? (fun c => c.op != opOpnd && c.pch == pch) with
      | none => true
      | some c => before (s.plannedAt c))

/-- R262: the run at the head of a queue: at most `n` consecutive accesses to one row segment. -/
def runOf (n : Nat) : List MemReq → List MemReq
  | [] => []
  | r :: l => r :: (l.take (n - 1)).takeWhile (fun q => q.addr / 2048 == r.addr / 2048)

/-- R262, R263: one access of a run is made. -/
def State.makeHbm (s : State) (r : MemReq) (ecc : Ecc) : State :=
  match r.write with
  | some b => (s.hbmWrite r.addr b).writeDone r.who true
  | none =>
    let line := r.addr / 64 * 64
    let c := s.hbmCheck line ecc
    c.2.readDone r.who (if c.1 then .failed causePoison 0 else .data (c.2.hbmBytes line 64))

/-! ## CXL ports (R270, R271) -/

/-- R270: an outstanding access ends; the request that waited longest beyond the 256 outstanding is issued. -/
def State.takeCxl (s : State) (port index : Nat) (write : Bool) : State :=
  let c := s.cxlPort port
  let l := if write then c.writes else c.reads
  let l' := l.eraseIdx index
  let s := s.setCxl port (if write then { c with writes := l' } else { c with reads := l' })
  match l[256]? with
  | some r => s.emit (.cxl port write r.addr (r.write.getD []))
  | none => s

/-- R271: every access at a port fails. -/
def State.failCxl (s : State) (port : Nat) : State :=
  let c := s.cxlPort port
  let s := s.setCxl port {}
  let s := c.reads.foldl (fun t r => (t.stageFailed r).accessFailed r.who false causeCxlDown) s
  c.writes.foldl (fun t r => (t.cxlUnknown port r.addr (r.write.getD []).length).accessFailed r.who true causeCxlDown) s

end Sys2Proof.Machine
end

