-- ==== Sys2Proof/Machine/AnswerOps.lean ====
section
/-! DEFINITION. How an entry of the outstanding-request table completes: what its holder makes of the answer (R323, R326,
R417 to R419, R475, R499). -/
namespace Sys2Proof.Machine

/-- R417: requesters that wait for an entry go on once one is free. -/
def State.feedRequesters (s : State) : State :=
  ((List.range 24).foldl (fun t p => t.pumpShuttle (64 + p)) s).feedWeights

/-- R323, R330: what one line of a READ response gives: poisoned where its line alone failed, refused where the request
did, of unknown outcome where none came. -/
def answerLine (status : Nat) (l : Option (Bool × List Byte)) : LineData :=
  match l with
  | some (false, b) => .data b
  | some (true, _) => if status = stOk then .failed causePoison 0 else .failed causeRefused status
  | none => if status = stUnknownOutcome then .failed causeUnknown status else .failed causeRefused status

/-- R323, R326, R475, R499: an entry completes with a status, the lines of a READ and the value of a SYNC. -/
def State.completeReq (s : State) (n : Nat) (e : ReqEntry) (status : Nat) (lines : List (Bool × List Byte)) : State :=
  let s := s.closeReq n
  let s := match e.who with
    | .shuttle k serial line count =>
      if leAt e.head 0 1 = opRead then
        (List.range count).foldl (fun (t : State) i => t.lineArrives k serial (line + i) (answerLine status lines[i]?)) s
      else if status = stOk then s.lineWritten k serial line true
      else s.destFault k serial line (if status = stUnknownOutcome then causeUnknown else causeRefused) status
    | .sync op obj _ segment => s.remoteDone (leAt e.head 8 4) e.dst obj op status (segment % 4294967296)
    | .weight i line =>
      s.weightLines i line (leAt e.head 4 1) (if status = stOk then some lines else none)
  s.feedRequesters

/-- R419: an entry ends without an answer. -/
def State.endReq (s : State) (n : Nat) : State :=
  match s.reqEntry n with
  | none => s
  | some e => (s.count RTE_REQ_STAT.TIMEOUTS).completeReq n e stUnknownOutcome []

end Sys2Proof.Machine
end

