-- ==== Sys2Proof/Machine/RegionOps.lean ====
section
/-! DEFINITION. A region and its words (R107 to R110, R128, R222 to R237, R247): port use and conflicts, writes that land in a
cycle, tag tests, waits, and what each region-side slot of a word starts. -/
namespace Sys2Proof.Machine

/-! ## Bank ports (R222 to R225) -/

/-- R224: ranks of the slots on a bank port. -/
def rankM : Nat := 3
def rankV : Nat := 2
def rankSt : Nat := 1
def rankLd : Nat := 0

/-- R154: the slot number of a rank. -/
def rankSlot (rank : Nat) : Nat := match rank with | 3 => 2 | 2 => 1 | 1 => 4 | _ => 3

/-- A line an operation reads or writes in a cycle: slot rank, word, and its order among the operation's lines. -/
structure PortReq where
  rank  : Nat
  word  : Nat
  write : Bool
  line  : Nat
  part  : Nat
  deriving DecidableEq, Repr

/-- R212: distinct lines that lanes request, in order of the lowest requesting lane. -/
def distinctLines (reqs : List (Nat × Nat)) : List Nat := ((reqs.map (fun e => e.2 / 64)).eraseDups)

/-- R212: the place of a line among the distinct lines of its bank, from 1. -/
def bankOrd (lines : List Nat) (l : Nat) : Nat :=
  ((lines.takeWhile (fun x => x != l)).filter (fun x => bankOf x == bankOf l)).length + 1

/-- R212, R213: lines whose turn it is in the operation's n-th cycle. -/
def linesOfTurn (reqs : List (Nat × Nat)) (n : Nat) : List Nat :=
  let l := distinctLines reqs
  l.filter (fun x => bankOrd l x == n)

def pairsOf (l : List (Nat × Nat × BitVec 32)) : List (Nat × Nat) := l.map (fun e => (e.1, e.2.1))

/-- The slot rank of a port use. -/
def PortUse.rank : PortUse → Nat
  | .ldRead _ _ _ _ _ => rankLd
  | .stWrite _ _ _ => rankSt
  | .gather _ _ | .scatter _ | .scatterAdd _ _ | .addWrite _ => rankV
  | .descRead _ _ _ _ st _ | .cmdRead _ _ _ st _ => if st then rankSt else rankLd

/-- R223: lines an access reads or writes in the `d`-th cycle after its start. -/
def Access.requests (a : Access) (d : Nat) : List PortReq :=
  let mk (write : Bool) (l : List Nat) : List PortReq :=
    l.zipIdx.map (fun e => ⟨a.use.rank, a.word, write, e.1, e.2⟩)
  let four (addr : Nat) : List Nat := (List.range 4).map (fun i => (addr / 64 + i) % 524288)
  match a.use with
  | .ldRead _ addr _ _ _ => if d = 1 then mk false (four addr) else []
  | .stWrite addr _ k => if d = k then mk true (four addr) else []
  | .gather _ reqs => if 1 ≤ d && decide (d ≤ 16) then mk false (linesOfTurn reqs d) else []
  | .scatter reqs => if 2 ≤ d && decide (d ≤ 17) then mk true (linesOfTurn (pairsOf reqs) (d - 1)) else []
  | .scatterAdd _ reqs => if 1 ≤ d && decide (d ≤ 16) then mk false (linesOfTurn (pairsOf reqs) d) else []
  | .addWrite words => if d = 2 then mk true (words.map (fun e => e.1 / 64)).eraseDups else []
  | .descRead _ x y _ _ _ => if d = 1 then mk false [x, y] else []
  | .cmdRead _ x _ _ _ => if d = 1 then mk false [x] else []

/-- R212 to R214: the whole-bank holds of an access in a cycle: reads, writes. -/
def Access.holds (a : Access) (d : Nat) (write : Bool) : Bool := (a.use.claims d).any (fun c => c.1.isNone && c.2 == write)

/-- R224, R225: a request loses its port. -/
def portLost (array : List ArrayRead) (accs : List Access) (t : Nat) (q : PortReq) : Bool :=
  (!q.write && array.any (fun a => bankOf a.line == bankOf q.line))
    || accs.any (fun a =>
      let d := t - a.start
      let wins (rank word : Nat) : Bool := decide (q.rank < rank) || (q.rank == rank && decide (word < q.word))
      (a.holds d q.write && wins a.use.rank a.word)
        || (a.requests d).any (fun p => p.write == q.write && bankOf p.line == bankOf q.line
          && (wins p.rank p.word || (p.rank == q.rank && p.word == q.word && decide (p.part < q.part)))))

/-! ## Writes that land in a cycle (R108, R110, R654) -/

def RegionSt.dueWrites (r : RegionSt) (t : Nat) : List Pending := r.pending.filter (fun p => decide (p.due ≤ t))

/-- R110: a write takes effect over another. -/
def Pending.beats (a b : Pending) : Bool := decide (b.rank < a.rank) || (a.rank == b.rank && decide (b.word < a.word))

/-- R110: a lane of a write that another write to the same register takes. -/
def laneLost (l : List Pending) (p : Pending) (lane : Nat) : Bool :=
  l.any (fun q => q.dest == p.dest && q.beats p && q.lanes.any (fun e => e.1 == lane))

/-- R110, R203: the register a write reaches: a lane register, or a predicate register (as 64 + its number). -/
def Dest.register : Dest → Option Nat
  | .lane n | .scales n _ => some n
  | .pred n => some (64 + n)
  | .marks => some 71
  | .acc _ _ => none

/-- R110, R203: a write overwrites a lane of another: the same lane of the register, a half of lane 63, or both. -/
def Pending.covers (q p : Pending) : Bool :=
  let at63 (x : Pending) : Bool := x.lanes.any (fun e => e.1 == 63)
  match q.dest, p.dest with
  | .lane n, .lane m | .pred n, .pred m => n == m && p.lanes.any (fun e => q.lanes.any (fun f => f.1 == e.1))
  | .scales n h, .scales m k => n == m && h == k
  | .scales n _, .lane m => n == m && at63 p
  | .lane n, .scales m _ => n == m && at63 q
  | _, _ => false

/-- R110, R654: writes to lane and predicate registers that lose a lane, as rank, word and register. -/
def lostWrites (l : List Pending) : List (Nat × Nat × Nat) :=
  (l.filterMap (fun p => match p.dest.register with
    | none => none
    | some r => if l.any (fun q => q.beats p && q.covers p) then some (p.rank, p.word, r) else none)).eraseDups

/-- R148: a write that reaches a lane or predicate register in the cycle in which another slot or word writes it too. -/
def clashing (l : List Pending) : Option Pending :=
  l.find? (fun p => match p.dest.register with
    | none => false
    | some r => l.any (fun q => q.dest.register == some r && q.beats p))

/-- The key under which checking mode tracks a destination: a lane register or an accumulator row. -/
def Dest.unreadKey : Dest → Option Nat
  | .lane n | .scales n _ => some n
  | .acc row _ => some (64 + row)
  | .pred _ | .marks => none

/-- One write lands. -/
def RegionSt.land (r : RegionSt) (l : List Pending) (p : Pending) : RegionSt :=
  let kept := p.lanes.filter (fun e => !laneLost l p e.1)
  match p.dest with
  | .lane n => r.setReg n kept
  | .pred n =>
    r.setPred n (kept.foldl (fun (v : BitVec 64) e =>
      if e.2 = 0 then v &&& ~~~(BitVec.twoPow 64 e.1) else v ||| BitVec.twoPow 64 e.1) (r.pred n))
  | .marks => r.setPred 7 (p.lanes.foldl (fun (v : BitVec 64) e => v ||| BitVec.twoPow 64 e.1) (r.pred 7))
  | .scales n h =>
    (match p.lanes with
      | (_, x) :: _ =>
        if l.any (fun q => q.beats p && q.covers p) then r
        else
          let old := (sget 0 r.lanes (64 * n + 63)).toNat
          { r with lanes := sset 0 r.lanes (64 * n + 63) (BitVec.ofNat 32 (bitsPut old (16 * h) 16 x.toNat)) }
      | [] => r)
  | .acc row half => kept.foldl (fun (g : RegionSt) e => g.setAcc row (64 * half + e.1) e.2) r

/-- The order in which kinds of writes land: registers, then scales, then marks. -/
def Dest.stage : Dest → Nat
  | .lane _ | .pred _ | .acc _ _ => 0
  | .scales _ _ => 1
  | .marks => 2

/-- R110: the writes of a set land, and lost ones are counted. `track` is on while unread values are tracked (R148). -/
def State.landSet (s : State) (n : Nat) (l : List Pending) (track : Bool) : State :=
  let r := s.region n
  let r := [0, 1, 2].foldl (fun (g : RegionSt) k => (l.filter (fun p => p.dest.stage == k)).foldl (fun g p => g.land l p) g) r
  let keys := l.filterMap (fun p => p.dest.unreadKey)
  let r := { r with
    pending := r.pending.filter (fun p => !l.contains p)
    unread := if track then (r.unread ++ keys).eraseDups else r.unread }
  (s.setRegion n r).count (RGN_LANE_CONFLICT.COUNT n) (lostWrites l).length

def isAcc (p : Pending) : Bool := match p.dest with | .acc _ _ => true | _ => false
def accRowOf (p : Pending) : Option Nat := match p.dest with | .acc row _ => some row | _ => none

/-- R108: lane-register and predicate writes of a region's cycle land. -/
def State.landRegs (s : State) (n t : Nat) : State :=
  s.landSet n (((s.region n).dueWrites t).filter (fun p => !isAcc p)) (s.flag SEQ_CHECK.UNREAD_OVERWRITE)

/-- R172, R178, R197: accumulator writes of a region's cycle land: array sums, and V-slot writes to other rows. -/
def State.landAcc (s : State) (n t : Nat) : State :=
  match s.gridPos n with
  | none => s
  | some (r, c) =>
    let l := ((s.region n).dueWrites t).filter isAcc
    let sums := if (s.region n).sumsAt = some t then [] else s.sumRows r c t
    let track := s.flag SEQ_CHECK.UNREAD_OVERWRITE
    let s := if (s.region n).sumsAt = some t then s else s.writeSums n r c t (l.filterMap accRowOf)
    let g := s.region n
    let g := { g with
      sumsAt := some t
      pending := g.pending.filter (fun p => !(isAcc p && decide (p.due ≤ t)))
      unread := if track then (g.unread ++ sums.map (fun x => 64 + x)).eraseDups else g.unread }
    (s.setRegion n g).landSet n (l.filter (fun p => match accRowOf p with
      | some row => !sums.contains row
      | none => false)) track

/-! ## Tags (R233 to R237) -/

/-- R237: transitions of the region's stores that take effect by a cycle. -/
def RegionSt.release (r : RegionSt) (t : Nat) : RegionSt :=
  let due := r.held.filter (fun h => decide (h.2.1 ≤ t))
  { due.foldl (fun (g : RegionSt) h => g.setTag h.1 h.2.2) r with held := r.held.filter (fun h => decide (t < h.2.1)) }

/-- The line is held, by a store whose transition has not come. -/
def RegionSt.heldAt (r : RegionSt) (line t : Nat) : Bool := r.held.any (fun h => h.1 == line && decide (t < h.2.1))
/-- The state a test sees in a cycle. -/
def RegionSt.tagAt (r : RegionSt) (line t : Nat) : Nat := (r.release t).tag line

/-- R126: the four lines of a LANE operation. -/
def fourLines (addr : Nat) : List Nat := (List.range 4).map (fun i => (addr / 64 + i) % 524288)

/-- R235: the slot is a tagged LANE operation of its region. -/
def State.laneTagged (s : State) (n : Nat) (w : Slot) (load : Bool) : Bool :=
  let f := lsSlot w.bits
  f.cls == 0 && (if load then f.op == 2 || f.op == 3 else f.op == 2 || f.op == 3) && s.tagged n (w.addr / 64)

/-- R234, R236: a slot's test makes the word wait; `freed` are lines the LD slot of the same word consumes. -/
def State.laneWaits (s : State) (n t : Nat) (w : Slot) (load : Bool) (freed : List Nat) : Bool :=
  if !s.laneTagged n w load then false
  else
    let r := s.region n
    let f := lsSlot w.bits
    (fourLines w.addr).any (fun l =>
      r.heldAt l t || (if load then r.tagAt l t == tagEmpty
        else f.op == 2 && r.tagAt l t == tagFull && !freed.contains l))

/-- Lines the LD slot of a word consumes. -/
def State.ldConsumes (s : State) (n : Nat) (w : Option Slot) : List Nat :=
  match w with
  | some x => if s.laneTagged n x true && (lsSlot x.bits).op == 3 then fourLines x.addr else []
  | none => []

/-! ## Waits (R51) -/

/-- What a region finds when it would execute a word: empty crossing, full crossing, tagged lines, full command queue. -/
structure Waits where
  empty : Bool
  full  : Bool
  tags  : Bool
  bme   : Bool
  deriving DecidableEq, Repr

def Waits.any (w : Waits) : Bool := w.empty || w.full || w.tags || w.bme

/-- R206: the regions of a scan's scope, in order of global lane index. -/
def State.scanScope (s : State) (n imm : Nat) : List Nat :=
  if imm / 4 % 4 = 1 then s.regionsOn.filter (fun m => m / 8 == n / 8) else s.regionsOn

/-- R208, R209: an entry sent by a region for an operation's word. -/
def State.sentBy' (s : State) (m kind start : Nat) : Option (List (BitVec 32)) :=
  ((s.region m).sent.find? (fun e => e.1 == kind && e.2.1 == start)).map (fun e => e.2.2)

/-- R208: the neighbour of a region in a direction: 0 up, 1 down, 2 left, 3 right. -/
def State.neighbour (s : State) (n dir : Nat) : Option Nat :=
  match s.gridPos n with
  | none => none
  | some (r, c) =>
    match dir with
    | 0 => if r = 0 then none else s.physOf (8 * (r - 1) + c)
    | 1 => if r + 1 < s.gridRows then s.physOf (8 * (r + 1) + c) else none
    | 2 => if c = 0 then none else some (n - 1)
    | _ => if c < 7 then some (n + 1) else none

/-- The opposite direction. -/
def oppositeDir (dir : Nat) : Nat := match dir with | 0 => 1 | 1 => 0 | 2 => 3 | _ => 2

/-- R208, R209: the cycle at which a pending scan or exchange reads other regions' entries. -/
def CrossOp.readAt (o : CrossOp) : Nat := if o.exch then o.start + 4 else o.start + 8

/-- R91, R206: kind of a scan-carry entry: the scan carry of a virtual row and that of the die are crossings of their own, of
32 entries each, also where they join the same two regions (DESIGN CHOICE, notes/assumptions/77.md). -/
def scanKind (imm : Nat) : Nat := if imm / 4 % 4 = 1 then 0 else 5

/-- R209: regions whose entries a pending operation reads. -/
def State.crossSources (s : State) (n : Nat) (o : CrossOp) : List (Nat × Nat) :=
  if o.exch then
    (match s.neighbour n (oppositeDir (o.imm % 4)) with
      | some m => [(m, 1 + o.imm % 4)]
      | none => [])
  else ((s.scanScope n o.imm).takeWhile (fun m => m != n)).map (fun m => (m, scanKind o.imm))

/-- R51: the region needs an entry of a scan-carry or exchange crossing that is not there. -/
def State.crossEmpty (s : State) (n t : Nat) : Bool :=
  (s.region n).crossOps.any (fun o => o.readAt == t
    && (s.crossSources n o).any (fun e => (s.sentBy' e.1 e.2 o.start).isNone
      || !(s.region n).ripe (xSent e.2, e.1, o.start) (s.region n).edges))

/-- R93: slots of the crossing of a kind to a reader. -/
def xTo (kind reader : Nat) : Nat := xSent kind + 64 * (1 + reader)

/-- R93: the crossing to some reader is full: entries of a kind that the reader has not read, and slots freed that cannot be
written yet. -/
def State.sentFull (s : State) (n kind : Nat) (readers : List Nat) (delay : Nat) : Bool :=
  readers.any (fun m => decide (32 ≤ ((s.region n).sent.filter (fun e => e.1 == kind
    && decide ((s.region m).cycle ≤ e.2.1 + delay))).length + (s.region n).notYet (xTo kind m)))

/-- R51, R93: the region must write a scan-carry or exchange crossing that is full. -/
def State.crossFull (s : State) (n t : Nat) (v : Option (BitVec 64)) : Bool :=
  let scan := (s.region n).crossOps.any (fun o => !o.exch && o.start + 4 == t
    && (s.crossHeld n 3 0
      || s.sentFull n (scanKind o.imm) (((s.scanScope n o.imm).dropWhile (fun m => m != n)).drop 1) 8))
  let exch := match v with
    | none => false
    | some w =>
      let f := vSlot w
      f.op == 0x31 && (match s.neighbour n (f.imm % 4) with
        | none => false
        | some m => s.crossHeld n 2 (f.imm % 4) || s.sentFull n (1 + f.imm % 4) [m] 4)
  scan || exch

/-- The slot issues a BME command from this region. -/
def State.issuesBme (s : State) (n : Nat) (w : Option Slot) : Option LsSlot :=
  match w with
  | none => none
  | some x =>
    let f := lsSlot x.bits
    if f.cls = 2 && s.physOf f.vreg == some n then some f else none

/-- R51, R290: room that a stack's queue lacks. Commands that have been read and are within their 16 cycles on the way count as
queued; the command line of a slot that is not read yet does not (DESIGN CHOICE, notes/assumptions/77.md). -/
def State.bmeFull (s : State) (f : Option LsSlot) : Bool :=
  match f with
  | none => false
  | some x => decide (64 ≤ (s.stack x.stack).queue.length + (s.bmeWay.filter (fun c => c.stack == x.stack)).length)

def State.waitsOf (s : State) (n t : Nat) (q : QWord) : Waits :=
  let freed := s.ldConsumes n q.ld
  { empty := s.arrayEmpty n t || s.crossEmpty n t
    full := s.arrayFull n t (fun cls => s.crossHeld n cls 0) || s.crossFull n t q.v
    tags := (match q.ld with | some w => s.laneWaits n t w true [] | none => false)
      || (match q.st with | some w => s.laneWaits n t w false freed | none => false)
    bme := s.bmeFull (s.issuesBme n q.ld) || s.bmeFull (s.issuesBme n q.st) }

/-- R96, R230: a cycle waited is counted. -/
def State.countWaits (s : State) (n : Nat) (w : Waits) : State :=
  let s := if w.empty then s.count (RGN_XING_WAIT.EMPTY_WAITS n) else s
  let s := if w.full then s.count (RGN_XING_WAIT.FULL_WAITS n) else s
  if w.tags then s.count (RGN_SPAD_WAIT.TAG_WAITS n) else s

/-- R620: a TAGWAIT slot holds a tagged operation whose test passed: whether it waits. -/
def State.tagwait (s : State) (n : Nat) (tagged : Bool) : Bool × State :=
  match s.actingSlot ptbTagwait n with
  | none => (false, s)
  | some k =>
    let left := s.ptbCount (32 + k)
    if !tagged then (false, s)
    else if 1 < left then (true, s.setPtbCount (32 + k) (left - 1))
    else if left = 1 then (false, s.setPtbCount (32 + k) 0)
    else
      let c := s.ptbCount k + 1
      let s := s.setPtbCount k c
      if c % max 1 (s.slotParam k 8 8) = 0 then (true, s.setPtbCount (32 + k) (s.slotParam k 0 8)) else (false, s)

/-! ## Checking mode (R148) -/

/-- R212 to R214: the requests of a gather or scatter, split by the limit of 16 lines of a bank: requests that are made,
and lanes that are dropped. -/
def vRequests (mask : BitVec 64) (addrs : List (BitVec 32)) : List (Nat × Nat) × List Nat :=
  let on := (maskLanes mask).map (fun i => (i, (addrs.getD i 0).toNat))
  let ok := (on.filter (fun e => decide (e.2 < 33554432))).map (fun e => (e.1, e.2 / 4 * 4))
  let lines := distinctLines ok
  let made := ok.filter (fun e => decide (bankOrd lines (e.2 / 64) ≤ 16))
  (made, (on.map (fun e => e.1)).filter (fun i => !made.any (fun e => e.1 == i)))


/-- Lane registers the V and ST slots of a word read. -/
def vReads (w : Option (BitVec 64)) : List Nat := match w with | some x => (vSlot x).reads | none => []
def stReads (w : Option Slot) : List Nat :=
  match w with
  | some x => let f := lsSlot x.bits; if f.cls = 0 && decide (f.op ≤ 2) then [f.lreg] else []
  | none => []

/-- R126, R131, R223: scratchpad lines that the LD slot of a word reads through a region's ports in the next cycle, and that
a launch or a command of its ST slot reads. -/
def State.ldLines (s : State) (n : Nat) (w : Option Slot) (load : Bool) : List Nat :=
  match w with
  | some x =>
    let f := lsSlot x.bits
    (match f.cls with
      | 0 => if load then fourLines x.addr else []
      | 1 => if f.op == 1 || (decide (f.port < 24) && s.physOf f.vreg == some n) then
          [(f.srcDesc + x.addr) % 524288, (f.dstDesc + x.addr) % 524288] else []
      | _ => if s.physOf f.vreg == some n then [f.cmdLine] else [])
  | none => []

/-- Lines a store of the word writes. -/
def stLines (w : Option Slot) : List Nat :=
  match w with
  | some x => let f := lsSlot x.bits; if f.cls = 0 && decide (f.op ≤ 2) then fourLines x.addr else []
  | none => []

/-- R143: lines that a running transfer of the region reads its descriptors and index tensors from. -/
def State.transferLines (s : State) (n line : Nat) : Bool :=
  s.shuttles.any (fun e => e.2.transfers.any (fun t =>
    let inIdx (d : Desc) : Bool := d.idxFmt != 0 && decide (d.idxAddr / 64 ≤ line)
      && decide (line * 64 < d.idxAddr + d.idxCount * d.idxWidth)
    t.region == n && !t.done && (t.srcLine == line || t.dstLine == line || inIdx t.srcDesc || inIdx t.dstDesc)))

/-- R148: a write to a scratchpad line by an earlier word that has not been made before a cycle. -/
def Access.writesLine (a : Access) (t line : Nat) : Bool :=
  let turn (l : List Nat) (d : Nat) : Bool := l.contains line && decide (t ≤ a.start + d + bankOrd l line)
  match a.use with
  | .stWrite addr _ k => decide (t ≤ a.start + k) && (fourLines addr).contains line
  | .scatter rs => turn (distinctLines (pairsOf rs)) 1
  | .scatterAdd _ rs => turn (distinctLines (pairsOf rs)) 2
  | .addWrite ws => decide (t ≤ a.start + 2) && ws.any (fun e => e.1 / 64 == line)
  | .ldRead _ _ _ _ _ | .gather _ _ | .descRead _ _ _ _ _ _ | .cmdRead _ _ _ _ _ => false

/-- R148: lane registers with a write still in flight after a cycle: results on their way, loads, gathers and reads of the
scan-carry and exchange crossings. -/
def RegionSt.flying (r : RegionSt) (t : Nat) : List Nat :=
  (r.pending.filter (fun p => decide (t < p.due))).filterMap (fun p => match p.dest with
      | .lane k | .scales k _ => some k
      | .pred _ | .marks | .acc _ _ => none)
    ++ r.accesses.filterMap (fun a => match a.use with
      | .ldRead k _ _ _ _ | .gather k _ => some k
      | .stWrite _ _ _ | .scatter _ | .scatterAdd _ _ | .addWrite _ | .descRead _ _ _ _ _ _ | .cmdRead _ _ _ _ _ => none)
    ++ r.crossOps.map (fun o => o.dst)

/-- Lines of a slice that a word's V slot reads (VGATHER, VSCATTER_ADD), each with its turn, and those it writes
(VSCATTER, VSCATTER_ADD). -/
def RegionSt.vLines (r : RegionSt) (w : Option (BitVec 64)) : List (Nat × Nat) × List Nat :=
  match w with
  | none => ([], [])
  | some x =>
    let f := vSlot x
    if f.op = 0x50 || f.op = 0x51 || f.op = 0x52 then
      let l := distinctLines (vRequests (r.pred f.pred) (r.reg f.a)).1
      (if f.op = 0x51 then [] else l.map (fun k => (k, bankOrd l k)), if f.op = 0x50 then [] else l)
    else ([], [])

/-- R148: cause 16, with the slot: a word, or the array in the word's cycle, reads what has a write in flight. `g` is the
region once the cycle's writes have landed. A load beside a store to the same line, in one word, is no early read: the store
is not in flight before its word executes (DESIGN CHOICE, notes/assumptions/77.md). -/
def State.earlyRead (s : State) (n t : Nat) (q : QWord) (g : RegionSt) : Option Nat :=
  let r := s.region n
  let flying := r.flying t
  let accFlight : Bool := match q.v with
    | some w =>
      let f := vSlot w
      f.acc && (r.pending.any (fun p => decide (t < p.due) && accRowOf p == some f.accRow) || s.sumFlight n t f.accRow)
    | none => false
  let written (at_ line : Nat) : Bool := r.accesses.any (fun a => a.writesLine at_ line)
  if (vReads q.v).any flying.contains || accFlight || (g.vLines q.v).1.any (fun e => written (t + e.2) e.1) then some 1
  else if (s.arrayReads n t).any (fun a => written t a.line) then some 2
  else if (s.ldLines n q.ld true).any (written (t + 1)) then some 3
  else if (stReads q.st).any flying.contains || (s.ldLines n q.st false).any (written (t + 1)) then some 4
  else none

/-- R148: the trap a word meets in a region, as cause and slot. Where a word meets several, the lowest cause is recorded,
and for one cause the slot of the lowest number that meets it; for a write that lands or a port access of an earlier word,
the slot is that of the earlier word's operation, while the tag is that of the word about to execute (DESIGN CHOICE,
notes/assumptions/73.md). -/
def State.regionTrap (s : State) (n t : Nat) (q : QWord) : Option (Nat × Nat) :=
  let r := s.region n
  let due := r.dueWrites t
  let g := (s.landRegs n t).region n
  let early := if s.flag SEQ_CHECK.EARLY_READ then (s.earlyRead n t q g).map (fun k => (16, k)) else none
  let clash := if s.flag SEQ_CHECK.WRITE_CLASH then (clashing due).map (fun p => (17, rankSlot p.rank)) else none
  let array := s.arrayReads n t
  let drops := r.accesses.flatMap (fun a => (a.requests (t - a.start)).filter (portLost array r.accesses t))
  let conflict := if !s.flag SEQ_CHECK.BANK_CONFLICT then none
    else if array.any (readDropped array) then some (18, 2)
    else match drops with | p :: _ => some (18, rankSlot p.rank) | [] => none
  let unread := if !s.flag SEQ_CHECK.UNREAD_OVERWRITE then none
    else
      match due.find? (fun p => match p.dest.unreadKey with | some k => r.unread.contains k | none => false) with
      | some p => some (19, rankSlot p.rank)
      | none =>
        (match s.gridPos n with
          | some (a, b) => if (s.sumOver n a b t).any (fun row => r.unread.contains (64 + row)) then some (19, 2) else none
          | none => none)
  let desc := if !s.flag SEQ_CHECK.DESC_WRITE then none
    else if (g.vLines q.v).2.any (fun l => s.transferLines n l) then some (20, 1)
    else if (stLines q.st).any (fun l => s.transferLines n l) then some (20, 4) else none
  [early, clash, conflict, unread, desc].foldl (fun a b => match a with | some _ => a | none => b) none

/-- R144, R154: a trap stops the sequencer; no region executes the word or a later one. -/
def State.stopTrap (s : State) (region cause slot : Nat) (tagv : Bool) (tag : BitVec 12) : State :=
  let s := if s.fld SEQ_FAULT.CAUSE != 0 then s
    else
      let s := s.put SEQ_FAULT.CAUSE cause
      let s := s.put SEQ_FAULT.REGION region
      let s := s.put SEQ_FAULT.TAGV (bnat tagv)
      let s := s.put SEQ_FAULT.TAG tag.toNat
      s.put SEQ_FAULT.SLOT slot
  s.stopSeq .stoppedFault

/-- No region executes a word numbered above this. -/
def State.limitExec (s : State) (w : Nat) : State :=
  { s with seq := { s.seq with execLimit := some (match s.seq.execLimit with | none => w | some x => min x w) } }

/-! ## Port use of a cycle -/

/-- A line read by the region itself, with what its code finds: bytes, and whether they are all ones for an error. A line
that an unscheduled write replaces in the same cycle reads as it was before (R222). -/
def State.spadRead (s : State) (n line : Nat) (upsets : List (Nat × Bool)) : Bool × List Byte × State :=
  let e := match upsets.find? (fun u => u.1 == line) with
    | none => Ecc.good
    | some (_, true) => .uncorrectable
    | some (_, false) => .corrected
  match (s.region n).before.find? (fun x => x.1 == (s.region n).edges && x.2.1 == line) with
  | some (_, _, bad, b) =>
    if bad then (true, allOnes 64, s.spadError n line)
    else
      let c := s.spadCheck n line (if e = .uncorrectable then .good else e)
      (false, b, c.2)
  | none =>
    let c := s.spadCheck n line e
    (c.1, if c.1 then allOnes 64 else (c.2.region n).line line, c.2)

/-- The same, for a request that may have lost its port: dropped, bad, bytes. -/
def State.portRead (s : State) (n : Nat) (array : List ArrayRead) (accs : List Access) (t : Nat) (q : PortReq)
    (upsets : List (Nat × Bool)) : Bool × Bool × List Byte × State :=
  if portLost array accs t q then (true, false, allOnes 64, s.count (RGN_BANK_CONFLICT.READ_DROPS n))
  else
    let x := s.spadRead n q.line upsets
    (false, x.1, x.2.1, x.2.2)

def State.addPending (s : State) (n : Nat) (l : List Pending) : State :=
  s.setRegion n { s.region n with pending := (s.region n).pending ++ l }

/-- Word `i` of a line. -/
def lineWord (b : List Byte) (i : Nat) : BitVec 32 := BitVec.ofNat 32 (leAt b (4 * i) 4)

/-- R128, R129, R212, R214, R131, R223: the reads of an access in a cycle. -/
def State.accessReads (s : State) (n t : Nat) (array : List ArrayRead) (accs : List Access) (upsets : List (Nat × Bool))
    (a : Access) : State :=
  let d := t - a.start
  let reqs := (a.requests d).filter (fun q => !q.write)
  match reqs with
  | [] => s
  | _ =>
    let g := reqs.foldl (fun (p : List (PortReq × Bool × Bool × List Byte) × State) q =>
      let x := p.2.portRead n array accs t q upsets
      (p.1 ++ [(q, x.1, x.2.1, x.2.2.1)], x.2.2.2)) ([], s)
    let s := g.2
    let dataOf (line : Nat) : Option (Bool × Bool × List Byte) :=
      (g.1.find? (fun e => e.1.line == line)).map (fun e => (e.2.1, e.2.2.1, e.2.2.2))
    match a.use with
    | .ldRead lreg _ mask tagged _ =>
      g.1.foldl (fun u e =>
        let lanes := ((List.range 16).map (fun i => (16 * e.1.part + i, lineWord e.2.2.2 i))).filter (fun x => mask.getLsbD x.1)
        let marks := if tagged && e.2.2.1 then [(⟨a.start + 6, rankLd, a.word, .marks, lanes⟩ : Pending)] else []
        u.addPending n ((⟨a.start + 6, rankLd, a.word, .lane lreg, lanes⟩ : Pending) :: marks)) s
    | .gather dst rs =>
      let lanes := rs.filterMap (fun e => (dataOf (e.2 / 64)).map (fun x => (e.1, lineWord x.2.2 (e.2 / 4 % 16))))
      let byArray := rs.filter (fun e => (dataOf (e.2 / 64)).isSome
        && (match dataOf (e.2 / 64) with | some (true, _, _) => true | _ => false)
        && array.any (fun x => bankOf x.line == bankOf (e.2 / 64)))
      (s.count (RGN_VEC_STAT.GATHER_DROP n) byArray.length).addPending n [⟨a.start + 20, rankV, a.word, .lane dst, lanes⟩]
    | .scatterAdd fp rs =>
      let words := (g.1.flatMap (fun e => (rs.filter (fun r => r.2.1 / 64 == e.1.line)).map (fun r => r.2.1 / 4))).eraseDups
      let sums := words.map (fun w =>
        let old := match dataOf (w / 16) with | some x => lineWord x.2.2 (w % 16) | none => 0
        (4 * w, (rs.filter (fun r => r.2.1 / 4 == w)).foldl (fun (v : BitVec 32) r =>
          if fp then addFp32 v r.2.2 else v + r.2.2) old))
      let r := s.region n
      s.setRegion n { r with accesses := r.accesses ++ [{ a with start := t, use := .addWrite sums }] }
    | .descRead slot x y seg _ ahead =>
      let f := lsSlot slot
      let part (i : Nat) : List Byte := match g.1.find? (fun e => e.1.part == i) with | some e => e.2.2.2 | none => allOnes 64
      let k := if f.op = 1 then n else 64 + f.port
      s.launch k n seg a.tagv a.tag x y (part 0) (part 1) a.word ahead
    | .cmdRead slot _ seg _ ahead =>
      let f := lsSlot slot
      let b := match g.1 with | e :: _ => e.2.2.2 | [] => allOnes 64
      { s with bmeWay := s.bmeWay ++ [⟨f.op, f.stack, f.pch, f.start, seg, n, b, false, a.word, ahead⟩] }
    | .stWrite _ _ _ | .scatter _ | .addWrite _ => s

/-- R222: words of a line written with byte enables; a whole line replaces its code. -/
def RegionSt.putWords (r : RegionSt) (line : Nat) (ws : List (Nat × BitVec 32)) : RegionSt :=
  if (List.range 16).all (fun i => ws.any (fun w => w.1 == i)) then
    r.putLine line 0 ((List.range 16).flatMap (fun i => match ws.find? (fun w => w.1 == i) with
      | some w => leBytes 4 w.2.toNat
      | none => [0, 0, 0, 0]))
  else ws.foldl (fun (g : RegionSt) w => g.put (64 * line + 4 * w.1) (leBytes 4 w.2.toNat)) r

/-- The words an access writes, by byte address; of lanes that write one word, the highest comes last. -/
def Access.words (a : Access) : List (Nat × BitVec 32) :=
  match a.use with
  | .stWrite addr lanes _ => lanes.map (fun e => ((addr + 4 * e.1) % 33554432, e.2))
  | .scatter rs => rs.map (fun e => (e.2.1, e.2.2))
  | .addWrite ws => ws
  | _ => []

/-- R222, R224: the writes of an access in a cycle. -/
def State.accessWrites (s : State) (n t : Nat) (array : List ArrayRead) (accs : List Access) (a : Access) : State :=
  ((a.requests (t - a.start)).filter (fun q => q.write)).foldl (fun u q =>
    if portLost array accs t q then u.count (RGN_BANK_CONFLICT.WRITE_DROPS n)
    else
      let mine := a.words.filter (fun w => w.1 / 64 == q.line)
      let ws := (mine.map (fun w => w.1 / 4 % 16)).eraseDups.map (fun i =>
        (i, match (mine.filter (fun w => w.1 / 4 % 16 == i)).getLast? with | some w => w.2 | none => 0))
      u.setRegion n ((u.region n).putWords q.line ws)) s

/-- Cycles after its start in which an access is still in progress. -/
def PortUse.length : PortUse → Nat
  | .ldRead _ _ _ _ _ | .descRead _ _ _ _ _ _ | .cmdRead _ _ _ _ _ => 1
  | .stWrite _ _ _ | .addWrite _ => 2
  | .gather _ _ => 16
  | .scatter _ => 17
  | .scatterAdd _ _ => 18

/-- Every port use of a region's cycle: reads first, then writes. -/
def State.portCycle (s : State) (n t : Nat) (upsets : List (Nat × Bool)) : State :=
  match s.gridPos n with
  | none => s
  | some (r, c) =>
    let array := s.arrayReads n t
    let accs := ((s.region n).accesses).filter (fun a => decide (a.start < t))
    let g := array.foldl (fun (p : List (ArrayRead × List Byte) × State) a =>
      if readDropped array a then (p.1 ++ [(a, allOnes 64)], p.2)
      else
        let x := p.2.spadRead n a.line upsets
        (p.1 ++ [(a, x.2.1)], x.2.2)) ([], s)
    let s := accs.foldl (fun (u : State) a => u.accessReads n t array accs upsets a) g.2
    let s := accs.foldl (fun (u : State) a => u.accessWrites n t array accs a) s
    let s := s.takeReads n r c t g.1
    let x := s.region n
    s.setRegion n { x with accesses := x.accesses.filter (fun a => decide (t < a.start + a.use.length)) }

/-! ## Slots of a word (R107) -/

def State.addAccess (s : State) (n : Nat) (a : Access) : State :=
  s.setRegion n { s.region n with accesses := (s.region n).accesses ++ [a] }

/-- R92: an entry of a kind is written for a reader, or read by it. -/
def State.sendTo (s : State) (reader kind from_ start : Nat) : State :=
  s.setRegion reader ((s.region reader).arrive (xSent kind, from_, start))
def State.readFrom (s : State) (reader kind from_ start : Nat) : State :=
  let s := s.setRegion reader ((s.region reader).took (xSent kind, from_, start))
  s.setRegion from_ ((s.region from_).freeSlot (xTo kind reader))

/-- The V slot of a word begins in a region. -/
def State.startV (s : State) (n t : Nat) (q : QWord) (w : BitVec 64) : State :=
  let f := vSlot w
  let r := s.region n
  let mask := r.pred f.pred
  let a := if f.acc then r.accHalf f.accRow f.half else r.reg f.a
  let b := r.reg f.b
  let mk (use : PortUse) : Access := ⟨t, q.num, q.tag, q.tagv, use⟩
  let cross (exch : Bool) (vals : List (BitVec 32)) (flags : List Bool) : CrossOp :=
    ⟨t, q.num, f.dst, mask, f.imm, f.fmt, exch, vals, flags⟩
  match f.op with
  | 0x50 =>
    let x := vRequests mask a
    let s := (s.addAccess n (mk (.gather f.dst x.1))).count (RGN_VEC_STAT.GATHER_DROP n) x.2.length
    s.addPending n [⟨t + 20, rankV, q.num, .lane f.dst, x.2.map (fun i => (i, 0xFFFFFFFF))⟩]
  | 0x51 | 0x52 =>
    let x := vRequests mask a
    let reqs := x.1.map (fun e => (e.1, e.2, b.getD e.1 0))
    (s.addAccess n (mk (if f.op = 0x51 then .scatter reqs else .scatterAdd (f.fmt == 0) reqs))).count
      (RGN_VEC_STAT.SCATTER_DROP n) x.2.length
  | 0x31 =>
    let s := match s.neighbour n (f.imm % 4) with
      | some m => (s.setRegion n { s.region n with sent := (s.region n).sent ++ [(1 + f.imm % 4, t, a)] }).sendTo m (1 + f.imm % 4) n t
      | none => s
    (match s.neighbour n (oppositeDir (f.imm % 4)) with
      | some _ => s.setRegion n { s.region n with crossOps := (s.region n).crossOps ++ [cross true [] []] }
      | none => s)
  | 0x30 =>
    if f.imm / 4 % 4 = 0 then
      s.addPending n ((r.vResult f).map (fun e => ⟨t + vLatency f, rankV, q.num, e.1, e.2⟩))
    else
      let xs := (List.range 64).map (fun i =>
        (if mask.getLsbD i then (a.getD i 0).toNat else scanIdentity f.imm f.fmt, bitAt f.imm 5 && (b.getD i 0).getLsbD 0))
      s.setRegion n { r with crossOps := r.crossOps
        ++ [cross false ((scanLocals f.imm f.fmt xs).map (BitVec.ofNat 32)) (xs.map (fun e => e.2))] }
  | op =>
    if 0x40 ≤ op && decide (op ≤ 0x45) then
      let base := 64 * ((s.virtOf n).getD 0)
      let p := sumPart f a mask base
      { s with seq := { s.seq with summaries := s.seq.summaries.map (fun y =>
          if y.word = q.num then { y with parts := y.parts ++ [((s.virtOf n).getD 0, p.1, p.2.1, p.2.2)] } else y) } }
    else s.addPending n ((r.vResult f).map (fun e => ⟨t + vLatency f, rankV, q.num, e.1, e.2⟩))

/-- R208, R209: scans and exchanges of earlier words write and read the crossings in this cycle. -/
def State.crossCycle (s : State) (n t : Nat) : State :=
  let ops := (s.region n).crossOps
  let s := (ops.filter (fun o => !o.exch && o.start + 4 == t)).foldl (fun u o =>
    let last := o.vals.getD 63 0
    let open_ : BitVec 32 := if o.flags.any id then 0 else 1
    let u := u.setRegion n { u.region n with sent := (u.region n).sent ++ [(scanKind o.imm, o.start, [last, open_])] }
    (((u.scanScope n o.imm).dropWhile (fun m => m != n)).drop 1).foldl (fun (x : State) m => x.sendTo m (scanKind o.imm) n o.start) u) s
  let reads := ops.filter (fun o => o.readAt == t)
  let s := reads.foldl (fun u o =>
    let under (l : List (BitVec 32)) : List (Nat × BitVec 32) := (maskLanes o.mask).map (fun i => (i, l.getD i 0))
    if o.exch then
      (match u.crossSources n o with
        | (m, k) :: _ =>
          u.addPending n [⟨o.start + 6, rankV, o.word, .lane o.dst, under ((u.sentBy' m k o.start).getD [])⟩]
        | [] => u)
    else
      let carry := (u.crossSources n o).foldl (fun (c : Option Nat) e =>
        let v := (u.sentBy' e.1 e.2 o.start).getD []
        let last := (v.getD 0 0).toNat
        match c with
        | none => some last
        | some x => if v.getD 1 0 = 0 then some last else some (scanOp o.imm o.fmt x last)) none
      let out := scanOut o.imm o.fmt carry carry (o.vals.map BitVec.toNat) o.flags
      let lat := if o.imm / 4 % 4 = 1 then 14 else 24
      u.addPending n [⟨o.start + lat, rankV, o.word, .lane o.dst, under (out.map (BitVec.ofNat 32))⟩]) s
  let s := reads.foldl (fun (u : State) o => (u.crossSources n o).foldl (fun (x : State) e => x.readFrom n e.2 e.1 o.start) u) s
  let low := s.executed
  let r := s.region n
  s.setRegion n { r with
    crossOps := r.crossOps.filter (fun o => decide (t < o.readAt))
    sent := r.sent.filter (fun e => decide (low ≤ e.2.1 + 8)) }

/-- R447, R463: what the row mask makes of a ROWMASK store: whether it writes. -/
def State.rowMask (s : State) (n : Nat) (f : LsSlot) (addr : Nat) : Bool × State :=
  if !f.rowmask then (true, s)
  else
    match s.maskedRow n (addr / 256) with
    | none => (true, s.count CTX_STAT.UNKEYED)
    | some row => if s.flag CTX_CTRL.EN && (s.region n).live.contains row then (true, s) else (false, s.count CTX_MASK_STAT.BLOCKED)

/-- R134: the region whose LD slot of the word sends a command to the stack, or launches on the shuttle, that the ST slot
of this region uses; none where that is this region, whose LD slot is read first. -/
def State.ldAhead (s : State) (n : Nat) (q : QWord) (f : LsSlot) : Option Nat :=
  match q.ld with
  | none => none
  | some w =>
    let g := lsSlot w.bits
    let shared := if f.cls = 2 then g.cls == 2 && g.stack == f.stack
      else g.cls == 1 && g.op != 1 && f.op != 1 && g.port == f.port && decide (g.port < 24)
    if shared then (s.physOf g.vreg).filter (fun m => m != n) else none

/-- An LD or ST slot of a word begins in a region. -/
def State.startLs (s : State) (n t : Nat) (q : QWord) (w : Slot) (load : Bool) : State :=
  let f := lsSlot w.bits
  let mk (use : PortUse) : Access := ⟨t, q.num, q.tag, q.tagv, use⟩
  match f.cls with
  | 0 =>
    let r := s.region n
    let mask := r.pred f.pred
    let lines := fourLines w.addr
    let tagged := s.laneTagged n w load
    if load then
      let bad := if tagged then ((List.range 4).zip lines).filter (fun e => r.tag e.2 == tagFaulted) else []
      let badLanes := (maskLanes mask).filter (fun i => bad.any (fun e => e.1 == i / 16))
      let ok := badLanes.foldl (fun (m : BitVec 64) i => m &&& ~~~(BitVec.twoPow 64 i)) mask
      let ones := badLanes.map (fun i => (i, (0xFFFFFFFF : BitVec 32)))
      let s := if badLanes.isEmpty then s
        else s.addPending n [⟨t + 6, rankLd, q.num, .lane f.lreg, ones⟩, ⟨t + 6, rankLd, q.num, .marks, ones⟩]
      let s := if tagged && f.op == 3 then
          s.setRegion n (lines.foldl (fun (g : RegionSt) l => g.setTag l tagEmpty) (s.region n))
        else s
      s.addAccess n (mk (.ldRead f.lreg w.addr ok tagged (f.op == 3)))
    else if f.op = 3 then
      if tagged then s.setRegion n (lines.foldl (fun (g : RegionSt) l => g.setTag l tagEmpty) r) else s
    else
      let k := s.rowMask n f w.addr
      let s := k.2
      let data := if k.1 then (maskLanes mask).map (fun i => (i, (r.reg f.lreg).getD i 0)) else []
      let s := if tagged then
          s.setRegion n { s.region n with held := (s.region n).held ++ lines.map (fun l => (l, t + 2, tagFull)) }
        else s
      s.addAccess n (mk (.stWrite w.addr data 2))
  | 1 =>
    let mine := if f.op = 1 then true else decide (f.port < 24) && s.physOf f.vreg == some n
    if mine then
      s.addAccess n (mk (.descRead w.bits ((f.srcDesc + w.addr) % 524288) ((f.dstDesc + w.addr) % 524288) q.segment (!load)
        (if load then none else s.ldAhead n q f)))
    else s
  | _ =>
    if s.physOf f.vreg == some n then s.addAccess n (mk (.cmdRead w.bits f.cmdLine q.segment (!load)
      (if load then none else s.ldAhead n q f))) else s

/-! ## Executing a word -/

/-- R119, R137, R615: a word has been executed by every region in use. -/
def State.allRetired (s : State) (q : QWord) : State :=
  let s := { s with seq := { s.seq with
    summaries := s.seq.summaries.map (fun y => if y.due.isNone && decide (y.word ≤ q.num) then { y with due := some (s.now + 40) } else y)
    ypending := s.seq.ypending.map (fun y => if y.due.isNone && decide (y.word ≤ q.num) then { y with due := some (s.now + 8) } else y) } }
  if q.tagv then s.trace 0 0xFF (leBytes 8 (q.num - s.seq.base) ++ leBytes 2 q.tag.toNat ++ leBytes 6 q.segment) else s

/-- R108: the writes due in a region's cycle land: held registers, vector and accumulator results, loads. -/
def State.landCycle (s : State) (n t : Nat) : State :=
  let s := s.setRegion n ((s.region n).release t)
  let s := (s.landRegs n t).landAcc n t
  s.setRegion n ((s.region n).writeLoads t)

/-- The cycle of a region's tile: a word's M slot enters, and the rows in the array move on. -/
def State.tileCycle (s : State) (n r c t : Nat) : State :=
  ((s.multiplyRows n r c t).roundRows n r c t).addRows r c t

/-- The cycle's crossing, the word's V, LD and ST slots, and the region's port. -/
def State.slotsCycle (s : State) (n t : Nat) (q : QWord) (upsets : List (Nat × Bool)) : State :=
  let s := s.crossCycle n t
  let s := match q.v with | some w => s.startV n t q w | none => s
  let s := match q.ld with | some w => s.startLs n t q w true | none => s
  let s := match q.st with | some w => s.startLs n t q w false | none => s
  s.portCycle n t upsets

/-- The registers a word reads. -/
def QWord.readKeys (q : QWord) : List Nat :=
  vReads q.v ++ stReads q.st ++ (match q.v with
    | some w => if (vSlot w).acc then [64 + (vSlot w).accRow] else []
    | none => [])

/-- R92, R107: a region has executed the word at the head of its queue, in a timebase cycle. -/
def RegionSt.ranWord (x : RegionSt) (q : QWord) (rest : List QWord) (t now : Nat) : RegionSt :=
  { x.took (xQueue, 0, q.num) with
    queueFreed := now :: x.queueFreed.filter (fun e => decide (now < e + 4)), queue := rest, cycle := t + 1, waiting := false
    sumsAt := none, before := [], unread := x.unread.filter (fun k => !q.readKeys.contains k) }

/-- R107: a region executes a word in its cycle. -/
def State.runWord (s : State) (n : Nat) (q : QWord) (rest : List QWord) (upsets : List (Nat × Bool)) : State :=
  let t := (s.region n).cycle
  match s.gridPos n with
  | none => s
  | some (r, c) =>
    let busy := s.tileActive n r c t
    let loads := (s.region n).loads
    let s := ((s.landCycle n t).enterArray t q.m).flipTile n r c t
    let s := if busy then s.classTile n r c t loads else s
    let s := (s.tileCycle n r c t).slotsCycle n t q upsets
    let s := s.setRegion n ((s.region n).ranWord q rest t s.now)
    let s := if busy then s.meterOwn 1 0 else s
    let s := if q.num ≤ s.executed then s.allRetired q else s
    s.pruneArray

/-- R237: while a region waits on a line that an earlier store of its own holds, that store's port use and transition go on
with the region's clock edges, as the spec's example of a tagged load in the word after the store shows (DEDUCED,
notes/assumptions/61.md). -/
def State.ownHold (s : State) (n t : Nat) (q : QWord) : State :=
  let r := s.region n
  let lines (w : Option Slot) (load : Bool) : List Nat := match w with
    | some x => if s.laneTagged n x load then fourLines x.addr else []
    | none => []
  let mine (l : Nat) : Bool := r.heldAt l t
  if ((lines q.ld true) ++ (lines q.st false)).any mine then
    s.setRegion n { r with
      held := r.held.map (fun h => if t < h.2.1 then (h.1, h.2.1 - 1, h.2.2) else h)
      accesses := r.accesses.map (fun a => match a.use with
        | .stWrite addr ws _ => if (fourLines addr).any mine then { a with use := .stWrite addr ws 1 } else a
        | _ => a) }
  else s

/-- R51: a region waits in this cycle. -/
def State.waitWord (s : State) (n : Nat) (w : Waits) : State :=
  (s.setRegion n { s.region n with waiting := true, before := [] }).countWaits n w

/-- R51, R92, R107, R148: a region meets the word at the head of its queue at a clock edge: it waits, traps, or executes it.
`again` says that only a wait that has ended counts. -/
def State.tryWord (s : State) (n : Nat) (upsets : List (Nat × Bool)) (again : Bool) : State :=
  let e := s.edge n
  match (s.region n).queue with
  | [] => if again then s else e
  | q :: rest =>
    if !e.canRun n q (e.region n).edges then (if again then s else e)
    else
      let t := (s.region n).cycle
      let w := e.waitsOf n t q
      if w.any then
        if again then s
        else (e.ownHold n t q).waitWord n w
      else
        let s := e
        let tagged := (match q.ld with | some x => s.laneTagged n x true | none => false)
          || (match q.st with | some x => s.laneTagged n x false | none => false)
        let h := s.tagwait n tagged
        if h.1 then h.2.waitWord n ⟨false, false, true, false⟩
        else
          match h.2.regionTrap n t q with
          | some (cause, slot) => (h.2.stopTrap n cause slot q.tagv q.tag).limitExec (q.num - 1)
          | none => h.2.runWord n q rest upsets

/-- R108: the writes of a region's cycle may land: it would execute its next word. -/
def State.mayLand (s : State) (n : Nat) : Bool :=
  match (s.region n).queue with
  | [] => false
  | q :: _ =>
    let t := (s.region n).cycle
    s.canRun n q ((s.region n).edges + 1) && !((s.edge n).waitsOf n t q).any && (s.regionTrap n t q).isNone

end Sys2Proof.Machine
end

