-- ==== Sys2Proof/Machine/SeqOps.lean ====
section
/-! DEFINITION. The sequencer (R106, R112 to R120, R136, R137, R144, R151): scalar results, base registers, the waits of
the issue, traps, and what issuing a word does. -/
namespace Sys2Proof.Machine

/-! ## Scalar registers (R112, R114) -/

/-- R112: X0 reads zero. -/
def State.xval (s : State) (r : Nat) : BitVec 64 := if r = 0 then 0 else sget 0 s.seq.x r
def State.setX (s : State) (r : Nat) (v : BitVec 64) : State :=
  if r = 0 then s else { s with seq := { s.seq with x := sset 0 s.seq.x r v } }

/-- R118: summaries pending on a register. -/
def State.xWait (s : State) (r : Nat) : Bool := sget 0 s.seq.xPending r != 0

/-- R114: the results that the n-th word reads are in their registers. Of two results that fall due for one register at the
same word, the later-issued one stands (DESIGN CHOICE, notes/assumptions/73.md). -/
def State.landX (s : State) (n : Nat) : State :=
  let due := s.seq.xWrites.filter (fun e => decide (e.1 ≤ n))
  let t := due.foldl (fun (u : State) e => u.setX e.2.1 e.2.2) s
  { t with seq := { t.seq with xWrites := s.seq.xWrites.filter (fun e => decide (n < e.1)) } }

/-- R113, R120: registers the S slot reads, and the one it writes. LIH, which keeps the lower half of its register, reads it
(DESIGN CHOICE, notes/assumptions/77.md). -/
def sReads (w : BitVec 32) : List Nat :=
  let f := sSlot w
  if 1 ≤ f.op && decide (f.op ≤ 9) then [f.ra, f.rb]
  else if f.op = 0x10 || f.op = 0x11 || f.op = 0x27 then [f.ra]
  else if f.op = 0x13 then [f.rd]
  else if 0x20 ≤ f.op && decide (f.op ≤ 0x25) then [f.rd, f.ra]
  else []
def sWrites (w : BitVec 32) : Option Nat :=
  let f := sSlot w
  if (1 ≤ f.op && decide (f.op ≤ 0x1A)) || f.op == 0x28 then some f.rd else none

/-- R123, R125, R130: the base register of an M, LD or ST slot; none where the operation takes none. -/
def mBase (w : BitVec 64) : Option Nat :=
  let f := mSlot w
  if [0x01, 0x02, 0x03, 0x10, 0x11].contains f.op then some f.base else none
def lsBase (w : BitVec 64) : Option Nat :=
  let f := lsSlot w
  match f.cls with
  | 0 => some f.base
  | 1 => some f.shBase
  | _ => none
def yBase (w : BitVec 32) : Option Nat :=
  let f := yField w
  if yReadsX f.op then some f.xreg else none

/-- R120: scalar registers a word reads, with the slot that reads each. -/
def InsnWord.xReads (w : InsnWord) : List (Nat × Nat) :=
  ((w.s.map sReads).getD []).map (fun r => (0, r)) ++ (w.m.bind mBase).toList.map (fun r => (2, r))
    ++ (w.ld.bind lsBase).toList.map (fun r => (3, r)) ++ (w.st.bind lsBase).toList.map (fun r => (4, r))
    ++ (w.y.bind yBase).toList.map (fun r => (5, r))

/-- R114: the value of an S-slot operation, with its latency. -/
def State.sResult (s : State) (w : BitVec 32) (extS : Option (BitVec 32)) (link : Nat) : Option (BitVec 64 × Nat) :=
  let f := sSlot w
  let a := s.xval f.ra
  let b := s.xval f.rb
  let i := BitVec.ofInt 64 f.imm
  match f.op with
  | 0x01 => some (a + b, 1)
  | 0x02 => some (a - b, 1)
  | 0x03 => some (a &&& b, 1)
  | 0x04 => some (a ||| b, 1)
  | 0x05 => some (a ^^^ b, 1)
  | 0x06 => some (a <<< (b.toNat % 64), 1)
  | 0x07 => some (a >>> (b.toNat % 64), 1)
  | 0x08 => some (a.sshiftRight (b.toNat % 64), 1)
  | 0x09 => some (a * b, 3)
  | 0x10 => some (a + i, 1)
  | 0x11 => some (a &&& i, 1)
  | 0x12 => some ((match extS with | some e => e.signExtend 64 | none => i), 1)
  | 0x13 => some (extS.getD 0 ++ (s.xval f.rd).extractLsb' 0 32, 1)
  | 0x18 => some (BitVec.ofNat 64 (s.programSegment (s.seq.segment.getD 0)), 1)
  | 0x19 => some (BitVec.ofNat 64 s.pickNo, 1)
  | 0x1A => some (BitVec.ofNat 64 s.retired, 1)
  | 0x28 => some (BitVec.ofNat 64 link, 1)
  | _ => none

/-- R113, R114, R117: a branch, jump or call with its target, where it is taken. -/
def State.sBranch (s : State) (w : BitVec 32) (extS : Option (BitVec 32)) (pc : Nat) : Option (Option (BitVec 22)) :=
  let f := sSlot w
  let a := s.xval f.rd
  let b := s.xval f.ra
  let target : BitVec 22 := match extS with
    | some e => e.extractLsb' 0 22
    | none => BitVec.ofInt 22 (pc + f.imm)
  let when_ (c : Bool) : Option (Option (BitVec 22)) := some (if c then some target else none)
  match f.op with
  | 0x20 => when_ (a == b)
  | 0x21 => when_ (a != b)
  | 0x22 => when_ (a.slt b)
  | 0x23 => when_ (!a.slt b)
  | 0x24 => when_ (a.ult b)
  | 0x25 => when_ (!a.ult b)
  | 0x26 | 0x28 => when_ true
  | 0x27 => some (some (b.extractLsb' 0 22))
  | _ => none

/-! ## Addresses (R116, R123, R126, R130) -/

def State.mSlotOf (s : State) (w : BitVec 64) : Slot :=
  let f := mSlot w
  ⟨w, match mBase w with
    | some r => (f.line + (s.xval r).toNat) % 524288
    | none => f.line⟩
def State.lsSlotOf (s : State) (w : BitVec 64) : Slot :=
  let f := lsSlot w
  ⟨w, match f.cls with
    | 0 => ((s.xval f.base).toNat + f.off * 256) % 33554432 / 256 * 256
    | 1 => (s.xval f.shBase).toNat % 524288
    | _ => 0⟩

/-! ## Waits (R51, R120, R137) -/

/-- R137: the issue-side wait of a word does not hold. -/
def State.yBlocked (s : State) (w : InsnWord) : Option Nat :=
  match w.y with
  | none => none
  | some y =>
    let f := yField y
    if yWaits f.op && (s.waitFrom f.op f.obj (s.xval f.xreg) f.imm).isNone then some f.obj else none

/-- R51: some region's issue queue is full. -/
def State.queueFull (s : State) : Bool := s.regionsOn.any (fun n => decide (64 ≤ (s.region n).queue.length))

/-- R92: the timebase cycle from which a queue that holds fewer than 64 words has a slot that can be written: as many of the
slots freed last as it lacks words can still be waiting. -/
def RegionSt.roomAt (r : RegionSt) : Nat :=
  match r.queueFreed[63 - r.queue.length]? with
  | some e => e + 4
  | none => 0

/-- R92: the same for every region in use. -/
def State.roomAt (s : State) : Nat := s.regionsOn.foldl (fun m n => max m (s.region n).roomAt) s.now

/-- R494: the word waits. -/
def State.waitIssue (s : State) (obj : Option Nat) : State :=
  let wait : Option SyncWait := match obj with
    | none => none
    | some o => some (match s.sync.wait with
      | some w => if w.obj = o then w else ⟨o, 0, false⟩
      | none => ⟨o, 0, false⟩)
  { s with seq := { s.seq with state := .waiting }, sync := { s.sync with wait := wait } }

/-- R92, R137, R492: the cycle in which a word whose wait holds may issue: once each queue has a slot that can be written. -/
def State.issueCycle (s : State) (w : InsnWord) : Nat :=
  match w.y with
  | none => s.roomAt
  | some y =>
    let f := yField y
    if yWaits f.op then max s.roomAt ((s.waitFrom f.op f.obj (s.xval f.xreg) f.imm).getD s.now) else s.roomAt

/-! ## Traps in the sequencer (R148) -/

/-- R148: a trap of the word, as cause and slot. -/
def State.issueTrap (s : State) (w : InsnWord) : Option (Nat × Nat) :=
  let early := (w.xReads.find? (fun e => e.2 != 0 && s.seq.xWrites.any (fun x => x.2.1 == e.2))).map (fun e => (16, e.1))
  let clobber := match w.s.bind sWrites with
    | some r => if s.xWait r then some (21, 0) else none
    | none => none
  match (if s.flag SEQ_CHECK.EARLY_READ then early else none) with
  | some t => some t
  | none => if s.flag SEQ_CHECK.SUMMARY_CLOBBER then clobber else none

/-! ## Issuing (R106, R107) -/

/-- R523, R334: a PICK_END has issued: the segment's words end, and with them the program where STOP or YIELD asks. -/
def State.endSegment (s : State) (yieldPoint : Bool) : State :=
  match s.seq.segment with
  | none => s
  | some p =>
    let q := { s.seq with open_ := false, segment := some (p + 1) }
    let stops := match q.stopReq with | some r => decide (r.1 ≤ p) | none => false
    let yields := yieldPoint && (match q.yieldReq with | some r => decide (r.1 ≤ p) | none => false)
    { s with seq := if stops then { q with stopped := true } else if yields then { q with yieldSeg := some p } else q }

/-- R136, R137: the Y slot at issue. -/
def State.issueY (s : State) (n : Nat) (y : BitVec 32) (x : BitVec 64) (ext : BitVec 32) : State :=
  let f := yField y
  if f.op = 0x18 then
    { s with seq := { s.seq with xWrites := s.seq.xWrites ++ [(n + 2, f.xreg, s.readObj f.obj)] } }
  else if f.op = 0x12 then s.changeObj f.op f.obj 0
  else if yWaits f.op then (if (s.obj f.obj).type = opType f.op then s else s.typeError)
  else if yRetireSide f.op then
    let p : YPending := ⟨n, s.seq.segment.getD 0, ⟨y, x, ext⟩, none⟩
    let s := { s with seq := { s.seq with ypending := s.seq.ypending ++ [p] } }
    if f.op = 0x01 then s.endSegment (bitAt f.imm 0) else s
  else s

/-- R118: a summary operation is in flight. -/
def State.issueSummary (s : State) (n : Nat) (v : BitVec 64) : State :=
  let f := vSlot v
  if 0x40 ≤ f.op && decide (f.op ≤ 0x45) then
    let r := f.imm % 64
    { s with seq := { s.seq with
      xPending := smod 0 s.seq.xPending r (· + 1)
      summaries := s.seq.summaries ++ [⟨n, r, f.op, f.fmt, [], none⟩] } }
  else s

/-- R101: length of the word at a unit address, by its header. -/
def State.lenAt (s : State) (pc : Nat) : Nat := (headerOf (s.unit pc)).len

/-- R107: a word enters a region's issue queue, which holds 64 words; issue waits while a queue is full, so none is lost. -/
def RegionSt.pushWord (r : RegionSt) (q : QWord) : RegionSt :=
  if r.queue.length < 64 then { r.arrive (xQueue, 0, q.num) with queue := r.queue ++ [q] } else r

/-- R103: the extension as a Y slot reads it. -/
def InsnWord.yExt (w : InsnWord) : BitVec 32 := if w.hdr.ext && w.hdr.extY then w.ext else 0

/-- R103: the extension as an S slot reads it. -/
def InsnWord.sExt (w : InsnWord) : Option (BitVec 32) := if w.hdr.ext && !w.hdr.extY then some w.ext else none

/-- R101: the address of the word after the one at pc. -/
def State.pcAfter (s : State) (pc : Nat) : Nat := (pc + s.lenAt pc) % 4194304

/-- R107: word `n` as the regions' queues take it, with its addresses and its Y slot's X operand read at issue. -/
def State.queued (s : State) (w : InsnWord) (n : Nat) : QWord :=
  { num := n, segment := s.seq.segment.getD 0, tagv := w.hdr.tagv, tag := w.hdr.tag, v := w.v
    m := w.m.map s.mSlotOf, ld := w.ld.map s.lsSlotOf, st := w.st.map s.lsSlotOf
    y := w.y.map (fun y => ⟨y, s.xval (yField y).xreg, w.yExt⟩) }

/-- R116: the X write of word `n`'s S slot, at the word from which it is seen. -/
def State.wordResult (s : State) (w : InsnWord) (n : Nat) : Option (Nat × Nat × BitVec 64) :=
  let next := (s.seq.pc.toNat + w.hdr.len) % 4194304
  w.s.bind (fun x => (s.sResult x w.sExt (s.pcAfter (s.pcAfter next))).map (fun r => (n + r.2, (sSlot x).rd, r.1)))

/-- R117: the pc after a word, and the branch that still waits for its slots. -/
def State.pcNext (s : State) (w : InsnWord) : BitVec 22 × Option Branch :=
  let pc := s.seq.pc.toNat
  let next := BitVec.ofNat 22 (pc + w.hdr.len)
  match s.seq.branch with
  | some b => if b.slots ≤ 1 then (b.target.getD next, none) else (next, some { b with slots := b.slots - 1 })
  | none => (next, (w.s.bind (fun x => s.sBranch x w.sExt pc)).map (fun t => ⟨2, t⟩))

/-- The buffer records after a word's M slot. -/
def State.recsNext (s : State) (w : InsnWord) : BufRec × BufRec :=
  match w.m with
  | some x => recordsAfter (mSlot x) s.seq.active s.seq.shadow
  | none => (s.seq.active, s.seq.shadow)

/-- R118, R136, R137: the effects of a word's Y slot and of a summary operation at issue. -/
def State.issueSlots (s : State) (w : InsnWord) (n : Nat) : State :=
  let x := w.y.map (fun y => s.xval (yField y).xreg)
  let s := match w.y with
    | some y => s.issueY n y (x.getD 0) w.yExt
    | none => s
  match w.v with | some v => s.issueSummary n v | none => s

/-- The sequencer's registers once word `n` has issued. -/
def State.markIssued (s : State) (n : Nat) (next : BitVec 22 × Option Branch) (recs : BufRec × BufRec)
    (result : Option (Nat × Nat × BitVec 64)) : State :=
  { s with
    now := s.now + 1
    sync := { s.sync with wait := none }
    seq := { s.seq with
      state := .issuing, issued := n, pc := next.1, branch := next.2, skipTag := false
      active := recs.1, shadow := recs.2, xWrites := s.seq.xWrites ++ result.toList } }

/-- R107: the word enters the queue of every region in use. -/
def State.pushWords (s : State) (q : QWord) : State :=
  s.each s.regionsOn (fun r u => u.setRegion r ((u.region r).pushWord q))

/-- R151: the count break stops issue after the word it names. -/
def State.countBreak (s : State) (n : Nat) : State :=
  if s.flag SEQ_BRK_CTRL.COUNT_EN
      && decide (n - s.seq.base = s.fld SEQ_BRK_COUNT_LO.BRK_LO + 4294967296 * s.fld SEQ_BRK_COUNT_HI.BRK_HI) then
    { s with seq := { s.seq with state := .broken } }
  else s

/-- R106, R107, R116, R117: a word issues. -/
def State.issueWord (s : State) (w : InsnWord) : State :=
  let n := s.seq.issued + 1
  (((s.issueSlots w n).markIssued n (s.pcNext w) (s.recsNext w) (s.wordResult w n)).pushWords (s.queued w n)).countBreak n

/-- R151: a tag break takes the word. -/
def State.tagBreak (s : State) (h : Header) : Bool :=
  s.flag SEQ_BRK_CTRL.TAG_EN && !s.seq.skipTag && h.tagv && h.tag.toNat == s.fld SEQ_BRK_CTRL.TAG

/-- R252: the word's units are fetched. -/
def State.fetchWord (s : State) (pc : Nat) (e : Ecc) : State :=
  if e = .uncorrectable && !s.seq.istoreBad.contains (pc / 2) then
    { s with seq := { s.seq with istoreBad := s.seq.istoreBad ++ [pc / 2] } }
  else s

/-- R106, R104, R120, R137, R144, R151: the sequencer meets its next word: it breaks, stops, waits or issues it. -/
def State.tryIssue (s : State) (e : Ecc) : State :=
  let run := s.seq.state == .issuing || s.seq.state == .waiting
  if !run || !s.seq.open_ || s.pick.inWindow then s
  else
    let pc := s.seq.pc.toNat
    let w := s.wordAt pc
    if s.tagBreak w.hdr then { s with seq := { s.seq with state := .broken } }
    else
      let s := s.fetchWord pc e
      let bad := s.wordBad pc w.hdr
      match s.decodeFault w bad with
      | some (cause, slot) =>
        let s := if bad then s.logRec logEcc 0xFFFF (eccData pc 2) else s
        s.stopTrap 0x7F cause slot w.hdr.tagv w.hdr.tag
      | none =>
        let s := s.landX (s.seq.issued + 1)
        if s.queueFull || w.xReads.any (fun r => s.xWait r.2) then s.waitIssue none
        else
          match s.yBlocked w with
          | some o => s.waitIssue (some o)
          | none =>
            match s.issueTrap w with
            | some (cause, slot) => s.stopTrap 0x7F cause slot w.hdr.tagv w.hdr.tag
            | none => (s.at_ (s.issueCycle w)).issueWord w

/-- R151: RESUME leaves a break. -/
def State.resumeSeq (s : State) : State :=
  if s.seq.state = .broken then { s with seq := { s.seq with state := .issuing, skipTag := true } } else s

/-! ## Summaries (R119) -/

/-- R119, R120: the oldest summary arrives, 40 cycles after the last region retired it, and overwrites a result of the S
slot that reached its register before. -/
def State.landSummary (s : State) : State :=
  match s.seq.summaries with
  | [] => s
  | y :: r =>
    match y.due with
    | none => s
    | some d =>
      let parts := (y.parts.mergeSort (fun a b => decide (a.1 ≤ b.1))).map (fun e => e.2)
      let v := sumValue y.op y.fmt (64 * s.regionsOn.length) parts
      let s := ((s.at_ d).landX (s.seq.issued + 1)).setX y.dst v
      { s with seq := { s.seq with summaries := r, xPending := smod 0 s.seq.xPending y.dst (· - 1) } }

/-! ## Segments (R49, R50, R68) -/

/-- R49, R65, R68: the words of the next segment may issue: its pick has begun, a span runs, and the segment before it is
complete. -/
def State.openSegment (s : State) : State :=
  match s.seq.segment with
  | none => s
  | some p =>
    if s.programOn && !s.seq.open_ && !s.pick.inWindow && decide (p ≤ s.pickNo) && !s.seq.stopped && s.seq.yieldSeg.isNone
        && (match s.pick.lastComplete with | some l => l + 1 == p | none => false) then
      { s with seq := { s.seq with open_ := true } }
    else s

/-- R50: every region in use has retired the segment's PICK_END. -/
def State.segmentRetired (s : State) (p : Nat) : Bool :=
  (match s.seq.segment with | some q => decide (p < q) | none => false)
    && !s.seq.ypending.any (fun y => y.segment == p && (yField y.slot.bits).op == 0x01 && y.due.isNone)

/-- R50: nothing the segment issued is still to complete: BME commands, transfers, scheduled cells. -/
def State.segmentResolved (s : State) (p : Nat) : Bool :=
  !s.bmeWay.any (fun c => !c.fw && c.segment == p)
    && !s.hbmStacks.any (fun k => k.2.queue.any (fun c => c.segment == p)
      || k.2.running.any (fun r => !r.cmd.fw && r.cmd.segment == p))
    && !s.shuttles.any (fun k => k.2.transfers.any (fun t => t.segment == p && !t.done))
    && !s.ports.any (fun k => k.2.backlogCells.any (fun e => e.own == some p))
    && !(List.range 64).any (fun n => (s.region n).accesses.any (fun a => match a.use with
      | .descRead _ _ _ g _ _ | .cmdRead _ _ g _ _ => g == p
      | _ => false))

/-- R67: the lowest-numbered region that has not retired the segment's PICK_END. -/
def State.lateRegion (s : State) (p : Nat) : Option Nat :=
  let word := (s.seq.ypending.find? (fun y => y.segment == p && (yField y.slot.bits).op == 0x01)).map (fun y => y.word)
  (List.range 64).find? (fun n => s.regionOn n && (match s.seq.segment with
    | some q => if q ≤ p then true else (match word with | some w => decide ((s.region n).cycle < w) | none => false)
    | none => false))

end Sys2Proof.Machine
end

