-- ==== Sys2Proof/Machine/FwOps.lean ====
section
/-! DEFINITION. What the control firmware does with pages in background windows (R42, R279 to R282, R332). -/
namespace Sys2Proof.Machine

/-! ## Leaf entries -/

/-- R275: level and packed address of the entry that a walk for an address ends at; none at a table error. -/
def State.leafSlot (s : State) (va : Nat) : Nat → Nat → Nat → Option (Nat × Nat)
  | 0, _, _ => none
  | fuel + 1, level, table =>
    let a := entryAddr table level va
    match s.walkEntry level va (s.entryAt table level va) with
    | .table t => State.leafSlot s va fuel (level + 1) t
    | .error => none
    | _ => some (level, a)
def State.leafOf (s : State) (va : Nat) : Option (Nat × Nat) := s.leafSlot va 4 0 s.rootTable

def State.entryBits (s : State) (a : Nat) : BitVec 64 := BitVec.ofNat 64 (leNat (s.hbmBytes a 8))
def State.setEntryBits (s : State) (a : Nat) (e : BitVec 64) : State := s.hbmWrite a (leBytes 8 e.toNat)

/-- R276: an entry with another KIND. -/
def withKind (e : BitVec 64) (kind : Nat) : BitVec 64 := BitVec.ofNat 64 (bitsPut e.toNat 0 3 kind)

/-! ## Frames (R257) -/

/-- R257: a packed address lies in the frame of an HBM leaf. -/
def Leaf.ownsHbm (l : Leaf) (a : Nat) : Bool :=
  let o := hbmOffset a
  if l.cxl then false
  else if l.stripe then
    hbmStack a == l.stack && decide (l.frame * 2048 ≤ o) && decide (o < l.frame * 2048 + l.size / 32)
  else hbmStack a == l.stack && hbmPch a == l.pch && decide (l.frame * 2048 ≤ o) && decide (o < l.frame * 2048 + l.size)

/-- Every byte of an HBM leaf's frame is zero, and its codes are valid. -/
def State.clearFrame (s : State) (l : Leaf) : State :=
  { s with hbm := { s.hbm with
    mem := sfilter s.hbm.mem (fun a => !l.ownsHbm a), badLines := s.hbm.badLines.filter (fun a => !l.ownsHbm a) } }

/-- Write a page through its leaf: bytes by offset, and zeros between them. -/
def State.putFrame (s : State) (l : Leaf) (bytes : List (Nat × Byte)) : State :=
  if l.cxl then
    (List.range (l.size / 64)).foldl (fun (t : State) i =>
      t.linePut .firmware l (l.va + 64 * i) ((List.range 64).map (fun j =>
        ((bytes.find? (fun b => b.1 == 64 * i + j)).map (fun b => b.2)).getD 0))) s
  else bytes.foldl (fun t b =>
    match l.place (l.va + b.1) with
    | .hbm a => t.hbmWrite a [b.2]
    | .cxl _ _ => t) s

/-- R257: offset in its page of a packed address of an HBM leaf's frame. -/
def Leaf.offsetOf (l : Leaf) (a : Nat) : Nat :=
  let o := hbmOffset a - l.frame * 2048
  if l.stripe then o / 2048 * 65536 + hbmPch a * 2048 + o % 2048 else o

/-- What a page holds, by offset: the bytes of an HBM frame that are not zero, all ones where a line is poisoned, which is
reported and logged (R263); every byte of a frame of a CXL device. -/
def State.frameBytes (s : State) (l : Leaf) : List (Nat × Byte) × State :=
  if l.cxl then ((List.range l.size).map (fun i => (i, s.leafByte l (l.va + i))), s)
  else
    let held := (s.hbm.mem.filter (fun e => l.ownsHbm e.1)).map (fun e => (l.offsetOf e.1, e.2))
    let poisoned := s.hbm.badLines.filter (fun a => l.ownsHbm a)
    let bad := poisoned.flatMap (fun a => (List.range 64).map (fun i => (l.offsetOf (a + i), (0xFF : Byte))))
    (held ++ bad, poisoned.foldl (fun (t : State) a => (t.hbmCheck a .good).2) s)

/-! ## Making pages resident, and moving them (R281, R332) -/

/-- R332: ask the host for the page that holds an address, once until it comes. -/
def State.askPage (s : State) (va : Nat) : State :=
  if s.mmu.asked.contains (va / 65536) then s
  else ({ s with mmu := { s.mmu with asked := s.mmu.asked ++ [va / 65536] } }).emit (.askPage va)

/-- R281: an ABSENT or unmapped page becomes resident with a leaf: its bytes are written, and then the entry. -/
def State.pageIn (s : State) (va : Nat) (entry : BitVec 64) (bytes : List (Nat × Byte)) : State :=
  match s.leafOf va with
  | none => s
  | some (level, a) =>
    match s.walkEntry level va (s.entryBits a), s.walkEntry level va entry with
    | .absent, .leaf l | .unmapped, .leaf l =>
      if !s.leafUp l then s else
      let s := (s.clearFrame l).putFrame l (bytes.filter (fun b => decide (b.1 < l.size)))
      let s := { s with mmu := { s.mmu with asked := s.mmu.asked.filter (fun p => !l.covers (p * 65536)) } }
      s.setEntryBits a entry
    | _, _ => s

/-- R282: the loaded image declares part of a page resident. -/
def State.declaredResident (s : State) (l : Leaf) : Bool :=
  match s.mail.image with
  | none => false
  | some im => im.resident.any (fun r => decide (r.1 < l.va + l.size) && decide (l.va < r.1 + r.2))

/-- R281: hold a resident page MIGRATING, and invalidate it. -/
def State.holdPage (s : State) (va : Nat) (all : Bool) : State :=
  match s.leafOf va with
  | none => s
  | some (level, a) =>
    let e := s.entryBits a
    match s.walkEntry level va e with
    | .leaf l =>
      let s := s.setEntryBits a (withKind e 4)
      let s := { s with mmu := { s.mmu with migrating := s.mmu.migrating ++ [(a, e)] } }
      if all then s else s.invalidate false l.va l.size
    | _ => s

/-- R281, R282: a page's migration begins, unless an invalidation is still draining or the image declares it resident. -/
def State.migrateBegin (s : State) (va : Nat) : State :=
  if s.flag MMU_STATUS.INV_BUSY then s
  else
    match s.lookup va with
    | .leaf l => if s.declaredResident l then s else s.holdPage va false
    | _ => s

def State.dropMigrating (s : State) (a : Nat) : State :=
  { s with mmu := { s.mmu with migrating := s.mmu.migrating.filter (fun m => m.1 != a) } }

/-- R452: a VARIANT_LOAD holds the page of an entry. -/
def State.variantHolds (s : State) (a : Nat) : Bool :=
  match s.serve.loading with
  | some (_, _, _, held) => held.any (fun h => h.1 == a)
  | none => false

/-- R281, R282: with no old access left, the frame is copied to its new place and the new leaf written; but for a page that the
image declares resident, or that a VARIANT_LOAD holds. -/
def State.migrateEnd (s : State) (va : Nat) (entry : BitVec 64) : State :=
  match s.leafOf va with
  | none => s
  | some (level, a) =>
    match s.mmu.migrating.find? (fun m => m.1 == a) with
    | none => s
    | some (_, old) =>
      match s.walkEntry level va old, s.walkEntry level va entry with
      | .leaf l, .leaf l' =>
        if s.flag MMU_STATUS.INV_BUSY || s.variantHolds a || s.declaredResident l || !s.leafUp l || !s.leafUp l' then s
        else
          let r := s.frameBytes l
          let s := (r.2.clearFrame l').putFrame l' r.1
          (s.setEntryBits a entry).dropMigrating a
      | _, _ => s

/-- R281, R282: with no old access left, the page is marked ABSENT; but for one that the image declares resident, or that a
VARIANT_LOAD holds. -/
def State.evict (s : State) (va : Nat) : State :=
  match s.leafOf va with
  | none => s
  | some (level, a) =>
    match s.mmu.migrating.find? (fun m => m.1 == a) with
    | none => s
    | some (_, old) =>
      let declared := match s.walkEntry level va old with | .leaf l => s.declaredResident l | _ => false
      if s.flag MMU_STATUS.INV_BUSY || s.variantHolds a || declared then s
      else (s.setEntryBits a (withKind old 5)).dropMigrating a

/-- R281: the lines that a page which becomes resident, or moves, is read from and written to, before its entry. -/
def State.pageTouches (s : State) (va : Nat) (entry : BitVec 64) : List FwTouch :=
  match s.leafOf va with
  | none => []
  | some (level, a) =>
    let old := match s.mmu.migrating.find? (fun m => m.1 == a) with
      | some (_, e) => (match s.walkEntry level va e with | .leaf l => l.touches true | _ => [])
      | none => []
    let new := match s.walkEntry level va entry with | .leaf l => l.touches false | _ => []
    old ++ new ++ [.line (a / 64 * 64)]

/-- The entry of the page at an address, as the line that its write takes. -/
def State.entryLine (s : State) (va : Nat) : List Nat := (s.leafOf va).toList.map (fun e => e.2 / 64 * 64)

/-! ## Pages of a port whose device lost its memory -/

/-- Indices of the entries of a table that are not zero. -/
def State.listedEntries (s : State) (table size : Nat) : List Nat :=
  (s.hbm.mem.filter (fun e => decide (table ≤ e.1) && decide (e.1 < table + size))).map (fun e => (e.1 - table) / 8)
    |>.eraseDups

/-- Leaves of a port's pages, below a table: a page's first address, and the packed address of its entry. -/
def State.portLeaves (s : State) (port : Nat) : Nat → Nat → Nat → Nat → List (Nat × Nat)
  | 0, _, _, _ => []
  | fuel + 1, level, table, base =>
    let size := match level with | 0 | 1 => 8192 | 2 => 16384 | _ => 256
    (s.listedEntries table size).flatMap (fun i =>
      let a := table + 8 * i
      let va := base + i * (match level with | 0 => 2 ^ 42 | 1 => 2 ^ 32 | 2 => 2 ^ 21 | _ => 2 ^ 16)
      let e := BitVec.ofNat 64 (leNat (s.hbmBytes a 8))
      if bitsAt e.toNat 0 3 = 3 && decide (2 ≤ level) && bitsAt e.toNat 8 3 == port then [(va, a)]
      else
        match s.walkEntry level 0 e with
        | .table t => State.portLeaves s port fuel (level + 1) t va
        | _ => [])

/-- R271, R282: the page of an entry may be marked ABSENT: the image does not declare it resident. One whose frame lies past the
device's capacity has no leaf. -/
def State.mayLose (s : State) (va : Nat) : Bool :=
  match s.lookup va with
  | .leaf l => !s.declaredResident l
  | .error => !s.declaredResident ⟨va, 65536, false, true, false, 0, 0, 0⟩
  | _ => false

/-- R271, R281: a page of the port is held MIGRATING; one whose entry is a table error, which no translation holds, is marked
ABSENT. -/
def State.losePage (s : State) (va a : Nat) : State :=
  match s.lookup va with
  | .leaf _ => s.holdPage va true
  | _ => s.setEntryBits a (withKind (s.entryBits a) 5)

/-- R271, R279, R281, R282: the pages of a port whose device lost its memory are held MIGRATING, as many as the window has
room for, but for those the image declares resident, and with the last of them every translation is invalidated; the
firmware then marks each ABSENT. None where it must wait. -/
def State.portAbsent (s : State) (port : Nat) : Option State :=
  if !s.mmu.absentDue.contains port then some s
  else if s.flag MMU_STATUS.INV_BUSY then none
  else
    let pages := (s.portLeaves port 4 0 s.rootTable 0).filter (fun e => s.mayLose e.1)
    let r := pages.foldl (fun (p : Bool × State) e =>
      if p.1 then p
      else match p.2.holdLine e.2 with
        | none => (true, p.2)
        | some t => (false, t.losePage e.1 e.2)) (false, s)
    if r.1 then some r.2
    else
      let t := { r.2 with mmu := { r.2.mmu with absentDue := r.2.mmu.absentDue.filter (fun p => p != port) } }
      some (t.invalidate true 0 0)

/-! ## Slices -/

/-- Write bytes of a slice from a byte address, testing and changing no tag (R42, R444). -/
def State.putSlice (s : State) (rgn a : Nat) (b : List Byte) : State :=
  let r := s.region rgn
  let lines := (List.range ((a + b.length + 63) / 64 - a / 64)).map (fun i => a / 64 + i)
  s.setRegion rgn (lines.foldl (fun (g : RegionSt) l =>
    let lo := max a (64 * l)
    let hi := min (a + b.length) (64 * l + 64)
    g.putLine l (lo - 64 * l) ((b.drop (lo - a)).take (hi - lo))) r)

/-- R248: lines of a slice are read: those with an uncorrectable error are reported and logged. -/
def State.checkLines (s : State) (rgn line n : Nat) : State :=
  (List.range n).foldl (fun (t : State) i =>
    if (t.region rgn).badLines.contains (line + i) then t.spadError rgn (line + i) else t) s

/-- R222, R248: the bytes of whole lines of a slice, all ones in a line with an uncorrectable error. -/
def State.readLines (s : State) (rgn line n : Nat) : List Byte :=
  let r := s.region rgn
  (List.range n).flatMap (fun i => if r.badLines.contains (line + i) then allOnes 64 else r.line (line + i))

end Sys2Proof.Machine
end

