-- ==== Sys2Proof/Machine/ServeOps.lean ====
section
/-! DEFINITION. Contexts and serving (R433 to R467): context entries and their ends, the step table and the row mask, row
loads, KV maps, and the commit of a row. -/
namespace Sys2Proof.Machine

/-! ## Context entries (R434) -/

def eget (b : List Byte) (f : Nat × Nat) : Nat := leAt b f.1 f.2
def eput (b : List Byte) (f : Nat × Nat) (v : Nat) : List Byte := putAt b f.1 (leBytes f.2 v)

def enState : Nat × Nat := (0x00, 1)
def enFlags : Nat × Nat := (0x01, 1)
def enPriority : Nat × Nat := (0x02, 1)
def enStatus : Nat × Nat := (0x03, 1)
def enCommitted : Nat × Nat := (0x04, 4)
def enCounter : Nat × Nat := (0x08, 8)
def enOutHead : Nat × Nat := (0x10, 4)
def enReruns : Nat × Nat := (0x14, 1)
def enDeadline : Nat × Nat := (0x18, 8)
def enLastStep : Nat × Nat := (0x20, 8)
def enFaultVa : Nat × Nat := (0x28, 8)
def enLastToken : Nat × Nat := (0x30, 4)
def enSeed : Nat × Nat := (0x40, 8)
def enKvMap : Nat × Nat := (0x48, 8)
def enOutBase : Nat × Nat := (0x50, 8)
def enOutEntries : Nat × Nat := (0x58, 4)
def enVariant : Nat × Nat := (0x5C, 4)
def enMaxLen : Nat × Nat := (0x60, 4)
def enPromptLen : Nat × Nat := (0x64, 4)
def enPrompt : Nat × Nat := (0x68, 8)
def enHostTag : Nat × Nat := (0x70, 8)

def ctxFree : Nat := 0
def ctxReady : Nat := 1
def ctxActive : Nat := 2
def ctxParked : Nat := 3
def ctxEnded : Nat := 4

def enCancelled (b : List Byte) : Bool := bitAt (eget b enFlags) 0
def enRerun (b : List Byte) : Bool := bitAt (eget b enFlags) 1
def enSpec (b : List Byte) : Bool := bitAt (eget b enFlags) 2
def setCancel (b : List Byte) : List Byte := eput b enFlags (bitsPut (eget b enFlags) 0 1 1)
def setRerun (b : List Byte) (v : Bool) : List Byte := eput b enFlags (bitsPut (eget b enFlags) 1 1 (bnat v))

/-- R433: address of an entry. -/
def State.ctxTable (s : State) : Nat := s.fld CTX_TABLE_HI.VA_HI * 2 ^ 32 + s.fld CTX_TABLE_LO.VA_LO * 2 ^ 21
def State.ctxAddr (s : State) (n : Nat) : Nat := s.ctxTable + 128 * n

def State.ctxEntry (s : State) (n : Nat) : List Byte := ((s.vaRead (s.ctxAddr n) 128 []).1).getD (List.replicate 128 0)
def State.ctxState (s : State) (n : Nat) : Nat := eget (s.ctxEntry n) enState
/-- R435: the firmware writes an entry. -/
def State.setCtx (s : State) (n : Nat) (b : List Byte) : State := s.vaStore (s.ctxAddr n) b false

/-- R433: entries that are not FREE, ascending; each 2 MiB page of the table holds 16,384. -/
def State.ctxUsed (s : State) : List Nat :=
  (List.range 16).flatMap (fun p =>
    match s.translate (s.ctxAddr (16384 * p)) with
    | .leaf l => (List.range 16384).filterMap (fun i =>
        let n := 16384 * p + i
        match l.place (s.ctxAddr n) with
        | .hbm _ => if s.vaByte l (s.ctxAddr n) = 0 then none else some n
        | .cxl _ _ => none)
    | _ => [])

/-! ## Ends (R439, R440) -/

/-- R439: the status with which a context ends. -/
def endStatus (b : List Byte) (st : Nat) : Nat := if enCancelled b then stCancelled else st

/-- R439: an entry that ends; its completion entry takes the place that OUT_HEAD gives. -/
def endedEntry (b : List Byte) (st : Nat) : List Byte :=
  eput (eput (eput b enState ctxEnded) enStatus (endStatus b st)) enOutHead (eget b enOutHead + 1)

/-- R440: address of the ring entry `k`. -/
def ringAddr (b : List Byte) (k : Nat) : Nat := eget b enOutBase + 8 * (k % eget b enOutEntries)

/-- R440: an output entry: token and position. -/
def ringEntry (token pos : Nat) : List Byte := leBytes 4 token ++ leBytes 4 pos

/-- R440: the completion entry of a context that ends is written, or lost where its page is not RES_HBM. -/
def State.completion (s : State) (b : List Byte) (st : Nat) : State :=
  let a := ringAddr b (eget b enOutHead)
  if s.resHbm a 8 then s.vaStore a (ringEntry (endStatus b st) 0xFFFFFFFF) true else s

/-- R439, R440: the firmware ends a context. -/
def State.endContext (s : State) (n st : Nat) : State :=
  let b := s.ctxEntry n
  let s := { s with serve := { s.serve with listed := s.serve.listed.filter (fun e => e.1 != n) } }
  (s.setCtx n (endedEntry b st)).completion b st

/-! ## The step table and the row mask (R442 to R446) -/

def causeLive : Nat := 0
def causeEmpty : Nat := 1
def causeCancel : Nat := 2
def causeDeadline : Nat := 3
def causeRowFault : Nat := 4
def causeAbort : Nat := 5
def causeRecord : Nat := 6

def State.row (s : State) (r : Nat) : StepRow := sget {} s.serve.rows r
def StepRow.isLive (x : StepRow) : Bool := x.occupied && x.cause == causeLive

/-- R442, R445: change a row; a change of its liveness is on its way to the regions for 16 cycles. -/
def State.setRow (s : State) (r : Nat) (x : StepRow) : State :=
  let old := s.row r
  let t := { s with serve := { s.serve with rows := sset {} s.serve.rows r x } }
  if old.isLive == x.isLive then t
  else { t with serve := { t.serve with changes := t.serve.changes ++ [⟨s.now + 16, r, x.isLive⟩] } }

/-- R445: a live row is masked with a cause. -/
def State.maskRow (s : State) (r cause : Nat) : State :=
  let x := s.row r
  if x.isLive then s.setRow r { x with cause := cause } else s

/-- R445: a change of a row's liveness reaches the regions. -/
def State.applyMask (s : State) (c : MaskChange) : State :=
  s.each s.regionsOn (fun n t =>
    let g := t.region n
    let l := g.live.filter (fun k => k != c.row)
    t.setRegion n { g with live := if c.live then l ++ [c.row] else l })

/-- R445: the oldest change reaches the regions, 16 cycles after it was made. -/
def State.landMask (s : State) : State :=
  match s.serve.changes with
  | [] => s
  | c :: r => ({ s.at_ c.due with serve := { s.serve with changes := r } }).applyMask c

/-- R47: changes made in the window reach the regions before the first cycle of the span. -/
def State.landMasks (s : State) (l : List MaskChange) : State :=
  l.foldl (fun (t : State) c => t.applyMask c) { s with serve := { s.serve with changes := [] } }

/-- R444, R464: where the row block lies: physical region and first line. -/
def State.rowBlock (s : State) : Option (Nat × Nat) :=
  (s.physOf (s.fld CTX_ROWBLK.VREG)).map (fun n => (n, s.fld CTX_ROWBLK.LINE))

/-- R444: write a row's byte of the row-mask tensor, which follows the row block. -/
def State.putMaskByte (s : State) (r cause : Nat) : State :=
  match s.rowBlock with
  | none => s
  | some (n, line) => s.putSlice n (64 * (line + 4096) + r) [BitVec.ofNat 8 cause]

/-- R444, R446: the firmware masks a row. -/
def State.fwMask (s : State) (r cause : Nat) : State :=
  if (s.row r).isLive then (s.maskRow r cause).putMaskByte r cause else s

/-- R458: DEADLINE_CHECK. -/
def State.deadlineCheck (s : State) : State :=
  s.serve.rows.foldl (fun t e =>
    if s.flag CTX_CTRL.EN && e.2.isLive && e.2.deadline != 0 && decide (e.2.deadline ≤ s.pickNo) then
      (t.maskRow e.1 causeDeadline).count CTX_MASK_STAT.DEADLINES
    else t) s

/-- R444: a row-block line: of a row that holds a context, from its entry; of another row, its cause alone. -/
def rowLine (x : StepRow) (cause : Nat) (b : List Byte) : List Byte :=
  if x.occupied then
    padTo 64 (leBytes 4 (x.ctx + 2 ^ 31) ++ leBytes 4 cause ++ leBytes 4 (eget b enCommitted)
      ++ leBytes 4 (eget b enLastToken) ++ leBytes 8 (eget b enCounter) ++ leBytes 8 (eget b enSeed)
      ++ leBytes 8 (eget b enDeadline) ++ leBytes 4 (eget b enVariant) ++ leBytes 4 (eget b enMaxLen)
      ++ leBytes 4 (eget b enPromptLen) ++ leBytes 4 0 ++ leBytes 8 (eget b enPrompt))
  else padTo 64 (leBytes 4 0 ++ leBytes 1 causeEmpty)

def State.putRowLine (s : State) (r : Nat) (line : List Byte) : State :=
  match s.rowBlock with
  | none => s
  | some (n, l) => s.putSlice n (64 * (l + r)) line

/-- R444: LOAD_IMAGE writes every line of the row block and every byte of the row-mask tensor. -/
def State.clearRowBlock (s : State) : State :=
  match s.rowBlock with
  | none => s
  | some (n, l) =>
    let s := (List.range 4096).foldl (fun (t : State) r => t.putSlice n (64 * (l + r)) (rowLine {} 0 [])) s
    s.putSlice n (64 * (l + 4096)) (List.replicate 4096 (BitVec.ofNat 8 causeEmpty))

/-- R442: batch rows. -/
def State.batch (s : State) : Nat := match s.serve.image with | some m => m.batch | none => 0

/-- R437: an image with a SERVING section is loaded. -/
def State.serving (s : State) : Bool := s.mail.image.isSome && s.serve.image.isSome

/-- The row a context occupies. -/
def State.rowOf (s : State) (n : Nat) : Option Nat :=
  (s.serve.rows.find? (fun e => e.2.occupied && e.2.ctx == n)).map (fun e => e.1)

/-! ## KV maps (R449) -/

def ceilTo64 (n : Nat) : Nat := (n + 63) / 64 * 64

/-- The header of a KV map: lists, entries per list, bytes of a key, and positions to a frame (R306). -/
structure KvMap where
  lists : Nat
  pages : Nat
  size  : Nat
  per   : Nat
  deriving DecidableEq, Repr

def kvMapOf (h : List Byte) : KvMap :=
  let kvf := leAt h 8 1
  let size := (if bitAt kvf 2 then 128 else 64) * (if kvf % 4 = 0 then 2 else 1)
  ⟨leAt h 4 2 * leAt h 6 2, leAt h 0xC 4, size, 32768 / size⟩

/-- R438: what CTX_CREATE requires of the header. -/
def kvHeaderBad (h : List Byte) : Bool :=
  leAt h 0 4 != 1 || leAt h 4 2 == 0 || decide (256 < leAt h 4 2) || leAt h 6 2 == 0 || decide (64 < leAt h 6 2)
    || leAt h 8 1 % 4 == 3 || decide (8 ≤ leAt h 8 1)

/-- Address of list `i`, and bytes of the whole map. -/
def KvMap.listAt (m : KvMap) (i : Nat) : Nat := 0x40 + ceilTo64 (4 * m.lists) + i * ceilTo64 (4 * m.pages)
def KvMap.bytes (m : KvMap) : Nat := m.listAt m.lists

def State.kvHeader (s : State) (b : List Byte) : Option (List Byte) := (s.vaRead (eget b enKvMap) 64 []).1

/-- R442: the map covers positions up to `p`. -/
def State.kvCovers (s : State) (b : List Byte) (p : Nat) : Bool :=
  match s.kvHeader b with
  | none => false
  | some h => decide (p < (kvMapOf h).pages * (kvMapOf h).per)

/-- R306, R449: packed address of the frame that an entry of a list names, or the address at which reading it faults. -/
def State.kvFrame (s : State) (map : Nat) (m : KvMap) (i page : Nat) : Except Nat Nat :=
  let placeAt := map + 0x40 + 4 * i
  let entryAt := map + m.listAt i + 4 * page
  if m.pages ≤ page then .error (map + m.listAt i)
  else
    match (s.vaRead placeAt 4 []).1, (s.vaRead entryAt 4 []).1 with
    | none, _ => .error placeAt
    | _, none => .error entryAt
    | some p, some e =>
      let a := packHbm (leNat p % 16) (leNat p / 16 % 32) (leNat e % 2 ^ 20 * 2048)
      if hbmExists a 65536 then .ok a else .error entryAt

/-- The frames of a context's pages, list by list. -/
def State.kvFrames (s : State) (b : List Byte) : List Nat :=
  match s.kvHeader b with
  | none => []
  | some h =>
    let m := kvMapOf h
    (List.range m.lists).flatMap (fun i => (List.range m.pages).filterMap (fun p =>
      match s.kvFrame (eget b enKvMap) m i p with
      | .ok a => some a
      | .error _ => none))

/-- R263, R287: the lists of a context's KV map are read. -/
def State.noteMap (s : State) (b : List Byte) : State :=
  let s := s.noteAccess .firmware (eget b enKvMap) 64 false false
  match s.kvHeader b with
  | none => s
  | some h => s.noteAccess .firmware (eget b enKvMap + 64) ((kvMapOf h).bytes - 64) false false

/-- R449: what a frame holds, by offset. -/
def State.frameHeld (s : State) (a : Nat) : List (Nat × Byte) :=
  (s.hbm.mem.filter (fun e => decide (a ≤ e.1) && decide (e.1 < a + 65536))).map (fun e => (e.1 - a, e.2))

/-- R449: a READY context is parked: its frames are copied out and given back. -/
def State.park (s : State) (n : Nat) : State :=
  let b := s.ctxEntry n
  if eget b enState != ctxReady then s
  else
    let s := s.noteMap b
    let frames := s.kvFrames b
    let s := { s with serve := { s.serve with
      parked := sset [] s.serve.parked n (frames.map s.frameHeld), freed := sset [] s.serve.freed n frames } }
    s.setCtx n (eput b enState ctxParked)

/-- R449: a parked context comes back: its frames, as its map then names them, are filled. -/
def State.unpark (s : State) (n : Nat) : State :=
  let b := s.ctxEntry n
  if eget b enState != ctxParked then s
  else
    let s := s.noteMap b
    let frames := (s.kvFrames b).zip (sget [] s.serve.parked n)
    let s := frames.foldl (fun (t : State) f =>
      let t := { t with hbm := { t.hbm with
        mem := sfilter t.hbm.mem (fun a => !(decide (f.1 ≤ a) && decide (a < f.1 + 65536)))
        badLines := t.hbm.badLines.filter (fun a => !(decide (f.1 ≤ a) && decide (a < f.1 + 65536))) } }
      f.2.foldl (fun (u : State) e => u.hbmWrite (f.1 + e.1) [e.2]) t) s
    let s := { s with serve := { s.serve with
      parked := sset [] s.serve.parked n [], freed := sset [] s.serve.freed n [] } }
    s.setCtx n (eput b enState ctxReady)

/-! ## Row loads (R332, R442, R443) -/

/-- R443: rows whose context is no longer ACTIVE are unloaded. -/
def State.unloadRows (s : State) : State :=
  s.serve.rows.foldl (fun (t : State) e =>
    if e.2.occupied && s.ctxState e.2.ctx != ctxActive then t.setRow e.1 {} else t) s

/-- R457, R332: contexts whose commit met a fault are listed for re-run, or end as cancelled. -/
def State.listCommitFaults (s : State) : State :=
  s.serve.commitFaults.foldl (fun (t : State) f =>
    let b := t.ctxEntry f.1
    if eget b enState != ctxActive then t
    else if enCancelled b then t.endContext f.1 stCancelled
    else t.setCtx f.1 (eput (setRerun b true) enState ctxReady)) s

/-- R332: a context newly listed for re-run: its count at the fault's address, and the pages it waits for; the fourth fault at
one address ends it. -/
def State.listRerun (s : State) (pages faults : List Nat) (n : Nat) : State :=
  let b := s.ctxEntry n
  let own := (s.serve.commitFaults.filter (fun f => f.1 == n)).map (fun f => f.2)
  let wait (s : State) : State :=
    { s with serve := { s.serve with listed := s.serve.listed ++ [(n, own ++ pages)] } }
  match own ++ pages ++ faults with
  | [] => wait s
  | a :: _ =>
    let va := a % 2 ^ 52
    let k := if eget b enFaultVa = va && eget b enReruns != 0 then eget b enReruns + 1 else 1
    if 3 < k then s.endContext n stFault
    else wait (s.setCtx n (eput (eput b enReruns k) enFaultVa va))

/-- An address lies in a range. -/
def inRange (lo n a : Nat) : Bool := decide (lo ≤ a) && decide (a < lo + n)

/-- R437, R438, R449, R450: an address lies in what a context alone has of memory: its KV map, its output ring, its prompt, its
variant's blocks. -/
def State.ownMemory (s : State) (n a : Nat) : Bool :=
  let b := s.ctxEntry n
  (match s.kvHeader b with | some h => inRange (eget b enKvMap) (kvMapOf h).bytes a | none => false)
    || inRange (eget b enOutBase) (8 * eget b enOutEntries) a || inRange (eget b enPrompt) (4 * eget b enPromptLen) a
    || (match s.serve.image with
        | some m => inRange (m.variantBase + eget b enVariant * m.layers * 8192) (m.layers * 8192) a
        | none => false)

/-- R332: a record of the step may be one of a context's: its address lies in memory of its own, or of no other context (DESIGN
CHOICE, notes/assumptions/74.md: no rule says which context a record belongs to). -/
def State.mayBeOf (s : State) (n a : Nat) : Bool :=
  s.ownMemory n a || (s.ctxUsed.filter (fun m => m != n)).all (fun m => !s.ownMemory m a)

/-- R332: at the end of a step, the contexts masked for a fault are listed, and listed contexts wait for their pages. -/
def State.listReruns (s : State) : State :=
  let s := s.listCommitFaults
  let new := s.ctxUsed.filter (fun n =>
    let b := s.ctxEntry n
    eget b enState == ctxReady && enRerun b && !s.serve.listed.any (fun e => e.1 == n))
  let s := new.foldl (fun (t : State) n =>
    t.listRerun (s.serve.stepPages.filter (s.mayBeOf n)) (s.serve.stepFaults.filter (s.mayBeOf n)) n) s
  let resident (a : Nat) : Bool := match s.translate a with | .leaf _ => true | _ => false
  { s with serve := { s.serve with
    stepPages := [], stepFaults := [], commitFaults := []
    listed := s.serve.listed.map (fun e => (e.1, e.2.filter (fun a => !resident a))) } }

/-- R332, R483: a READY context may be placed as far as re-runs and a swap go. -/
def State.notHeld (s : State) (n : Nat) (b : List Byte) : Bool :=
  !s.serve.listed.any (fun e => e.1 == n && !e.2.isEmpty)
    && !((match s.weights.op with | some o => o.swap | none => false) && eget b enLastStep % 2 ^ 48 == 0)

/-- R439: the context's next step would pass MAX_LEN. -/
def exhausted (b : List Byte) : Bool :=
  decide (eget b enMaxLen < eget b enCommitted + (if enSpec b then 64 else 1))

/-- R442: the order in which contexts are placed, as a key compared field by field. -/
def placeKey (n : Nat) (b : List Byte) : List Nat :=
  let d := eget b enDeadline % 2 ^ 48
  [bnat (!enRerun b), 7 - eget b enPriority % 8, bnat (d == 0), d, n]

def keyLe : List Nat → List Nat → Bool
  | a :: r, b :: q => decide (a < b) || (a == b && keyLe r q)
  | _, _ => true

/-- R442: a context goes into a row. -/
def State.placeRow (s : State) (r n : Nat) (b : List Byte) : State :=
  let s := s.setCtx n (eput (setRerun b false) enState ctxActive)
  let s := { s with serve := { s.serve with listed := s.serve.listed.filter (fun e => e.1 != n) } }
  s.setRow r { occupied := true, ctx := n, cause := causeLive, committed := eget b enCommitted
               deadline := eget b enDeadline % 2 ^ 48 }

/-- R442, R443: contexts due for a row that would pass MAX_LEN end; free rows are filled. -/
def State.fillRows (s : State) : State :=
  let due := (s.ctxUsed.map (fun n => (n, s.ctxEntry n))).filter (fun e =>
    eget e.2 enState == ctxReady && s.notHeld e.1 e.2)
  let s := (due.filter (fun e => exhausted e.2)).foldl (fun (t : State) e => t.endContext e.1 stExhausted) s
  let ready := due.filter (fun e => !exhausted e.2
    && s.kvCovers e.2 (eget e.2 enCommitted + (if enSpec e.2 then 63 else 0)))
  let order := ready.mergeSort (fun a b => keyLe (placeKey a.1 a.2) (placeKey b.1 b.2))
  let free := (List.range s.batch).filter (fun r => !(s.row r).occupied)
  (free.zip order).foldl (fun (t : State) e => t.placeRow e.1 e.2.1 e.2.2) s

/-- R439, R443: a context that would keep its row and whose next step would pass MAX_LEN ends. -/
def State.endExhausted (s : State) : State :=
  s.serve.rows.foldl (fun (t : State) e =>
    let b := t.ctxEntry e.2.ctx
    if e.2.occupied && eget b enState == ctxActive && exhausted b then t.endContext e.2.ctx stExhausted else t) s

/-- R462, R467: ACTIVE contexts return to READY. -/
def State.readyAll (s : State) : State :=
  (s.ctxUsed.filter (fun n => s.ctxState n == ctxActive)).foldl (fun (t : State) n =>
    t.setCtx n (eput (t.ctxEntry n) enState ctxReady)) s

/-- R462, R467: after a fence or a reset of D3 the firmware returns ACTIVE contexts to READY before it loads any row. -/
def State.recoverRows (s : State) : State :=
  if s.serve.recover then { s.readyAll with serve := { s.readyAll.serve with recover := false } } else s

/-- R443: a row load happens: the module serves, and no block is running. -/
def State.loadsRows (s : State) : Bool := s.serving && s.flag CTX_CTRL.EN && s.serve.running.isNone

/-- R443: the rows that stay occupied from one step to the next. -/
def State.keptRows (s : State) : List Nat :=
  (List.range s.batch).filter (fun r => (s.row r).occupied && s.ctxState (s.row r).ctx == ctxActive
    && !exhausted (s.ctxEntry (s.row r).ctx) && !s.serve.commitFaults.any (fun f => f.1 == (s.row r).ctx))

/-- R263, R287: a row load reads the entries in use, and the header of the KV map of each that is READY. -/
def State.noteEntries (s : State) : State :=
  s.ctxUsed.foldl (fun (t : State) n =>
    let t := t.noteAccess .firmware (s.ctxAddr n) 128 false false
    if s.ctxState n = ctxReady then t.noteAccess .firmware (eget (s.ctxEntry n) enKvMap) 64 false false else t) s

/-- R443: a row load. -/
def State.rowLoad (s : State) : State :=
  if !s.loadsRows then s
  else
    let s := s.recoverRows.noteEntries
    let kept := s.keptRows
    let s := s.listReruns.endExhausted.unloadRows.fillRows
    let s := ((List.range s.batch).filter (fun r => !kept.contains r)).foldl (fun (t : State) r =>
      t.putRowLine r (rowLine (t.row r) (t.row r).cause (t.ctxEntry (t.row r).ctx))) s
    let s := (List.range s.batch).foldl (fun (t : State) r => t.putMaskByte r (t.row r).cause) s
    s.addObj 90 1

/-! ## Commit (R453 to R457) -/

/-- R454: the commit block: physical region and the line of its header. -/
def State.commitAt (s : State) : Option (Nat × Nat) :=
  (s.physOf (s.fld CTX_COMMITBLK.VREG)).map (fun n => (n, s.fld CTX_COMMITBLK.LINE))
def State.commitHeader (s : State) : List Byte :=
  match s.commitAt with
  | some (n, l) => s.readLines n l 1
  | none => List.replicate 64 0
/-- R454: the eight lines of a row's record. -/
def State.commitRecord (s : State) (r : Nat) : List Byte :=
  match s.commitAt with
  | some (n, l) => s.readLines n (l + 4 + 8 * r) 8
  | none => List.replicate 512 0

def recStep (b : List Byte) : Nat := leAt b 0 8
def recPath (b : List Byte) : Nat := leAt b 8 8
def recEnd (b : List Byte) : Bool := bitAt (leAt b 0x18 1) 0
def recFault (b : List Byte) : Bool := bitAt (leAt b 0x18 1) 1
def recPrefill (b : List Byte) : Bool := bitAt (leAt b 0x18 1) 2
def recNtok (b : List Byte) : Nat := leAt b 0x19 1
def recToken (b : List Byte) (k : Nat) : Nat := leAt b (64 + 4 * k) 4

/-- R461: the accepted nodes, ascending. -/
def pathNodes (path : Nat) : List Nat := (List.range 64).filter (fun n => bitAt path n)

/-- R455: positions the record commits. -/
def recAdvance (b : List Byte) : Nat := if recPrefill b then leAt b 0x1C 4 else (pathNodes (recPath b)).length

/-- R454: a record is bad. -/
def recBad (b : List Byte) (committed maxLen : Nat) : Bool :=
  leAt b 0x18 1 / 8 != 0 || leAt b 0x1A 2 != 0 || leAt b 0x20 32 != 0 || leAt b 320 192 != 0
    || !bitAt (recPath b) 0
    || (if recPrefill b then recPath b != 1 || recNtok b != 1 || leAt b 0x1C 4 == 0
        else recNtok b != (pathNodes (recPath b)).length)
    || decide (maxLen < committed + recAdvance b)

/-- R461: the moves of COMMIT_PATH, as source and destination positions. -/
def pathMoves (committed path : Nat) : List (Nat × Nat) :=
  let n := pathNodes path
  ((List.range n.length).zip n).filterMap (fun e =>
    if e.1 = 0 || e.2 = e.1 then none else some (committed + e.2, committed + e.1))

/-- R263, R306: the placement record and the list entry of a page are read. -/
def State.noteFrame (s : State) (map : Nat) (m : KvMap) (i page : Nat) : State :=
  if m.pages ≤ page then s
  else (s.noteAccess .context (map + 0x40 + 4 * i) 4 false false).noteAccess .context (map + m.listAt i + 4 * page) 4 false false

/-- R260, R262, R455, R461: copy the key and the value of a position to another in one list, line by line; the address at which
it faults, if any. -/
def State.moveKv (s : State) (map : Nat) (m : KvMap) (i src dst : Nat) : Option Nat × State :=
  let s := (s.noteFrame map m i (src / m.per)).noteFrame map m i (dst / m.per)
  match s.kvFrame map m i (src / m.per), s.kvFrame map m i (dst / m.per) with
  | .ok a, .ok b =>
    let a := a + src % m.per * m.size
    let b := b + dst % m.per * m.size
    let move (t : State) (x y : Nat) : State := (List.range (m.size / 64)).foldl (fun (u : State) i =>
      (u.hbmAccess .context (x + 64 * i) none).hbmAccess .context (y + 64 * i)
        (some ((List.range 64).map (fun j => u.hbmByte (x + 64 * i + j))))) t
    (none, move (move s a b) (a + 32768) (b + 32768))
  | .error x, _ => (some x, s)
  | _, .error x => (some x, s)

/-- R455: COMMIT_PATH over every list. -/
def State.commitPath (s : State) (b : List Byte) (moves : List (Nat × Nat)) : Option Nat × State :=
  if moves.isEmpty then (none, s)
  else
    let map := eget b enKvMap
    let s := s.noteAccess .context map 64 false false
    match s.kvHeader b with
    | none => (some map, s)
    | some h =>
      let m := kvMapOf h
      ((List.range m.lists).flatMap (fun i => moves.map (fun e => (i, e)))).foldl
        (fun (r : Option Nat × State) e =>
          match r.1 with
          | some _ => r
          | none => r.2.moveKv map m e.1 e.2.1 e.2.2) (none, s)

/-- R440, R455: the record's tokens go into the ring. The serving control reaches no CXL page (R269): one faults it. -/
def State.commitTokens (s : State) (b rcd : List Byte) (first : Nat) : Option Nat × State :=
  (List.range (recNtok rcd)).foldl (fun (r : Option Nat × State) k =>
    match r.1 with
    | some _ => r
    | none =>
      let a := ringAddr b (eget b enOutHead + k)
      if !r.2.resHbm a 8 then (some a, r.2)
      else
        let w := r.2.vaWrite a (ringEntry (recToken rcd k) (first + k)) true
        (if w.1 then none else some a, w.2)) (none, s)

/-- R455: the commit line of a row that advances. -/
def State.advancedLine (s : State) (b rcd : List Byte) (committed : Nat) : List Byte :=
  let b := eput b enCommitted (committed + recAdvance rcd)
  let b := eput b enCounter (leAt rcd 0x10 8)
  let b := eput b enOutHead (eget b enOutHead + recNtok rcd)
  let b := eput b enLastToken (recToken rcd (recNtok rcd - 1))
  eput b enLastStep s.pickNo

/-- R457: the row's commit meets a fault: its line stays unwritten and the firmware is told. -/
def State.commitFault (s : State) (r n va : Nat) (write : Bool) : State :=
  let s := s.recordFault .context va write (s.vaCause va == causeAccess)
  let s := s.maskRow r causeRowFault
  let s := if s.vaCause va == causeAbsent then s.askPage va else s
  { s with serve := { s.serve with commitFaults := s.serve.commitFaults ++ [(n, va)] } }

/-- R439: status of a masked row's context. -/
def rowStatus (cause : Nat) : Nat :=
  match cause with
  | 2 => stCancelled
  | 3 => stDeadline
  | 6 => stBadArg
  | _ => stFault

/-- R455, R456, R466: the end of a row's commit: its line as one write, the count of a row that advanced (`live`), the completion
entry of a context that ended, the row and its row-block line. -/
def State.endCommit (s : State) (r n : Nat) (b : List Byte) (st : Option Nat) (live : Bool) : State :=
  let line := match st with | some v => endedEntry b v | none => b
  let w := s.vaWrite (s.ctxAddr n) (line.take 64) true
  if !w.1 then s.commitFault r n (s.ctxAddr n) true
  else
    let s := if live then w.2.count CTX_STAT.COMMITTED else w.2
    let s := match st with | some v => s.completion b v | none => s
    let x := { s.row r with committed := eget line enCommitted }
    let s := (s.setRow r x).putRowLine r (rowLine x causeLive line)
    if eget line enState = ctxActive then s else s.setRow r { x with cause := causeEmpty }

/-- R230, R457: the port of a line that the serving control needs is claimed by its region. -/
def State.linesClaimed (s : State) (at_ : Option (Nat × Nat)) (first n : Nat) (write : Bool) : Option Nat :=
  match at_ with
  | none => none
  | some (rgn, line) => if (List.range n).any (fun i => s.portClaimed rgn (bankOf (line + first + i)) write) then some rgn else none

/-- R228, R229, R457: the serving control may use the ports of a slice: its region runs no word that claims one in this cycle,
and is not stopped for a frequency step. -/
def State.linesFree (s : State) (at_ : Option (Nat × Nat)) (first n : Nat) (write : Bool) : Bool :=
  match at_ with
  | none => true
  | some (rgn, _) => (s.region rgn).clk.stepEnd.isNone
    && (s.linesClaimed at_ first n write).isNone

/-- R248, R457: the read of a row's record reports what its lines' code finds. -/
def State.checkRecord (s : State) (r : Nat) : State :=
  match s.commitAt with
  | some (n, l) => s.checkLines n (l + 4 + 8 * r) 8
  | none => s

/-- R455: a row commits; `cause` is its cause when its commit began. -/
def State.commitRow (s : State) (step r cause : Nat) : State :=
  let x := s.row r
  let n := x.ctx
  let b := s.ctxEntry n
  let rcd := s.commitRecord r
  let s := (s.checkRecord r).noteAccess .context (s.ctxAddr n) 128 false false
  let cancel := if enCancelled b then some stCancelled else none
  if !x.occupied || cause == causeEmpty then s
  else if cause == causeLive && recStep rcd != step then s
  else if cause == causeLive && !recFault rcd && !recBad rcd x.committed (eget b enMaxLen) then
    let p := if recPrefill rcd then (none, s) else s.commitPath b (pathMoves x.committed (recPath rcd))
    match p.1 with
    | some va => s.commitFault r n va false
    | none =>
      let q := p.2.commitTokens b rcd (x.committed + recAdvance rcd - recNtok rcd + 1)
      match q.1 with
      | some va => q.2.commitFault r n va true
      | none =>
        q.2.endCommit r n (q.2.advancedLine b rcd x.committed) (if recEnd rcd then some stOk else cancel) true
  else
    let bad := cause == causeLive && !recFault rcd
    let cause := if cause != causeLive then cause else if recFault rcd then causeRowFault else causeRecord
    let s := (s.maskRow r cause)
    let s := if bad then s.count CTX_STAT.BAD_RECORDS else s
    if cause == causeRowFault && !enCancelled b then
      s.endCommit r n (eput (setRerun b true) enState ctxReady) none false
    else s.endCommit r n b (some (rowStatus cause)) false

/-- R453: a block is finished. -/
def State.blockDone (s : State) (step : Nat) : State :=
  let s := { s with serve := { s.serve with
    finished := s.serve.finished + 1, lastStep := some step, running := none, begun := none } }
  s.addObj 89 1

/-- R453 to R455: a block that object 88 has announced is taken up: a bad one, and one of the step just finished, end at
once. -/
def State.startBlock (s : State) : State :=
  if (s.obj 88).value.toNat ≤ s.serve.finished || !s.linesFree s.commitAt 0 1 false then s
  else
    let h := s.commitHeader
    let s := match s.commitAt with | some (n, l) => s.checkLines n l 1 | none => s
    let rows := leAt h 8 2
    let bad := rows == 0 || decide (s.batch < rows) || leAt h 10 54 != 0
    if bad || s.serve.lastStep == some (leAt h 0 8) then s.blockDone (leAt h 0 8)
    else { s with serve := { s.serve with running := some (leAt h 0 8, rows, 0), begun := none } }

/-- R456: the next row of the running block commits, once the ports of its record and its row-block line are free. -/
def State.nextRow (s : State) : State :=
  match s.serve.running with
  | none => s
  | some (step, rows, r) =>
    if !s.linesFree s.commitAt (4 + 8 * r) 8 false || !s.linesFree s.rowBlock r 1 true then s else
    let s := s.commitRow step r (s.serve.begun.getD (s.row r).cause)
    let s := { s with serve := { s.serve with running := some (step, rows, r + 1), begun := none } }
    if rows ≤ r + 1 then s.blockDone step else s

/-- R456: the next row's commit has begun, with the cause the row has now. -/
def State.beginRow (s : State) : State :=
  match s.serve.running with
  | none => s
  | some (_, _, r) =>
    if s.serve.begun.isSome then s else { s with serve := { s.serve with begun := some (s.row r).cause } }

/-- R230: the region whose claim of a port the serving control's next access waits for. -/
def State.commitClaim (s : State) : Option Nat :=
  match s.serve.running with
  | none => if (s.obj 88).value.toNat ≤ s.serve.finished then none else s.linesClaimed s.commitAt 0 1 false
  | some (_, _, r) => (s.linesClaimed s.commitAt (4 + 8 * r) 8 false).orElse (fun _ => s.linesClaimed s.rowBlock r 1 true)

def State.countClaim (s : State) : State := match s.commitClaim with | some n => s.countDelay n | none => s

/-- R230, R456: rows commit, one after another; the wait of one for a claimed port is counted. -/
def State.commitRows (s : State) : Nat → State
  | 0 => s
  | k + 1 => (((List.range k).foldl (fun (t : State) _ => t.nextRow) s).countClaim).nextRow

/-- R453 to R456: the serving control works on its block outside background windows: `rows` rows commit, and the next one may
have begun. -/
def State.commitBlock (s : State) (rows : Nat) (begun : Bool) : State :=
  if !s.serving || !s.flag CTX_CTRL.EN || s.pick.inWindow || s.fenced 3 then s
  else
    let s := if s.serve.running.isNone then s.countClaim.startBlock else s
    let s := s.commitRows rows
    if begun then s.beginRow else s

/-- R445, R462, R467: the step table clears, and with it every region's copy of the rows' liveness. -/
def State.clearRows (s : State) : State :=
  let s := s.each s.regionsOn (fun n t => t.setRegion n { t.region n with live := [] })
  { s with serve := { s.serve with rows := [], changes := [], running := none, begun := none } }

end Sys2Proof.Machine
end

