-- ==== Sys2Proof/Machine/YieldOps.lean ====
section
/-! DEFINITION. Pre-emption: the yield and the save set (R334 to R341, R488, R501). -/
namespace Sys2Proof.Machine

/-! ## The save set (R338, R339) -/

/-- R488: the 16 bytes of an object. -/
def objBytes (o : SyncObj) : List Byte :=
  padTo 16 (leBytes 8 o.value.toNat ++ leBytes 4 o.target.toNat ++ leBytes 1 (o.type + 8 * bnat o.remote))
def objOf (b : List Byte) : SyncObj :=
  { value := BitVec.ofNat 64 (leAt b 0 8), target := BitVec.ofNat 32 (leAt b 8 4), type := leAt b 0xC 1 % 8
    remote := bitAt (leAt b 0xC 1) 3 }

def ceil256 (n : Nat) : Nat := (n + 255) / 256 * 256
/-- R339: bytes of a range's data and its tag map. -/
def rangeBytes (len : Nat) : Nat := len * 256 + ceil256 len

/-- R339: the ranges with the offsets of their data. -/
def placeRanges : Nat → List (Nat × Nat × Nat) → List ((Nat × Nat × Nat) × Nat)
  | _, [] => []
  | at_, r :: l => (r, at_) :: placeRanges (at_ + rangeBytes r.2.2) l

def saveBase : Nat := 0x19000
def saveSize (l : List (Nat × Nat × Nat)) : Nat := l.foldl (fun n r => n + rangeBytes r.2.2) saveBase

def State.saveRanges (s : State) : List (Nat × Nat × Nat) := match s.mail.image with | some im => im.saves | none => []

/-- R339: the tag code of a line, R340: FAULTED where a tagged line has an uncorrectable error. -/
def State.saveTag (s : State) (rgn line : Nat) : Nat :=
  if !s.tagged rgn line then 3
  else if (s.region rgn).badLines.contains line then tagFaulted
  else (s.region rgn).tag line

/-- R339: a range's data and its tag map. -/
def State.rangeData (s : State) (r : Nat × Nat × Nat) : List Byte :=
  match s.physOf r.1 with
  | none => List.replicate (rangeBytes r.2.2) 0
  | some n =>
    let tags := (List.range r.2.2).map (fun u =>
      let t (j : Nat) : Nat := s.saveTag n (4 * (r.2.1 + u) + j)
      BitVec.ofNat 8 (t 0 + 4 * t 1 + 16 * t 2 + 64 * t 3))
    s.readLines n (4 * r.2.1) (4 * r.2.2) ++ padTo (ceil256 r.2.2) tags

/-- R340: lines of the ranges with an uncorrectable error. -/
def State.savePoisoned (s : State) : Nat :=
  s.saveRanges.foldl (fun n r =>
    match s.physOf r.1 with
    | none => n
    | some k => n + ((s.region k).badLines.filter (fun l =>
        decide (4 * r.2.1 ≤ l) && decide (l < 4 * (r.2.1 + r.2.2)))).length) 0

/-- R338: the first part of the save set: header, objects and range table. -/
def State.saveHead (s : State) (seg : Nat) : List Byte :=
  let ranges := placeRanges saveBase s.saveRanges
  let bad := s.savePoisoned
  let im := s.mail.image
  let head := leBytes 4 1 ++ leBytes 4 (1 + 2 * bnat (bad != 0)) ++ leBytes 8 seg ++ leBytes 4 s.seq.pc.toNat
    ++ leBytes 1 (match im with | some i => i.gridRows | none => 0) ++ leBytes 1 0 ++ leBytes 2 ranges.length
    ++ leBytes 4 bad ++ leBytes 4 0 ++ padTo 32 (match im with | some i => i.hash | none => [])
    ++ (List.range 63).flatMap (fun i => leBytes 8 (s.xval (i + 1)).toNat) ++ leBytes 8 (s.programSegment seg)
  let table := ranges.flatMap (fun r => leBytes 4 r.1.1 ++ leBytes 4 r.1.2.1 ++ leBytes 4 r.1.2.2 ++ leBytes 4 (r.2 / 256))
  padTo 0x1000 head ++ (List.range 4096).flatMap (fun n => objBytes (s.obj n)) ++ padTo 0x8000 table

/-- R335, R340: write the save set; whether every page took it. -/
def State.writeSave (s : State) (va seg : Nat) : Bool × State :=
  let ranges := placeRanges saveBase s.saveRanges
  let r := ranges.foldl (fun (r : Bool × State) e =>
    let r := (r.1, match r.2.physOf e.1.1 with
      | some n => r.2.checkLines n (4 * e.1.2.1) (4 * e.1.2.2)
      | none => r.2)
    let w := r.2.vaWrite (va + e.2) (s.rangeData e.1) true
    (r.1 && w.1, w.2)) (true, s)
  if r.1 then r.2.vaWrite va (s.saveHead seg) true else r

/-! ## The yield (R334 to R336) -/

/-- R334: an accepted YIELD ends with a status. -/
def State.answerYield (s : State) (st : Nat) (body : List Byte) : State :=
  match s.seq.yieldReq with
  | none => s
  | some (_, _, _, mb) =>
    let s := { s with seq := { s.seq with yieldReq := none, yieldFault := false }, mail := { s.mail with saving := none } }
    s.answer mb st body

/-- R335, R462: at the boundary after the yield segment's completion the module is YIELDED: ACTIVE contexts return to
READY and the step table clears. -/
def State.enterYield (s : State) : State :=
  let s := { s with seq := { s.seq with yielded := true, open_ := false } }
  s.clearRows.readyAll

/-- R335: the yield segment is complete and a boundary has come. -/
def State.yieldDue (s : State) : Bool :=
  !s.seq.yielded && (match s.seq.yieldSeg, s.pick.lastComplete with
    | some p, some l => decide (p ≤ l)
    | _, _ => false)

/-- R501: no remote operation that the module has sent is still to complete. -/
def State.remoteSettled (s : State) : Bool :=
  !s.requests.entries.any (fun e => match e.2 with
    | some r => (match r.who with | .sync _ _ _ _ => true | _ => false)
    | none => false)
    && s.seq.ypending.isEmpty

/-- R242, R335: an accepted access through a window of 16 to 255 is in progress. -/
def State.windowsBusy (s : State) : Bool := s.inbound.any (fun b => decide (16 ≤ b.window))

/-- R229: a region of the grid is stopped for a frequency step: what reads or writes the slices waits. -/
def State.slicesStopped (s : State) : Bool := s.regionsOn.any (fun n => (s.region n).clk.stepEnd.isSome)

/-- R229, R335, R340: the save of a YIELDED module ends, once no slice is stopped for a frequency step, every fault record has been handled and the accesses through its
windows, which close, are over: its program is over, or the save failed and may be asked again. -/
def State.endSave (s : State) : State :=
  match s.seq.yieldReq, s.seq.yieldSeg, s.mail.saving with
  | some (_, _, va, _), some seg, some _ =>
    if !s.seq.yielded || !s.remoteSettled || !s.faultQ.isEmpty || s.slicesStopped then s
    else if s.closeWindows.windowsBusy then s.closeWindows
    else
      let s := s.closeWindows.landX (s.seq.issued + 64)
      let w := s.writeSave va seg
      if w.1 then
        let s := { w.2 with seq := if w.2.seq.state.lasting then w.2.seq else { w.2.seq with state := .idle, segment := none } }
        s.answerYield stOk (leBytes 8 seg ++ leBytes 8 (saveSize s.saveRanges))
      else w.2.answerYield stFault []
  | _, _, _ => s

/-! ## Restoring (R341) -/

/-- R341: a save set may be restored over an image and grid. -/
def saveFits (b hash : List Byte) (rows : Nat) : Bool :=
  bitAt (leAt b 4 4) 0 && bytesAt b 0x20 32 == hash && leAt b 0x14 1 == rows

/-- R339, R341: a range and its tag states go into the slice of its virtual region. -/
def State.restoreRange (s : State) (vreg base len : Nat) (data tags : List Byte) : State :=
  match s.physOf vreg with
  | none => s
  | some n =>
    let s := s.putSlice n (256 * base) data
    let r := s.region n
    let r := (List.range (4 * len)).foldl (fun (g : RegionSt) j =>
      let code := leAt tags (j / 4) 1 / 4 ^ (j % 4) % 4
      if code = 3 then g else g.setTag (4 * base + j) code) r
    s.setRegion n r

/-- R341: apply a save set; false where a page of it is not resident. -/
def State.restore (s : State) (va : Nat) : Bool × State :=
  match (s.vaRead va saveBase []).1 with
  | none => (false, s)
  | some b =>
    let n := min (leAt b 0x16 2) 2048
    let s := (List.range 63).foldl (fun (t : State) i => t.setX (i + 1) (BitVec.ofNat 64 (leAt b (0x40 + 8 * i) 8))) s
    let s := (List.range 4096).foldl (fun (t : State) k => t.setObj k (objOf (bytesAt b (0x1000 + 16 * k) 16))) s
    let s := { s with
      seq := { s.seq with pc := BitVec.ofNat 22 (leAt b 0x10 4) }
      serve := { s.serve with finished := (s.obj 89).value.toNat } }
    (List.range n).foldl (fun (r : Bool × State) i =>
      let e := bytesAt b (0x11000 + 16 * i) 16
      let len := leAt e 8 4 % 2 ^ 18
      let at_ := va + leAt e 0xC 4 * 256
      let r := (r.1, r.2.noteAccess .firmware at_ (rangeBytes len) false false)
      match (r.2.vaRead at_ (rangeBytes len) []).1 with
      | none => (false, r.2)
      | some d => (r.1, r.2.restoreRange (leAt e 0 1 % 64) (leAt e 4 4 % 2 ^ 17) len (d.take (256 * len)) (d.drop (256 * len))))
      (true, s)

end Sys2Proof.Machine
end

