-- ==== Sys2Proof/Machine/LoaderOps.lean ====
section
/-! DEFINITION. The program image (R525 to R532): its header and sections, what they declare, relocation, and what a load
writes. The contents of sections that the spec describes in words only are laid out as notes/assumptions/33.md says. -/
namespace Sys2Proof.Machine

/-! ## Header and sections (R525, R526) -/

/-- R525: an entry of the section table, with the section's bytes. -/
structure Section where
  kind : Nat
  vreg : Nat
  resv : Nat
  off  : Nat
  size : Nat
  load : Nat
  data : List Byte
  deriving DecidableEq, Repr

def sectionAt (b : List Byte) (i : Nat) : Section :=
  let e := bytesAt b (0x40 + 32 * i) 32
  ⟨leAt e 0 2, leAt e 2 1, leAt e 3 5, leAt e 8 8, leAt e 0x10 8, leAt e 0x18 8,
    (b.drop (leAt e 8 8)).take (leAt e 0x10 8)⟩

def sectionsOf (b : List Byte) : List Section := (List.range (leAt b 0xC 4)).map (sectionAt b)

def imageRows (b : List Byte) : Nat := leAt b 4 1

/-- R525: the header breaks its layout. -/
def imageHeaderBad (b : List Byte) : Bool :=
  let rows := imageRows b
  let n := leAt b 0xC 4
  decide (b.length < 0x40) || leAt b 0 4 != 1 || !(rows == 7 || rows == 8) || leAt b 5 3 != 0 || n == 0 || decide (64 < n)
    || decide (2 ^ 22 ≤ leAt b 0x18 4) || leAt b 0x1C 36 != 0 || decide (b.length < 0x40 + 32 * n)
    || (List.range rows).any (fun r => decide (leAt b (0x10 + r) 1 < 64) || decide (140 < leAt b (0x10 + r) 1))

/-- The records of `n` bytes of a section. -/
def Section.records (x : Section) (n : Nat) : List (List Byte) := chunksOf n (x.data.length / n) x.data

/-- The first section of a kind. -/
def ofKind (l : List Section) (k : Nat) : Option Section := l.find? (fun x => x.kind == k)
def recordsOf (l : List Section) (k n : Nat) : List (List Byte) :=
  match ofKind l k with | some x => x.records n | none => []

/-! ## What the sections declare -/

/-- R526: tag ranges and masked ranges: virtual region, number, and the two register words. -/
def rangeOf (b : List Byte) : Nat × Nat × Nat × Nat := (leAt b 0 1, leAt b 1 1, leAt b 4 4, leAt b 8 4)

/-- R526: CTX_TABLE, CTX_ROWBLK, CTX_COMMITBLK, VARIANT_BASE, LAYERS and B. -/
structure ServingSec where
  table   : Nat
  rowblk  : Nat
  commit  : Nat
  variant : Nat
  layers  : Nat
  batch   : Nat
  deriving DecidableEq, Repr

def servingOf (b : List Byte) : ServingSec :=
  ⟨leAt b 0 8, leAt b 8 4, leAt b 0xC 4, leAt b 0x10 8, leAt b 0x18 4, leAt b 0x1C 4⟩

/-- R464: virtual region and line of a block register. -/
def blockOf (w : Nat) : Nat × Nat := (bitsAt w 25 6, bitsAt w 0 19)

def residentOf (l : List Section) : List (Nat × Nat) := (recordsOf l 10 16).map (fun b => (leAt b 0 8, leAt b 8 8))
def savesOf (l : List Section) : List (Nat × Nat × Nat) :=
  (recordsOf l 11 16).map (fun b => (leAt b 0 1, leAt b 4 4, leAt b 8 4))
def gatesOf (l : List Section) : Option (Nat × Nat) :=
  (ofKind l 9).map (fun x => (leAt x.data 0 2, leAt x.data 2 2))
def traceOf (l : List Section) : List Nat :=
  match ofKind l 14 with
  | some x => (List.range 16).map (fun i => (leAt x.data (4 * i) 4 + 65535) / 65536 * 65536)
  | none => []

/-- R424: the warp entries and the slot-schedule entries of a warp body. -/
def warpEntriesOf (b : List Byte) (n m : Nat) : List (Nat × BitVec 64) × List (Nat × BitVec 64) :=
  let e := chunksOf 16 (n + m) b
  ((e.take n).map (fun x => (leAt x 0 2 % 4096, BitVec.ofNat 64 (leAt x 8 8))),
    (e.drop n).map (fun x => (leAt x 0 1, BitVec.ofNat 64 (leAt x 8 8))))
def warpsOf (l : List Section) : List (Nat × BitVec 64) × List (Nat × BitVec 64) :=
  match ofKind l 12 with
  | some x => warpEntriesOf (x.data.drop 0x100) (leAt x.data 4 4) (leAt x.data 8 4)
  | none => ([], [])

/-- R531: the declared peak in half-watts. -/
def profileCost (b : List Byte) : Nat :=
  1680 + 20 * leAt b 0 1 + 24 * leAt b 1 1 + 16 * leAt b 2 1 + 12 * leAt b 3 1 + 3 * leAt b 4 1 + 14 * leAt b 5 1
    + 8 * leAt b 6 1
def peakOf (l : List Section) : Nat :=
  match ofKind l 13 with
  | some x => (x.records 16).foldl (fun n b => max n (profileCost b)) 0
  | none => 3904

/-- R528: a relocation record. -/
def relocOf (b : List Byte) : Reloc :=
  ⟨BitVec.ofNat 64 (leAt b 0 8), leAt b 8 2 % 64, leAt b 8 2 / 64 % 64 + 1, leAt b 0xA 1, leAt b 0xB 1, leAt b 0xC 2,
    BitVec.ofNat 64 (leAt b 0x10 8)⟩
def relocBad (b : List Byte) : Bool :=
  let t := leAt b 0 8
  let r := relocOf b
  leAt b 8 2 / 4096 != 0 || decide (64 ≤ leAt b 0xB 1) || leAt b 0xE 2 != 0 || leAt b 0x18 8 != 0
    || decide (64 < r.pos + r.width) || decide (3 < r.kind)
    || (match bitsAt t 62 2 with
      | 0 => bitsAt t 22 40 != 0
      | 1 => bitsAt t 52 10 != 0
      | 2 => bitsAt t 25 31 != 0
      | _ => true)

/-! ## Checks (R521, R526, R527) -/

/-- R526: a serving section names what the grid or its slices do not have. -/
def State.servingBad (s : State) (x : ServingSec) (resident : List (Nat × Nat)) : Bool :=
  let r := blockOf x.rowblk
  let c := blockOf x.commit
  x.batch == 0 || decide (4096 < x.batch) || decide (2 ^ 52 ≤ x.table) || x.table % 2 ^ 21 != 0
    || bitAt x.rowblk 31 || bitsAt x.rowblk 19 6 != 0 || bitAt x.commit 31 || bitsAt x.commit 19 6 != 0
    || (s.physOf r.1).isNone || (s.physOf c.1).isNone
    || decide (524288 < r.2 + 4096 + 64) || decide (524288 < c.2 + 4 + 8 * x.batch)
    || !coveredBy resident (x.table + 2 ^ 25) resident.length x.table

/-- R526: section `i` of an image breaks its form. -/
def State.sectionBad (s : State) (len : Nat) (l : List Section) (i : Nat) (x : Section) : Bool :=
  let before := l.take i
  let inGrid (v : Nat) : Bool := (s.physOf v).isSome
  x.kind == 0 || decide (14 < x.kind) || x.resv != 0 || x.off % 64 != 0 || decide (len < x.off + x.size)
    || (4 ≤ x.kind && before.any (fun y => y.kind == x.kind))
    || (match x.kind with
      | 1 => x.size % 4 != 0 || decide (2 ^ 22 < x.load + x.size / 4)
          || before.any (fun y => y.kind == 1 && decide (y.load < x.load + x.size / 4) && decide (x.load < y.load + y.size / 4))
      | 2 => decide (2 ^ 52 < x.load + x.size)
      | 3 => !inGrid x.vreg || decide (2 ^ 25 < x.load + x.size)
      | 4 => x.size % 32 != 0
      | 5 => x.size % 16 != 0 || (x.records 16).any (fun b => !inGrid (leAt b 0 1) || decide (8 ≤ leAt b 1 1) || leAt b 2 2 != 0
          || leAt b 4 4 / 2 ^ 17 != 0 || bitsAt (leAt b 8 4) 18 13 != 0 || decide (131072 < bitsAt (leAt b 8 4) 0 18)
          || leAt b 0xC 4 != 0)
      | 6 => x.size % 16 != 0 || (x.records 16).any (fun b => !inGrid (leAt b 0 1) || decide (8 ≤ leAt b 1 1) || leAt b 2 2 != 0
          || bitsAt (leAt b 4 4) 29 2 != 0 || leAt b 8 4 / 2 ^ 26 != 0
          || decide (4096 < bitsAt (leAt b 8 4) 13 13) || leAt b 0xC 4 != 0)
      | 7 => x.size != 32 || s.servingBad (servingOf x.data) (residentOf l)
      | 8 => x.size % 8 != 0 || (x.records 8).any (fun b =>
          let t := leAt b 2 1 % 8
          decide (leAt b 0 2 < 91) || decide (4096 ≤ leAt b 0 2) || t == 0 || decide (4 < t) || leAt b 2 1 / 16 != 0
            || leAt b 3 1 != 0 || ((t == 1 || t == 4) != (leAt b 4 4 == 0)))
      | 9 => x.size != 8 || decide (leAt x.data 0 2 < 91) || leAt x.data 2 2 == 0 || leAt x.data 4 4 != 0
      | 10 => x.size % 16 != 0 || (x.records 16).any (fun b => decide (2 ^ 52 < leAt b 0 8 + leAt b 8 8))
      | 11 => x.size % 16 != 0 || (x.records 16).any (fun b => !inGrid (leAt b 0 1) || leAt b 1 3 != 0 || leAt b 0xC 4 != 0
          || leAt b 8 4 == 0 || decide (131072 < leAt b 4 4 + leAt b 8 4)
          || decide (32 < ((x.records 16).filter (fun y => leAt y 0 1 == leAt b 0 1)).length))
      | 12 => decide (x.size < 0x100) || x.size != 0x100 + 16 * (leAt x.data 4 4 + leAt x.data 8 4)
          || decide (4096 < leAt x.data 4 4) || decide (49152 < leAt x.data 8 4)
      | 13 => x.size % 16 != 0 || x.size == 0 || decide (65536 < x.size) || (x.records 16).any (fun b => leAt b 7 9 != 0)
      | _ => x.size != 64 || !s.feature featTrace)

/-- R526: the first section that breaks its form. -/
def State.firstBadSection (s : State) (b : List Byte) : Option Nat :=
  let l := sectionsOf b
  (List.range l.length).find? (fun i => match l[i]? with
    | some x => s.sectionBad b.length l i x
    | none => false)

/-- R521: weight gates that meet a named object or pass the last one, or a trace ring that passes a stack's share. -/
def ownershipBad (l : List Section) : Bool :=
  let named := (recordsOf l 8 8).map (fun b => leAt b 0 2)
  (match gatesOf l with
    | some (w, n) => decide (4096 < w + 3 * n) || named.any (fun o => decide (w ≤ o) && decide (o < w + 3 * n))
    | none => false)
    || (match ofKind l 14 with
      | some x => (List.range 16).any (fun i => decide (167772160 < leAt x.data (4 * i) 4))
      | none => false)

/-- R527: the first RESIDENT range with a page that is not RES_HBM. -/
def State.badRange (s : State) (l : List (Nat × Nat)) : Option Nat :=
  (List.range l.length).find? (fun i => match l[i]? with
    | some (va, n) => decide (0 < n) && !s.resHbm va n
    | none => false)

/-! ## Relocation (R528, R529) -/

/-- R105: write units of the instruction store; a pair that is written takes a valid code (R252). -/
def State.putUnits (s : State) (a : Nat) (b : List Byte) : State :=
  let n := b.length / 4
  let words := (List.range n).map (fun i => BitVec.ofNat 32 (leAt b (4 * i) 4))
  { s with seq := { s.seq with
    istore := swrite 0 s.seq.istore a words
    istoreBad := s.seq.istoreBad.filter (fun p => !(decide (a / 2 ≤ p) && decide (p ≤ (a + n - 1) / 2))) } }

/-- R529: the value a kind gives, or the status with which it fails. -/
def State.relocValue (s : State) (resident : List (Nat × Nat)) (kind x : Nat) : Except Nat Nat :=
  if kind = 0 then .ok x
  else if !resident.any (fun r => decide (r.1 ≤ x) && decide (x < r.1 + r.2)) then .error stFault
  else
    match s.lookup x with
    | .leaf l =>
      match l.place x with
      | .hbm a => .ok (match kind with | 1 => hbmOffset a | 2 => hbmStack a | _ => hbmPch a)
      | .cxl _ _ => .error stFault
    | _ => .error stFault

/-- R528: the eight bytes of a target; none where the target cannot be reached, with its status. -/
def State.targetBytes (s : State) (t : Nat) : Except Nat (List Byte) :=
  match bitsAt t 62 2 with
  | 0 =>
    let a := bitsAt t 0 22
    if 2 ^ 22 ≤ a + 1 then .error stBadArg
    else .ok (leBytes 4 (sget 0 s.seq.istore a).toNat ++ leBytes 4 (sget 0 s.seq.istore (a + 1)).toNat)
  | 1 => match (s.vaRead (bitsAt t 0 52) 8 []).1 with | some b => .ok b | none => .error stFault
  | 2 =>
    match s.physOf (bitsAt t 56 6) with
    | some n =>
      let a := bitsAt t 0 25
      if 2 ^ 25 < a + 8 then .error stBadArg
      else .ok (bytesAt (s.readLines n (a / 64) 2) (a % 64) 8)
    | none => .error stBadArg
  | _ => .error stBadArg

/-- R248, R263, R287: what reading a target reports. -/
def State.noteTarget (s : State) (t : Nat) : State :=
  match bitsAt t 62 2 with
  | 1 => s.noteAccess .firmware (bitsAt t 0 52) 8 false false
  | 2 => (match s.physOf (bitsAt t 56 6) with
    | some n => if 2 ^ 25 < bitsAt t 0 25 + 8 then s else s.checkLines n (bitsAt t 0 25 / 64) (linesTouched (bitsAt t 0 25) 8)
    | none => s)
  | _ => s

def State.putTarget (s : State) (t : Nat) (b : List Byte) : State :=
  match bitsAt t 62 2 with
  | 0 => s.putUnits (bitsAt t 0 22) b
  | 1 => s.vaStore (bitsAt t 0 52) b false
  | _ => match s.physOf (bitsAt t 56 6) with | some n => s.putSlice n (bitsAt t 0 25) b | none => s

/-- R528, R529: apply one record: the status with which it fails, if it does. -/
def State.applyReloc (s : State) (syms : List Nat) (resident : List (Nat × Nat)) (r : Reloc) : Option Nat × State :=
  match syms[r.symbol]? with
  | none => (some stBadArg, s)
  | some v =>
    match s.relocValue resident r.kind ((v + r.addend.toNat) % 2 ^ 64) with
    | .error st => (some st, s)
    | .ok y =>
      let y := y / 2 ^ r.shift
      if 2 ^ r.width ≤ y then (some stBadArg, s)
      else
        let t := s.noteTarget r.target.toNat
        match s.targetBytes r.target.toNat with
        | .error st => (some st, t)
        | .ok b => (none, t.putTarget r.target.toNat (leBytes 8 (bitsPut (leNat b) r.pos r.width y)))

/-- R527, R530: apply records in order: the status and index of the first that fails, or none, and the records applied. -/
def State.applyRelocs (s : State) (syms : List Nat) (resident : List (Nat × Nat)) :
    List (Option Reloc) → Nat → Option (Nat × Nat) × Nat × State
  | [], n => (none, n, s)
  | none :: _, n => (some (stBadArg, n), n, s)
  | some r :: l, n =>
    match s.applyReloc syms resident r with
    | (some st, t) => (some (st, n), n, t)
    | (none, t) => State.applyRelocs t syms resident l (n + 1)

def State.symbols (s : State) (va n : Nat) : Option (List Nat) :=
  ((s.vaRead va (8 * n) []).1).map (fun b => (chunksOf 8 n b).map leNat)

/-! ## Writing an image (R527 steps 5 to 9) -/

/-- R527 step 5: the code and the data; the first section whose pages are not resident fails. -/
def State.writeSections (s : State) : List Section → Nat → Option Nat × State
  | [], _ => (none, s)
  | x :: l, i =>
    match x.kind with
    | 1 => State.writeSections (s.putUnits x.load x.data) l (i + 1)
    | 2 =>
      let w := s.vaWrite x.load x.data false
      if w.1 then State.writeSections w.2 l (i + 1) else (some i, w.2)
    | 3 =>
      match s.physOf x.vreg with
      | some n => State.writeSections (s.putSlice n x.load x.data) l (i + 1)
      | none => State.writeSections s l (i + 1)
    | _ => State.writeSections s l (i + 1)

/-- R527 step 7: tag ranges and masked ranges of every region in use. -/
def State.writeRanges (s : State) (l : List Section) : State :=
  let tags := (recordsOf l 5 16).map rangeOf
  let masks := (recordsOf l 6 16).map rangeOf
  let word (m : List (Nat × Nat × Nat × Nat)) (v k : Nat) (first : Bool) (dflt : Nat) : Reg32 :=
    match m.find? (fun e => e.1 == v && e.2.1 == k) with
    | some e => BitVec.ofNat 32 (if first then e.2.2.1 else e.2.2.2)
    | none => BitVec.ofNat 32 dflt
  (List.range (8 * s.rows.length)).foldl (fun (t : State) v =>
    match t.physOf v with
    | none => t
    | some n => (List.range 8).foldl (fun (t : State) k =>
        let t := t.setReg (RGN_TAG_BASE n k) (word tags v k true 0)
        let t := t.setReg (RGN_TAG_LEN n k) (word tags v k false 0)
        let t := t.setReg (CTX_MRNG_BASE n k) (word masks v k true 0)
        t.setReg (CTX_MRNG_SHAPE n k) (word masks v k false 1)) t) s

/-- R463, R464, R444, R526: the serving registers and the row block. -/
def State.writeServing (s : State) (l : List Section) : State :=
  let s := { s.clearRows with serve := { s.clearRows.serve with finished := 0, lastStep := none } }
  match ofKind l 7 with
  | none => { s.put CTX_CTRL.EN 0 with serve := { s.serve with image := none } }
  | some x =>
    let v := servingOf x.data
    let s := s.put CTX_TABLE_LO.VA_LO (bitsAt v.table 21 11)
    let s := s.put CTX_TABLE_HI.VA_HI (v.table / 2 ^ 32)
    let s := s.setReg CTX_ROWBLK (BitVec.ofNat 32 v.rowblk)
    let s := s.setReg CTX_COMMITBLK (BitVec.ofNat 32 v.commit)
    let s := s.put CTX_CTRL.EN 1
    let s := { s with serve := { s.serve with image := some ⟨v.batch, v.layers, v.variant⟩ } }
    s.clearRowBlock

/-- R490, R477: every object as a new program finds it. -/
def State.loadObjects (s : State) (l : List Section) : State :=
  (recordsOf l 8 8).foldl (fun (t : State) b =>
    t.setObj (leAt b 0 2) { value := 0, target := BitVec.ofNat 32 (leAt b 4 4), type := leAt b 2 1 % 8
                            remote := bitAt (leAt b 2 1) 3 })
    { s with sync := { s.sync with objects := [], changes := [], wait := none } }

/-- The objects of layer gate `i`, of the gates an image names. -/
def State.loadGate (s : State) (w i : Nat) : State :=
  ((s.setObj (gatePass w i) { type := 1 }).setObj (gateOpen w i) { value := 1, type := 1 }).setObj (gateAt w i) { type := 1 }

/-- R490, R477, R499: the objects of an image: its records, and those of its layer gates. -/
def State.writeObjects (s : State) (l : List Section) : State :=
  let s := s.loadObjects l
  let s := { s with weights := { s.weights with gates := gatesOf l, cuts := [] } }
  match gatesOf l with
  | none => s
  | some (w, n) => (List.range n).foldl (fun (t : State) i => t.loadGate w i) s

/-- R527 step 8: the plan's frequency codes, and the pick configuration of a module outside a partition. -/
def State.writePlan (s : State) (b : List Byte) : State :=
  let rows := s.rows
  let s := (List.range rows.length).foldl (fun (t : State) v =>
    match rows[v]? with
    | none => t
    | some r => (List.range 8).foldl (fun (t : State) c =>
        t.put (CLK_RGN_FREQ.PLAN_CODE (8 * r + c)) (leAt b (0x10 + v) 1)) t) s
  if s.pickState = pickIdle then
    let c := leAt b 8 4
    let s := s.put PCK_LENGTH.LENGTH (bitsAt c 0 13 * 16)
    let s := s.put PCK_PARTS.WINDOW (bitsAt c 13 9 * 16)
    s.put PCK_PARTS.MARGIN (bitsAt c 22 10 * 16)
  else s

/-- R341: whether a save set may be restored: its status where it may not. -/
def State.restoreBad (s : State) (va rows : Nat) (hash : List Byte) : Option Nat :=
  match (s.vaRead va 0x1000 []).1 with
  | none => some stFault
  | some h => if saveFits h hash rows then none else some stBadArg

/-- R525: what the firmware keeps of an image. -/
def imageState (b hash : List Byte) (restored : Option Nat) : ImageSt :=
  let l := sectionsOf b
  { hash := hash, gridRows := imageRows b, entry := leAt b 0x18 4
    relocs := (recordsOf l 4 32).map relocOf
    resident := residentOf l, saves := savesOf l, warps := (warpsOf l).1, scheds := (warpsOf l).2
    trace := traceOf l, peak := peakOf l, restored := restored }

end Sys2Proof.Machine
end

