-- ==== Sys2Proof/Machine/PartOps.lean ====
section
/-! DEFINITION. Joining a partition and giving up its key: the join record, warp images, the checks of an installation, and
what a retired key leaves (R397, R401, R420, R424, R425, R533, R534, R566, R636). -/
namespace Sys2Proof.Machine

/-! ## The join record (R533) -/

structure JoinRec where
  key       : Nat
  role      : Nat
  pickIo    : Nat
  pick      : Nat
  primary   : Nat
  alt       : Nat
  logical   : Nat
  keyPorts  : Nat
  tickPorts : Nat
  aliased   : Bool
  origin    : Nat
  host      : Nat
  placement : List Byte
  routes    : List (List Byte)
  remaps    : List (List Byte)
  deriving DecidableEq, Repr

def joinMembers (b : List Byte) : Nat := leAt b 0x14 2
def joinRemaps (b : List Byte) : Nat := leAt b 0x16 2
def joinRoutes (b : List Byte) : Nat := leAt b 0x18 4
/-- R533: offset of the ROUTE list. -/
def joinRouteAt (b : List Byte) : Nat := 0x40 + (2 * joinMembers b + 63) / 64 * 64

def joinOf (b : List Byte) : JoinRec :=
  let r := joinRouteAt b
  { key := leAt b 4 2 % 4096, role := leAt b 6 1, pickIo := leAt b 7 1, pick := leAt b 8 8 % 2 ^ 48
    primary := leAt b 0x10 1, alt := leAt b 0x11 1, logical := leAt b 0x12 2, keyPorts := leAt b 0x1C 4 % 2 ^ 24
    tickPorts := leAt b 0x20 4 % 2 ^ 24, aliased := bitAt (leAt b 0x24 1) 0, origin := leAt b 0x26 2, host := leAt b 0x28 8
    placement := bytesAt b 0x40 (2 * joinMembers b)
    routes := chunksOf 8 (joinRoutes b) (b.drop r)
    remaps := chunksOf 8 (joinRemaps b) (b.drop (r + 8 * joinRoutes b)) }

/-- A parent port of PCK_ROLE (R64): 0 to 23, or none. -/
def parentOk (p : Nat) : Bool := decide (p < 24) || p == 0x1F

/-- R533: the record breaks its layout. -/
def joinBad (b : List Byte) : Bool :=
  let h := leAt b 0x28 8
  leAt b 0 4 != 1 || decide (4096 ≤ leAt b 4 2) || leAt b 6 1 == 0 || decide (3 < leAt b 6 1) || decide (3 < leAt b 7 1)
    || decide (2 ^ 48 ≤ leAt b 8 8) || !parentOk (leAt b 0x10 1) || !parentOk (leAt b 0x11 1) || joinMembers b == 0
    || decide (64 < joinRemaps b) || decide (65536 < joinRoutes b) || decide (2 ^ 24 ≤ leAt b 0x1C 4)
    || decide (2 ^ 24 ≤ leAt b 0x20 4) || decide (1 < leAt b 0x24 1) || leAt b 0x25 1 != 0 || leAt b 0x30 16 != 0
    || bitsAt h 1 7 != 0 || bitsAt h 13 3 != 0 || bitsAt h 55 9 != 0
    || b.length != joinRouteAt b + 8 * joinRoutes b + 8 * joinRemaps b

/-- The logical device IDs of the placement list. -/
def JoinRec.members (j : JoinRec) : List Nat := (chunksOf 2 (j.placement.length / 2) j.placement).map leNat

/-! ## Warp images (R424, R425) -/

/-- The warps an installation writes: entries by circuit and schedule entries by port. -/
structure Warps where
  entries : List (Nat × BitVec 64)
  scheds  : List (Nat × BitVec 64)
  deriving DecidableEq, Repr

/-- R424: a warp image at a device virtual address, where FORMAT, PLACEMENT_HASH, KEY and DIGEST hold. -/
def State.warpImage (s : State) (va key : Nat) (hash : List Byte) : Option Warps :=
  match (s.vaRead va 0x100 []).1 with
  | none => none
  | some h =>
    let n := leAt h 4 4
    let m := leAt h 8 4
    if leAt h 0 4 != 1 || decide (4096 < n) || decide (49152 < m) || leAt h 0xC 2 != key || bytesAt h 0x10 32 != hash then none
    else
      match (s.vaRead va (0x100 + 16 * (n + m) + 32) []).1 with
      | none => none
      | some b =>
        if sha256 (b.take (0x100 + 16 * (n + m))) == b.drop (0x100 + 16 * (n + m)) then
          let w := warpEntriesOf (b.drop 0x100) n m
          some ⟨w.1, w.2⟩
        else none

/-- R263, R287: what reading a warp image reports: its header, and the rest where the header holds. -/
def State.noteWarps (s : State) (va : Nat) : State :=
  if va = 0 then s
  else
    let s := s.noteAccess .firmware va 0x100 false false
    match (s.vaRead va 0x100 []).1 with
    | none => s
    | some h =>
      if leAt h 0 4 != 1 || decide (4096 < leAt h 4 4) || decide (49152 < leAt h 8 4) then s
      else s.noteAccess .firmware (va + 0x100) (16 * (leAt h 4 4 + leAt h 8 4) + 32) false false

/-- R424: the bytes of a warp image. -/
def warpImageBytes (key : Nat) (hash : List Byte) (w : Warps) : List Byte :=
  let entry (n : Nat) (e : Nat × BitVec 64) : List Byte := padTo 8 (leBytes n e.1) ++ leBytes 8 e.2.toNat
  let b := padTo 0x100 (leBytes 4 1 ++ leBytes 4 w.entries.length ++ leBytes 4 w.scheds.length ++ leBytes 2 key ++ leBytes 2 0
      ++ hash)
    ++ w.entries.flatMap (entry 2) ++ w.scheds.flatMap (entry 1)
  b ++ sha256 b

/-! ## Checks of an installation (R397, R401) -/

/-- The circuits after an installation. -/
def State.warpsWith (s : State) (l : List (Nat × BitVec 64)) : SMap (BitVec 64) :=
  l.foldl (fun m e => sset 0 m e.1 e.2) s.router.warps

/-- R397: an entry of an installation names a circuit VALID with another key, a port in compatibility mode, or is not as
R395 lays it out. -/
def State.warpEntryBad (s : State) (key : Nat) (e : Nat × BitVec 64) : Bool :=
  let w := e.2.toNat
  decide (0xFFF ≤ e.1) || !warpValid w || warpKey w != key || bitAt w 31 || bitsAt w 44 20 != 0
    || (warpValid (s.warp e.1) && warpKey (s.warp e.1) != key)
    || (warpPorts w).any (fun p => s.compat p) || (decide (warpIn w < 24) && s.compat (warpIn w))
    || (decide (24 ≤ warpIn w) && decide (warpIn w < 0x1E))

/-- Slots claimed by a schedule, rising with repeats side by side. -/
def claimedSlots (l : List (BitVec 64)) : List Nat := (l.flatMap schedSlots).mergeSort (fun a b => decide (a ≤ b))

/-- No two neighbours are equal. -/
def allApart : List Nat → Bool
  | a :: b :: r => a != b && allApart (b :: r)
  | _ => true

/-- R401: a port's schedule breaks a condition: slots below S, none claimed twice, circuits VALID with the port in their
mask, and in each group of 16 an unclaimed slot whose number is a multiple of 4. -/
def schedBad (slots p : Nat) (warps : SMap (BitVec 64)) (l : List (BitVec 64)) : Bool :=
  let claimed := claimedSlots l
  let quarters := claimed.filter (fun k => k % 4 == 0)
  decide (2048 < l.length)
    || l.any (fun e =>
      let w := (sget 0 warps (schedCircuit e)).toNat
      schedCount e == 0 || decide (61440 < schedCount e) || schedStride e == 0 || bitsAt e.toNat 52 12 != 0
        || !warpValid w || !bitAt w p)
    || claimed.any (fun k => decide (slots ≤ k)) || !allApart claimed
    || (List.range ((slots + 15) / 16)).any (fun g =>
      let here := (quarters.filter (fun k => k / 16 == g)).length
      decide ((min 16 (slots - 16 * g) + 3) / 4 ≤ here))

/-- R397, R401: the installation of warps under a key is refused. -/
def State.warpsBad (s : State) (key : Nat) (w : Warps) : Bool :=
  let warps := s.warpsWith w.entries
  let slots := 15 * s.fld PCK_LENGTH.LENGTH / 16
  w.entries.any (s.warpEntryBad key) || !allApart ((w.entries.map (fun e => e.1)).mergeSort (fun a b => decide (a ≤ b)))
    || w.scheds.any (fun e => decide (24 ≤ e.1) || s.compat e.1 || warpKey (sget 0 warps (schedCircuit e.2)).toNat != key)
    || (List.range 24).any (fun p =>
      let mine := (w.scheds.filter (fun e => e.1 == p)).map (fun e => e.2)
      !mine.isEmpty && schedBad slots p warps (s.schedule p ++ mine))

/-! ## Keys held (R414, R415, R534) -/

/-- The fields of a port's allow-set. -/
def allowSlots (p : Nat) : List (Fld × Fld) :=
  [(RTE_ALLOW_LO.KEY0 p, RTE_ALLOW_LO.EN0 p), (RTE_ALLOW_LO.KEY1 p, RTE_ALLOW_LO.EN1 p),
    (RTE_ALLOW_HI.KEY2 p, RTE_ALLOW_HI.EN2 p), (RTE_ALLOW_HI.KEY3 p, RTE_ALLOW_HI.EN3 p)]

/-- R534: an allow-set with no room. -/
def State.allowFull (s : State) (p : Nat) : Bool := (allowSlots p).all (fun f => s.flag f.2)

/-- R414: a key joins an allow-set. -/
def State.allowKey (s : State) (p key : Nat) : State :=
  if s.allows p key then s
  else
    match (allowSlots p).find? (fun f => !s.flag f.2) with
    | some f => (s.put f.1 key).put f.2 1
    | none => s

/-- R566: a key leaves an allow-set. -/
def State.disallowKey (s : State) (p key : Nat) : State :=
  (allowSlots p).foldl (fun (t : State) f => if t.flag f.2 && t.fld f.1 == key then (t.put f.1 0).put f.2 0 else t) s

/-- R415: keys the module holds, as member or in transit. -/
def State.keysHeld (s : State) : List Nat :=
  s.part.transit ++ (match s.memberKey with | some k => [k] | none => [])

/-- R420: valid remap entries. -/
def State.remapsUsed (s : State) : List Nat := (List.range 64).filter (fun n => s.flag (RTE_REMAP_HI.VALID n))

/-! ## Joining (R533, R534) -/

/-- R534, R522: why a join is refused, in the order of the checks; otherwise the warps it installs, and whether they come
from the warp image named. -/
def State.joinCheck (s : State) (j : JoinRec) (warpVa : Nat) : Except Nat (Warps × Bool) :=
  let transit := j.role == 3
  let named := if warpVa = 0 then none else s.warpImage warpVa j.key (sha256 j.placement)
  if !transit && (s.part.joined.isSome || s.pickState != pickIdle) then .error stBusy
  else if !transit && s.mail.image.isNone then .error stBadArg
  else if s.keysHeld.contains j.key then .error stKeyMismatch
  else if bitAt j.host 0 && !s.feature featBridge then .error stNoFeature
  else if transit && named.isNone then .error stBadArg
  else if (List.range 24).any (fun p => bitAt j.keyPorts p && s.allowFull p) then .error stExhausted
  else if 64 < s.remapsUsed.length + j.remaps.length then .error stExhausted
  else if s.pickState != pickIdle && !j.remaps.isEmpty then .error stBusy
  else
    let w := match named, s.mail.image with
      | some w, _ => w
      | none, some im => ⟨im.warps, im.scheds⟩
      | none, none => ⟨[], []⟩
    if s.warpsBad j.key w || (!transit && (List.range 24).any (fun p => bitAt j.tickPorts p && s.compat p)) then .error stBadArg
    else .ok (w, named.isSome)

/-- R397: warp entries and slot schedules; transfers on the circuits count from 0 (R398, R399). -/
def State.installWarps (s : State) (w : Warps) : State :=
  let circuits := w.entries.map (fun e => e.1)
  let scheds := w.scheds.foldl (fun m e => smod [] m e.1 (fun l => l ++ [e.2])) s.router.schedules
  { s with router := { s.router with
    warps := s.warpsWith w.entries, schedules := scheds
    sent := sfilter s.router.sent (fun c => !circuits.contains (c % 4096))
    launched := sfilter s.router.launched (fun c => !circuits.contains (c % 4096)) } }

/-- R405, R420: route entries and remap entries. -/
def State.installRoutes (s : State) (j : JoinRec) : State :=
  let routes := j.routes.foldl (fun m r => sset 0 m (leAt r 0 2) (BitVec.ofNat 24 (leAt r 2 3))) s.router.routes
  let s := { s with router := { s.router with routes := routes } }
  let free := (List.range 64).filter (fun n => !s.flag (RTE_REMAP_HI.VALID n))
  (free.zip j.remaps).foldl (fun (t : State) e =>
    let t := (t.put (RTE_REMAP_LO.LOGICAL e.1) (leAt e.2 0 2)).put (RTE_REMAP_LO.PHYSICAL e.1) (leAt e.2 2 2)
    (t.put (RTE_REMAP_HI.KEY e.1) j.key).put (RTE_REMAP_HI.VALID e.1) 1) s

/-- R429, R533: the host port. -/
def State.installHost (s : State) (j : JoinRec) : State :=
  if bitAt j.host 0 then
    let s := ((s.put RTE_HOST.EN 1).put RTE_HOST.PORT (bitsAt j.host 8 5)).put RTE_HOST.HOST_DEV (bitsAt j.host 16 16)
    (s.put RTE_GROUP.BASE (bitsAt j.host 32 16)).put RTE_GROUP.COUNT (bitsAt j.host 48 7)
  else s

/-- R38, R64, R70, R395, R426: what a member or origin takes on: its role, its logical ID, the tick circuit, and the pick of
the partition still to come. -/
def State.becomeMember (s : State) (j : JoinRec) : State :=
  let tick := BitVec.ofNat 64 (j.tickPorts + 2 ^ 25 + j.key * 2 ^ 32)
  let s := { s with router := { s.router with warps := sset 0 s.router.warps 0xFFF tick } }
  let s := ((s.put PCK_ROLE.ROLE j.role).put PCK_ROLE.SOURCE (j.pickIo % 2)).put PCK_ROLE.PICK_IO_OUT_EN (j.pickIo / 2)
  let s := (s.put PCK_ROLE.PRIMARY_PORT j.primary).put PCK_ROLE.ALT_PORT j.alt
  let s := if j.aliased then (s.put RTE_ALIAS.LOGICAL j.logical).put RTE_ALIAS.EN 1 else s
  let s := (s.put PCK_STATUS.STATE pickAcquiring).put PCK_STATUS.HOLDOVER 0
  let origin := j.role == 2
  { s with
    part := { s.part with
      joined := some ⟨j.key, origin, j.origin, j.members⟩, startPick := none, depth := 0 }
    pick := { s.pick with
      boundaryAt := none, lastComplete := none, endDue := false, ioEdge := none
      accepted := if origin then some (BitVec.ofNat 48 j.pick) else none
      nextAt := if origin then some (s.now + s.fld PCK_LENGTH.LENGTH) else none } }

/-- R533: the member index of the module, 0xFFFF in transit or where the placement does not name it. -/
def State.joinIndex (s : State) (j : JoinRec) : Nat :=
  if j.role = 3 then 0xFFFF else (j.members.idxOf? s.deviceId).getD 0xFFFF

/-- R397, R425, R533: a join that passes its checks is installed, allow-sets last. -/
def State.installJoin (s : State) (j : JoinRec) (warpVa : Nat) (w : Warps) (reused : Bool) : State :=
  let s := ((s.installWarps w).installRoutes j).installHost j
  let s := if j.role = 3 then { s with part := { s.part with transit := s.part.transit ++ [j.key] } } else s.becomeMember j
  let s := (List.range 24).foldl (fun (t : State) p => if bitAt j.keyPorts p then t.allowKey p j.key else t) s
  if reused || warpVa = 0 then s else s.vaStore warpVa (warpImageBytes j.key (sha256 j.placement) w) false

/-! ## Retiring a key (R566) -/

/-- A cell of a key remains in an egress queue or a backlog ring. -/
def State.keyQueued (s : State) (key : Nat) : Bool :=
  s.ports.any (fun e => e.2.queue.any (fun c => !c.cell.svc && c.cell.key == key)
    || e.2.ring.any (fun c => !c.cell.cell.svc && c.cell.cell.key == key))

/-- R566: the entries of the outstanding-request table under a key. -/
def State.keyEntries (s : State) (key : Nat) : List Nat :=
  s.requests.entries.filterMap (fun e => match e.2 with
    | some r => if r.key = key then some e.1 else none
    | none => none)

/-- R566: the first three steps: allow-sets, flows and inbound buffers, outstanding requests. -/
def State.beginRetire (s : State) (key mb : Nat) : State :=
  let member := s.memberKey == some key
  let s := (List.range 24).foldl (fun (t : State) p => t.disallowKey p key) s
  let s := { s with
    reed := { s.reed with
      flows := s.reed.flows.filter (fun f => f.key != key), sends := if member then [] else s.reed.sends }
    ports := smapAllTo {} s.ports (fun x => { x with inbound := x.inbound.filter (fun c => c.key != key) }) }
  let s := (s.keyEntries key).foldl (fun (t : State) n => t.endReq n) s
  { s with part := { s.part with retiring := s.part.retiring ++ [(key, mb)] } }

/-- R595: the tap signals a key's closing to the meter. -/
def State.closeTap (s : State) (key : Nat) : State :=
  { s with smu := { s.smu with keys := s.smu.keys.map (fun c => if c.key = key then { c with closed := true } else c) } }

/-- R566: warp entries, slot schedules and remap entries of a key are cleared. -/
def State.clearKey (s : State) (key : Nat) : State :=
  let mine (c : Nat) : Bool := warpValid (s.warp c) && warpKey (s.warp c) == key
  let scheds := smapAllTo [] s.router.schedules (fun l => l.filter (fun e => !mine (schedCircuit e)))
  let s := { s with router := { s.router with warps := sfilter s.router.warps (fun c => !mine c), schedules := scheds } }
  s.remapsUsed.foldl (fun (t : State) n =>
    if t.fld (RTE_REMAP_HI.KEY n) = key then (t.setReg (RTE_REMAP_LO n) 0).setReg (RTE_REMAP_HI n) 0 else t) s

/-- R564, R561: an armed or committed start is given up. -/
def State.disarm (s : State) : State :=
  let st := s.fld PCK_START.STATE
  if st == startArmed || st == startCommitted then
    let s := s.put PCK_START.STATE startDisarmed
    { s with part := { s.part with startPick := none }, seq := { s.seq with committed := none } }
  else s

/-- R566: the module leaves the partition of its member key. -/
def State.leavePartition (s : State) (key : Nat) : State :=
  let s := s.disarm
  let s := (s.setReg PCK_ROLE PCK_ROLE.reset).put RTE_ALIAS.EN 0
  let s := (s.windows.filter (fun e => e.2.valid && e.2.key == key)).foldl
    (fun (t : State) e => (t.closeWindow e.1).2) s
  let s := if s.pickState = pickSlipped then s else (s.put PCK_STATUS.STATE pickIdle).put PCK_STATUS.HOLDOVER 0
  { s with
    part := { s.part with joined := none }
    pick := { s.pick with
      accepted := none, ioEdge := none, nextAt := if s.pickState = pickSlipped then s.pick.nextAt else none } }

/-- R566: with no cell of the key queued, its entries are cleared and its commands answered. -/
def State.endRetire (s : State) (key : Nat) : State :=
  let waiting := s.part.retiring.filter (fun r => r.1 == key)
  if waiting.isEmpty || s.keyQueued key then s
  else
    let s := (s.clearKey key).closeTap key
    let s := if s.memberKey = some key then s.leavePartition key else s
    let s := { s with part := { s.part with
      transit := s.part.transit.filter (fun k => k != key), retiring := s.part.retiring.filter (fun r => r.1 != key) } }
    waiting.foldl (fun (t : State) r => t.answer r.2 stOk) s

/-- R566: giving up a key that the module holds, by KEY_RETIRE or LEAVE_PARTITION. -/
def State.retireKey (s : State) (key mb : Nat) : State :=
  if s.memberKey == some key && s.programOn && !s.fenced 3 then s.answer mb stBusy
  else s.beginRetire key mb

end Sys2Proof.Machine
end

