-- ==== Sys2Proof/Machine/FenceOps.lean ====
section
/-! DEFINITION. Fencing the domains D1 to D3 (R539 to R545): what a fence ends at once, what still drains, and what a drain
that reaches its limit discards. -/
namespace Sys2Proof.Machine

/-- R546: the fence bit of a domain. -/
def fenceBit (d : Nat) : Fld := match d with | 1 => MGT_FENCE.D1 | 2 => MGT_FENCE.D2 | _ => MGT_FENCE.D3

/-- The domains a mask names (R522): bit `d` for D`d`. -/
def domainsOf (mask : Nat) : List Nat := [1, 2, 3].filter (fun d => bitAt mask d)

/-! ## What a fence ends at once (R539) -/

/-- R539: every entry of the outstanding-request table, each of which a unit of D3 holds (R417), ends without an answer. -/
def State.endRequests (s : State) : State :=
  (s.requests.entries.map (fun e => e.1)).foldl (fun (t : State) n => t.endReq n) s

/-- R456, R462: commit processing ends at its current row, and the step table clears. -/
def State.fenceServing (s : State) : State :=
  let s := (if s.serve.begun.isSome then s.nextRow else s).clearRows
  { s with serve := { s.serve with recover := true } }

/-- R539: window writes that wait on tags end. -/
def State.fenceWindows (s : State) : State :=
  (s.inbound.filter (fun b => b.write && !(s.window b.window).deviceVa && s.waitsOnTag b)).foldl
    (fun (t : State) b => t.endInbound b stFenced) s

/-- R340: a yield that has been accepted ends. -/
def State.fenceYield (s : State) : State :=
  let s := s.answerYield stFenced []
  { s with seq := { s.seq with yieldSeg := none } }

/-- R539: no region executes a further word. -/
def State.stopRegions (s : State) : State :=
  let s := s.stopSeq .stoppedFence
  if s.programOn then { s with seq := { s.seq with execLimit := some 0 } } else s

/-- R539: D3 is fenced. -/
def State.fenceD3 (s : State) : State :=
  let s := s.stopRegions.fenceServing.fenceWeights.endRequests
  let s := (List.range 88).foldl (fun (t : State) k => t.fenceShuttle k) s
  let s := (List.range 16).foldl (fun (t : State) k => t.discardBme k false) s
  s.fenceWindows.fenceYield

/-- R539: D2 is fenced: BME commands end, and accesses that wait on walks receive access faults. -/
def State.fenceD2 (s : State) : State :=
  let s := (List.range 16).foldl (fun (t : State) k => t.fenceBme k) s
  let waiting := s.mmu.waiting
  let s := { s with mmu := { s.mmu with waiting := [] } }
  waiting.foldl (fun (t : State) w =>
    (t.recordFault w.who w.va w.write.isSome true).accessFailed w.who w.write.isSome causeAccess) s

/-- R624: a fence of D3 cancels a rehearsal that waits for its pick. -/
def State.fenceRehearsal (s : State) : State :=
  match s.obs.rehearse with
  | some r =>
    if r.running.isSome then s
    else s.endRehearsal r stFenced
  | none => s

/-- R539: a domain not yet fenced is fenced. -/
def State.fenceDomain (s : State) (d : Nat) : State :=
  if s.fenced d then s
  else
    let s := s.put (fenceBit d) 1
    match d with
    | 3 => s.fenceD3.fenceRehearsal
    | 2 => s.fenceD2
    | _ => s.endRequests

/-- R539, R545, R570: domains are fenced, for the mailbox that waits if there is one; a start that was armed or committed is
given up; the fence joins a drain in progress. -/
def State.fenceAll (s : State) (ds : List Nat) (box : Option Nat) : State :=
  let s := ds.foldl (fun (t : State) d => t.fenceDomain d) s.disarm
  let mask := ds.foldl (fun m d => m ||| 2 ^ d) 0
  let d : Drain := match s.fence.drain with
    | none => ⟨s.now, mask, box.toList⟩
    | some d => { d with domains := d.domains ||| mask, boxes := d.boxes ++ box.toList }
  { s with fence := { s.fence with drain := some d } }

/-! ## Draining (R539, R541) -/

/-- The requests through windows onto slices (false) or onto device virtual addresses (true). -/
def State.inboundOf (s : State) (va : Bool) : List Inbound := s.inbound.filter (fun b => (s.window b.window).deviceVa == va)

/-- R539: nothing that the domain accepted remains in flight. -/
def State.drained (s : State) (d : Nat) : Bool :=
  match d with
  | 1 => s.ports.all (fun e => e.2.ingress.isEmpty && e.2.queue.isEmpty && e.2.ring.isEmpty)
  | 2 => s.mmu.waiting.isEmpty && s.hbm.pchs.all (fun e => e.2.queue.all (fun r => r.who.spills))
      && s.cxl.all (fun e => e.2.reads.isEmpty && e.2.writes.isEmpty)
      && s.hbmStacks.all (fun e => e.2.queue.isEmpty && e.2.running.isEmpty) && (s.inboundOf true).isEmpty
  | _ => s.unsched.isEmpty && (s.inboundOf false).isEmpty && s.bmeWay.isEmpty && s.serve.running.isNone
      && s.shuttles.all (fun e => e.2.transfers.all (fun t => t.done))

/-- R328, R539: a discarded access ends for its requester: its line is not written, or its data does not come. -/
def State.accessEnded (s : State) (who : Requester) (write : Bool) : State :=
  if write then s.writeDone who false else s.readDone who (.failed causeFenced 0)

/-- R328, R539: an access that writes a tagged line and is discarded leaves it FAULTED, and the shuttle or command that waited
for it goes on. -/
def State.dropUnsched (s : State) (u : Unsched) : State :=
  let writes := match u.kind with | .read => false | _ => true
  let s := if writes && s.tagged u.region u.line then
      s.setRegion u.region ((s.region u.region).setTag u.line tagFaulted) else s
  match u.who with
  | .window _ _ _ => s
  | w => s.accessEnded w writes

/-- R539: a command on its way to its stack is discarded, with its tagged destination lines marked FAULTED. -/
def State.dropBme (s : State) (c : BmeCmd) : State :=
  c.dstLines.foldl (fun (t : State) l =>
    if t.tagged c.region l then t.setRegion c.region ((t.region c.region).setTag l tagFaulted) else t) s

/-- R539: what remains in a slice's queues, or on its way to a stack, is discarded. -/
def State.forceD3 (s : State) : State :=
  let left := s.unsched
  let lost := s.bmeWay
  let s := { s with unsched := [], bmeWay := [], serve := { s.serve with running := none, begun := none } }
  let s := left.foldl (fun (t : State) u => t.dropUnsched u) s
  let s := lost.foldl (fun (t : State) c => t.dropBme c) s
  (s.inboundOf false).foldl (fun (t : State) b => t.endInbound b stFenced) s

/-- R539: accesses waiting at a pseudo-channel or outstanding at a CXL port are discarded, but for those of the spill unit, which
serves the ports of D1 (R384; DESIGN CHOICE, notes/assumptions/76.md). -/
def State.forceD2 (s : State) : State :=
  let reqs := s.hbm.pchs.flatMap (fun e => e.2.queue.filter (fun r => !r.who.spills)) ++ s.cxl.flatMap (fun e => e.2.reads ++ e.2.writes)
  let s := { s with hbm := { s.hbm with pchs := smapAllTo {} s.hbm.pchs (fun x => { x with queue := x.queue.filter (fun r => r.who.spills) }) }, cxl := [] }
  let s := reqs.foldl (fun (t : State) r => t.accessFailed r.who r.write.isSome causeFenced) s
  let s := (s.inboundOf true).foldl (fun (t : State) b => t.endInbound b stFenced) s
  { s with hbmStacks := smapAllTo {} s.hbmStacks (fun k => { k with queue := [], running := [] }) }

/-- R384: the accesses of the spill unit to the slots that a test names are gone with the cells of those slots. -/
def State.dropSpills (s : State) (slots : Nat → Bool) : State :=
  let mine (r : MemReq) : Bool := match r.who with | .spill _ n _ => slots n | _ => false
  { s with hbm := { s.hbm with pchs := smapAllTo {} s.hbm.pchs (fun x => { x with queue := x.queue.filter (fun r => !mine r) }) } }

/-- R539, R390: cells not yet sent or handled are discarded, and the backlogs are empty. -/
def State.forceD1 (s : State) : State :=
  let s := s.dropSpills (fun n => decide (32768 ≤ n))
  let s := { s with ports := smapAllTo {} s.ports (fun x => { x with ingress := [], queue := [], ring := [] }) }
  (List.range 24).foldl (fun (t : State) p => t.noteBacklog p) s

def State.force (s : State) (d : Nat) : State :=
  if s.drained d then s else match d with | 1 => s.forceD1 | 2 => s.forceD2 | _ => s.forceD3

/-- R581: the log types of a fence and a reset. -/
def logFence : Nat := 0x20
def logReset : Nat := 0x21

/-- R541, R546: the longest drain. -/
def drainLimit : Nat := 50 * usCycles

/-- R541, R545: a drain ends: its time, its log record, and the answers of the commands that wait on it. -/
def State.finishDrain (s : State) (d : Drain) : State :=
  let us := min ((s.now - d.since) / usCycles) 0xFFF
  let s := { s with fence := { s.fence with drain := none } }
  let s := s.put MGT_FENCE.DRAIN_US us
  let s := s.logRec logFence 0xFFFF (leBytes 1 d.domains ++ leBytes 4 us)
  d.boxes.foldl (fun (t : State) mb => t.answer mb stOk (leBytes 4 us)) s

/-- R539, R541: the drain ends because nothing remains, or by force when it reaches 50 µs. -/
def State.endDrain (s : State) : State :=
  match s.fence.drain with
  | none => s
  | some d =>
    let ds := domainsOf d.domains
    if ds.all s.drained && decide (s.now < d.since + drainLimit) then s.finishDrain d
    else
      let s := s.at_ (d.since + drainLimit)
      let s := ds.foldl (fun (t : State) k => t.force k) s
      ((s.raise MGT_FENCE.FORCED).count MGT_RESET_COUNT.FORCED).finishDrain d

end Sys2Proof.Machine
end

