-- ==== Sys2Proof/Machine/FirmOps.lean ====
section
/-! DEFINITION. The configuration flash and its firmware slots (R582, R588, R589): partitions and their owners, which slot runs, a
pending slot's tries, and the registers that show them. -/
namespace Sys2Proof.Machine

/-! ## The configuration flash (R582) -/

/-- R582: the partitions of the configuration flash. -/
inductive FlashPart where
  | manufacturing | installA | installB | helper | managementA | managementB | controlA | controlB | log | meter
  deriving DecidableEq, Repr

/-- R582: bytes of a partition; of the meter's, its images take 1 MiB each and its checkpoint ring 1 MiB. -/
def FlashPart.size : FlashPart → Nat
  | .manufacturing | .installA | .installB | .helper => 65536
  | .managementA | .managementB => 4194304
  | .controlA | .controlB => 8388608
  | .log => 67108864
  | .meter => 33554432
def meterImageSize : Nat := 1048576

/-- R582: the flash arbiter grants the meter's partition, and counters 3 and 4, to the sealed meter alone, and the others to the
management core alone. The model keeps to it by what each operation writes: MgtSt holds what management owns and SmuSt what
the meter owns. -/
def FlashPart.grants (p : FlashPart) (meter : Bool) : Bool := (p == .meter) == meter
def counterGrants (n : Nat) (meter : Bool) : Bool := decide (n < 8) && (n == 3 || n == 4) == meter

/-- R582: bytes of a slot for an image of a kind: 1 management, 2 control firmware, 3 meter. -/
def slotSize (kind : Nat) : Nat :=
  if kind = 1 then FlashPart.managementA.size else if kind = 2 then FlashPart.controlA.size else meterImageSize

/-! ## Slots -/

/-- R520, R592: a slot of a pair, and the running one. -/
def FwPair.slot (p : FwPair) (b : Bool) : FwSlot := if b then p.slotB else p.slotA
def FwPair.now (p : FwPair) : FwSlot := p.slot p.running

/-- R589: the slot not in use: the one that does not run. A slot that is written is no longer pending. -/
def FwPair.spare (p : FwPair) : FwSlot := p.slot (!p.running)
def FwPair.setSpare (p : FwPair) (x : FwSlot) : FwPair :=
  let p := if p.running then { p with slotA := x } else { p with slotB := x }
  { p with pending := if p.running = p.active then none else p.pending }

/-- R589: the slot not in use becomes pending. While a pending image runs, that one counts as the active one from now on
(DESIGN CHOICE, notes/assumptions/78.md). -/
def FwPair.activate (p : FwPair) : FwPair := { p with active := p.running, pending := some 0 }

/-- R587, R588: a slot may run: it holds an image that verified, of a security version not below the counter. -/
def FwPair.runs (p : FwPair) (b : Bool) : Bool := (p.slot b).valid && decide (p.counter ≤ (p.slot b).svn.toNat)

/-- R589: at the reset that starts the firmware, a pending slot that has run and not reached ready has failed once more; at
the third failure it is abandoned. Whether it was abandoned now. -/
def FwPair.failedTry (p : FwPair) : Bool × FwPair :=
  match p.pending with
  | none => (false, p)
  | some n =>
    if p.running == p.active then (false, p)
    else if 3 ≤ n + 1 then (true, { p with pending := none })
    else (false, { p with pending := some (n + 1) })

/-- R587, R589: the slot that runs next: the pending one, else the active one, else the other where the active one may not run;
none where neither may. -/
def FwPair.choose (p : FwPair) : Option Bool :=
  if p.pending.isSome && p.runs (!p.active) then some (!p.active)
  else if p.runs p.active then some p.active
  else if p.runs (!p.active) then some (!p.active)
  else none

def FwPair.start (p : FwPair) : Bool × Option FwPair :=
  let r := p.failedTry
  (r.1, (r.2.choose).map (fun b => { r.2 with running := b }))

/-- R589: a pending image that reaches ready becomes the active one, and the counter follows its security version. -/
def FwPair.ready (p : FwPair) : FwPair :=
  if p.pending.isSome && p.running != p.active then
    { p with active := p.running, pending := none, counter := max p.counter p.now.svn.toNat }
  else p

/-- R581, R589: the log types of an image that is activated, and of one that is refused or abandoned. -/
def logActivated : Nat := 0x40
def logRefused : Nat := 0x41

/-- R603: MGT_BOOT shows the slots that run and those pending. -/
def State.showSlots (s : State) : State :=
  let s := s.put MGT_BOOT.MG_SLOT (bnat s.mgt.mgmt.running)
  let s := s.put MGT_BOOT.CF_SLOT (bnat s.mgt.control.running)
  s.put MGT_BOOT.PENDING (bnat s.mgt.mgmt.pending.isSome + 2 * bnat s.mgt.control.pending.isSome)

/-- R589: the control firmware starts, at a reset of D3; false where no slot may run. -/
def State.startControl (s : State) : Bool × State :=
  let r := s.mgt.control.start
  let p := r.2.getD s.mgt.control.failedTry.2
  let s := { s with mgt := { s.mgt with control := p, cfReady := false } }
  let s := s.showSlots
  (r.2.isSome, if r.1 then s.logRec logRefused 0xFFFF (s.regBytes MGT_BOOT) else s)

end Sys2Proof.Machine
end

