-- ==== Sys2Proof/Machine/DomainOps.lean ====
section
/-! DEFINITION. Resetting the domains D1 to D3 (R535 to R538, R543, R547): what each reset loses and keeps, how long it
takes, and what the domain does when it serves requests again. -/
namespace Sys2Proof.Machine

/-! ## Registers (R23, R538) -/

/-- Registers of a domain take their reset values, but for one. -/
def State.resetRegs (s : State) (d keep : Nat) : State :=
  { s with regs := sfilter s.regs (fun a => a == keep || (match specAt a with | some r => r.domain != d | none => true)) }

/-- R619, R622: each slot in use ends with a record. -/
def State.closeSlots (s : State) : State :=
  (s.obs.slots.map (fun e => e.1)).foldl (fun (t : State) n =>
    t.trace 5 0xFF (leBytes 1 n ++ leBytes 1 (t.fld (PTB_SLOT_CTRL.KIND n)) ++ leBytes 1 0)) s

/-- The slots' registers and state are lost. -/
def State.dropSlots (s : State) : State :=
  { s with
    regs := sfilter s.regs (fun a => !(decide (0xF0100 ≤ a) && decide (a < 0xF0200)))
    obs := { s.obs with slots := [], counts := [] } }

/-- R618, R619, R622: the perturbation session and its slots. -/
def State.clearSlots (s : State) : State := s.closeSlots.dropSlots.put PTB_STATUS.ACTIVE 0

def State.endSession (s : State) : State :=
  ((s.clearSlots).put PTB_STATUS.OPEN 0).put PTB_STATUS.SESSION 0x3F

/-! ## D3 -/

/-- R547, R69: the module leaves SLIPPED. -/
def State.leaveSlipped (s : State) : State :=
  if s.pickState = pickSlipped then
    s.put PCK_STATUS.STATE (if s.part.joined.isNone then pickIdle
      else if s.isOrigin || s.fld PCK_STATUS.HOLDOVER == 0 then pickLocked else pickHoldover)
  else s

/-- R514: the mailboxes whose command a D3 reset ends, but for the one that asked for it. -/
def State.dropCommands (s : State) (asker : Option Nat) : State :=
  let busy := (s.mail.boxes.filter (fun e => e.2.busy.isSome && asker != some e.1)).map (fun e => e.1)
  let s := busy.foldl (fun (t : State) n => t.setBox n { t.box n with running := true }) s
  let lost (b : Option Nat) : Bool := match b with | some n => busy.contains n | none => false
  { s with
    fence := { s.fence with
      dropped := busy
      resets := s.fence.resets.map (fun r => if lost r.mailbox then { r with mailbox := none } else r) } }

/-- R622, R623: a rehearsal is over; the one that resets D3 runs until the reset completes (`done`). -/
def State.dropRehearsal (s : State) (done : Bool) : State :=
  if s.obs.rehearse.any (fun r => r.kind == 1 && r.running.isSome) && !done then s else ({ s with obs := { s.obs with rehearse := none } }).put PTB_STATUS.REHEARSE 0

/-- The commands that the control firmware was carrying out are forgotten. -/
def State.forgetCommands (s : State) : State :=
  { s with
    part := { s.part with retiring := [], starts := [] }
    mmu := { s.mmu with asked := [] }
    windows := smapAllTo {} s.windows (fun w => { w with closing := none }) }.dropRehearsal false

/-- R242, R538: windows 16 to 255 close; the entry of one with a request still in progress stays until it ends. -/
def State.dropWindows (s : State) : State :=
  let s := s.closeWindows
  { s with windows := sfilter s.windows (fun w => s.inbound.any (fun b => b.window == w)) }

/-- R538: what a D3 reset loses in the units of D3. Parked contexts' bytes and frames lie in HBM. -/
def State.clearD3 (s : State) : State :=
  let s := (List.range 16).foldl (fun (t : State) k => t.discardBme k true) s
  { s with
    seq := {}
    regions := smapAllTo {} s.regions (fun r =>
      { clk := { r.clk with stretched := 0, slotDepth := 0, slotLeft := 0, lost := 0, counted := s.now, part := 0 } })
    array := {}
    unsched := []
    bmeWay := []
    shuttles := []
    faultQ := []
    requests := { s.requests with entries := [] }
    serve := { freed := s.serve.freed, parked := s.serve.parked, recover := true }
    weights := { versions := s.weights.versions }
    sync := {}
    mail := { s.mail with locked := none, grid := [], image := none, saving := none }
    obs := { s.obs with trace := [], traceDropped := 0, traceCount := 0 }
    clk := { s.clk with oscillator := false }
    pick := { s.pick with lastComplete := none, quiet := true } }

/-- R88: the region generators lock to the reference again. -/
def State.lockClocks (s : State) : State :=
  (List.range 64).foldl (fun (t : State) n =>
    if t.fld (CLK_RGN_FREQ.STATE n) == 3 then t.put (CLK_RGN_FREQ.STATE n) 0 else t) s

/-- R535, R538, R547, R589, R462: D3 is reset; `asker` is the mailbox that asked for it. -/
def State.resetD3 (s : State) (asker : Option Nat) : State :=
  let s := s.readyAll
  let s := (s.dropCommands asker).forgetCommands.dropWindows.clearD3
  let s := (s.resetRegs 3 0x1000000).endSession
  (s.put PCK_STATUS.LAG 0).lockClocks.leaveSlipped.startControl.2

/-! ## D2 -/

/-- R265, R271, R283, R292, R384, R538: D2 is reset: HBM is kept in self-refresh, and the spill unit holds its traffic. -/
def State.resetD2 (s : State) : State :=
  let mine (w : Requester) : Bool := match w with | .bme _ _ _ => true | _ => false
  let s := { s with
    hbm := { s.hbm with
      pchs := smapAllTo {} s.hbm.pchs (fun x => { queue := x.queue.filter (fun r => r.who.spills) }), selfRefresh := true }
    cxl := []
    mmu := { s.mmu with cache := [], walks := [], waiting := [], invLo := 0 }
    hbmStacks := []
    unsched := s.unsched.filter (fun u => !mine u.who)
    power := { s.power with perst := [] } }
  s.resetRegs 2 0x1000000

/-! ## D1 -/

/-- R384, R412, R419, R514, R538, R612: D1 is reset; the mailbox that asked keeps the command it is to answer. -/
def State.resetD1 (s : State) (asker : Option Nat) : State :=
  let s := (s.endRequests).dropSpills (fun _ => true)
  let s := s.resetRegs 1 0x1000000
  let boxes := s.mail.boxes.filter (fun e => asker == some e.1)
  { s with
    ports := []
    router := {}
    reed := {}
    requests := {}
    pick := { windowAt := s.pick.windowAt, inWindow := s.pick.inWindow, walksStarted := s.pick.walksStarted
              lastComplete := s.pick.lastComplete, quiet := s.pick.quiet }
    part := {}
    sync := { s.sync with filter := [] }
    mail := { s.mail with boxes := boxes, sram := [] }
    fence := { s.fence with dropped := [] }
    obs := { s.obs with shadows := [], armed := none, silent := false } }

/-! ## A reset and its end (R535, R536, R543) -/

/-- R535: how long a reset of a domain takes. -/
def resetTime (d : Nat) : Nat := match d with | 1 => 100 * usCycles | 2 => msCycles | _ => 400 * usCycles

/-- R546: the count of a domain's resets. -/
def resetCount (d : Nat) : Fld :=
  match d with | 1 => MGT_RESET_COUNT.D1 | 2 => MGT_RESET_COUNT.D2 | _ => MGT_RESET_COUNT.D3

/-- R535, R581: a fenced domain is reset. -/
def State.beginReset (s : State) (d : Nat) (asker : Option Nat) : State :=
  let s := s.count (resetCount d)
  let s := s.logRec logReset 0xFFFF (s.regBytes MGT_RESET_COUNT)
  let asker := asker.filter (fun n => !s.fence.dropped.contains n)
  let s := match d with | 1 => s.resetD1 asker | 2 => s.resetD2 | _ => s.resetD3 asker
  { s with fence := { s.fence with resets := s.fence.resets ++ [⟨d, s.now + resetTime d, asker⟩] } }

/-- R535, R536: a domain is reset: at once where it is fenced and drained, else once it is. -/
def State.askReset (s : State) (d : Nat) (asker : Option Nat) : State :=
  if s.fenced d && s.fence.drain.isNone then s.beginReset d asker
  else
    let s := if s.fenced d then s else s.fenceAll [d] none
    { s with fence := { s.fence with after := s.fence.after ++ [(d, asker)] } }

/-- R536: with the drain ended, the resets that waited on it begin. -/
def State.afterDrain (s : State) : State :=
  if s.fence.drain.isSome then s
  else
    let l := s.fence.after
    l.foldl (fun (t : State) e => t.beginReset e.1 e.2) { s with fence := { s.fence with after := [] } }

/-- R514: the commands that a D3 reset ended are answered. -/
def State.answerDropped (s : State) : State :=
  let l := s.fence.dropped
  l.foldl (fun (t : State) n => t.finish n stFenced 0 []) { s with fence := { s.fence with dropped := [] } }

/-- R426: RTE_SELF reads the device ID of the record that management has verified, again after a D1 reset (R22) has taken it
from the register. -/
def State.showDevice (s : State) : State :=
  match s.mgt.install with
  | some r => (s.put RTE_SELF.PHYSICAL r.deviceId.toNat).put RTE_SELF.VALID 1
  | none => s

/-- R535: every port begins to train. -/
def State.detectAll (s : State) : State :=
  (List.range 24).foldl (fun (t : State) p => if t.flag (LNK_CTRL.EN p) then t.enterLnk p lnkDetect else t) s

/-- R283: the last act of a D2 reset. -/
def State.restoreRoot (s : State) : State :=
  let s := { s with hbm := { s.hbm with selfRefresh := false } }
  (s.setReg MMU_ROOT s.mmu.rootRec).put MMU_CTRL.EN 1

/-- R543, R570: the domain serves requests again, unfenced unless FENCE_N is held low. -/
def State.endReset (s : State) (d : Nat) : State :=
  match s.fence.resets.find? (fun r => r.domain == d) with
  | none => s
  | some r =>
    let s := s.at_ r.due
    let s := { s with fence := { s.fence with resets := s.fence.resets.filter (fun x => x != r) } }
    let s := if s.fence.pinLow then s else s.put (fenceBit d) 0
    let s := match d with | 1 => s.showDevice.detectAll | 2 => s.restoreRoot | _ => (s.answerDropped.dropRehearsal true).recoverWeights
    match r.mailbox with
    | some mb => s.answer mb stOk
    | none => s

/-- R587, R514: the control cores run: no reset of D3 is in progress, and nothing holds D3 in reset. -/
def State.controlUp (s : State) : Bool := !s.mgt.holdD3 && !s.fence.resets.any (fun r => r.domain == 3)

end Sys2Proof.Machine
end

