-- ==== Sys2Proof/Machine/BootOps.lean ====
section
/-! DEFINITION. The D0 reset and the boot chain that follows it (R535, R538, R585 to R589, R641 to R649). -/
namespace Sys2Proof.Machine

/-! ## D0 reset (R535, R538) -/

/-- R535, R538, R599: a D0 reset: the whole module but the sealed meter, the flash and what stands outside. What the CXL devices
hold is theirs; whether it was kept shows when a port comes up again (R271). -/
def State.resetD0 (s : State) : State :=
  { pending := s.pending
    now := s.now
    freeCtr := s.freeCtr
    outbox := s.outbox
    regs := sfilter s.regs (fun a => match specAt a with | some r => r.domain == 4 | none => false)
    hbm := { cxlMem := s.hbm.cxlMem, cxlLife := s.hbm.cxlLife }
    pick := { windowAt := s.now }
    fence := { pinLow := s.fence.pinLow }
    mgt := { log := s.mgt.log, logSeq := s.mgt.logSeq, mfg := s.mgt.mfg, installA := s.mgt.installA
             installB := s.mgt.installB, generation := s.mgt.generation, mgmt := s.mgt.mgmt, control := s.mgt.control
             boots := s.mgt.boots + 1, bootAt := s.now, eid := s.mgt.eid, helper := s.mgt.helper, spare := s.mgt.spare }
    smu := s.smu
    power := { s.power with perst := [] } }

/-! ## Releasing the domains (R265, R283, R587, R647, R649) -/

/-- R283: the control firmware writes an empty root table, at a place of its choice, and turns translation on. -/
def State.bringUpMmu (s : State) : State :=
  let k := s.freeNat 16
  let p := k.2.freeNat 32
  let o := p.2.freeNat 195584
  let root := BitVec.ofNat 32 (k.1 * 2 ^ 28 + p.1 * 2 ^ 23 + o.1)
  let s := { o.2 with mmu := { o.2.mmu with rootRec := root } }
  let s := s.hbmWrite (packHbm k.1 p.1 (o.1 * 8192)) (List.replicate 8192 0)
  (s.setReg MMU_ROOT root).put MMU_CTRL.EN 1

/-- R649: with FENCE_N low, D1 to D3 come out of reset fenced. -/
def State.fenceAtRelease (s : State) : State :=
  if s.fence.pinLow then
    (((s.put MGT_FENCE.HW 1).put MGT_FENCE.D1 1).put MGT_FENCE.D2 1).put MGT_FENCE.D3 1
  else s

/-- R587: D1 and D2 are released, and D3 where a control firmware may run. -/
def State.release (s : State) : State :=
  let s := { s with mgt := { s.mgt with stage := 5, holdD1 := false } }
  let s := s.fenceAtRelease.detectAll
  if s.mgt.control.runs s.mgt.control.running then
    let s := s.bringUpMmu
    { s with mgt := { s.mgt with holdD3 := false } }
  else s

/-- R265, R647: the release waits for every stack to be zeroed and for a reference that has been good for 1 ms. -/
def State.tryRelease (s : State) : State :=
  if s.mgt.stage = 4 && decide (16 ≤ s.hbm.initDone.length) && !s.flag CLK_REF_STATUS.REF_LOSS
      && !s.power.trip then s.release else s

/-! ## The boot chain (R585 to R587) -/

/-- R581: the log type of a record that fails its verification. -/
def logRecord : Nat := 0x50

/-- R584: the record's signature, its last 384 bytes, covers all before it. -/
def MfgRec.good (m : MfgRec) : Bool := rsaVerify (Config.rootKey 0) m.signed m.signature

/-- R585: the wrapping key. -/
def wrappingKey (secret : List Byte) : List Byte :=
  hmac secret [0x57, 0x41, 0x4C, 0x49, 0x55, 0x53, 0x2D, 0x4B, 0x57]

/-- R585, R586: both wrapped keys of the manufacturing record unwrap under the key that a secret gives. -/
def MfgRec.unwraps (m : MfgRec) (secret : List Byte) : Bool :=
  let kw := wrappingKey secret
  (unwrapKey kw m.dikWrap).isSome && (unwrapKey kw m.akWrap).isSome

/-- R583: bytes of a record without its signature. -/
def installSize : Nat := 812

/-- R583: a record verifies under an OPERATOR_KEY. -/
def InstallRec.signedBy (r : InstallRec) (key : List Byte) : Bool :=
  rsaVerify key (r.bytes.take installSize) (r.bytes.drop installSize)

/-- R583, R587: a record in a slot verifies: under the OPERATOR_KEY of the record in the other slot, which was the one held when
it came, or under its own (DEDUCED, notes/assumptions/78.md). -/
def InstallRec.good (r : InstallRec) (other : Option InstallRec) : Bool :=
  r.bytes.length == installSize + 384 && (other.any (fun o => r.signedBy o.operator) || r.signedBy r.operator)

/-- R583, R604: the record held: of those that verify, the one of the higher GENERATION. -/
def MgtSt.held (m : MgtSt) : Option InstallRec :=
  match m.installA.filter (fun a => a.good m.installB), m.installB.filter (fun b => b.good m.installA) with
  | some a, some b => if a.generation.toNat < b.generation.toNat then some b else some a
  | some a, none => some a
  | none, b => b

/-- R603: MGT_CEILING takes 600 to 2,000 W. -/
def State.setCeilingReg (s : State) (watts : Nat) : State :=
  if 600 ≤ watts && decide (watts ≤ 2000) then s.put MGT_CEILING.WATTS watts else s

/-- R519: bits 14 to 127 read as zero. -/
def State.setPermittedReg (s : State) (mask : BitVec 128) : State :=
  (List.range 4).foldl (fun (t : State) k => t.setReg (MGT_PERMITTED k) ((mask &&& supported).extractLsb' (32 * k) 32)) s

/-- R581, R587: a record failed its verification: it is logged with MGT_BOOT. -/
def State.logBadRecord (s : State) : State := s.logRec logRecord 0xFFFF (s.regBytes MGT_BOOT)

/-- R426, R587: the installation record comes into force; where the flash holds one and none verifies, that is logged. -/
def State.applyInstall (s : State) : State :=
  match s.mgt.held with
  | none => if s.mgt.installA.isSome || s.mgt.installB.isSome then s.logBadRecord else s
  | some r =>
    let s := { s with mgt := { s.mgt with install := some r } }
    let s := s.showDevice
    let s := (s.setCeilingReg r.ceiling.toNat).setPermittedReg r.permitted
    (s.put MGT_FM.FM_DEV r.fmDev.toNat).put MGT_BOOT.INSTALL_OK 1

/-- R587 stage 2, R589: the management image that runs; none where neither slot may. -/
def State.startMgmt (s : State) : Bool × State :=
  let r := s.mgt.mgmt.start
  let p := r.2.getD s.mgt.mgmt.failedTry.2
  let s := ({ s with mgt := { s.mgt with mgmt := p, readyFrom := s.now } }).showSlots
  (r.2.isSome, if r.1 then s.logRec logRefused 0xFFFF (s.regBytes MGT_BOOT) else s)

/-- R587: a stage fails for good: the management ROM serves what it can. -/
def State.stopBoot (s : State) (stage : Nat) : State :=
  { s with mgt := { s.mgt with stage := stage, up := true } }

/-- R577: the management nonce is drawn. -/
def State.drawNonce (s : State) : State :=
  { s with mgt := { s.mgt with nonce := Config.nonce s.freeCtr }, freeCtr := s.freeCtr + 1 }

/-- R584, R587: the trim of the manufacturing record is written. -/
def State.writeTrim (s : State) : State :=
  match s.mgt.mfg with
  | none => s
  | some m => { s with clk := { s.clk with trim := m.trim } }

/-- R587, R589: stages 3 and 4. -/
def State.bootFirmware (s : State) : State :=
  let s := (s.drawNonce.applyInstall.writeTrim.startControl).2
  let s := { s with mgt := { s.mgt with stage := 4, up := true } }
  let s := if s.flag CLK_REF_STATUS.REF_LOSS then s.logRec evRefLoss 0xFFFF (s.regBytes CLK_REF_STATUS) else s
  s.tryRelease

/-- R585, R586: the module's own keys are unwrapped, or it boots without identity. -/
def State.unwrapKeys (s : State) (m : MfgRec) (secret : List Byte) : State :=
  let kw := wrappingKey secret
  if m.unwraps secret then
    { s with mgt := { s.mgt with dik := unwrapKey kw m.dikWrap, ak := unwrapKey kw m.akWrap } }
  else (s.put MGT_BOOT.ID_FAIL 1).logBadRecord

/-- R585, R587: the boot chain, from the start-up state of the management SRAM and the helper data in flash. -/
def State.bootChain (s : State) (startup : List Byte) : State :=
  match s.mgt.mfg with
  | none => s.stopBoot 1
  | some m =>
    if !m.good then s.logBadRecord.stopBoot 1
    else
      let s := s.unwrapKeys m (Config.extract startup s.mgt.helper)
      let r := s.startMgmt
      if r.1 then r.2.bootFirmware else r.2.stopBoot 2

end Sys2Proof.Machine
end

