-- ==== Sys2Proof/Machine/ClockOps.lean ====
section
/-! DEFINITION. The clocks of the regions (R74 to R90): the time a region loses to stretching, the four caps and the target
they give, and the reference monitor's holdover. -/
namespace Sys2Proof.Machine

/-! ## Stretching (R76 to R79, R620) -/

/-- R79: parts of a nominal cycle in which stretched time is kept, so that it is exact at every code. -/
def clkUnit : Nat := (List.range 77).foldl (fun u i => Nat.lcm u (64 + i)) 1

/-- R76: a monitor stretches the region's next cycle, and by how much the deeper of the two does. -/
def RegionClk.monitorDepth (c : RegionClk) : Nat :=
  max (if c.droopSkip = 0 then c.droop else 0) (if c.pathSkip = 0 then c.path else 0)

/-- R76, R620, R621: the depth of the next cycle: the deepest cause alone lengthens it. -/
def RegionClk.depth (c : RegionClk) : Nat := max c.monitorDepth (if c.slotLeft = 0 then 0 else c.slotDepth)

/-- Cycles for which that depth stays as it is: until a monitor's first stretched cycle or the slot's last one; `t` where
nothing is to change. -/
def RegionClk.steady (c : RegionClk) (t : Nat) : Nat :=
  [c.droopSkip, c.pathSkip, c.slotLeft].foldl (fun m n => if n = 0 then m else min m n) t

/-- A region's cycle lasts 16 × (8 + depth) units at a depth in eighths; a unit is 1 / code of a nominal cycle (R74, R76).
Whole cycles of one depth pass in the units left. -/
def RegionClk.pass (code : Nat) (x : RegionClk × Nat) : RegionClk × Nat :=
  let c := x.1
  let d := c.depth
  let n := min (c.steady x.2) (x.2 / (16 * (8 + d)))
  ({ c with
      lost := c.lost + n * (16 * d * (clkUnit / code))
      stretched := c.stretched + (if c.monitorDepth = 0 then 0 else n)
      droopSkip := c.droopSkip - n, pathSkip := c.pathSkip - n, slotLeft := c.slotLeft - n },
    x.2 - n * (16 * (8 + d)))

/-- R76, R620, R621: the cycles up to `now` pass; the depth changes at most three times on the way. What has passed of the
cycle in progress is kept. -/
def RegionClk.account (code now : Nat) (c : RegionClk) : RegionClk :=
  let x := RegionClk.pass code (RegionClk.pass code (RegionClk.pass code (RegionClk.pass code
    (c, (now - c.counted) * code + c.part))))
  { x.1 with counted := now, part := x.2 }

/-- A cycle of the region begins now (DESIGN CHOICE, notes/assumptions/54.md: where the edges of a region's clock fall against
the timebase is open, R74). -/
def RegionClk.edgeAt (c : RegionClk) (now : Nat) : RegionClk := { c with counted := now, part := 0 }

/-- R76, R620: something stretches the region's cycles, or is about to. -/
def RegionClk.stretching (c : RegionClk) : Bool := c.droop != 0 || c.path != 0 || c.slotLeft != 0

/-- R85, R88: the code a region's clock runs at: its own, or 0.8 GHz on the internal oscillator. -/
def State.clockCode (s : State) (n : Nat) : Nat := if s.clk.oscillator then 64 else s.fld (CLK_RGN_FREQ.CUR_CODE n)

def State.setClk (s : State) (n : Nat) (c : RegionClk) : State := s.setRegion n { s.region n with clk := c }

/-- R79: the stretched time of a region up to now is counted and reported. A stopped region has no cycles (R81). -/
def State.accountClk (s : State) (n : Nat) : State :=
  let c := (s.region n).clk
  if c.stepEnd.isSome || !c.stretching || s.clockCode n == 0 then s
  else
    let c := c.account (s.clockCode n) s.now
    (s.setClk n c).setReg (RGN_CLK_STAT n) (BitVec.ofNat 32 (min (c.lost / clkUnit) 0xFFFFFFFF))

/-- R76: a monitor fires, or its depth changes while it stretches; the first stretched cycle is the first or the second
after it fired (notes/assumptions/15.md). A region whose cycles nothing stretched begins one in the cycle in which the
monitor fires (`RegionClk.edgeAt`); where something else stretches them, the cycle then in progress passes first. A depth that
changes while the monitor stretches holds from the cycle in progress (DESIGN CHOICE, notes/assumptions/77.md). -/
def State.startStretch (s : State) (n depth : Nat) (path : Bool) : State :=
  let s := s.accountClk n
  let c := (s.region n).clk
  let c := if c.stretching then c else c.edgeAt s.now
  if (if path then c.path else c.droop) != 0 then
    s.setClk n (if path then { c with path := depth } else { c with droop := depth })
  else
    let (free, s) := s.freeNat 2
    let skip := free + bnat (c.part != 0)
    s.setClk n (if path then { c with path := depth, pathSkip := skip } else { c with droop := depth, droopSkip := skip })

/-- R76, R79: a monitor clears; what the other one stretches goes on. The cycle in progress is no longer lengthened and adds
nothing to the time lost (DESIGN CHOICE, notes/assumptions/77.md). -/
def State.endStretch (s : State) (n : Nat) (path : Bool) : State :=
  let s := s.accountClk n
  let c := (s.region n).clk
  s.setClk n (if path then { c with path := 0, pathSkip := 0 } else { c with droop := 0, droopSkip := 0 })

/-- R620: the STRETCH slot of a region acts from the first cycle of the span; a region whose cycles nothing else stretches
begins one there. -/
def State.startSlotStretch (s : State) (n : Nat) : State :=
  match s.actingSlot ptbStretch n with
  | none => s
  | some k =>
    let s := s.accountClk n
    let c := (s.region n).clk
    let c := if c.stretching then c else c.edgeAt s.now
    s.setClk n { c with slotDepth := bitsAt (s.slotSub k) 0 3, slotLeft := s.slotParam k 0 16 }

/-! ## Caps and targets (R78, R80, R82, R83, R575) -/

/-- R85: CAP_CODE is the lowest of a region's caps. -/
def State.showCap (s : State) (n : Nat) : State :=
  let c := (s.region n).clk
  s.put (CLK_RGN_FREQ.CAP_CODE n) (min (min c.capGov c.capDroop) (min c.capTherm s.mgt.stackCap))

/-- R78, R82, R83, R575: a cap is lowered or raised by one code, up to 140. No cap goes below 64, the floor that R80 gives the
target (DESIGN CHOICE, notes/assumptions/77.md). -/
def capDown (c : Nat) : Nat := max 64 (c - 1)
def capUp (c : Nat) : Nat := min 140 (c + 1)

/-- R80, R620: the target code of a region. -/
def State.targetCode (s : State) (n : Nat) : Nat :=
  let plan := match s.actingSlot ptbFstep n with
    | some k => s.slotParam k 0 8
    | none => if s.flag CLK_CTRL.BOOST then 140 else s.fld (CLK_RGN_FREQ.PLAN_CODE n)
  max 64 (min plan (s.fld (CLK_RGN_FREQ.CAP_CODE n)))

/-- R29, R82: the governor at the background window after a pick of an average input power, in milliwatts. -/
def State.govern (s : State) (power : Nat) : State :=
  let ceiling := s.fld MGT_CEILING.WATTS * 1000
  let change (f : Nat → Nat) (t : State) : State :=
    t.each t.regionsOn (fun n t => t.setClk n { (t.region n).clk with capGov := f (t.region n).clk.capGov })
  if ceiling < power then change capDown { s with clk := { s.clk with quietPicks := 0 } }
  else if power * 100 ≤ ceiling * 97 then
    if s.clk.quietPicks + 1 = 16 then change capUp { s with clk := { s.clk with quietPicks := 0 } }
    else { s with clk := { s.clk with quietPicks := s.clk.quietPicks + 1 } }
  else { s with clk := { s.clk with quietPicks := 0 } }

/-- R573: the input sensors show the averages of their readings over the pick just ended. -/
def State.averageInputs (s : State) : State :=
  let mean (x : Int × Nat) (n : Nat) (t : State) : State :=
    if x.2 = 0 then t else { t with mgt := { t.mgt with sensors := sset 0 t.mgt.sensors n (x.1 / (x.2 : Int)) } }
  let i := s.mgt.inputs
  let s := mean i.2 185 (mean i.1 184 s)
  { s with mgt := { s.mgt with inputs := ((0, 0), (0, 0)) } }

/-- R573, R574: the input power in milliwatts averaged over the pick just ended: the product of the averages of the input
voltage, in 10 mV, and the input current, in 10 mA; or, where management read neither in that pick, the average that comes with
the boundary (DESIGN CHOICE, notes/assumptions/63.md). -/
def State.inputPower (s : State) (power : Nat) : Nat :=
  let i := s.mgt.inputs
  if i.1.2 = 0 || i.2.2 = 0 then power
  else ((i.1.1 / (i.1.2 : Int)) * (i.2.1 / (i.2.2 : Int))).toNat / 10

/-- R573: the latest reading of a sensor, in units of the sensor's resolution. -/
def State.sensor (s : State) (n : Nat) : Int := sget 0 s.mgt.sensors n
def sensorRegion (n : Nat) : Nat := n
def sensorStack (k : Nat) : Nat := 128 + k

/-- R581: the log type of a lowered thermal cap. -/
def logThermCap : Nat := 0x31

/-- R83, R78: a region's thermal cap by its temperature and its droop cap by the cycles it stretched in the pick. Between 95
and 100 °C the thermal cap stays as it is (DEDUCED, notes/assumptions/54.md: R83 names no change there). -/
def State.regionCaps (s : State) (n : Nat) : State :=
  let c := (s.region n).clk
  let hot := decide (400 ≤ s.sensor (sensorRegion n))
  let therm := if hot then capDown c.capTherm
    else if s.sensor (sensorRegion n) < 380 then capUp c.capTherm else c.capTherm
  let (droop, quiet) :=
    if 1024 < c.stretched then (capDown c.capDroop, 0)
    else if c.quietPicks + 1 = 64 then (capUp c.capDroop, 0) else (c.capDroop, c.quietPicks + 1)
  let s := (s.setClk n { c with capTherm := therm, capDroop := droop, quietPicks := quiet, stretched := 0 }).showCap n
  if therm < c.capTherm then s.logRec logThermCap n (s.regBytes (CLK_RGN_FREQ n)) else s

/-- R575: the cap that the stacks impose on every region. -/
def State.stackCaps (s : State) : State :=
  let temps := (List.range 16).map (fun k => s.sensor (sensorStack k))
  let cap := s.mgt.stackCap
  let cap' := if temps.any (fun t => decide (190 ≤ t)) then capDown cap
    else if temps.all (fun t => decide (t < 180)) then capUp cap else cap
  let s := { s with mgt := { s.mgt with stackCap := cap' } }
  if cap' < cap then s.logRec logThermCap 0xFFFF s.thermBytes else s

/-- R47, R80, R574: every cap is computed for the background window that begins. -/
def State.windowCaps (s : State) (power : Nat) : State :=
  let p := s.inputPower power
  let s := (s.averageInputs.govern p).stackCaps
  s.each s.regionsOn (fun n t => t.regionCaps n)

/-! ## Frequency steps (R80, R81, R87) -/

/-- R81: how long a step to a code holds a region, and the code it reaches: a change of at most 8. -/
def stepTo (cur target : Nat) : Nat := if cur < target then min target (cur + 8) else max target (cur - 8)
def stepHold (cur next : Nat) : Nat := 64 + 32 * (if cur < next then next - cur else cur - next)

/-- R44, R80, R84, R87: a region may take its step of this window. -/
def State.mayStep (s : State) (n : Nat) : Bool :=
  s.pick.inWindow && s.regionOn n && s.flag CLK_CTRL.STEP_EN && !s.flag CLK_REF_STATUS.REF_LOSS && !s.clk.oscillator
    && !(s.region n).clk.stepped && (s.region n).clk.stepEnd.isNone
    && s.targetCode n != s.fld (CLK_RGN_FREQ.CUR_CODE n)

/-! ## The reference (R86 to R90) -/

/-- R88: the longest holdover. -/
def holdoverLimit : Nat := 10 * msCycles

/-- R88, R90: how long the holdover now in force has lasted; it lasts 10 ms at most. -/
def State.holdTime (s : State) : Nat :=
  match s.clk.holdSince with
  | some t => min (s.now - t) holdoverLimit / usCycles
  | none => s.fld CLK_REF_STATUS.HOLD_TIME

/-- R88, R60: ticks are sent, and steps end, only while the clocks follow the reference or its hold. -/
def State.holdoverOver (s : State) : Bool :=
  match s.clk.holdSince with
  | some t => decide (t + holdoverLimit ≤ s.now)
  | none => false

end Sys2Proof.Machine
end

