-- ==== Sys2Proof/Machine/Clock.lean ====
section
/-! DEFINITION. The commands of the clocks: frequency steps, the monitors of a region, and the reference (R76 to R90). -/
namespace Sys2Proof.Machine

/-- FREQUENCY_STEP (R80, R81): the region stops at cycle 16 of the window. -/
def doFrequencyStep (n : Nat) (s : State) : State :=
  if s.mayStep n then
    let s := (s.at_ (s.pick.windowAt + 16)).accountClk n
    let cur := s.fld (CLK_RGN_FREQ.CUR_CODE n)
    let next := stepTo cur (s.targetCode n)
    let c := (s.region n).clk
    let s := s.setClk n { c with stepped := true, stepEnd := some (s.pick.windowAt + 16 + stepHold cur next, next) }
    s.put (CLK_RGN_FREQ.STATE n) 1
  else s
def execFrequencyStep (region : Nat) (s : State) : Out := onUnit (region < 64) (doFrequencyStep region s)

/-- FREQUENCY_STEP_END (R81): the region's clock restarts at its new code, also where REF_LOSS was raised during the stop: the
step's code is the last control word (DEDUCED, notes/assumptions/54.md: R87 says that no step is taken, not what becomes of
one in progress). -/
def doFrequencyStepEnd (n : Nat) (s : State) : State :=
  let c := (s.region n).clk
  match c.stepEnd with
  | none => s
  | some (due, code) =>
    let s := s.at_ due
    let s := s.setClk n ({ c with stepEnd := none }.edgeAt s.now)
    (s.put (CLK_RGN_FREQ.STATE n) 0).put (CLK_RGN_FREQ.CUR_CODE n) code
def execFrequencyStepEnd (region : Nat) (s : State) : Out := onUnit (region < 64) (doFrequencyStepEnd region s)

/-- MONITOR_FIRE (R76): a monitor of a region in use stretches its cycles by a depth in eighths. -/
def doMonitorFire (m : MonitorAt) (depth : Nat) (s : State) : State :=
  if s.regionOn m.region then s.startStretch m.region depth m.path else s
def execMonitorFire (monitor : MonitorAt) (depth : Nat) (s : State) : Out :=
  onUnit (monitor.region < 64 && 1 ≤ depth && depth ≤ 4) (doMonitorFire monitor depth s)

/-- MONITOR_CLEAR (R76): the monitor stretches no further cycle. -/
def doMonitorClear (m : MonitorAt) (s : State) : State :=
  let c := (s.region m.region).clk
  if (if m.path then c.path else c.droop) = 0 then s else s.endStretch m.region m.path
def execMonitorClear (monitor : MonitorAt) (s : State) : Out := onUnit (monitor.region < 64) (doMonitorClear monitor s)

/-- REF_LOSS (R86, R550): the reference is lost. -/
def doRefLoss (s : State) : State :=
  if s.flag CLK_REF_STATUS.REF_LOSS then s
  else
    let s := (s.raise CLK_REF_STATUS.REF_LOSS).raise CLK_REF_STATUS.LOSS_SEEN
    let s := (s.put CLK_REF_STATUS.HOLD_TIME 0)
    let s := { s with clk := { s.clk with holdSince := some s.now } }
    s.event evRefLoss 0xFFFF (s.regBytes CLK_REF_STATUS)
def execRefLoss (s : State) : Out := onUnit true (doRefLoss s)

/-- REF_LOSS_CLEAR (R89): the reference is good again; the duration of the holdover stays readable (R90). A release that
waited for the reference takes place (R647). -/
def doRefLossClear (s : State) : State :=
  if s.flag CLK_REF_STATUS.REF_LOSS then
    let s := (s.put CLK_REF_STATUS.HOLD_TIME s.holdTime).put CLK_REF_STATUS.REF_LOSS 0
    ({ s with clk := { s.clk with holdSince := none } }).tryRelease
  else s
def execRefLossClear (s : State) : Out := onUnit true (doRefLossClear s)

/-- HOLDOVER_EXPIRY (R88): holdover reaches 10 ms: the sequencer stops, a module of a partition slips, and every clock moves
to the internal oscillator. -/
def doHoldoverExpiry (s : State) : State :=
  match s.clk.holdSince with
  | none => s
  | some t =>
    if s.clk.oscillator then s
    else
      let s := (s.at_ (t + holdoverLimit)).raise CLK_REF_STATUS.EXPIRED
      let s := s.each s.regionsOn (fun n t => t.accountClk n)
      let s := if s.part.joined.isSome then s.slip else s
      let s := s.stopSeq .stoppedSlip
      let s := { s with clk := { s.clk with oscillator := true } }
      s.each s.regionsOn (fun n t => (t.setClk n ({ (t.region n).clk with stepEnd := none }.edgeAt t.now)).put (CLK_RGN_FREQ.STATE n) 3)
def execHoldoverExpiry (s : State) : Out := onUnit true (doHoldoverExpiry s)

end Sys2Proof.Machine
end

