-- ==== Sys2Proof/Machine/Cxl.lean ====
section
/-! DEFINITION. The CXL ports' commands (R268 to R271). -/
namespace Sys2Proof.Machine

/-- R270: a read waits for an earlier write to its line. -/
def State.cxlBlocked (s : State) (port : Nat) (r : MemReq) : Bool :=
  (s.cxlPort port).writes.any (fun w => decide (w.serial < r.serial) && w.addr / 64 == r.addr / 64)

/-- CXL_COMPLETION (R270, R271): one of a port's outstanding accesses ends. -/
def doCxlCompletion (port : Nat) (write : Bool) (index : Nat) (result : CxlResult) (s : State) : State :=
  let c := s.cxlPort port
  match (if write then c.writes else c.reads)[index]? with
  | none => s
  | some r =>
    if 256 ≤ index || (!write && s.cxlBlocked port r) then s
    else
      let t := s.takeCxl port index write
      let written : State := t.cxlStore port r.addr (r.write.getD [])
      match result with
      | .failed => (if write then t.cxlUnknown port r.addr (r.write.getD []).length else t.stageFailed r).accessFailed r.who write causeCxlDown
      | .data b => if write then written.writeDone r.who true else (t.cxlStore port r.addr b).readDone r.who (.data b)
      | .poison =>
        if write then written.writeDone r.who true
        else ((t.count (CXL_PORT_ERR.POISON port)).stageFailed r).readDone r.who (.failed causePoison 0)
      | .ack => if write then written.writeDone r.who true else s
def execCxlCompletion (port : Nat) (write : Bool) (index : Nat) (result : CxlResult) (s : State) : Out :=
  onUnit (decide (port < 8) && result.ok) (doCxlCompletion port write index result s)

/-- R271, R581: the log type of a CXL port. -/
def logCxl : Nat := 0x60

/-- CXL_LINK_DOWN (R271). -/
def doCxlLinkDown (port : Nat) (s : State) : State :=
  if !s.flag (CXL_PORT_STATUS.UP port) then s
  else
    let s := s.put (CXL_PORT_STATUS.UP port) 0
    let s := s.put (CXL_PORT_STATUS.RATE port) 0
    let s := s.put (CXL_PORT_STATUS.WIDTH port) 0
    let s := s.count (CXL_PORT_ERR.LINK_DOWN port)
    (s.logRec logCxl port (s.regBytes (CXL_PORT_STATUS port))).failCxl port
def execCxlLinkDown (port : Nat) (s : State) : Out := onUnit (port < 8) (doCxlLinkDown port s)

/-- CXL_LINK_UP (R268, R271): `capacity` is the device's volatile capacity in bytes. Only a module with CXL_TIER brings a
port up (R518), and a device trains once its reset is released (R647). At a port that is up, width and rate fall or come back
(R267). Pages of a device that lost its memory are due to be marked ABSENT (R271, R279). -/
def doCxlLinkUp (port : Nat) (narrow slow : Bool) (capacity : Nat) (retained : Bool) (s : State) : State :=
  if !s.feature featCxl || !sget false s.power.perst port then s
  else if s.flag (CXL_PORT_STATUS.UP port) then
    (s.put (CXL_PORT_STATUS.RATE port) (if slow then 2 else 1)).put (CXL_PORT_STATUS.WIDTH port) (if narrow then 2 else 1)
  else
    let s := s.put (CXL_PORT_STATUS.CAPACITY port) (min (capacity / 2097152) 1048576)
    let s := s.put (CXL_PORT_STATUS.LIMIT port) (bnat (decide (2 ^ 41 < capacity)))
    let s := s.put (CXL_PORT_STATUS.RATE port) (if slow then 2 else 1)
    let s := s.put (CXL_PORT_STATUS.WIDTH port) (if narrow then 2 else 1)
    let s := s.put (CXL_PORT_STATUS.RETAINED port) (bnat retained)
    let s := s.put (CXL_PORT_STATUS.UP port) 1
    if retained then s
    else { s.cxlLost port with mmu := { s.mmu with absentDue := s.mmu.absentDue.filter (fun p => p != port) ++ [port] } }
def execCxlLinkUp (port : Nat) (narrow slow : Bool) (capacity : Nat) (retained : Bool) (s : State) : Out :=
  onUnit (port < 8) (doCxlLinkUp port narrow slow capacity retained s)

end Sys2Proof.Machine
end

