-- ==== Sys2Proof/Machine/Fabric.lean ====
section
/-! DEFINITION. The commands of the router and the reed: scheduled, sprayed and addressed cells (R392 to R416) and the
grants of flows (R407 to R411). -/
namespace Sys2Proof.Machine

/-! ## Arrival -/

/-- R355: the cell, if the link delivered it, leaves the cells that wait for the router. -/
def State.takeIngress (s : State) (p : Nat) (c : Cell) : State :=
  let x := s.port p
  s.setPort p { x with ingress := x.ingress.erase c }

/-- R539: a fenced D1 drops every arriving cell but LINK_CTRL and service cells; a module that stands in for a failed one
takes no cell at all (R623). -/
def State.fabricFenced (s : State) (c : Cell) : Bool := s.obs.silent || (s.fenced 1 && !c.svc)

/-- R423: the host port takes only addressed cells for the module's group, or for none. -/
def State.hostDrops (s : State) (p : Nat) (c : Cell) : Bool :=
  s.isHostPort p &&
    (c.kind != 4 ||
      (let d := s.remap c.key c.dst
       decide (d < s.fld RTE_GROUP.BASE) || decide (s.fld RTE_GROUP.BASE + s.fld RTE_GROUP.COUNT ≤ d)))

/-- R405: the cell is for this module. -/
def State.forUs (s : State) (c : Cell) : Bool :=
  s.flag RTE_SELF.VALID && s.remap c.key c.dst == s.fld RTE_SELF.PHYSICAL

/-- R405, R406, R414, R416, R423: a sprayed or addressed cell arrives on a port: true where it is accepted here. -/
def State.routeIn (s : State) (p : Nat) (c : Cell) : Bool × State :=
  let s := s.takeIngress p c
  if s.fabricFenced c then (false, s)
  else if s.hostDrops p c then (false, s.count (RTE_DROP.ROUTE p))
  else if !s.admits p c then (false, s.dropUnadmitted p c)
  else if s.forUs c then (true, s)
  else (false, s.forward c p)

/-- Keyed addressed cells that the reed delivered are carried out. -/
def State.carryAll (r : State × List Cell) : State := r.2.foldl (fun t c => t.carryOut c) r.1

/-! ## Scheduled cells -/

/-- SCHEDULED_CELL (R394, R396, R399, R402). -/
def doScheduledCell (p : Nat) (c : Cell) (s : State) : State :=
  if c.kind != 2 || c.mark then s
  else
    let s := s.takeIngress p c
    let w := s.warp c.circuit
    if s.fabricFenced c then s
    else if s.isHostPort p then s.count (RTE_DROP.ROUTE p)
    else if !s.allows p c.key then s.count (RTE_DROP.KEY p)
    else if !warpValid w || warpKey w != c.key || (warpIn w != p && warpIn w != 0x1F) || c.circuit == 0xFFF then
      s.count (RTE_DROP.ROUTE p)
    else
      let s := s.replicate c w (fun e => s.now + s.transit p e)
      if warpLocal w then s.deliverWarp p c else s
def execScheduledCell (p : Nat) (c : Cell) (s : State) : Out := onUnit (decide (p < 24) && c.ok) (doScheduledCell p c s)

/-- INBOUND_RELEASE (R399): the first cell of the inbound buffer that no longer waits. -/
def doInboundRelease (p : Nat) (s : State) : State :=
  let x := s.port p
  match x.inbound.find? (fun c => s.warpVerdict (64 + p) c != .wait) with
  | none => s
  | some c => (s.setPort p { x with inbound := x.inbound.erase c }).deliverWarp p c
def execInboundRelease (p : Nat) (s : State) : Out := onUnit (p < 24) (doInboundRelease p s)

/-! ## Sprayed cells -/

/-- SPRAYED_CELL (R405 to R409): a cell of the request or the response class. -/
def doSprayedCell (p : Nat) (c : Cell) (s : State) : State :=
  if c.kind != 3 || decide (2 ≤ c.cls) then s
  else
    let r := s.routeIn p c
    if r.1 then State.carryAll (r.2.reedTake c c.cls) else r.2
def execSprayedCell (p : Nat) (c : Cell) (s : State) : Out := onUnit (decide (p < 24) && c.ok) (doSprayedCell p c s)

/-- GRANT_CELL (R410, R411). -/
def doGrantCell (p : Nat) (c : Cell) (s : State) : State :=
  if c.kind != 3 || c.cls != 2 then s
  else
    let r := s.routeIn p c
    if r.1 then r.2.takeGrantCell c else r.2
def execGrantCell (p : Nat) (c : Cell) (s : State) : Out := onUnit (decide (p < 24) && c.ok) (doGrantCell p c s)

/-- R409: what the flow holds whole is delivered before any count is skipped. -/
def State.deliverFirst (s : State) (src cls : Nat) : State :=
  if (s.findFlow src cls).any (fun f => f.deliver.isSome) then State.carryAll (s.pumpReed src cls) else s

/-- REED_GAP_SKIP (R409): 2 µs after the arrival of a later cell. -/
def doReedGapSkip (src cls : Nat) (s : State) : State :=
  let s := s.deliverFirst src cls
  match s.findFlow src cls with
  | none => s
  | some f =>
    if s.flowBlocked src cls then s
    else
      match f.skip with
      | none => s
      | some (later, g) =>
        let t := s.at_ (later + 2 * usCycles)
        let t := if (f.at 0).isSome then t.count REED_DROP.GAP else t
        State.carryAll ((t.putFlow g).pumpReed src cls)
def execReedGapSkip (src cls : Nat) (s : State) : Out :=
  onUnit (decide (src < 65536) && decide (cls < 4)) (doReedGapSkip src cls s)

/-- GRANT_REQUEST_REPEAT (R411): 10 µs after the last request of a flow that has cells waiting. -/
def doGrantRequestRepeat (dst cls : Nat) (s : State) : State :=
  let f := s.sendFlow dst cls
  match f.waiting, f.asked with
  | c :: _, some t => (s.at_ (t + 10 * usCycles)).askGrant dst cls c.key
  | _, _ => s
def execGrantRequestRepeat (dst cls : Nat) (s : State) : Out :=
  onUnit (decide (dst < 65536) && decide (cls < 4)) (doGrantRequestRepeat dst cls s)

/-- R411: the cycle of a flow's next refresh: 20 µs after the last. -/
def Flow.refreshDue (f : Flow) : Nat := match f.refreshed with | some t => t + 20 * usCycles | none => 0

/-- GRANT_REFRESH (R411): a flow that has delivered a cell in the last 1 ms, 20 µs after its last refresh. -/
def doGrantRefresh (src cls : Nat) (s : State) : State :=
  match s.findFlow src cls with
  | none => s
  | some f =>
    let t := s.at_ f.refreshDue
    if f.delivered.any (fun d => decide (t.now ≤ d + msCycles)) then t.sendGrant { f with refreshed := some t.now } else s
def execGrantRefresh (src cls : Nat) (s : State) : Out :=
  onUnit (decide (src < 65536) && decide (cls < 4)) (doGrantRefresh src cls s)

/-! ## Addressed cells -/

/-- R405, R416: an addressed cell arrives: a service cell is carried out at once, for windows 0 to 2; a keyed one takes its
turn in its flow. -/
def State.addressedCell (s : State) (p : Nat) (c : Cell) : State :=
  let r := s.routeIn p c
  if !r.1 then r.2
  else if c.svc then
    (if remoteWindow c.aAddr ≤ 2 then r.2.carryOut c else r.2.count (RTE_DROP.ROUTE p))
  else State.carryAll (r.2.reedTake c 3)

/-- An addressed cell of an operation. -/
def isAddressed (c : Cell) (op : Nat) : Bool := c.kind == 4 && c.aOp == op

/-- ADDRESSED_WRITE (R393, R416, R240). -/
def doAddressedWrite (p : Nat) (c : Cell) (s : State) : State := if isAddressed c 0 then s.addressedCell p c else s
def execAddressedWrite (p : Nat) (c : Cell) (s : State) : Out :=
  onUnit (decide (p < 24) && c.ok) (doAddressedWrite p c s)

/-- ADDRESSED_READ (R393, R240). -/
def doAddressedRead (p : Nat) (c : Cell) (s : State) : State := if isAddressed c 1 then s.addressedCell p c else s
def execAddressedRead (p : Nat) (c : Cell) (s : State) : Out := onUnit (decide (p < 24) && c.ok) (doAddressedRead p c s)

/-- ADDRESSED_READ_DATA (R393): read data is routed, and taken in its flow. -/
def doAddressedReadData (p : Nat) (c : Cell) (s : State) : State := if isAddressed c 2 then s.addressedCell p c else s
def execAddressedReadData (p : Nat) (c : Cell) (s : State) : Out :=
  onUnit (decide (p < 24) && c.ok) (doAddressedReadData p c s)

/-- ADDRESSED_STATUS (R416): a status is routed, and taken. -/
def doAddressedStatus (p : Nat) (c : Cell) (s : State) : State := if isAddressed c 3 then s.addressedCell p c else s
def execAddressedStatus (p : Nat) (c : Cell) (s : State) : Out :=
  onUnit (decide (p < 24) && c.ok) (doAddressedStatus p c s)

end Sys2Proof.Machine
end

