-- ==== Sys2Proof/Machine/Fence.lean ====
section
/-! DEFINITION. The commands of fences and resets (R536, R539 to R545). -/
namespace Sys2Proof.Machine

/-- R522: DOMAINS names at least one of D1 to D3 and nothing else. -/
def domainsOk (mask : Nat) : Bool := mask != 0 && mask % 2 == 0 && decide (mask < 16)

/-- R539, R541: FENCE, by mailbox or by message. -/
def State.fenceFor (s : State) (mb mask : Nat) : State :=
  if domainsOk mask then s.fenceAll (domainsOf mask) (some mb) else s.answer mb stBadArg

/-- FENCE (R539). -/
def execFence (mb : Nat) (s : State) : Out :=
  onUnit (mb < 64) (s.withMail mb 0x60 (fun rq t => t.fenceFor mb (rqBody rq 0 1)))

/-- R542: acceptance is restored; a domain in reset comes back by itself, and FENCE_N still applies while it is held low. -/
def State.unfence (s : State) (mask : Nat) : State :=
  if s.fence.pinLow then s
  else
    let ds := (domainsOf mask).filter (fun d => !s.fence.resets.any (fun r => r.domain == d))
    let s := ds.foldl (fun (t : State) d => t.put (fenceBit d) 0) s
    if ds.contains 1 then { s with obs := { s.obs with silent := false } } else s

/-- R542: UNFENCE, by mailbox or by message: its status and the state. -/
def State.unfenceFor (s : State) (mask : Nat) : Nat × State :=
  if domainsOk mask then (stOk, s.unfence mask) else (stBadArg, s)

/-- UNFENCE (R542). -/
def execUnfence (mb : Nat) (s : State) : Out :=
  onUnit (mb < 64) (s.withMail mb 0x61 (fun rq t =>
    let r := t.unfenceFor (rqBody rq 0 1)
    r.2.answer mb r.1))

/-- R535, R536, R88: RESET_DOMAIN, by mailbox or by message. -/
def State.resetFor (s : State) (mb mask : Nat) : State :=
  match domainsOf mask with
  | [d] =>
    if mask != 2 ^ d then s.answer mb stBadArg
    else if d < 3 && !s.fenced 3 then s.answer mb stBadArg
    else if d == 3 && s.flag CLK_REF_STATUS.REF_LOSS then s.answer mb stBadArg
    else if s.fence.resets.any (fun r => r.domain == d) || s.fence.after.any (fun e => e.1 == d) then s.answer mb stBusy
    else s.askReset d (some mb)
  | _ => s.answer mb stBadArg

/-- RESET_DOMAIN (R535, R536). -/
def execResetDomain (mb : Nat) (s : State) : Out :=
  onUnit (mb < 64) (s.withMail mb 0x62 (fun rq t => t.resetFor mb (rqBody rq 0 1)))

/-- FENCE_DRAIN_END (R539, R541). -/
def execFenceDrainEnd (s : State) : Out := .next s.endDrain.afterDrain

/-- FENCE_N (R544, R545): the pin has been low for 1 µs. -/
def doFenceN (s : State) : State :=
  let s := { s with fence := { s.fence with pinLow := true } }
  (s.put MGT_FENCE.HW 1).fenceAll [1, 2, 3] none
def execFenceN (s : State) : Out := .next (doFenceN s)

/-- FENCE_N_RELEASE (R544): nothing is unfenced. -/
def doFenceNRelease (s : State) : State :=
  ({ s with fence := { s.fence with pinLow := false } }).put MGT_FENCE.HW 0
def execFenceNRelease (s : State) : Out := .next (doFenceNRelease s)

/-- DOMAIN_RESET_COMPLETE (R535, R543). -/
def execDomainResetComplete (d : Nat) (s : State) : Out :=
  onUnit (decide (1 ≤ d) && decide (d ≤ 3)) (s.endReset d)

end Sys2Proof.Machine
end

