-- ==== Sys2Proof/Machine/Firmware.lean ====
section
/-! DEFINITION. Booting and firmware update (R587 to R590). -/
namespace Sys2Proof.Machine

/-- BOOT (R585, R587, R643): once D0 has left reset, with the start-up state of the SRAM block that the wrapping key is derived
from. -/
def doBoot (startup : List Byte) (s : State) : State :=
  if s.power.good && !s.power.resetLow && s.mgt.stage == 0 then s.bootChain startup else s
def execBoot (startup : List Byte) (s : State) : Out := .next (doBoot startup s)

/-! ## Images (R588) -/

/-- The header fields of an image (notes/assumptions/55.md): KIND, VERSION, SVN, LENGTH and the SHA-256 of its body. -/
def imageKind (b : List Byte) : Nat := leAt b 4 4
def imageVersion (b : List Byte) : BitVec 32 := BitVec.ofNat 32 (leAt b 8 4)
def imageSvn (b : List Byte) : BitVec 32 := BitVec.ofNat 32 (leAt b 12 4)
def imageLength (b : List Byte) : Nat := leAt b 16 4
def imageHash (b : List Byte) : List Byte := bytesAt b 20 32
def imageBody (b : List Byte) : List Byte := (b.drop 52).take (imageLength b)

/-- R582, R588, R589: an image of a kind verifies under a root key, and is not older than the counter allows. What a slot keeps
of an image longer than itself does not verify. -/
def imageOk (key kind counter : Nat) (b : List Byte) : Bool :=
  let n := 52 + imageLength b
  b.length == n + 384 && sha256 (imageBody b) == imageHash b && imageKind b == kind
    && decide (n + 384 ≤ slotSize kind)
    && decide (counter ≤ (imageSvn b).toNat) && rsaVerify (Config.rootKey key) (b.take n) (b.drop n)

/-- The slot that holds an image. -/
def imageSlot (b : List Byte) : FwSlot :=
  { valid := true, version := imageVersion b, svn := imageSvn b, hash := imageHash b }

/-! ## PLDM (R589) -/

def State.fwPair (s : State) (component : Nat) : FwPair := if component = 1 then s.mgt.mgmt else s.mgt.control
def State.setFwPair (s : State) (component : Nat) (p : FwPair) : State :=
  { s with mgt := if component = 1 then { s.mgt with mgmt := p } else { s.mgt with control := p } }

/-- R587: the management core answers PLDM; where its boot stopped, for its own image alone. -/
def State.pldmUp (s : State) (component : Nat) : Bool := s.mgtUp && (decide (3 ≤ s.mgt.stage) || component == 1)

/-- PLDM answers: 0 accepted, 1 verify failure (notes/assumptions/56.md). -/
def State.pldmAnswer (s : State) (component status : Nat) : State := s.emit (.message 2 component status [])

/-- FIRMWARE_COMPONENT_WRITE (R589, R590). -/
def doFirmwareComponentWrite (component : Nat) (image : List Byte) (s : State) : State :=
  let p := s.fwPair component
  if !s.pldmUp component then s
  else if imageOk 1 component p.counter image then
    ((s.setFwPair component (p.setSpare (imageSlot image))).showSlots).pldmAnswer component 0
  else (s.logRec logRefused 0xFFFF (s.regBytes MGT_BOOT)).pldmAnswer component 1
def execFirmwareComponentWrite (component : Nat) (image : List Byte) (s : State) : Out :=
  onUnit (component == 1 || component == 2) (doFirmwareComponentWrite component image s)

/-- ACTIVATE_FIRMWARE (R589): the slot written becomes pending. -/
def doActivateFirmware (component : Nat) (s : State) : State :=
  let p := s.fwPair component
  if !s.pldmUp component then s
  else if p.spare.valid then
    ((s.setFwPair component p.activate).showSlots).pldmAnswer component 0
  else s.pldmAnswer component 1
def execActivateFirmware (component : Nat) (s : State) : Out :=
  onUnit (component == 1 || component == 2) (doActivateFirmware component s)

/-- FIRMWARE_READY (R589): the management image has served its watchdog for 60 s, or the control firmware has answered a
mailbox. -/
def doFirmwareReady (component : Nat) (s : State) : State :=
  let p := s.fwPair component
  let ok := if component = 1 then s.mgt.up && decide (4 ≤ s.mgt.stage) else s.controlUp && s.mgt.cfReady
  if ok && p.pending.isSome && p.running != p.active then
    let s := if component = 1 then s.at_ (s.mgt.readyFrom + 60000 * msCycles) else s
    let s := (s.setFwPair component p.ready).showSlots
    s.logRec logActivated 0xFFFF (s.regBytes MGT_BOOT)
  else s
def execFirmwareReady (component : Nat) (s : State) : Out :=
  onUnit (component == 1 || component == 2) (doFirmwareReady component s)

end Sys2Proof.Machine
end

