-- ==== Sys2Proof/Machine/FwWindow.lean ====
section
/-! DEFINITION. The control firmware's accesses in background windows (R42 rank 5): FIRMWARE_WINDOW_ACCESS. -/
namespace Sys2Proof.Machine

/-- R330: CAUSE of a fault record, its FLAGS[1], its address and its bytes. -/
def recCause (r : List Reg32) : Nat := bitsAt (r.getD 6 0).toNat 24 8
def recAbort (r : List Reg32) : Bool := bitAt (r.getD 7 0).toNat 1
def recAddr (r : List Reg32) : Nat := (r.getD 0 0).toNat + (r.getD 1 0).toNat * 4294967296
def recBytes (r : List Reg32) : List Byte := r.flatMap (fun w => leBytes 4 w.toNat)

/-- R332: the record at the head of the queue is handled: a page fault asks for its page or waits for a migration. -/
def State.takeFault (s : State) : State :=
  match s.faultQ with
  | [] => s
  | r :: rest =>
    let s := { s with faultQ := rest }
    if recAbort r then s
    else if recCause r = causeMigrating || recCause r = causeAbsent then
      let s := { s with serve := { s.serve with stepPages := s.serve.stepPages ++ [recAddr r] } }
      if recCause r = causeAbsent then s.askPage (recAddr r) else s
    else { s with serve := { s.serve with stepFaults := s.serve.stepFaults ++ [recAddr r] } }

/-- R333: the aborts since the last window are reported, and every row of the running step is masked for them, once. -/
def State.maskAborted (s : State) : State :=
  if s.serve.abortDue then
    let s := s.serve.abortRecs.foldl (fun (t : State) r => t.emit (.report (recBytes r))) s
    let s := { s with serve := { s.serve with abortDue := false, abortRecs := [] } }
    (List.range s.batch).foldl (fun (t : State) r => t.fwMask r causeAbort) s
  else s

/-- R256, R279, R281, R282: the firmware may write the aligned entry: it lies outside the service region, and what it
replaces is no table and no page that is resident or on its way, which only a migration changes. -/
def State.entryFree (s : State) (a : Nat) : Bool :=
  a % 8 == 0 && decide (hbmOffset a + 8 ≤ serviceBase)
    && (let k := (s.entryBits a).toNat % 8
        k == 0 || decide (5 ≤ k))

/-- R81, R229, R297, R299: when a command of the firmware's own may start in the window; none where it must wait, as an OPND does
whose region is stopped for a frequency step. -/
def State.fwBmeStart (s : State) (c : BmeCmd) : Option Nat :=
  let n := pchNo c.stack c.pch
  let x := s.pch n
  let free := max s.now (s.pick.windowAt + 16)
  if !(s.stack c.stack).fwOrderOk c then none
  else if c.op = 1 then
    (if (s.region c.region).clk.stepEnd.isNone && s.fitsWindow free c.latency 0 then some free else none)
  else
    let start := max free x.busyUntil
    let running := (s.stack c.stack).running.any (fun r => !r.ended && r.cmd.op != 1 && r.cmd.pch == c.pch)
    if x.refreshes != some 0 || running || s.walkWants n || !s.fitsWindow start c.latency (s.scrubReserve n) then none
    else some start

/-- R297, R312, R313, R44: a command of the firmware's own: it starts once its pseudo-channel and the operand buffer's order
let it and ends in its window; a fenced D2 refuses it, and one with a fault holds no pseudo-channel. None where it waits. -/
def State.fwBme (s : State) (op stack pch vreg : Nat) (block : List Byte) : Option State :=
  match s.physOf vreg with
  | none => some s
  | some n =>
    let c : BmeCmd :=
      { op := op, stack := stack, pch := pch, start := 0, segment := s.pickNo, region := n, block := block, fw := true }
    if op = 0 || 4 < op then some s
    else if s.fenced 2 then some (s.markBme c)
    else
      (s.fwBmeStart c).map (fun start =>
        let s := s.at_ start
        let holds := op != 1 && (s.bmeFault c).isNone
        let k := pchNo stack pch
        (if holds then s.setPch k { s.pch k with busyUntil := start + c.latency } else s).beginBme c start .good)

/-- R42, R81: bytes go into a slice, each line through a write port of its bank; none where the window has no room, or the region
is stopped for a frequency step. -/
def State.fwSlice (s : State) (n addr : Nat) (bytes : List Byte) : Option State :=
  ((List.range (linesTouched addr bytes.length)).foldl (fun (o : Option State) i => o.bind (fun t => t.holdPort n (addr / 64 + i)))
    (if (s.region n).clk.stepEnd.isSome then none else some s)).map (fun t => t.putSlice n addr bytes)

/-- R444: the writes into the row-mask tensor. -/
def State.maskTouches (s : State) : List FwTouch :=
  match s.rowBlock with
  | none => []
  | some (n, l) => (List.range ((s.batch + 63) / 64)).map (fun i => .port n (l + 4096 + i))

/-- R42, R443: the accesses of a row load: the entries it changes, the lines of the rows that are not kept, and the row-mask
tensor. -/
def State.rowTouches (s : State) : List FwTouch :=
  if !s.loadsRows then []
  else
    let t := s.rowLoad
    let changed := (s.ctxUsed.filter (fun n => s.ctxEntry n != t.ctxEntry n)).flatMap (fun n => (s.hbmLines (s.ctxAddr n) 64))
    let kept := s.recoverRows.keptRows
    changed.map (fun a => .line a)
      ++ (match s.rowBlock with
          | none => []
          | some (n, l) => ((List.range s.batch).filter (fun r => !kept.contains r)).map (fun r => .port n (l + r)))
      ++ s.maskTouches

/-- R449: the accesses of a context that is parked or comes back: its frames and its entry. -/
def State.parkTouches (s : State) (n from_ : Nat) : List FwTouch :=
  let b := s.ctxEntry n
  (if eget b enState = from_ then (s.kvFrames b).flatMap (fun a => (List.range 1024).map (fun i => .line (a + 64 * i))) else [])
    ++ (s.hbmLines (s.ctxAddr n) 64).map (fun a => .line a)

/-- R42: the 64-byte accesses that an action makes before it has its effect. -/
def State.fwTouches (s : State) : FwAction → List FwTouch
  | .rowLoad => s.rowTouches
  | .abortMask => if s.serve.abortDue then s.maskTouches else []
  | .pageIn va leaf _ | .migrateEnd va leaf => s.pageTouches va leaf
  | .migrateBegin va | .evict va => (s.entryLine va).map (fun a => .line a)
  | .writeEntry addr _ => if s.entryFree addr then [.line (addr / 64 * 64)] else []
  | .writeVa va bytes => (s.hbmLines va bytes.length).map (fun a => .line a)
  | .park ctx => s.parkTouches ctx ctxReady
  | .unpark ctx => s.parkTouches ctx ctxParked
  | .mailboxTake | .faultRecord | .writeSlice _ _ _ | .portAbsent _ | .bme _ _ _ _ _ => []

/-- R42: what an action does once its accesses have been made; those that do all at once are no concern of it. -/
def State.fwEffect (s : State) : FwAction → State
  | .rowLoad => s.rowLoad
  | .abortMask => s.maskAborted
  | .pageIn va leaf bytes => s.pageIn va leaf bytes
  | .migrateBegin va => s.migrateBegin va
  | .migrateEnd va leaf => s.migrateEnd va leaf
  | .evict va => s.evict va
  | .writeEntry addr entry => if s.entryFree addr then s.setEntryBits addr entry else s
  | .writeVa va bytes => s.vaStore va bytes false
  | .park ctx => s.park ctx
  | .unpark ctx => s.unpark ctx
  | .mailboxTake | .faultRecord | .writeSlice _ _ _ | .portAbsent _ | .bme _ _ _ _ _ => s

/-- R42, R44: an action goes on with its accesses, and has its effect once the last is made; what is left of them keeps its place
for the next window. -/
def State.fwGoOn (s : State) (act : FwAction) (l : List FwTouch) : State :=
  let r := s.touchAll l
  if r.1.isEmpty then ({ r.2 with serve := { r.2.serve with job := none } } : State).fwEffect act
  else { r.2 with serve := { r.2.serve with job := some ⟨act, r.1⟩ } }

/-- R42: an action of the control firmware begins; none where it cannot make its first access in this window. -/
def State.firmwareAct (s : State) (act : FwAction) : Option State :=
  match act with
  | .mailboxTake => some s.takeMail
  | .faultRecord => some s.takeFault
  | .writeSlice vreg addr bytes =>
    match s.physOf vreg with
    | some n => s.fwSlice n addr bytes
    | none => some s
  | .portAbsent port => s.portAbsent port
  | .bme op stack pch vreg block => s.fwBme op stack pch vreg block
  | .rowLoad | .abortMask | .pageIn _ _ _ | .migrateBegin _ | .migrateEnd _ _ | .evict _ | .writeEntry _ _ | .writeVa _ _
  | .park _ | .unpark _ =>
    let l := s.fwTouches act
    if !l.isEmpty && (s.touchAll l).1 == l then none else some (s.fwGoOn act l)

/-- R42: an action under way, or one that waits, wants a pseudo-channel. -/
def State.fwWants (s : State) (n : Nat) : Bool :=
  let wants (l : List FwTouch) : Bool := l.any (fun x => match x with | .line a => pchOf a == n | _ => false)
  (match s.serve.job with | some j => wants j.left | none => false) || s.serve.fwWait.any (fun a => wants (s.fwTouches a))

/-- R44: the actions that wait are carried out in their order, up to the first that cannot start or end. -/
def State.runActs (s : State) : List FwAction → State
  | [] => { s with serve := { s.serve with fwWait := [] } }
  | a :: l =>
    if s.serve.job.isSome then { s with serve := { s.serve with fwWait := a :: l } }
    else
      match s.firmwareAct a with
      | some t => State.runActs t l
      | none => { s with serve := { s.serve with fwWait := a :: l } }

/-- R44: the action under way goes on. -/
def State.runJob (s : State) : State := match s.serve.job with | some j => s.fwGoOn j.act j.left | none => s

/-- FIRMWARE_WINDOW_ACCESS (R42 to R44): the control cores act in a background window, from its cycle 16, where 24 cycles are
left. An action that cannot start or end keeps its place, and goes on with the next that comes in a window. -/
def doFirmwareWindowAccess (act : FwAction) (s : State) : State :=
  let start := max s.now (s.pick.windowAt + 16)
  let acts := s.serve.fwWait ++ [act]
  if !s.controlUp then s
  else if !s.fitsWindow start 24 0 then { s with serve := { s.serve with fwWait := acts } }
  else (s.at_ start).runJob.runActs acts
def execFirmwareWindowAccess (act : FwAction) (s : State) : Out := onUnit act.ok (doFirmwareWindowAccess act s)

end Sys2Proof.Machine
end

