-- ==== Sys2Proof/Machine/Hbm.lean ====
section
/-! DEFINITION. The pseudo-channels' own commands (R34, R43, R44, R260 to R265). -/
namespace Sys2Proof.Machine

/-- HBM_REFRESH (R34, R43, R265): one of the window's refreshes, or one that a cut window still owes. -/
def doHbmRefresh (stack pch : Nat) (s : State) : State :=
  let n := pchNo stack pch
  let x := s.pch n
  let owed := x.refreshes.getD (refreshesOf s.pickLen)
  if s.hbm.selfRefresh then s
  else if s.pick.inWindow then
    let start := max s.now (max x.busyUntil (s.pick.windowAt + 16))
    if owed = 0 || !s.fitsWindow start 96 0 then s
    else (s.at_ start).setPch n { x with refreshes := some (owed - 1), busyUntil := start + 96 }
  else
    let start := max s.now x.busyUntil
    if x.carried = 0 then s
    else (s.at_ start).setPch n { x with carried := x.carried - 1, busyUntil := start + 96 }
def execHbmRefresh (stack pch : Nat) (s : State) : Out :=
  onUnit (decide (stack < 16) && decide (pch < 32)) (doHbmRefresh stack pch s)

/-- HBM_SCRUB (R42, R264): the window's one line of a pseudo-channel, after the walks and the firmware's accesses that can still
start on it. -/
def doHbmScrub (stack pch : Nat) (ecc : Ecc) (s : State) : State :=
  let n := pchNo stack pch
  let x := s.pch n
  let start := max s.now (max x.busyUntil (s.pick.windowAt + 16))
  if s.hbm.selfRefresh || x.scrubbed || x.refreshes != some 0 || !s.fitsWindow start 24 0
      || ((s.walkWants n || s.fwWants n) && (s.pchSlot n).isSome) then s
  else
    let c := s.hbmCheck (packHbm stack pch x.scrubAt) ecc
    let s := if c.1 then c.2.count (BME_STACK_ECC.SCRUB_UNCORR stack) else c.2
    (s.at_ start).setPch n
      { x with scrubbed := true, scrubAt := (x.scrubAt + 64) % 0x60000000, busyUntil := start + 24 }
def execHbmScrub (stack pch : Nat) (ecc : Ecc) (s : State) : Out :=
  onUnit (decide (stack < 16) && decide (pch < 32)) (doHbmScrub stack pch ecc s)

/-- HBM_RUN (R260, R262): the oldest accesses of a pseudo-channel to one row segment, at most `lines` of them; `errors` says
which of them the code corrects or cannot. -/
def doHbmRun (stack pch lines : Nat) (errors : List (Nat × Bool)) (s : State) : State :=
  let n := pchNo stack pch
  let x := s.pch n
  let run := runOf lines x.queue
  let start := max s.now x.busyUntil
  let end_ := start + 21 + 3 * run.length
  if run.isEmpty || s.hbm.selfRefresh || !s.runFits stack pch end_ then s
  else
    let s := (s.at_ start).setPch n { x with queue := x.queue.drop run.length, busyUntil := end_ }
    run.zipIdx.foldl (fun t e =>
      t.makeHbm e.1 (match errors.find? (fun u => u.1 == e.2) with
        | none => .good
        | some (_, true) => .uncorrectable
        | some (_, false) => .corrected)) s
def execHbmRun (stack pch lines : Nat) (errors : List (Nat × Bool)) (s : State) : Out :=
  onUnit (decide (stack < 16) && decide (pch < 32) && decide (1 ≤ lines) && decide (lines ≤ 32))
    (doHbmRun stack pch lines errors s)

/-- HBM_INIT_COMPLETE (R265): every line of the stack holds zero bytes with valid codes. -/
def doHbmInitComplete (stack : Nat) (s : State) : State :=
  if s.hbm.initDone.contains stack then s
  else
    ({ s with hbm := { s.hbm with
        mem := sfilter s.hbm.mem (fun a => hbmStack a != stack)
        badLines := s.hbm.badLines.filter (fun a => hbmStack a != stack)
        initDone := stack :: s.hbm.initDone } }).tryRelease
def execHbmInitComplete (stack : Nat) (s : State) : Out := onUnit (stack < 16) (doHbmInitComplete stack s)

end Sys2Proof.Machine
end

