-- ==== Sys2Proof/Machine/Link.lean ====
section
/-! DEFINITION. The commands of a fabric port: codewords, LINK_CTRL operations, training and retraining, the egress queue
(R346 to R391). -/
namespace Sys2Proof.Machine

/-! ## Codewords -/

/-- R355, R371, R373, R376: a port sends and decodes codewords in ACTIVE, and for the MEASURE cells of training and of a
retrain. -/
def State.takesCodewords (s : State) (p : Nat) : Bool :=
  s.lnkUp p || s.lnkState p == lnkMeasure || (s.lnkState p == lnkRetrain && (s.port p).relocked)

/-- CODEWORD_RECEIVE (R351). -/
def doCodewordReceive (p : Nat) (lanes : List (List Pam4)) (s : State) : State :=
  if s.takesCodewords p then s.receiveCodeword p lanes else s
/-- R347: 1,024 symbols, the same number on each lane. -/
def lanesOk (lanes : List (List Pam4)) : Bool := !lanes.isEmpty && lanes.all (fun l => l.length * lanes.length == 1024)
def execCodewordReceive (p : Nat) (lanes : List (List Pam4)) (s : State) : Out :=
  onUnit (decide (p < 24) && lanesOk lanes) (doCodewordReceive p lanes s)

/-- CODEWORD_SEND (R350). -/
def doCodewordSend (p : Nat) (s : State) : State := if s.takesCodewords p then s.sendCodeword p else s
def execCodewordSend (p : Nat) (s : State) : Out := onUnit (p < 24) (doCodewordSend p s)

/-! ## LINK_CTRL operations -/

/-- REPLAY_REQ (R362). -/
def execReplayReq (p first last : Nat) (all : Bool) (s : State) : Out :=
  onUnit (decide (p < 24) && decide (first < 65536) && decide (last < 65536))
    (if s.takesCodewords p then s.takeReplayReq p first last all else s)

/-- The open gap asked for longest ago. -/
def oldestGap (l : List Gap) : Option Gap :=
  l.foldl (fun (m : Option Gap) g => match m with
    | none => some g
    | some h => some (if g.lastAt < h.lastAt then g else h)) none

/-- REPLAY_REQ_RETRY (R361): the gap asked for longest ago, 1 µs after its last request. -/
def doReplayReqRetry (p : Nat) (s : State) : State :=
  let x := s.port p
  let gaps := x.gaps.filter x.gapOpen
  match oldestGap gaps with
  | none => s.setPort p { x with gaps := gaps }
  | some g =>
    let t := s.at_ (g.lastAt + usCycles)
    if g.requests < 8 then
      (t.setPort p { x with gaps := gaps.map (fun h => if h = g then { g with requests := g.requests + 1, lastAt := t.now } else h) }).sendControl
        p (if t.compat p then ctlReplay true x.rxNext 0 else ctlReplay false g.first g.last)
    else (t.setPort p { x with gaps := gaps.filter (fun h => h != g) }).sendControl p (ctlReplay true x.rxNext 0)
def execReplayReqRetry (p : Nat) (s : State) : Out := onUnit (p < 24) (doReplayReqRetry p s)

/-- GO_BACK (R363): 4 µs after ACK last advanced. -/
def doGoBack (p : Nat) (s : State) : State :=
  let x := s.port p
  if s.lnkUp p && !x.replay.isEmpty then (s.at_ (x.ackAt + 4 * usCycles)).goBack p else s
def execGoBack (p : Nat) (s : State) : Out := onUnit (p < 24) (doGoBack p s)

/-- MEASURE (R373). -/
def execMeasure (p : Nat) (index : BitVec 8) (stamp : BitVec 32) (hold : Nat) (s : State) : Out :=
  onUnit (p < 24) (if s.takesCodewords p then s.takeMeasure p index.toNat stamp.toNat hold else s)

/-- MEASURE_ECHO (R373). The average counts echoes whatever their index. -/
def execMeasureEcho (p : Nat) (_index : BitVec 8) (stamp hold : BitVec 32) (s : State) : Out :=
  onUnit (p < 24) (if s.takesCodewords p then s.takeEcho p stamp.toNat hold.toNat else s)

/-- WIDTH_REQ, WIDTH_ACK and WIDTH_NAK (R378). -/
def execWidthReq (p : Nat) (lanes : BitVec 8) (at_ : BitVec 32) (s : State) : Out :=
  onUnit (p < 24) (s.takeWidthReq p lanes.toNat at_.toNat)
def execWidthAck (p : Nat) (lanes : BitVec 8) (at_ : BitVec 32) (s : State) : Out :=
  onUnit (p < 24) (s.takeWidthAck p lanes.toNat at_.toNat)
def execWidthNak (p : Nat) (lanes : BitVec 8) (at_ : BitVec 32) (s : State) : Out :=
  onUnit (p < 24) (s.takeWidthNak p lanes.toNat at_.toNat)

/-- R378: a count of codewords has reached another, modulo 2^32. -/
def countReached (at_ n : Nat) : Bool := decide ((n + 4294967296 - at_ % 4294967296) % 4294967296 < 2147483648)

/-- WIDTH_SWITCH_POINT (R378): the codeword count has reached AT. -/
def doWidthSwitchPoint (p : Nat) (s : State) : State :=
  let x := s.port p
  match x.width with
  | some w =>
    if s.lnkUp p && w.agreed && countReached w.at_ x.codewords then
      let t := (s.useLanes p w.lanes.toNat).put (LNK_STATUS.LEAD p) (bnat w.mine)
      let t := t.enterLnk p lnkSwitch
      t.setPort p { t.port p with width := none }
    else s
  | none => s
def execWidthSwitchPoint (p : Nat) (s : State) : Out := onUnit (p < 24) (doWidthSwitchPoint p s)

/-- SWITCH_TIMEOUT (R378): 1 µs after the switch point. -/
def doSwitchTimeout (p : Nat) (s : State) : State :=
  if s.lnkState p = lnkSwitch then (s.at_ ((s.port p).since + usCycles)).fastRetrain p true else s
def execSwitchTimeout (p : Nat) (s : State) : Out := onUnit (p < 24) (doSwitchTimeout p s)

/-! ## Retraining -/

/-- R376: the lanes have been tested and the port locks on the widest set of those that both ends can use: the mask that this
end has heard is the partner's, or, once the end that leads has chosen, its choice. -/
def State.relock (s : State) (p : Nat) (tests : List LaneTest) : State :=
  let t := s.recordLanes p (passingOf tests) true
  let leads := t.flag (LNK_STATUS.LEAD p)
  let lanes := chooseLanes (t.usableLanes p &&& (t.port p).leadLanes.toNat)
  if lanes = 0 then t.fullRetrainPort p
  else
    let t := (t.useLanes p lanes).syncScramblers p
    let t := t.setPort p { t.port p with relocked := true }
    let m := t.trainMsg p lnkRetrain lanes leads
    (t.emit (.training p m (trainingBlock m))).startMeasure p

/-- R376: the delay has been measured: the port returns to ACTIVE and goes back. -/
def State.endRetrain (s : State) (p : Nat) : State :=
  let t := s.enterLnk p lnkActive
  (t.setPort p { t.port p with asked := false, codewords := 0 }).goBack p

/-- RETRAIN_COMPLETE (R376): the port locks again on the lanes that pass, and, once the delay is measured, is ACTIVE. -/
def doRetrainComplete (p : Nat) (tests : List LaneTest) (s : State) : State :=
  if s.lnkState p = lnkRetrain then
    if !(s.port p).relocked then s.relock p tests
    else if 16 ≤ (s.port p).measured then s.endRetrain p
    else s
  else s
def execRetrainComplete (p : Nat) (tests : List LaneTest) (s : State) : Out :=
  onUnit (decide (p < 24) && tests.length == 8) (doRetrainComplete p tests s)

/-- RETRAIN_TIMEOUT (R376): 8 µs after the retrain began. -/
def doRetrainTimeout (p : Nat) (s : State) : State :=
  if s.lnkState p = lnkRetrain then (s.at_ ((s.port p).since + 8 * usCycles)).fullRetrainPort p else s
def execRetrainTimeout (p : Nat) (s : State) : Out := onUnit (p < 24) (doRetrainTimeout p s)

/-- LANE_SIGNAL_LOSS (R375): an active lane loses signal or lock. -/
def doLaneSignalLoss (p lane : Nat) (s : State) : State :=
  if s.lnkUp p && bitAt (s.fld (LNK_STATUS.LANES p)) lane then s.fastRetrain p true else s
def execLaneSignalLoss (p lane : Nat) (s : State) : Out :=
  onUnit (decide (p < 24) && decide (lane < 8)) (doLaneSignalLoss p lane s)

/-- LANE_DEGRADE (R377): the decoder has attributed more than 65,536 corrected symbols to an active lane within 1 ms. -/
def doLaneDegrade (p lane : Nat) (s : State) : State :=
  if s.lnkUp p && bitAt (s.fld (LNK_STATUS.LANES p)) lane && decide (65536 < sget 0 (s.port p).symErrs lane) then
    let x := s.port p
    let left := x.passing.toNat &&& (255 - 2 ^ lane)
    let t := (s.put (LNK_STATUS.FAILED p) (s.fld (LNK_STATUS.FAILED p) ||| 2 ^ lane)).raise (LNK_EVT.LANE_DROP p)
    let t := t.setPort p { x with passing := BitVec.ofNat 8 left }
    t.requestWidth p (chooseLanes (t.usableLanes p))
  else s
def execLaneDegrade (p lane : Nat) (s : State) : Out :=
  onUnit (decide (p < 24) && decide (lane < 8)) (doLaneDegrade p lane s)

/-- RETRAIN, FULL_RETRAIN and WIDEN: writes of LNK_CTRL (R385). -/
def execRetrain (p : Nat) (s : State) : Out := onUnit (p < 24) (if s.lnkUp p then s.fastRetrain p true else s)
def doFullRetrain (p : Nat) (s : State) : State := if lnkEqualise ≤ s.lnkState p then s.fullRetrainPort p else s
def execFullRetrain (p : Nat) (s : State) : Out := onUnit (p < 24) (doFullRetrain p s)

/-- R377, R385: a dropped lane comes back if it passes its test, which the module cannot know before it is made: a free
choice. -/
def doWiden (p : Nat) (s : State) : State :=
  if s.lnkUp p then
    let x := s.port p
    let f := s.freeByte
    let back := s.fld (LNK_STATUS.FAILED p) &&& f.1.toNat
    let t := f.2.setPort p { x with passing := BitVec.ofNat 8 (x.passing.toNat ||| back) }
    let t := t.put (LNK_STATUS.FAILED p) (s.fld (LNK_STATUS.FAILED p) &&& (255 - back))
    t.requestWidth p (chooseLanes (t.usableLanes p))
  else s
def execWiden (p : Nat) (s : State) : Out := onUnit (p < 24) (doWiden p s)

/-- PORT_EN_WRITE (R370, R385). -/
def doPortEnWrite (p : Nat) (en : Bool) (s : State) : State :=
  let t := s.put (LNK_CTRL.EN p) (bnat en)
  if en then (if t.lnkState p = lnkDown && (t.port p).held.isNone && !t.mgt.holdD1 then t.enterLnk p lnkDetect else t)
  else if t.lnkState p = lnkDown then t else t.lnkToDown p
def execPortEnWrite (p : Nat) (en : Bool) (s : State) : Out := onUnit (p < 24) (doPortEnWrite p en s)

/-! ## Training -/

/-- TRAINING_BLOCK (R371, R375, R376, R379): the partner asks for a retrain, or names its lanes in one. A block whose CRC does
not match is discarded. -/
def doTrainingBlock (p : Nat) (msg : TrainMsg) (s : State) : State :=
  let x := s.port p
  let hear (s : State) : State := s.setPort p { s.port p with leadLanes := msg.lanes }
  if !msg.good then s
  else if s.lnkState p = lnkRetrain && x.asked then
    if msg.retrain then
      let leads := decide (s.identity < msg.identity.toNat)
      let t := (s.raise (LNK_EVT.COLLISION p)).put (LNK_STATUS.LEAD p) (bnat leads)
      hear (t.setPort p { t.port p with asked := false })
    else hear s
  else if s.lnkState p = lnkRetrain then hear s
  else if msg.retrain && (s.lnkUp p || s.lnkState p = lnkSwitch) then hear (s.fastRetrain p false)
  else s
def execTrainingBlock (p : Nat) (msg : TrainMsg) (s : State) : Out := onUnit (p < 24) (doTrainingBlock p msg s)

/-- R372: the partner is refused. -/
def State.partnerBad (s : State) (b : Partner) : Bool :=
  b.identity.toNat == s.identity || (b.delef && !s.feature featDelef)
    || (match b.key, s.memberKey with
        | some k, some m => k.toNat == m && b.config.toNat != s.config
        | _, _ => false)

/-- R365, R372, R386, R387, R623: IDENTIFY ends. -/
def State.identify (s : State) (p : Nat) (b : Partner) : State :=
  let t := s.put (LNK_PARTNER_LO.ID_LO p) (b.identity.toNat % 4294967296)
  let t := t.put (LNK_PARTNER_HI.ID_HI p) (b.identity.toNat / 4294967296)
  let t := t.put (LNK_DELAY.PARTNER_DEV p) b.device.toNat
  if s.partnerBad b then (t.enterLnk p lnkDetect).raise (LNK_EVT.PARTNER_BAD p)
  else
    let t := t.put (LNK_STATUS.COMPAT p) (bnat b.delef)
    let t := t.put (LNK_STATUS.SPILL p) (bnat (t.feature featSpill && !b.delef))
    let t := t.enterLnk p lnkActive
    (t.setPort p { t.port p with partner := b.port.toNat, codewords := 0, ackSent := 0, ackCount := 0, ackPoint := t.now }).rehearsalUp p

/-- TRAINING_STAGE_COMPLETE (R370). -/
def doTrainingStageComplete (p : Nat) (tests : List LaneTest) (partner : Partner) (s : State) : State :=
  let st := s.lnkState p
  if st = lnkDown then
    if s.flag (LNK_CTRL.EN p) && (s.port p).held.isNone && !s.mgt.holdD1 then s.enterLnk p lnkDetect else s
  else if st = lnkDetect then s.enterLnk p lnkEqualise
  else if st = lnkEqualise then s.enterLnk p lnkLock
  else if st = lnkLock then
    let t := s.recordLanes p (passingOf tests) false
    let lanes := chooseLanes (t.usableLanes p)
    if lanes = 0 then t
    else
      let t := (t.put (LNK_STATUS.COMPAT p) 0).useLanes p lanes
      let t := (t.syncScramblers p).enterLnk p lnkMeasure
      if partner.delef then t else t.startMeasure p
  else if st = lnkMeasure then
    if partner.delef then (s.delefDelay p).enterLnk p lnkIdentify
    else if 16 ≤ (s.port p).measured then s.enterLnk p lnkIdentify
    else s
  else if st = lnkIdentify then s.identify p partner
  else if st = lnkSwitch then (((s.syncScramblers p).enterLnk p lnkActive).raise (LNK_EVT.SWITCH p)).startMeasure p
  else s
def execTrainingStageComplete (p : Nat) (tests : List LaneTest) (partner : Partner) (s : State) : Out :=
  onUnit (decide (p < 24) && tests.length == 8) (doTrainingStageComplete p tests partner s)

/-- R370: the longest time of a state that ends in DETECT. -/
def trainingLimit (st : Nat) : Option Nat :=
  match st with
  | 2 => some (50 * msCycles)
  | 3 => some msCycles
  | 4 => some (20 * usCycles)
  | 5 => some (10 * usCycles)
  | _ => none

/-- TRAINING_TIMEOUT (R370). -/
def doTrainingTimeout (p : Nat) (s : State) : State :=
  match trainingLimit (s.lnkState p) with
  | some t => ((s.at_ ((s.port p).since + t)).enterLnk p lnkDetect).raise (LNK_EVT.DOWN p)
  | none => s
def execTrainingTimeout (p : Nat) (s : State) : Out := onUnit (p < 24) (doTrainingTimeout p s)

/-! ## Compatibility mode and the egress queue -/

/-- ACK_COALESCE (R383): the 32nd cell since the last point, or 200 ns after it with a cell received. -/
def doAckCoalesce (p : Nat) (s : State) : State :=
  let x := s.port p
  if s.compat p && s.lnkUp p && decide (1 ≤ x.ackCount) then
    let t := if 32 ≤ x.ackCount then s else s.at_ (x.ackPoint + 320)
    t.setPort p (x.coalesce t.now)
  else s
def execAckCoalesce (p : Nat) (s : State) : Out := onUnit (p < 24) (doAckCoalesce p s)

/-- EGRESS_ENQUEUE (R367, R402): a cell routed to the port becomes ready. -/
def execEgressEnqueue (p : Nat) (cell : Cell) (s : State) : Out :=
  onUnit (decide (p < 24) && cell.ok)
    (if 2 ≤ cell.kind && decide (cell.kind ≤ 4) then s.egress p cell s.now else s)

/-- EGRESS_REFILL (R367). -/
def execEgressRefill (p : Nat) (s : State) : Out := onUnit (p < 24) (s.refillEgress p)

end Sys2Proof.Machine
end

