-- ==== Sys2Proof/Machine/Mailbox.lean ====
section
/-! DEFINITION. Mailbox commands that set the module up: identity, features, the virtual grid, windows and breaks (R517 to
R524, R242, R151). -/
namespace Sys2Proof.Machine

/-! ## IDENTIFY (R520) -/

/-- R517: the permitted features. -/
def State.permitted (s : State) : BitVec 128 :=
  BitVec.ofNat 128 ((List.range 4).foldl (fun n k => n + (s.reg (MGT_PERMITTED k)).toNat * 2 ^ (32 * k)) 0)

/-- R520, R524: the physical row of each virtual row. -/
def State.gridMap (s : State) : List Byte :=
  (List.range 8).map (fun r => match s.mail.grid[r]? with | some p => BitVec.ofNat 8 p | none => 0xFF)

/-- R520: the response body. -/
def State.identifyBody (s : State) : List Byte :=
  let m := s.mgt.mfg
  let state := bnat s.mail.locked.isSome + 2 * bnat (!s.mail.grid.isEmpty) + 4 * bnat s.mail.image.isSome
    + 8 * bnat s.part.joined.isSome + 16 * bnat s.seq.yielded
  padTo 16 (match m with | some r => r.orderCode | none => []) ++ padTo 2 (match m with | some r => r.stepping | none => [])
    ++ (match m with | some r => [r.grade, r.rows] | none => ([0, 0] : List Byte))
    ++ leBytes 8 (match m with | some r => r.disabled.toNat | none => 0)
    ++ leBytes 2 (s.fld RTE_SELF.PHYSICAL) ++ leBytes 2 (s.fld MGT_CEILING.WATTS)
    ++ leBytes 8 s.identity ++ leBytes 16 supported.toNat ++ leBytes 16 s.permitted.toNat
    ++ leBytes 16 (s.mail.locked.getD 0).toNat ++ leBytes 4 state ++ leBytes 4 s.mgt.control.now.version.toNat ++ s.gridMap

/-- IDENTIFY (R520). -/
def execIdentify (mb : Nat) (s : State) : Out :=
  onUnit (mb < 64) (s.withMail mb 0x01 (fun _ t => t.answer mb stOk t.identifyBody))

/-! ## NEGOTIATE (R517, R518) -/

/-- R518: the bits that govern D1 units. -/
def d1Bits : BitVec 128 := BitVec.ofNat 128 (d1Features.foldl (fun n b => n + 2 ^ b) 0)

/-- R365, R372, R386: native spill follows LINK_SPILL_NATIVE on the ports that run. -/
def State.noteSpill (s : State) : State :=
  (List.range 24).foldl (fun (t : State) p =>
    if lnkActive ≤ t.lnkState p then t.put (LNK_STATUS.SPILL p) (bnat (t.feature featSpill && !t.compat p)) else t) s

def State.negotiate (mb : Nat) (b : List Byte) (s : State) : State :=
  let offer := BitVec.ofNat 128 (rqBody b 0 16)
  let body (accepted : BitVec 128) : List Byte := leBytes 16 accepted.toNat ++ leBytes 16 (offer &&& ~~~accepted).toNat
  match s.mail.locked with
  | some v => s.answer mb stBusy (body v)
  | none =>
    let accepted := offer &&& supported &&& s.permitted
    if offer.getLsbD featPickIn && offer.getLsbD featPickOut then s.answer mb stFeatureConflict
    else if s.pickState != pickIdle && (accepted &&& d1Bits) != (s.mail.d1Set &&& d1Bits) then
      s.answer mb stFeatureConflict
    else
      let s := { s with mail := { s.mail with locked := some accepted, d1Set := accepted } }
      s.noteSpill.answer mb stOk (body accepted)

/-- NEGOTIATE (R517). -/
def execNegotiate (mb : Nat) (s : State) : Out := onUnit (mb < 64) (s.withMail mb 0x02 (State.negotiate mb))

/-! ## MAP_GRID (R524) -/

/-- R524: the physical rows a request maps, where it is accepted. -/
def State.gridFor (s : State) (rows bypass : Nat) : Option (List Nat) :=
  let on := s.enabledRows
  match s.mgt.mfg with
  | none => none
  | some m =>
    if m.grade = 0 then
      if rows = 8 && bypass = 0xFF then some on
      else if rows = 7 && (decide (bypass < 8) || bypass == 0xFF) then
        some (on.filter (fun r => r != (if bypass = 0xFF then 7 else bypass)))
      else none
    else if rows = 7 && bypass = 0xFF then some on
    else none

/-- R97, R98: the generators and monitors of the regions that the grid leaves out are switched off. -/
def State.switchOff (s : State) : State :=
  (List.range 64).foldl (fun (t : State) n =>
    if t.regionOn n || !((t.region n).clk.stretching || (t.region n).clk.stepEnd.isSome) then t
    else
      let c := (t.region n).clk
      (t.setClk n { c with droop := 0, path := 0, droopSkip := 0, pathSkip := 0, slotDepth := 0, slotLeft := 0, stepEnd := none }).put
        (CLK_RGN_FREQ.STATE n) 0) s

def State.mapGrid (mb : Nat) (b : List Byte) (s : State) : State :=
  if s.mail.image.isSome then s.answer mb stBusy
  else
    match s.gridFor (rqBody b 0 1) (rqBody b 1 1) with
    | none => s.answer mb stBadArg
    | some g =>
      let s := s.each s.regionsOn (fun n t => t.accountClk n)
      let s := ({ s with mail := { s.mail with grid := g } }).switchOff
      s.answer mb stOk s.gridMap

/-- MAP_GRID (R524). -/
def execMapGrid (mb : Nat) (s : State) : Out := onUnit (mb < 64) (s.withMail mb 0x12 (State.mapGrid mb))

/-! ## Windows (R239, R242) -/

/-- R239: a window entry as its 32 bytes give it. -/
def windowOf (e : List Byte) : WindowEntry :=
  let f := leAt e 0 1
  { valid := bitAt f 0, readOk := bitAt f 1, writeOk := bitAt f 2, deviceVa := bitAt f 3, anySource := bitAt f 4
    vreg := leAt e 1 1, key := leAt e 2 2, source := leAt e 4 2, base := leAt e 8 8, size := leAt e 0x10 8, closing := none }

/-- R239: the entry breaks its layout. -/
def windowBad (e : List Byte) : Bool :=
  let w := windowOf e
  !w.valid || leAt e 0 1 / 32 != 0 || decide (4096 ≤ w.key) || leAt e 6 2 != 0 || leAt e 0x18 8 != 0
    || w.base % 64 != 0 || w.size % 64 != 0 || decide (w.size < 64)
    || (if w.deviceVa then w.vreg != 0 || decide (2 ^ 52 ≤ w.base) || decide (2 ^ 40 < w.size)
        else decide (64 ≤ w.vreg) || decide (2 ^ 25 ≤ w.base) || decide (2 ^ 25 < w.base + w.size))

/-- The window is open, or has not finished closing. -/
def State.windowHeld (s : State) (w : Nat) : Bool := (s.window w).valid || (s.window w).closing.isSome

/-- R522, R247: a slice window names a virtual region of the loaded grid. -/
def State.openWindow (mb : Nat) (b : List Byte) (s : State) : State :=
  let id := rqBody b 0 1
  let e := rqBytes b 8 32
  let absent := !(windowOf e).deviceVa && (s.physOf (windowOf e).vreg).isNone
  if (1 ≤ id && decide (id < 16)) || windowBad e || absent then s.answer mb stBadArg
  else
    let put (w : Nat) : State := (s.setWindow w (windowOf e)).answer mb stOk (leBytes 1 w)
    if id = 0 then
      match ((List.range 240).map (· + 16)).find? (fun w => !s.windowHeld w) with
      | some w => put w
      | none => s.answer mb stExhausted
    else if s.windowHeld id then s.answer mb stBusy
    else put id

/-- OPEN_WINDOW (R522). -/
def execOpenWindow (mb : Nat) (s : State) : Out := onUnit (mb < 64) (s.withMail mb 0x13 (State.openWindow mb))

def State.shutWindow (mb : Nat) (b : List Byte) (s : State) : State :=
  let w := rqBody b 0 1
  if !(s.window w).valid then s.answer mb stBadArg
  else
    let r := s.closeWindow w
    let s := r.2.setWindow w { r.2.window w with closing := some (mb, r.1) }
    s.windowDrained w

/-- CLOSE_WINDOW (R242). -/
def execCloseWindow (mb : Nat) (s : State) : Out := onUnit (mb < 64) (s.withMail mb 0x14 (State.shutWindow mb))

/-! ## DEBUG_BREAK (R151) -/

def State.debugBreak (mb : Nat) (b : List Byte) (s : State) : State :=
  let done (s : State) : State := s.answer mb stOk (leBytes 8 s.retired ++ leBytes 4 s.seq.pc.toNat)
  match rqBody b 0 1 with
  | 0 =>
    let s := s.setReg SEQ_BRK_COUNT_LO (BitVec.ofNat 32 (rqBody b 8 4))
    let s := s.setReg SEQ_BRK_COUNT_HI (BitVec.ofNat 32 (rqBody b 12 4))
    done (s.put SEQ_BRK_CTRL.COUNT_EN 1)
  | 1 => done ((s.put SEQ_BRK_CTRL.TAG (rqBody b 0x10 2)).put SEQ_BRK_CTRL.TAG_EN 1)
  | 2 => done ((s.put SEQ_BRK_CTRL.COUNT_EN 0).put SEQ_BRK_CTRL.TAG_EN 0)
  | 3 => if s.seq.state = .broken then done s.resumeSeq else s.answer mb stBusy
  | _ => s.answer mb stBadArg

/-- DEBUG_BREAK (R522). -/
def execDebugBreak (mb : Nat) (s : State) : Out := onUnit (mb < 64) (s.withMail mb 0x72 (State.debugBreak mb))

end Sys2Proof.Machine
end

