-- ==== Sys2Proof/Machine/Loader.lean ====
section
/-! DEFINITION. The commands that load and patch the program image (R527, R530). -/
namespace Sys2Proof.Machine

/-- R527 step 1: a program runs, or a start is armed. -/
def State.loadBusy (s : State) : Bool :=
  s.programOn || s.fld PCK_START.STATE == startArmed || s.fld PCK_START.STATE == startCommitted

/-- R527 step 3: what the header must agree with. -/
def State.imageDisagrees (s : State) (b : List Byte) : Bool :=
  s.mail.grid.isEmpty || imageRows b != s.mail.grid.length
    || (s.pickState != pickIdle && leAt b 8 4 != s.config)

/-- R532: the ceiling in half-watts. -/
def State.ceilingHalf (s : State) : Nat := 2 * s.fld MGT_CEILING.WATTS

/-- R527 steps 2 to 4: the first check that fails, with its status, DETAIL and body. -/
def State.imageCheck (s : State) (b digest : List Byte) : Option (Nat × Nat × List Byte) :=
  if sha256 b != digest then some (stAuth, 0, [])
  else if imageHeaderBad b then some (stBadArg, 0, [])
  else
    match s.firstBadSection b with
    | some i => some (stBadArg, i, [])
    | none =>
      if s.imageDisagrees b then some (stBadArg, 0, []) else
      let l := sectionsOf b
      if ownershipBad l then some (stFeatureConflict, 0, [])
      else if s.ceilingHalf < peakOf l then
        some (stExhausted, 0, leBytes 4 (peakOf l) ++ leBytes 4 s.ceilingHalf)
      else
        match s.badRange (residentOf l) with
        | some i => some (stFault, i, [])
        | none => none

/-- R527 step 10: the image is loaded, and the command answered. -/
def State.markLoaded (s : State) (mb : Nat) (b hash : List Byte) (restored : Option Nat) : State :=
  let im := imageState b hash restored
  let s := { s with mail := { s.mail with image := some im }, seq := { s.seq with yielded := false, yieldSeg := none }, obs := { s.obs with traceCount := 0 } }
  let s := s.put SEQ_TRACE_HEAD.SEQ 0
  s.answer mb stOk (leBytes 4 im.peak ++ leBytes 4 s.ceilingHalf)

/-- R527 step 9: the save set is applied over the image, or its failure answered. -/
def State.restoreStep (s : State) (mb : Nat) (rq b hash : List Byte) : State :=
  let va := rqBody rq 0x40 8
  if bitAt (rqBody rq 0x3C 4) 0 then
    let s := s.noteAccess .firmware va saveBase false false
    match s.restoreBad va (imageRows b) hash with
    | some st => s.answer mb st
    | none =>
      let seg := match (s.vaRead va 0x240 []).1 with | some h => leAt h 0x238 8 | none => 0
      let r := s.restore va
      if r.1 then r.2.markLoaded mb b hash (some seg) else r.2.answer mb stFault
  else s.markLoaded mb b hash none

/-- R527 steps 5 to 9: a failure leaves no image loaded. -/
def State.writeImage (s : State) (mb : Nat) (rq b hash : List Byte) : State :=
  let l := sectionsOf b
  let s := { s with mail := { s.mail with image := none } }
  let w := s.writeSections l 0
  match w.1 with
  | some i => w.2.answer mb stFault [] i
  | none =>
    let records := (recordsOf l 4 32).map (fun r => if relocBad r then none else some (relocOf r))
    let w := if records.isEmpty then w
      else (w.1, w.2.noteAccess .firmware (rqBody rq 0x30 8) (8 * rqBody rq 0x38 4) false false)
    let syms := if records.isEmpty then some [] else w.2.symbols (rqBody rq 0x30 8) (rqBody rq 0x38 4)
    match syms with
    | none => w.2.answer mb stFault
    | some v =>
      let r := w.2.applyRelocs v (residentOf l) records 0
      match r.1 with
      | some f => r.2.2.answer mb f.1 [] f.2
      | none =>
        let s := (((r.2.2.writeRanges l).writeServing l).writeObjects l).writePlan b
        let s := { s with seq := { s.seq with pc := BitVec.ofNat 22 (leAt b 0x18 4) } }
        s.restoreStep mb rq b hash

def State.load (mb : Nat) (rq : List Byte) (s : State) : State :=
  if s.loadBusy then s.answer mb stBusy
  else
    let t := s.noteAccess .firmware (rqBody rq 0 8) (rqBody rq 8 8) false false
    match (t.vaRead (rqBody rq 0 8) (rqBody rq 8 8) []).1 with
    | none => t.answer mb stFault
    | some b =>
      match t.imageCheck b (rqBytes rq 0x10 32) with
      | some f => t.answer mb f.1 f.2.2 f.2.1
      | none => t.writeImage mb rq b (rqBytes rq 0x10 32)

/-- LOAD_IMAGE (R229, R527): it waits while a slice is stopped for a frequency step. -/
def execLoadImage (mb : Nat) (s : State) : Out :=
  onUnit (mb < 64) (if s.slicesStopped && !s.loadBusy then s else s.withMail mb 0x10 (State.load mb))

/-- R530: a program runs that has not yielded. -/
def State.patchBusy (s : State) : Bool := s.programOn && !s.seq.yielded

/-- R530: every relocation record again, with a new symbol table. -/
def State.patch (mb : Nat) (rq : List Byte) (s : State) : State :=
  if s.patchBusy then s.answer mb stBusy
  else
    match s.mail.image with
    | none => s.answer mb stBadArg
    | some im =>
      let s := if im.relocs.isEmpty then s else s.noteAccess .firmware (rqBody rq 0 8) (8 * rqBody rq 8 4) false false
      match (if im.relocs.isEmpty then some [] else s.symbols (rqBody rq 0 8) (rqBody rq 8 4)) with
      | none => s.answer mb stFault
      | some v =>
        let r := s.applyRelocs v im.resident (im.relocs.map some) 0
        match r.1 with
        | some f => r.2.2.answer mb f.1 (leBytes 4 r.2.1) f.2
        | none => r.2.2.answer mb stOk (leBytes 4 r.2.1)

/-- PATCH_IMAGE (R229, R530): it waits as LOAD_IMAGE does. -/
def execPatchImage (mb : Nat) (s : State) : Out :=
  onUnit (mb < 64) (if s.slicesStopped && !s.patchBusy then s else s.withMail mb 0x11 (State.patch mb))

end Sys2Proof.Machine
end

