-- ==== Sys2Proof/Machine/ManageOps.lean ====
section
/-! DEFINITION. Management messages and the log (R572 to R583): what a message is answered with, who signs it, and how log
records lie in flash. -/
namespace Sys2Proof.Machine

/-! ## Messages (R577, R578) -/

def opGetInfo : Nat := 0x01
def opReadSensors : Nat := 0x02
def opReadLog : Nat := 0x03
def opGetNonce : Nat := 0x04
def opSetCeiling : Nat := 0x10
def opSetPermitted : Nat := 0x11
def opWriteInstall : Nat := 0x12
def opFence : Nat := 0x20
def opUnfence : Nat := 0x21
def opResetDomain : Nat := 0x22
def opRelay : Nat := 0x23
def opEvent : Nat := 0x30

/-- R577, R578: a message is answered. -/
def State.reply (s : State) (op : Nat) (h : MsgHead) (status : Nat) (body : List Byte) : State :=
  s.emit (.message 0 op status (answerMessage op h.seq.toNat status body))

/-- R572, R587: the management firmware serves messages. -/
def State.mgtServes (s : State) : Bool := s.mgtUp && decide (4 ≤ s.mgt.stage)

/-- R577: what a signature covers. -/
def State.signedText (s : State) (op : Nat) (h : MsgHead) (body : List Byte) : List Byte :=
  messageHeader op h.flags.toNat body.length h.seq.toNat 0 ++ body ++ leBytes 8 s.identity ++ leBytes 32 s.mgt.nonce.toNat

/-- R577, R578: a signature of 384 bytes verifies under a key over the current nonce. -/
def State.signedBy (s : State) (key : Option (List Byte)) (op : Nat) (h : MsgHead) (body sig : List Byte) : Bool :=
  match key with
  | none => false
  | some k => rsaVerify k (s.signedText op h body) sig

def State.operatorKey (s : State) : Option (List Byte) := s.mgt.install.map (fun r => r.operator)
def State.fmKey (s : State) : Option (List Byte) := s.mgt.install.map (fun r => r.fmKey)

/-- R577, R578: a signed message: a bad signature is answered ST_AUTH; one that verifies is acted on with a new nonce drawn. -/
def State.withSigned (s : State) (key : Option (List Byte)) (op : Nat) (h : MsgHead) (body sig : List Byte)
    (f : State → State) : State :=
  if !s.mgtServes then s
  else if s.signedBy key op h body sig then f s.drawNonce
  else s.reply op h stAuth []

/-! ## The log (R580, R581) -/

/-- R580: records in the ring and records written in a second. -/
def logRing : Nat := 1048576
def logPerSecond : Nat := 1000
/-- Cycles in a second (R11). -/
def secCycles : Nat := 1000 * msCycles

/-- R581: a record as it lies in flash. -/
def logBytes (seq : Nat) (r : LogRec) : List Byte :=
  let b := leBytes 8 seq ++ leBytes 4 r.boot ++ leBytes 2 r.type ++ leBytes 2 r.source ++ leBytes 8 r.uptime
    ++ leBytes 8 r.pick.toNat ++ padTo 28 r.data
  b ++ leBytes 4 (crc32c b).toNat

/-- R580: a record goes to flash; the newest overwrites the oldest. -/
def State.putLog (s : State) (r : LogRec) : State :=
  { s with mgt := { s.mgt with
      log := sset none s.mgt.log (s.mgt.logSeq % logRing) (some r), logSeq := s.mgt.logSeq + 1 } }

/-- R580: the record of a number, while the ring holds it. -/
def State.logAt (s : State) (seq : Nat) : Option LogRec :=
  if seq < s.mgt.logSeq && decide (s.mgt.logSeq ≤ seq + logRing) then sget none s.mgt.log (seq % logRing) else none

/-- R578: up to 15 records from a number. -/
def State.readLog (s : State) (first count : Nat) : List Byte :=
  ((List.range (min count 15)).map (fun i => first + i)).flatMap (fun n =>
    match s.logAt n with
    | some r => logBytes n r
    | none => [])

/-- R581: the type of a record that says how many were dropped. -/
def logLost : Nat := 0xFF

/-- R580: the second in which records are now counted. -/
def State.logSecond (s : State) : Nat × Nat :=
  if s.mgt.logRate.2 + secCycles ≤ s.now then (0, s.now) else s.mgt.logRate

/-! ## Sensors (R573) -/

/-- R573: sensors: 64 region temperatures, 64 region voltages, 16 stack temperatures, 40 rail currents, the input's voltage and
current, two coolant temperatures, and two eye margins of each lane. -/
def sensorCount : Nat := 572

/-- R573: the range a sensor can read, in units of its resolution. -/
def sensorRange (n : Nat) : Option (Int × Int) :=
  if n < 64 then some (-160, 500)
  else if n < 128 then some (500, 1100)
  else if n < 144 then some (-80, 250)
  else if n < 184 then some (0, 2500)
  else if n = 184 then some (4000, 6000)
  else if n = 185 then some (0, 5000)
  else if n < 188 then some (0, 400)
  else none

/-- R573: the input's voltage and current, read every microsecond and averaged per pick. -/
def inputVoltage : Nat := 184
def inputCurrent : Nat := 185

/-- R573: a reading of a sensor is taken: of an input sensor into the pick's average, of any other at once. -/
def State.takeReading (s : State) (n : Nat) (v : Int) : State :=
  let i := s.mgt.inputs
  if n = inputVoltage then { s with mgt := { s.mgt with inputs := ((i.1.1 + v, i.1.2 + 1), i.2) } }
  else if n = inputCurrent then { s with mgt := { s.mgt with inputs := (i.1, (i.2.1 + v, i.2.2 + 1)) } }
  else { s with mgt := { s.mgt with sensors := sset 0 s.mgt.sensors n v } }

/-- R571: a message as MCTP packets on the KX channel, each in a frame of its own. -/
def kxFrames (source : Byte) (message : List Byte) : List KxFrame :=
  let n := max 1 ((message.length + 1023) / 1024)
  (chunksOf 1024 n message).zipIdx.map (fun e => ⟨0x88B5, source, e.2 == 0, e.2 + 1 == n, e.1⟩)

/-- R573: a reading within the sensor's range. -/
def clampReading (n : Nat) (v : Int) : Int :=
  match sensorRange n with
  | some (lo, hi) => max lo (min hi v)
  | none => v

/-- R603: a region has reached 100 °C, or a stack 95 °C. -/
def readingWarns (n : Nat) (v : Int) : Bool :=
  (decide (n < 64) && decide (400 ≤ v)) || (decide (128 ≤ n) && decide (n < 144) && decide (190 ≤ v))

/-- R578: readings as they are sent: four bytes each, two's complement. -/
def State.readingBytes (s : State) (first count : Nat) : List Byte :=
  ((List.range count).map (fun i => first + i)).flatMap (fun n =>
    leBytes 4 (BitVec.ofInt 32 (sget 0 s.mgt.sensors n)).toNat)

/-! ## The installation record (R583) -/

def installOf (b : List Byte) : InstallRec :=
  { generation := BitVec.ofNat 32 (leAt b 4 4), deviceId := BitVec.ofNat 16 (leAt b 8 2), fmDev := BitVec.ofNat 16 (leAt b 10 2)
    ceiling := BitVec.ofNat 16 (leAt b 12 2), permitted := BitVec.ofNat 128 (leAt b 20 16), operator := bytesAt b 36 388
    fmKey := bytesAt b 424 388, bytes := b }

/-- R583: a record is acceptable. -/
def State.installOk (s : State) (b : List Byte) : Bool :=
  let r := installOf b
  let key := match s.mgt.held with | some h => h.operator | none => r.operator
  b.length == installSize + 384 && decide (s.mgt.generation < r.generation.toNat)
    && r.signedBy key

/-- R583: the record is written to the slot not in use, and counter 2 follows. -/
def State.putInstall (s : State) (r : InstallRec) : State :=
  let m := s.mgt
  let intoB := m.install.isSome && m.install == m.installA
  let m := if intoB then { m with installB := some r } else { m with installA := some r }
  { s with mgt := { m with generation := r.generation.toNat } }

end Sys2Proof.Machine
end

