-- ==== Sys2Proof/Machine/Management.lean ====
section
/-! DEFINITION. Management messages, sensors, the log and the watchdog (R572 to R583). -/
namespace Sys2Proof.Machine

/-! ## Unsigned messages (R578) -/

/-- GET_INFO (R578, R587): answered wherever the boot chain stands once the management core runs. -/
def doGetInfo (h : MsgHead) (s : State) : State :=
  if s.mgtUp then s.reply opGetInfo h stOk (s.identifyBody ++ s.regBytes MGT_BOOT) else s
def execGetInfo (h : MsgHead) (s : State) : Out := .next (doGetInfo h s)

/-- READ_SENSORS (R578). -/
def doReadSensors (h : MsgHead) (first count : BitVec 16) (s : State) : State :=
  if !s.mgtServes then s
  else if sensorCount < first.toNat + count.toNat then s.reply opReadSensors h stBadArg []
  else s.reply opReadSensors h stOk (s.readingBytes first.toNat count.toNat)
def execReadSensors (h : MsgHead) (first count : BitVec 16) (s : State) : Out := .next (doReadSensors h first count s)

/-- READ_LOG (R578). -/
def doReadLog (h : MsgHead) (first : BitVec 64) (count : BitVec 16) (s : State) : State :=
  if s.mgtServes then s.reply opReadLog h stOk (s.readLog first.toNat count.toNat) else s
def execReadLog (h : MsgHead) (first : BitVec 64) (count : BitVec 16) (s : State) : Out :=
  .next (doReadLog h first count s)

/-- GET_NONCE (R577, R578). -/
def doGetNonce (h : MsgHead) (s : State) : State :=
  if s.mgtServes then s.reply opGetNonce h stOk (leBytes 32 s.mgt.nonce.toNat) else s
def execGetNonce (h : MsgHead) (s : State) : Out := .next (doGetNonce h s)

/-- WRITE_INSTALL (R583). -/
def doWriteInstall (h : MsgHead) (record : List Byte) (s : State) : State :=
  if !s.mgtServes then s
  else if s.installOk record then (s.putInstall (installOf record)).reply opWriteInstall h stOk []
  else s.reply opWriteInstall h stAuth []
def execWriteInstall (h : MsgHead) (record : List Byte) (s : State) : Out := .next (doWriteInstall h record s)

/-! ## Signed messages (R578) -/

/-- SET_CEILING (R578). -/
def doSetCeiling (h : MsgHead) (watts : BitVec 16) (sig : List Byte) (s : State) : State :=
  s.withSigned s.operatorKey opSetCeiling h (leBytes 2 watts.toNat) sig (fun t =>
    if 600 ≤ watts.toNat && decide (watts.toNat ≤ 2000) then
      (t.setCeilingReg watts.toNat).reply opSetCeiling h stOk []
    else t.reply opSetCeiling h stBadArg [])
def execSetCeiling (h : MsgHead) (watts : BitVec 16) (sig : List Byte) (s : State) : Out :=
  .next (doSetCeiling h watts sig s)

/-- SET_PERMITTED (R578). -/
def doSetPermitted (h : MsgHead) (mask : BitVec 128) (sig : List Byte) (s : State) : State :=
  s.withSigned s.operatorKey opSetPermitted h (leBytes 16 mask.toNat) sig (fun t =>
    (t.setPermittedReg mask).reply opSetPermitted h stOk [])
def execSetPermitted (h : MsgHead) (mask : BitVec 128) (sig : List Byte) (s : State) : Out :=
  .next (doSetPermitted h mask sig s)

/-- FENCE by message (R545, R578). -/
def doFenceMessage (h : MsgHead) (domains : BitVec 8) (sig : List Byte) (s : State) : State :=
  s.withSigned s.fmKey opFence h (leBytes 1 domains.toNat) sig (fun t =>
    t.fenceFor (messageBox h.seq.toNat false) domains.toNat)
def execFenceMessage (h : MsgHead) (domains : BitVec 8) (sig : List Byte) (s : State) : Out :=
  .next (doFenceMessage h domains sig s)

/-- UNFENCE by message (R542, R578). -/
def doUnfenceMessage (h : MsgHead) (domains : BitVec 8) (sig : List Byte) (s : State) : State :=
  s.withSigned s.fmKey opUnfence h (leBytes 1 domains.toNat) sig (fun t =>
    let r := t.unfenceFor domains.toNat
    r.2.reply opUnfence h r.1 [])
def execUnfenceMessage (h : MsgHead) (domains : BitVec 8) (sig : List Byte) (s : State) : Out :=
  .next (doUnfenceMessage h domains sig s)

/-- RESET_DOMAIN by message (R535, R578): D0 alone, or as the mailbox command. -/
def doResetDomainMessage (h : MsgHead) (domains : BitVec 8) (sig : List Byte) (s : State) : State :=
  s.withSigned s.fmKey opResetDomain h (leBytes 1 domains.toNat) sig (fun t =>
    if domains = 1 then (t.reply opResetDomain h stOk []).resetD0
    else if domains.toNat % 2 = 1 then t.reply opResetDomain h stBadArg []
    else t.resetFor (messageBox h.seq.toNat true) domains.toNat)
def execResetDomainMessage (h : MsgHead) (domains : BitVec 8) (sig : List Byte) (s : State) : Out :=
  .next (doResetDomainMessage h domains sig s)

/-- R510, R578: a relayed request is written to its mailbox and its doorbell rung; a doorbell not accepted anew is answered at
once. -/
def State.relay (s : State) (h : MsgHead) (mb : Nat) (request : List Byte) : State :=
  let b := s.box mb
  if b.pending.isSome || b.busy.isSome then s.reply opRelay h stBusy []
  else
    let s := s.sramPut (reqArea mb) (padTo 4096 request)
    let r := s.ringDoorbell mb (s.fld MGT_FM.FM_DEV) (rqSeq request)
    if (r.2.box mb).pending.isSome then r.2.setBox mb { r.2.box mb with relayed := some h.seq.toNat }
    else r.2.reply opRelay h r.1 (r.2.sram (respArea mb) 4096)

/-- MAILBOX_RELAY (R578). -/
def doMailboxRelay (h : MsgHead) (mailbox : BitVec 8) (request sig : List Byte) (s : State) : State :=
  s.withSigned s.fmKey opRelay h (leBytes 1 mailbox.toNat ++ request) sig (fun t =>
    if 4 ≤ mailbox.toNat || 4096 < request.length then t.reply opRelay h stBadArg []
    else t.relay h mailbox.toNat request)
def execMailboxRelay (h : MsgHead) (mailbox : BitVec 8) (request : List Byte) (sig : List Byte) (s : State) : Out :=
  .next (doMailboxRelay h mailbox request sig s)

/-! ## Events, the log and the watchdog -/

/-- EVENT (R571, R579): the oldest event not yet sent goes on the KX channel to the device that MGT_FM names. -/
def doEvent (s : State) : State :=
  match s.mgt.events with
  | [] => s
  | (type, pick, detail) :: rest =>
    if s.mgtServes then
      ({ s with mgt := { s.mgt with events := rest } }).emit (.event (s.fld MGT_FM.FM_DEV) (kxFrames s.mgt.eid
        (answerMessage opEvent (Config.eventSeq pick.toNat).toNat stOk (leBytes 2 type ++ leBytes 8 pick.toNat ++ padTo 20 detail))))
    else s
def execEvent (s : State) : Out := .next (doEvent s)

/-- R604: a fence that management received and that is still draining, with no other fence beside it, is lost. -/
def State.loseFence (s : State) : State :=
  match s.fence.drain with
  | none => s
  | some d =>
    if d.boxes.isEmpty || d.boxes.any (fun n => decide (n < 64)) || s.fence.pinLow then s
    else { (s.unfence d.domains) with fence := { s.fence with drain := none, after := s.fence.after.filter (fun a => a.2.any (fun n => decide (n < 64))) } }

/-- R589: a pending management image that misses its watchdog has failed to reach ready; at the third failure the active one runs
again. -/
def State.failMgmt (s : State) : State :=
  let r := s.mgt.mgmt.failedTry
  let s := { s with mgt := { s.mgt with mgmt := if r.1 then { r.2 with running := r.2.active } else r.2 } }
  if r.1 then s.showSlots.logRec logRefused 0xFFFF (s.showSlots.regBytes MGT_BOOT) else s

/-- MANAGEMENT_WATCHDOG (R572, R589, R604): the core alone restarts, and is down for a time that the spec does not give. What it
was carrying out for a message is forgotten; whether the records and events that waited in its SRAM are still there is left
open. -/
def doManagementWatchdog (s : State) : State :=
  if !s.mgtServes then s
  else
    let mine (n : Nat) : Bool := decide (64 ≤ n)
    let k := s.freeNat 2
    let up := s.now + Config.freeNat k.2.freeCtr
    let s := ({ k.2 with freeCtr := k.2.freeCtr + 1 }).loseFence.failMgmt
    { s with
      mgt := { s.mgt with
        spdm := 0, queue := if k.1 = 0 then s.mgt.queue else [], events := if k.1 = 0 then s.mgt.events else []
        downUntil := up, readyFrom := up }
      fence := { s.fence with
        drain := s.fence.drain.map (fun d => { d with boxes := d.boxes.filter (fun n => !mine n) })
        resets := s.fence.resets.map (fun r => if r.mailbox.any mine then { r with mailbox := none } else r)
        after := s.fence.after.map (fun a => if a.2.any mine then (a.1, none) else a) }
      mail := { s.mail with boxes := smapAllTo {} s.mail.boxes (fun b => { b with relayed := none }) } }
def execManagementWatchdog (s : State) : Out := .next (doManagementWatchdog s)

/-- SENSOR_SAMPLE (R573, R603). -/
def doSensorSample (sensor : Nat) (value : Int) (s : State) : State :=
  if !s.mgtServes then s
  else
    let v := clampReading sensor value
    let s := s.takeReading sensor v
    if readingWarns sensor v then s.raise MGT_THERM.WARN else s
def execSensorSample (sensor : Nat) (value : Int) (s : State) : Out :=
  onUnit (sensor < 572) (doSensorSample sensor value s)

/-- LOG_WRITE (R580): the oldest record that waits goes to flash, after one that says how many were dropped, at most 1,000 in a
second. -/
def doLogWrite (s : State) : State :=
  match s.mgt.queue with
  | [] => s
  | r :: rest =>
    let k := s.logSecond
    let n := if s.mgt.dropped = 0 then 1 else 2
    if !s.mgtServes || logPerSecond < k.1 + n then s
    else
      let lost : LogRec := ⟨logLost, 0xFFFF, s.uptime, s.pick.count, leBytes 8 s.mgt.dropped, s.mgt.boots⟩
      let t := { s with mgt := { s.mgt with queue := rest, dropped := 0, logRate := (k.1 + n, k.2) } }
      (if n = 1 then t else t.putLog lost).putLog r
def execLogWrite (s : State) : Out := .next (doLogWrite s)

end Sys2Proof.Machine
end

