-- ==== Sys2Proof/Machine/Flags.lean ====
section
/-! DEFINITION. Status and event bits: which access each bit of a register has, and what software's write does to it. -/
namespace Sys2Proof.Machine

/-- R18: a software write: rw bits take the value written, w1c bits written 1 clear, and every other bit keeps. -/
def RegSpec.written (r : RegSpec) (old new : Reg32) : Reg32 :=
  (old &&& ~~~r.rw &&& ~~~(r.w1c &&& new)) ||| (new &&& r.rw)

/-- R18: what a read leaves: rc bits clear. -/
def RegSpec.afterRead (r : RegSpec) (old : Reg32) : Reg32 := old &&& ~~~r.rc

/-- R18: the bits of a register that a read returns. -/
def RegSpec.readable (r : RegSpec) : Reg32 := r.rw ||| r.w1c ||| r.rc ||| r.ro

end Sys2Proof.Machine
end

