-- ==== Sys2Proof/Machine/RegOps.lean ====
section
/-! DEFINITION. What a register reads (R18, R24): its stored bits, with the fields that show the state of a unit as the unit
holds it. -/
namespace Sys2Proof.Machine

/-- The instance of a family of registers that lies at an address. -/
def instAt (r : Nat → Reg) (n a : Nat) : Option Nat := (List.range n).find? (fun i => (r i).addr == a)

/-- Replace fields of a register's value. -/
def withFields (v : Reg32) (l : List (Fld × Nat)) : Reg32 :=
  BitVec.ofNat 32 (l.foldl (fun x e => bitsPut x e.1.lo e.1.len e.2) v.toNat)

/-! ## Fields that show a unit -/

/-- The low and the high 32 bits of a wider count (R39, R150, R602). -/
def low32 (n : Nat) : Nat := n % 4294967296
def high32 (n : Nat) : Nat := n / 4294967296 % 4294967296

/-- R596: METER_ID: the first 8 bytes of the SHA-256 of the meter's public key. -/
def SmuSt.meterId (u : SmuSt) : List Byte := (sha256 (Config.publicKey (Config.meterKey u.keyId))).take 8

/-- R601, R602: the verification record, signed by the metrology CA, matches METER_ID and EVENT_COUNT. -/
def SmuSt.verified (u : SmuSt) : Bool :=
  u.verify.any (fun v => v.meterId == u.meterId && v.events == u.events
    && rsaVerify (Config.rootKey 2) (v.meterId ++ v.firmware ++ v.calibration ++ leBytes 4 v.events) v.signature)

/-- Pick, sequencer, clocks and meter (R39, R90, R150, R153, R160, R602, R603). -/
def State.viewCore (s : State) (a : Nat) : List (Fld × Nat) :=
  if a = PCK_COUNT_LO.addr then [(PCK_COUNT_LO.COUNT_LO, low32 s.pickNo)]
  else if a = PCK_COUNT_HI.addr then
    [(PCK_COUNT_HI.COUNT_HI, match s.pick.hiHold with | some v => v.toNat | none => high32 s.pickNo)]
  else if a = SEQ_STATUS.addr then [(SEQ_STATUS.STATE, seqStateNo s.seq.state), (SEQ_STATUS.PC, s.seq.pc.toNat)]
  else if a = SEQ_RETIRED_LO.addr then [(SEQ_RETIRED_LO.COUNT_LO, low32 s.retired)]
  else if a = SEQ_RETIRED_HI.addr then
    [(SEQ_RETIRED_HI.COUNT_HI, match s.seq.retHold with | some v => v.toNat | none => high32 s.retired)]
  else if a = SEQ_ARRAY_STATE.addr then
    [(SEQ_ARRAY_STATE.ACTIVE_FMT, s.seq.active.fmt), (SEQ_ARRAY_STATE.ACTIVE_KIND, s.seq.active.kind),
      (SEQ_ARRAY_STATE.SHADOW_FMT, s.seq.shadow.fmt), (SEQ_ARRAY_STATE.SHADOW_KIND, s.seq.shadow.kind)]
  else if a = CLK_REF_STATUS.addr then [(CLK_REF_STATUS.HOLD_TIME, s.holdTime)]
  else if a = MGT_THERM.addr then [(MGT_THERM.STACK_CAP, bnat (s.mgt.stackCap < 140)), (MGT_THERM.TRIPPED, bnat s.power.trip)]
  else if a = SMU_STATUS.addr then
    [(SMU_STATUS.INTERVAL, s.smu.interval), (SMU_STATUS.KEY_OK, bnat s.smu.key.isSome), (SMU_STATUS.RUN, bnat s.smu.run),
      (SMU_STATUS.VERIFIED, bnat s.smu.verified)]
  else if a = SMU_EVENT_COUNT.addr then [(SMU_EVENT_COUNT.COUNT, if s.smu.run then low32 s.smu.events else 0)]
  else if a = SMU_SEQ_LO.addr then [(SMU_SEQ_LO.SEQ_LO, low32 s.smu.seq)]
  else if a = SMU_SEQ_HI.addr then
    [(SMU_SEQ_HI.SEQ_HI, match s.smu.seqHold with | some v => v.toNat | none => 0)]
  else []

/-- Remote operations that the module has sent and that are still to be answered (R505). -/
def State.syncsOut (s : State) : Nat :=
  (s.requests.entries.filter (fun e => match e.2 with
    | some r => (match r.who with | .sync _ _ _ _ => true | _ => false)
    | none => false)).length

/-- Queues and tables that exist once (R284, R345, R431, R463, R466, R505, R506). -/
def State.viewQueues (s : State) (a : Nat) : List (Fld × Nat) :=
  if a = MMU_STATUS.addr then [(MMU_STATUS.QUEUED, s.mmu.walks.length)]
  else if a = SHT_FQ_STATUS.addr then [(SHT_FQ_STATUS.COUNT, s.faultQ.length)]
  else if a = RTE_REQ_STAT.addr then [(RTE_REQ_STAT.INUSE, s.requests.entries.length)]
  else if a = REED_STATUS.addr then
    [(REED_STATUS.FLOWS, s.reed.flows.length),
      (REED_STATUS.CELLS, s.reedCells)]
  else if a = CTX_CTRL.addr then [(CTX_CTRL.SPEC, bnat (s.feature featSpecTree))]
  else if a = CTX_STATUS.addr then
    [(CTX_STATUS.OCCUPIED, (s.serve.rows.filter (fun e => e.2.occupied)).length),
      (CTX_STATUS.PAUSED, bnat (s.serve.running.isSome && s.pick.inWindow)), (CTX_STATUS.BUSY, bnat s.serve.running.isSome)]
  else if a = SYN_STATUS.addr then
    [(SYN_STATUS.SLOTS, s.sync.filter.length), (SYN_STATUS.OUTSTANDING, s.syncsOut), (SYN_STATUS.FAILS, s.sync.failures.length)]
  else if a = SYN_FAIL_STATUS.addr then [(SYN_FAIL_STATUS.COUNT, s.sync.failures.length)]
  else
    match instAt SHT_FQ_HEAD 8 a with
    | some k => [(SHT_FQ_HEAD.WORD k, match s.faultQ with | r :: _ => (r.getD k 0).toNat | [] => 0)]
    | none =>
      match instAt SYN_FAIL_HEAD 4 a with
      | some k => [(SYN_FAIL_HEAD.WORD k, match s.sync.failures with | r :: _ => (r.getD k 0).toNat | [] => 0)]
      | none => []

/-- R343: an access to a slice is a destination write of the shuttle. -/
def Unsched.writesFor (u : Unsched) (k : Nat) : Bool := match u.who with | .shuttleWrite h _ _ => h == k | _ => false

/-- R343: a destination write of the shuttle waits on a FULL line. -/
def State.writeBlocked (s : State) (k : Nat) : Bool :=
  s.unsched.any (fun u => u.writesFor k && s.tagged u.region u.line && (s.region u.region).tag u.line == tagFull)

/-- R343: source lines of the shuttle's transfers that have been read and not yet answered. -/
def ShuttleSt.linesOut (x : ShuttleSt) : Nat := x.transfers.foldl (fun n t => n + t.outstanding) 0

/-- R343: a line in hand can be written or sent in this cycle. -/
def State.lineMoves (s : State) (k : Nat) (t : Transfer) (n : Nat) (l : LineInfo) : Bool :=
  match l.state with
  | .arrived d => (match l.dst with
    | none => true
    | some a => !s.earlierWrite k t n a && (t.dstDesc.space != 2 ||
        (s.sendLine k t n a (match d with | .data b => some b | .failed _ _ => none)).isSome))
  | .reading _ | .writing => false

/-- R343: the shuttle can issue a read, or write a line that is in hand. -/
def State.shuttleMoves (s : State) (k : Nat) : Bool :=
  let x := s.shuttle k
  x.transfers.any (fun t =>
      (t.started && decide (t.next < t.total) && decide (x.linesOut < 512) && (s.issueLine k t (512 - x.linesOut)).isSome)
      || t.lines.any (fun e => e.2.any (s.lineMoves k t e.1)))
    || s.unsched.any (fun u => u.writesFor k && !s.unschedWaits u.region u.line u.kind true
      && (s.region u.region).clk.stepEnd.isNone && !s.portClaimed u.region (bankOf u.line) true
      && !s.portBusy u.region (bankOf u.line) true)

/-- R343: SHT_STATUS.STATE. -/
def State.shuttleShown (s : State) (k : Nat) : Nat :=
  if s.fenced 3 || s.shuttleStopped k then 3
  else if s.writeBlocked k && !s.shuttleMoves k then 2
  else bnat ((s.shuttle k).held != 0)

/-- Registers that exist once per unit (R298, R343, R423). -/
def State.viewUnits (s : State) (a : Nat) : List (Fld × Nat) :=
  match instAt SHT_STATUS 88 a with
  | some k => [(SHT_STATUS.STATE k, s.shuttleShown k), (SHT_STATUS.HELD k, (s.shuttle k).held),
      (SHT_STATUS.OUTSTANDING k, (s.shuttle k).linesOut)]
  | none =>
    match instAt BME_Q_STAT 16 a with
    | some k => [(BME_Q_STAT.DEPTH k, (s.stack k).queue.length)]
    | none =>
      match instAt RTE_PORT_CFG 24 a with
      | some p => [(RTE_PORT_CFG.HOST p, bnat (s.isHostPort p))]
      | none => []

def State.view (s : State) (a : Nat) : List (Fld × Nat) := s.viewCore a ++ s.viewQueues a ++ s.viewUnits a

/-- R99, R191, R219: the region of a register that reads zero, but for STATE, while its region is out of use: RGN_CLK_STAT,
RGN_XING_WAIT, RGN_ARRAY_STAT, RGN_ARRAY_EVT, RGN_VEC_STAT and CLK_RGN_FREQ. -/
def regionOfAddr (a : Nat) : Option Nat :=
  if 0x11000 ≤ a ∧ a < 0x13000 then
    if [0, 1, 3, 4, 5].contains ((a - 0x11000) % 0x80 / 4) then some ((a - 0x11000) / 0x80) else none
  else if 0x21000 ≤ a ∧ a < 0x21100 then some ((a - 0x21000) / 4)
  else none

/-- R99, R191, R219: such a register of a region that is disabled or bypassed. -/
def State.deadReg (s : State) (a : Nat) : Bool := match regionOfAddr a with | some n => !s.regionOn n | none => false

/-- R18, R24: what a read of an address would return; offsets that hold no register, and wo fields, read zero. -/
def State.peek (s : State) (a : Nat) : Reg32 :=
  match specAt a with
  | none => 0
  | some r =>
    if s.deadReg a then (if 0x21000 ≤ a then 0x80000000 else 0)
    else withFields (s.reg ⟨a, r.reset⟩) (s.view a) &&& r.readable

end Sys2Proof.Machine
end

