-- ==== Sys2Proof/Machine/MeterOps.lean ====
section
/-! DEFINITION. The sealed meter (R593 to R602): its energy count, its key blocks and records, its checkpoints, and what starts
and changes it. The meter's time is its own: a sample is one microsecond of it. -/
namespace Sys2Proof.Machine

/-! ## Records (R596, R597) -/

/-- R596: the meter key in use, and METER_ID. -/
def State.meterId (s : State) : List Byte := s.smu.meterId

/-- R585, R601: the meter's KW, from the start-up state of its SRAM. -/
def SmuSt.wrapping (u : SmuSt) (n : Nat) : List Byte := wrappingKey (Config.extract (Config.meterStartup n) u.helper)

/-- R600, R601: another meter key, wrapped under the meter's KW. -/
def SmuSt.newKey (u : SmuSt) (n : Nat) : SmuSt :=
  let k := u.keyId + 1
  { u with keyId := k, key := some (Config.meterKey k)
           keyWrap := some (wrapKey (u.wrapping n) (Config.meterSalt k) (Config.meterKey k)) }

/-- R596: an entry of a key block. -/
def keyEntry (c : KeyCount) : List Byte :=
  leBytes 2 c.key ++ leBytes 2 (bnat c.closed) ++ leBytes 4 0 ++ leBytes 8 c.tiles ++ leBytes 8 c.bme ++ leBytes 8 c.cells

/-- R596: keys with a count that is not zero. -/
def countedKeys (l : List KeyCount) : List KeyCount := l.filter (fun c => c.tiles != 0 || c.bme != 0 || c.cells != 0)

/-- Picojoules in a millijoule, and microseconds in a second. -/
def pjPerMj : Nat := 1000000000
def usPerSec : Nat := 1000000

/-- R596, R597: bytes that a record with its signature and its key block take in the ring, and the ring's size. -/
def MeterRec.size (r : MeterRec) : Nat := 640 + (r.keys.length + 63) / 64 * 64
def meterRing : Nat := 29 * 1048576

/-- R597: the newest records that fit, oldest first. -/
def keepNewest : Nat → List MeterRec → List MeterRec
  | _, [] => []
  | room, r :: l => if r.size ≤ room then r :: keepNewest (room - r.size) l else []
def State.putMeter (s : State) (r : MeterRec) : State :=
  { s with smu := { s.smu with ring := (keepNewest meterRing (r :: s.smu.ring.reverse)).reverse } }

/-- R596: a record without its signature. -/
def State.recordText (s : State) (kind : Nat) (keys : List KeyCount) (block : List Byte) (startUs energy : Nat) : List Byte :=
  let u := s.smu
  padTo 256 (leBytes 2 1 ++ leBytes 2 kind ++ leBytes 2 keys.length ++ leBytes 2 0 ++ leBytes 8 (u.seq + 1) ++ s.meterId
    ++ leBytes 4 u.events ++ leBytes 4 u.image.now.version.toNat ++ leBytes 8 (startUs / 1000) ++ leBytes 8 (u.poweredUs / 1000)
    ++ leBytes 8 (energy / pjPerMj) ++ leBytes 8 (u.total / pjPerMj)
    ++ leBytes 8 (if s.pickState = pickIdle then 0 else s.pickNo) ++ sha256 block ++ padTo 32 u.prevHash)

/-- R596: a record is written, and chained to the one before. -/
def State.writeRecord (s : State) (kind : Nat) (keys : List KeyCount) (startUs energy : Nat) : State :=
  let block := keys.flatMap keyEntry
  let text := s.recordText kind keys block startUs energy
  let body := text ++ Config.sign (s.smu.key.getD []) text
  let s := s.putMeter { kind := kind, seq := s.smu.seq + 1, body := body, keys := block }
  { s with smu := { s.smu with seq := s.smu.seq + 1, prevHash := sha256 body } }

/-- R596: the interval closes. -/
def State.closeInterval (s : State) : State :=
  let s := s.writeRecord 1 (countedKeys s.smu.keys) s.smu.startUs s.smu.energy
  { s with smu := { s.smu with keys := [], energy := 0, startUs := s.smu.poweredUs } }

/-- R635: the greatest value of the event counter. -/
def maxEvents : Nat := 0xFFFFFFFF

/-- R600: a metrology event: the interval closes, the change takes place, the event counter advances, and a record of KIND 3 is
written. -/
def State.meterEvent (s : State) (change : SmuSt → SmuSt) : State :=
  let s := s.closeInterval
  let u := change s.smu
  let s := { s with smu := { u with events := min (u.events + 1) maxEvents } }
  s.writeRecord 3 [] s.smu.poweredUs 0

/-! ## Checkpoints and the start (R598 to R600) -/

def State.saveCheckpoint (s : State) : State :=
  let u := s.smu
  let c : Checkpoint :=
    { energy := u.energy, total := u.total, startUs := u.startUs, poweredUs := u.poweredUs, keys := u.keys }
  { s with smu := { u with checkpoint := some c } }

/-- R598: the counts of the last checkpoint. -/
def State.resumeCheckpoint (s : State) : State :=
  match s.smu.checkpoint with
  | none => { s with smu := { s.smu with energy := 0, total := 0, keys := [], startUs := 0, poweredUs := 0, secEnergy := 0 } }
  | some c =>
    { s with smu := { s.smu with energy := c.energy, total := c.total, keys := c.keys, startUs := c.startUs
                                 poweredUs := c.poweredUs, secEnergy := 0 } }

/-- R599: the registers of D4 at their reset values, and what the meter holds in its SRAM lost. -/
def State.resetD4 (s : State) : State :=
  let s := s.resetRegs 4 0x1000000
  { s with smu := { s.smu with run := false, failed := false, key := none, interval := 900, seqHold := none } }

/-- R598, R600: the meter's firmware starts, from the last checkpoint; after a power gap it writes a record of KIND 2. An image
that fails its verification counts as an event, before which the interval closes, and does not run. The meter key is unwrapped
under the KW of this start (R601). -/
def State.startMeter (s : State) (gap : Bool) : State :=
  let r := s.smu.image.start
  let s := s.resumeCheckpoint
  match r.2 with
  | none =>
    s.meterEvent (fun u => { u with failed := true })
  | some p =>
    let u := { s.smu with image := p, run := true }
    let s := { s with freeCtr := s.freeCtr + 1
                      smu := { u with key := unwrapKey (u.wrapping s.freeCtr) (u.keyWrap.getD Config.meterWrap) } }
    if gap && s.smu.checkpoint.isSome then s.writeRecord 2 [] s.smu.poweredUs 0 else s

/-! ## Samples (R593, R602) -/

/-- R593: power in microwatts below which the energy count does not advance. -/
def meterFloor : Nat := 5000000

/-- R593: one sample of input voltage and shunt current; once a second the mean power of the second is shown (R602). -/
def State.sample (s : State) (millivolts milliamps : Nat) : State :=
  let p := millivolts * milliamps
  let e := if p < meterFloor then 0 else p
  let u := s.smu
  let s := { s with smu := { u with
      energy := u.energy + e, total := u.total + e, poweredUs := u.poweredUs + 1, secEnergy := u.secEnergy + p } }
  if s.smu.poweredUs % usPerSec = 0 then
    let s := s.put SMU_POWER.WATTS (min 65535 (s.smu.secEnergy / 100000000000))
    { s with smu := { s.smu with secEnergy := 0 } }
  else s

end Sys2Proof.Machine
end

