-- ==== Sys2Proof/Machine/Meter.lean ====
section
/-! DEFINITION. The sealed meter's commands (R593 to R602). The numbers of its requests and answers are the model's own
(notes/assumptions/60.md). -/
namespace Sys2Proof.Machine

/-- Requests of R602, as the operations of the meter's answers. -/
def meterReading : Nat := 1
def meterRecords : Nat := 2
def meterCert : Nat := 3
def meterInterval : Nat := 4
def meterCalibrate : Nat := 5
def meterUpdate : Nat := 6
def meterKeyRegen : Nat := 7

/-- An answer of the meter; status 0 accepted, 1 refused, or ST_EXHAUSTED (R635). -/
def State.meterReply (s : State) (op status : Nat) (body : List Byte) : State := s.emit (.message 3 op status body)

/-- A request while the meter's firmware runs. -/
def State.withMeter (s : State) (f : State → State) : State := if s.smu.run then f s else s

/-- R600, R635: a change that counts as a metrology event, refused where the event counter is at its end. -/
def State.meterChange (s : State) (op : Nat) (change : SmuSt → SmuSt) : State :=
  if maxEvents ≤ s.smu.events then s.meterReply op stExhausted []
  else (s.meterEvent change).meterReply op 0 []

/-- SMU_SAMPLE (R593): the first sample after power-up finds the meter starting (R598). -/
def doSmuSample (millivolts milliamps : Nat) (s : State) : State :=
  if !s.power.smuUp || s.smu.failed then s
  else if s.smu.run then s.sample millivolts milliamps
  else
    let s := s.startMeter true
    if s.smu.run then s.sample millivolts milliamps else s
def execSmuSample (millivolts milliamps : Nat) (s : State) : Out := .next (doSmuSample millivolts milliamps s)

/-- INTERVAL_CLOSE (R596): the SMU interval has passed. -/
def doIntervalClose (s : State) : State :=
  s.withMeter (fun t =>
    let due := t.smu.startUs + t.smu.interval * usPerSec
    ({ t with smu := { t.smu with poweredUs := max t.smu.poweredUs due } }).closeInterval)
def execIntervalClose (s : State) : Out := .next (doIntervalClose s)

/-- SMU_CHECKPOINT (R598, R600): a pending meter image that has come as far as a checkpoint is ready: it becomes the active one, and
counter 3 follows (DESIGN CHOICE, notes/assumptions/78.md: the spec does not say when a meter image is ready). -/
def doSmuCheckpoint (s : State) : State :=
  s.withMeter (fun t => let t := t.saveCheckpoint; { t with smu := { t.smu with image := t.smu.image.ready } })
def execSmuCheckpoint (s : State) : Out := .next (doSmuCheckpoint s)

/-- SMU_WATCHDOG (R599): D4 is reset, and its firmware starts again. -/
def doSmuWatchdog (s : State) : State := if s.power.smuUp then s.resetD4.startMeter false else s
def execSmuWatchdog (s : State) : Out := .next (doSmuWatchdog s)

/-- GET_READING (R602): live energy and counts, unsigned. -/
def doGetReading (s : State) : State :=
  s.withMeter (fun t => t.meterReply meterReading 0
    (leBytes 8 (t.smu.energy / pjPerMj) ++ leBytes 8 (t.smu.total / pjPerMj) ++ (countedKeys t.smu.keys).flatMap keyEntry))
def execGetReading (s : State) : Out := .next (doGetReading s)

/-- GET_RECORDS (R602): the records held from a SEQ on, with their key blocks. -/
def doGetRecords (seq : BitVec 64) (s : State) : State :=
  s.withMeter (fun t => t.meterReply meterRecords 0
    ((t.smu.ring.filter (fun r => decide (seq.toNat ≤ r.seq))).flatMap (fun r => r.body ++ r.keys)))
def execGetRecords (seq : BitVec 64) (s : State) : Out := .next (doGetRecords seq s)

/-- GET_CERT (R602). -/
def doGetCert (s : State) : State := s.withMeter (fun t => t.meterReply meterCert 0 t.smu.cert)
def execGetCert (s : State) : Out := .next (doGetCert s)

/-- SET_INTERVAL (R596, R600, R602): whole seconds from 60 to 3,600. -/
def doSetInterval (seconds : Nat) (s : State) : State :=
  s.withMeter (fun t =>
    if seconds < 60 || 3600 < seconds then t.meterReply meterInterval 1 []
    else if seconds = t.smu.interval then t.meterReply meterInterval 0 []
    else t.meterChange meterInterval (fun u => { u with interval := seconds }))
def execSetInterval (seconds : Nat) (s : State) : Out := .next (doSetInterval seconds s)

/-- CALIBRATION_WRITE (R600): only under a metrology signature. -/
def doCalibrationWrite (data sig : List Byte) (s : State) : State :=
  s.withMeter (fun t =>
    if rsaVerify (Config.rootKey 2) data sig then
      t.meterChange meterCalibrate (fun u => { u with calibration := data })
    else t.meterReply meterCalibrate 1 [])
def execCalibrationWrite (data : List Byte) (sig : List Byte) (s : State) : Out := .next (doCalibrationWrite data sig s)

/-- R600, R604: the image in the slot not in use is activated: it is pending, and runs from now on. -/
def FwPair.tryNow (p : FwPair) : FwPair := { p.activate with running := !p.running }

/-- METER_IMAGE_UPDATE (R589, R600, R604): a component written to the meter's slot not in use, and activated if asked. -/
def doMeterImageUpdate (image : List Byte) (activate : Bool) (s : State) : State :=
  s.withMeter (fun t =>
    if imageOk 2 3 t.smu.image.counter image then
      let t := { t with smu := { t.smu with image := t.smu.image.setSpare (imageSlot image) } }
      if activate then t.meterChange meterUpdate (fun u => { u with image := u.image.tryNow })
      else t.meterReply meterUpdate 0 []
    else t.meterReply meterUpdate 1 [])
def execMeterImageUpdate (image : List Byte) (activate : Bool) (s : State) : Out := .next (doMeterImageUpdate image activate s)

/-- METER_KEY_REGENERATION (R585, R600, R601): the next meter key, kept in flash wrapped under the meter's KW. -/
def doMeterKeyRegeneration (s : State) : State :=
  s.withMeter (fun t => t.meterChange meterKeyRegen (fun u => u.newKey t.freeCtr))
def execMeterKeyRegeneration (s : State) : Out := .next (doMeterKeyRegeneration s)

end Sys2Proof.Machine
end

