-- ==== Sys2Proof/Machine/Mmu.lean ====
section
/-! DEFINITION. Page-table walks and invalidations (R45, R277 to R280). -/
namespace Sys2Proof.Machine

def State.setWalk (s : State) (w : Walk) : State :=
  { s with mmu := { s.mmu with walks := s.mmu.walks.map (fun u => if u.page = w.page then w else u) } }

/-- PAGE_WALK_READ (R42, R45): one read of the first walk whose pseudo-channel allows it. -/
def doPageWalkRead (ecc : Ecc) (s : State) : State :=
  match s.walkOrder.find? (fun w => (s.pchSlot (pchOf (s.walkRead w))).isSome) with
  | none => s
  | some w =>
    let a := s.walkRead w
    let n := pchOf a
    let start := (s.pchSlot n).getD s.now
    let s := (s.at_ start).setPch n { s.pch n with busyUntil := start + 24 }
    let s := if w.started then s
      else ({ s with pick := { s.pick with walksStarted := s.pick.walksStarted + 1 } }).count MMU_TC_STAT.MISSES
    let c := s.hbmCheck (a / 64 * 64) ecc
    let s := c.2
    let e := BitVec.ofNat 64 (leNat (s.hbmBytes a 8))
    let w := { w with started := true }
    if c.1 then s.setWalk { w with result := some none }
    else
      match s.walkEntry w.level w.va e with
      | .table t => s.setWalk { w with level := w.level + 1, table := t }
      | _ => s.setWalk { w with result := some (some e) }
def execPageWalkRead (ecc : Ecc) (s : State) : Out := onUnit true (doPageWalkRead ecc s)

/-- R278: an access that waited for a walk goes on through its leaf. -/
def State.waitProceeds (s : State) (l : Leaf) (w : WalkWait) : State :=
  if w.write.isSome && !l.w && w.who.testsW then (s.recordFault w.who w.va true true).accessFailed w.who true causeAccess
  else
    let r := s.atPlace w.who w.va l w.write
    match r.1 with
    | none => r.2
    | some c => r.2.accessFailed w.who w.write.isSome c

/-- R278: an access that waited for a walk faults. -/
def State.waitFaults (s : State) (cause : Nat) (w : WalkWait) : State :=
  (s.recordFault w.who w.va w.write.isSome (cause == causeAccess)).accessFailed w.who w.write.isSome cause

/-- R277, R278: what a finished walk found is for the access, of those that waited with it. -/
def Walk.answers (w : Walk) (out : WalkStep) (x : WalkWait) : Bool :=
  match out with
  | .leaf l => l.covers x.va
  | _ => w.level < 3 || x.va / 65536 == w.page

/-- R277, R278: a finished walk leaves the queue with the accesses of its page, and with the queued walks of the same page;
each access goes on or faults. One that waited on a page of 2 MiB in whose place the walk found one of 64 KiB, not its own, waits
for a walk of its own. -/
def State.endWalk (s : State) (w : Walk) : State :=
  let out : WalkStep := match w.result.getD none with
    | none => WalkStep.error
    | some e => s.walkEntry w.level w.va e
  let inPage (p : Nat) : Bool := match out with
    | .leaf l => l.covers (p * 65536)
    | _ => p == w.page
  let mine := s.mmu.waiting.filter (fun x => inPage x.page && w.answers out x)
  let again : List WalkWait := s.mmu.waiting.filterMap (fun (x : WalkWait) =>
    if inPage x.page then (if w.answers out x then none else some { x with page := x.va / 65536 }) else some x)
  let t := { s with mmu := { s.mmu with walks := s.mmu.walks.filter (fun x => !inPage x.page), waiting := again } }
  let t := match out with
    | .leaf l => mine.foldl (fun (u : State) x => u.waitProceeds l x) (t.fillCache l)
    | .moving => mine.foldl (fun (u : State) x => u.waitFaults causeMigrating x) t
    | .absent => mine.foldl (fun (u : State) x => u.waitFaults causeAbsent x) t
    | .unmapped => mine.foldl (fun (u : State) x => u.waitFaults causeAccess x) t
    | .table _ | .error => mine.foldl (fun (u : State) x => u.waitFaults causeAccess x) (t.raise MMU_STATUS.TABLE_ERR)
  t.fillWalks

/-- WALK_COMPLETE (R278): the first walk whose last read has given its page's entry. -/
def doWalkComplete (s : State) : State :=
  match s.mmu.walks.find? (fun w => w.result.isSome) with
  | none => s
  | some w => s.endWalk w
def execWalkComplete (s : State) : Out := onUnit true (doWalkComplete s)

/-- INV_DRAIN_COMPLETE (R280): no access through an invalidated entry is left. -/
def doInvDrainComplete (s : State) : State :=
  if s.flag MMU_STATUS.INV_BUSY && !s.staleLeft then s.put MMU_STATUS.INV_BUSY 0 else s
def execInvDrainComplete (s : State) : Out := onUnit true (doInvDrainComplete s)

end Sys2Proof.Machine
end

