-- ==== Sys2Proof/Machine/HangOps.lean ====
section
/-! DEFINITION. The hang detector (R551 to R554): the waiting units, what each waits for, and what a sample raises. -/
namespace Sys2Proof.Machine

/-! ## Nodes (R551) -/

def nodeShuttle (k : Nat) : Nat := 64 + k
def nodeEgress (p : Nat) : Nat := 152 + p
def nodeBme (k : Nat) : Nat := 176 + k
def nodeSeq : Nat := 192
def nodeServe : Nat := 193
def nodeFirm : Nat := 194
def nodeWindow : Nat := 195
/-- Where an edge points that leaves the module, that finds nothing the waiter needs, or that meets a running BME command,
which never waits. -/
def nodeRemote : Nat := 256
def nodeOrphan : Nat := 257
def nodeRunning : Nat := 258

/-- The targets of a waiter: orphan where there is none. -/
def orOrphan (l : List Nat) : List Nat := if l.isEmpty then [nodeOrphan] else l.eraseDups

/-! ## What a region waits for -/

/-- R551: a line of a side of a transfer is a line of a slice. -/
def State.sideNames (s : State) (t : Transfer) (d : Desc) (last : Option (Nat × Nat)) (rgn line : Nat) : Bool :=
  d.space == 1 && s.descRegion t d == rgn
    && ((t.lines.map (fun e => e.1)) ++ (List.range (t.total - t.next)).map (fun i => t.next + i)).any (fun n =>
      let v := s.indexAt t d last (d.entryOf n)
      !d.isNull v && !d.outOfRange v && (d.addr n v).toNat / 64 == line)

/-- R551: a transfer that is held names a tagged line. -/
def State.transferNames (s : State) (t : Transfer) (rgn line : Nat) : Bool :=
  !t.done && (s.sideNames t t.srcDesc t.srcIdx rgn line || s.sideNames t t.dstDesc t.dstIdx rgn line)

/-- R551: a stack holds a command that names a tagged line. -/
def State.stackNames (s : State) (k rgn line : Nat) : Bool :=
  let mine (c : BmeCmd) : Bool := c.region == rgn && c.dstLines.contains line
  (s.stack k).queue.any mine || (s.stack k).running.any (fun r => mine r.cmd) || s.bmeWay.any (fun c => c.stack == k && mine c)

/-- R551: the units whose held work names a tagged line. -/
def State.lineHolders (s : State) (rgn line : Nat) : List Nat :=
  (s.shuttles.filter (fun e => e.2.transfers.any (fun t => s.transferNames t rgn line))).map (fun e => nodeShuttle e.1)
    ++ ((List.range 16).filter (fun k => s.stackNames k rgn line)).map nodeBme

/-- The tagged lines that a slot of a word waits on. -/
def State.waitedLines (s : State) (n t : Nat) (w : Option Slot) (load : Bool) (freed : List Nat) : List Nat :=
  match w with
  | none => []
  | some x =>
    if s.laneWaits n t x load freed then
      (fourLines x.addr).filter (fun l => (s.region n).heldAt l t
        || (if load then (s.region n).tagAt l t == tagEmpty else (s.region n).tagAt l t == tagFull && !freed.contains l))
    else []

/-- R551: the edges of a waiting region. -/
def State.regionEdges (s : State) (n : Nat) : List Nat :=
  match (s.region n).queue with
  | [] => []
  | q :: _ =>
    let t := (s.region n).cycle
    let w := s.waitsOf n t q
    if !(s.region n).waiting || !w.any then []
    else
      let held := fun cls => s.crossHeld n cls 0
      let col := n % 8
      let last := (s.physOf (8 * (s.gridRows - 1) + col)).toList
      let missing := ((s.region n).crossOps.filter (fun o => o.readAt == t)).flatMap (fun o =>
        ((s.crossSources n o).filter (fun e => (s.sentBy' e.1 e.2 o.start).isNone)).map (fun e => e.1))
      let crossing := (if s.actEmpty n t then (s.neighbour n 2).toList else [])
        ++ (if s.partEmpty n t then (s.neighbour n 0).toList else [])
        ++ (if s.sumEmpty n t then last else [])
        ++ missing
        ++ (if s.actFull n t held then (s.neighbour n 3).toList else [])
        ++ ((s.downFull n t held).bind s.physOf).toList
        ++ (if s.crossFull n t q.v then
            (match q.v with
              | some v => (s.neighbour n ((vSlot v).imm % 4)).toList
              | none => []) ++ s.regionsOn.filter (fun m => decide ((s.region m).cycle < t) && m != n)
          else [])
      let freed := s.ldConsumes n q.ld
      let lines := s.waitedLines n t q.ld true [] ++ s.waitedLines n t q.st false freed
      let tags := if w.tags then orOrphan (lines.flatMap (fun l => s.lineHolders n l)) else []
      let bme := if w.bme then ((s.issuesBme n q.ld).toList ++ (s.issuesBme n q.st).toList).map (fun f => nodeBme f.stack) else []
      (crossing ++ tags ++ bme).eraseDups

/-! ## What the other units wait for -/

/-- R551: slices of the FULL lines that accesses of a requester wait to write. -/
def State.fullSlices (s : State) (who : Requester → Bool) : List Nat :=
  ((s.unsched.filter (fun u => who u.who && (match u.kind with | .write _ | .mark => true | _ => false)
    && s.tagged u.region u.line && (s.region u.region).tag u.line == tagFull)).map (fun u => u.region)).eraseDups

/-- R551: a shuttle holds an outstanding request. -/
def State.shuttleAway (s : State) (k : Nat) : Bool :=
  s.requests.entries.any (fun e => match e.2 with
      | some r => (match r.who with | .shuttle h _ _ _ => h == k | _ => false)
      | none => false)
    || s.cxl.any (fun c => c.2.reads.any (fun r => match r.who with | .shuttleRead h _ _ => h == k | _ => false))

/-- R551: the edges of a shuttle. -/
def State.shuttleEdges (s : State) (k : Nat) : List Nat :=
  s.fullSlices (fun w => match w with | .shuttleWrite h _ _ => h == k | _ => false)
    ++ (if s.shuttleAway k then [nodeRemote] else [])
    ++ (if 64 ≤ k && (s.port (k - 64)).backlogCells.any (fun c => c.own.isSome) then [nodeEgress (k - 64)]
        else [])

/-- R551: a port egress waits when it has cells that its partner does not take. -/
def State.egressEdges (s : State) (p : Nat) : List Nat :=
  let x := s.port p
  let some_ := !x.queue.isEmpty || !x.ring.isEmpty || !x.replay.isEmpty
  let silent := !x.replay.isEmpty && decide (x.ackAt + 4 * usCycles ≤ s.now)
  if some_ && (silent || s.fld (LNK_STATUS.STATE p) != lnkActive) then [nodeRemote] else []

def State.bmeEdges (s : State) (k : Nat) : List Nat :=
  if (s.stack k).queue.isEmpty || (s.stack k).running.isEmpty then [] else [nodeRunning]

/-- R322, R551: the shuttle whose completions an object below 88 counts: for objects 0 to 63 that of a virtual region. -/
def State.counterShuttle (s : State) (o : Nat) : Option Nat := if o < 64 then s.physOf o else some o

/-- R551: who changes an object. -/
def State.changers (s : State) (o : Nat) : List Nat :=
  if (s.obj o).remote then nodeRemote :: s.regionsOn
  else if o < 88 then orOrphan (((s.counterShuttle o).toList.filter (fun k => !(s.shuttle k).transfers.isEmpty)).map nodeShuttle)
  else if o ≤ 89 then [nodeServe]
  else if o = 90 then [nodeFirm]
  else
    match s.weights.gates with
    | some (w, layers) => if w ≤ o && o < w + 3 * layers then [nodeFirm] else [nodeOrphan]
    | none => [nodeOrphan]

/-- R551: the edges of the sequencer. -/
def State.seqEdges (s : State) : List Nat :=
  if s.seq.state != .waiting then []
  else
    match s.sync.wait with
    | some w => s.changers w.obj
    | none => s.regionsOn.filter (fun n => decide (64 ≤ (s.region n).queue.length))

/-- R551: the serving control waits for the program to announce a commit block. -/
def State.serveEdges (s : State) : List Nat :=
  if s.flag CTX_CTRL.EN && s.serve.image.isSome && s.programOn && s.serve.running.isNone
      && decide ((s.obj 88).value.toNat ≤ s.serve.finished) then [nodeSeq] else []

/-- R551: the units that BUSY commands wait on. -/
def State.firmEdges (s : State) : List Nat :=
  ((if s.seq.yieldReq.isSome || s.seq.stopReq.isSome then [nodeSeq] else [])
    ++ s.part.retiring.flatMap (fun r => (List.range 24).filterMap (fun p =>
        if (s.port p).backlogCells.any (fun c => !c.cell.svc && c.cell.key == r.1) then some (nodeEgress p) else none))
    ++ (match s.weights.op with | some o => if o.swap then [] else [nodeRemote] | none => [])).eraseDups

def State.windowEdges (s : State) : List Nat := s.fullSlices (fun w => match w with | .window _ _ _ => true | _ => false)

/-- R551: every node that waits, with its edges. -/
def State.waitEdges (s : State) : List (Nat × Nat) :=
  let of (node : Nat) (l : List Nat) : List (Nat × Nat) := l.map (fun t => (node, t))
  (List.range 64).flatMap (fun n => of n (s.regionEdges n))
    ++ (List.range 88).flatMap (fun k => of (nodeShuttle k) (s.shuttleEdges k))
    ++ (List.range 24).flatMap (fun p => of (nodeEgress p) (s.egressEdges p))
    ++ (List.range 16).flatMap (fun k => of (nodeBme k) (s.bmeEdges k))
    ++ of nodeSeq s.seqEdges ++ of nodeServe s.serveEdges ++ of nodeFirm s.firmEdges ++ of nodeWindow s.windowEdges

/-- R552: what a node has done: words retired and lines moved. -/
def State.progress (s : State) (node : Nat) : Nat :=
  if node < 64 then (s.region node).cycle
  else if node < 152 then
    let x := s.shuttle (node - 64)
    x.serial + x.transfers.foldl (fun n t => n + t.next + t.resolved) 0
  else if node < 176 then (s.port (node - 152)).txNext + 65536 * (s.port (node - 152)).txOldest
  else if node < 192 then s.fld (BME_Q_STAT.STARTED (node - 176)) + (s.stack (node - 176)).running.foldl (fun n r => n + r.serial) 0
  else if node = nodeSeq then s.seq.issued
  else if node = nodeServe then s.serve.finished
  else if node = nodeWindow then s.tokens + s.inbound.foldl (fun n b => n + b.left.length) 0
  else 0

/-! ## The sample (R552, R553) -/

/-- Nodes each of which has a long-held edge to another of them, by removing those that have none. -/
def looped (edges : List (Nat × Nat)) : Nat → List Nat → List Nat
  | 0, l => l
  | k + 1, l => looped edges k (l.filter (fun n => edges.any (fun e => e.1 == n && l.contains e.2)))

/-- Follow edges within a set of nodes. -/
def follow (edges : List (Nat × Nat)) (l : List Nat) : Nat → Nat → List Nat
  | 0, _ => []
  | k + 1, n =>
    match edges.find? (fun e => e.1 == n && l.contains e.2) with
    | some e => n :: follow edges l k e.2
    | none => [n]

/-- A cycle of edges, in order; none where there is none. -/
def cycleOf (edges : List (Nat × Nat)) : List Nat :=
  let nodes := (edges.map (fun e => e.1)).eraseDups
  match looped edges nodes.length nodes with
  | [] => []
  | n :: r =>
    let path := follow edges (n :: r) (2 * (n :: r).length) n
    let start := path.getLastD n
    start :: ((path.reverse.drop 1).takeWhile (fun m => m != start)).reverse

/-- R553: nodes from which every chain of edges ends off the module. -/
def allRemote (edges : List (Nat × Nat)) : Nat → List Nat → List Nat
  | 0, good => good
  | k + 1, good =>
    let nodes := (edges.map (fun e => e.1)).eraseDups
    allRemote edges k (nodes.filter (fun n =>
      (edges.filter (fun e => e.1 == n)).all (fun e => e.2 == nodeRemote || good.contains e.2)))

/-- R554: a hang is recorded where none is. -/
def State.recordHang (s : State) (kind samples : Nat) (nodes : List Nat) : State :=
  if s.flag MGT_HANG_STATUS.VALID then s
  else
    let s := ((s.put MGT_HANG_STATUS.KIND kind).raise MGT_HANG_STATUS.VALID).put MGT_HANG_STATUS.NODES (min nodes.length 255)
    let s := s.put MGT_HANG_STATUS.SAMPLES (min samples 0xFFFF)
    (List.range 8).foldl (fun (t : State) k =>
      t.setReg (MGT_HANG_NODE k) (BitVec.ofNat 32 (leNat ((List.range 4).map (fun i =>
        BitVec.ofNat 8 (nodes.getD (4 * k + i) 0)))))) s

/-- R550, R552: HANG or REMOTE_WAIT is raised. -/
def State.raiseHang (s : State) (kind samples : Nat) (nodes : List Nat) : State :=
  let s := { s with fence := { s.fence with hang := { s.fence.hang with raised := true } } }
  let s := s.recordHang kind samples nodes
  s.event (if kind = 3 then evRemoteWait else evHang) 0xFFFF (s.regBytes MGT_HANG_STATUS)

/-- R552: the edges now held, each with the samples for which it has been held while its node made no progress. -/
def State.heldEdges (s : State) : List (Nat × Nat × Nat) :=
  let h := s.fence.hang
  (s.waitEdges).map (fun e =>
    let still := sget 0 h.marks e.1 == s.progress e.1
    match h.edges.find? (fun o => o.1 == e.1 && o.2.1 == e.2) with
    | some o => (e.1, e.2, if still then o.2.2 + 1 else 1)
    | none => (e.1, e.2, 1))

/-- R552: a node has made progress since the sample before. -/
def State.moved (s : State) (n : Nat) : Bool := sget 0 s.fence.hang.marks n != s.progress n

/-- R552: the samples a node has waited without progress. -/
def State.waits (s : State) (n : Nat) : Nat := if s.moved n then 1 else sget 0 s.fence.hang.nodes n + 1

/-- R552: what the detector holds after a sample of these edges. -/
def State.hangAfter (s : State) (edges : List (Nat × Nat × Nat)) : HangSt :=
  let nodes := (edges.map (fun e => e.1)).eraseDups
  { nodes := nodes.foldl (fun m n => sset 0 m n (s.waits n)) [], edges := edges
    marks := nodes.foldl (fun m n => sset 0 m n (s.progress n)) []
    raised := s.fence.hang.raised && !s.fence.hang.nodes.any (fun e => s.moved e.1) }

/-- R553: what a sample of these edges finds: a cycle, an orphan edge, or waits that all end at remote work. -/
def State.hangFound (s : State) (edges : List (Nat × Nat × Nat)) : Option (Nat × List Nat) :=
  let limit := s.fld MGT_HANG_CTRL.PICKS
  let nodes := (edges.map (fun e => e.1)).eraseDups
  let long := (edges.filter (fun e => decide (limit ≤ e.2.2))).map (fun e => (e.1, e.2.1))
  match cycleOf long, long.find? (fun e => e.2 == nodeOrphan) with
  | n :: r, _ => some (1, n :: r)
  | [], some e => some (2, [e.1])
  | [], none =>
    let remote := allRemote (edges.map (fun e => (e.1, e.2.1))) nodes.length []
    if !nodes.isEmpty && nodes.all (fun n => decide (limit ≤ s.waits n)) && nodes.all (fun n => remote.contains n) then
      some (3, nodes)
    else none

/-- R554: the samples for which what was found has persisted. -/
def State.hangSamples (s : State) (edges : List (Nat × Nat × Nat)) (kind : Nat) (nodes : List Nat) : Nat :=
  let held : List (Nat × Nat × Nat) := match kind with
    | 1 => edges.filter (fun e => (nodes.zip (nodes.drop 1 ++ nodes.take 1)).contains (e.1, e.2.1))
    | _ => edges.filter (fun e => nodes.contains e.1 && e.2.1 == nodeOrphan)
  if kind = 3 then nodes.foldl (fun m n => min m (s.waits n)) 0xFFFF else held.foldl (fun m e => min m e.2.2) 0xFFFF

/-- R552, R553: a sample. -/
def State.sampleHang (s : State) : State :=
  if !s.flag MGT_HANG_CTRL.EN then s
  else
    let edges := s.heldEdges
    let t := { s with fence := { s.fence with hang := s.hangAfter edges } }
    if t.fence.hang.raised then t
    else
      match s.hangFound edges with
      | some (kind, nodes) => t.raiseHang kind (s.hangSamples edges kind nodes) nodes
      | none => t

end Sys2Proof.Machine
end

