-- ==== Sys2Proof/Machine/SnapOps.lean ====
section
/-! DEFINITION. Snapshots of the counter registers (R605 to R612): where each shadow lies and what the header holds. -/
namespace Sys2Proof.Machine

/-- R607: the counter registers of a region, a port and a stack, in order. -/
def regionCounters (n : Nat) : List Reg :=
  [RGN_CLK_STAT n, RGN_XING_WAIT n, RGN_LANE_CONFLICT n, RGN_ARRAY_STAT n, RGN_VEC_STAT n, RGN_BANK_CONFLICT n,
    RGN_SPAD_WAIT n, RGN_SPAD_ECC n]
def portCounters (p : Nat) : List Reg :=
  [LNK_CORR p, LNK_ERR p, LNK_REPLAY p, LNK_LOST p, LNK_SPILL_DROP p, RTE_DROP p, LNK_SPILL p]
def stackCounters (k : Nat) : List Reg := [BME_STACK_ECC k, BME_Q_STAT k, BME_LATE k]
/-- R607: the counter registers of the module, in order. -/
def moduleCounters : List Reg :=
  [PCK_STATUS, PCK_MISC_COUNT, MMU_TC_STAT, SHT_WIN_STAT, SHT_FQ_STATUS, SHT_WEIGHT_STAT, SHT_WEIGHT_LINES, RTE_REQ_STAT,
    REED_STATUS, REED_DROP, CTX_STAT, CTX_MASK_STAT, SYN_STAT, SYN_FILT_STAT, SYN_FAIL_STATUS, MGT_RESET_COUNT, SEQ_TRACE_LOST]

/-- R607: registers at consecutive words from an offset. -/
def shadowsAt (o : Nat) (l : List Reg) : List (Nat × Reg) := l.zipIdx.map (fun e => (o + 4 * e.2, e.1))

/-- R607: every shadow's offset in window 2 with the register it copies. -/
def shadowTable : List (Nat × Reg) :=
  (List.range 64).flatMap (fun n => shadowsAt (0x100 + 32 * n) (regionCounters n))
    ++ (List.range 24).flatMap (fun p => shadowsAt (0x900 + 32 * p) (portCounters p))
    ++ (List.range 16).flatMap (fun k => shadowsAt (0xC00 + 16 * k) (stackCounters k))
    ++ (List.range 8).map (fun k => (0xD00 + 4 * k, CXL_PORT_ERR k))
    ++ shadowsAt 0xD80 moduleCounters

/-- R608: the words of the shadow header of a boundary that begins now. -/
def State.shadowHeader (s : State) (holdover : Bool) : List Nat :=
  let flags := 1 + 2 * bnat holdover + 4 * bnat (s.fenced 3) + 8 * bnat s.seq.yielded
  [1, flags, low32 s.pickNo, high32 s.pickNo, low32 s.retired, high32 s.retired, (s.reg PCK_EPOCH).toNat,
    s.fld RTE_SELF.PHYSICAL + 65536 * (s.memberKey.getD 0)]

/-- R606: a word of window 2 is set. -/
def State.putShadow (s : State) (o : Nat) (v : Reg32) : State :=
  { s with obs := { s.obs with shadows := sset 0 s.obs.shadows o v } }

/-- R610: the copy for an armed pick, at the boundary that begins it. -/
def State.takeSnapshot (s : State) (holdover : Bool) : State :=
  if s.obs.armed = some s.pickNo then
    let t := shadowTable.foldl (fun (t : State) e => t.putShadow e.1 (s.peek e.2.addr)) s
    let t := (s.shadowHeader holdover).zipIdx.foldl (fun (t : State) e => t.putShadow (4 * e.2) (BitVec.ofNat 32 e.1)) t
    { t with obs := { t.obs with armed := none } }
  else s

/-- R608, R611: the shadows hold a valid copy of a pick. -/
def State.snapshotOf (s : State) (p : Nat) : Bool :=
  (sget 0 s.obs.shadows 4).getLsbD 0
    && (sget 0 s.obs.shadows 8).toNat + 4294967296 * (sget 0 s.obs.shadows 12).toNat == p

end Sys2Proof.Machine
end

