-- ==== Sys2Proof/Machine/PickOps.lean ====
section
/-! DEFINITION. Pick boundaries (R31 to R72): the counter and the ticks that move it, the boundary actions in their order,
the background window that begins, and what starts, stops or is injected at a boundary. -/
namespace Sys2Proof.Machine

/-! ## The counter (R38, R40, R59, R60) -/

def maxPick : Nat := 0xFFFFFFFFFFFF

/-- R38, R40: the counter advances, to the pick the accepted tick announces or by one, and holds at its end. -/
def State.advanceCount (s : State) : State :=
  let next := match s.pick.accepted with | some p => p.toNat | none => s.pickNo + 1
  if s.pick.boundaryAt.isSome && s.pickNo == maxPick then s
  else
    let n := min next maxPick
    let s := { s with pick := { s.pick with count := BitVec.ofNat 48 n } }
    if n = maxPick then ({ s with pick := { s.pick with endDue := true } }).raise PCK_EVENT.END_OF_COUNT else s

/-- R59, R71: the module begins this pick on its own count for want of a tick, and may hold over. -/
def State.holdsOver (s : State) : Bool :=
  s.isMember && s.pick.accepted.isNone && !s.flag CLK_REF_STATUS.REF_LOSS && decide (s.fld PCK_STATUS.HOLDOVER < 8)

/-- R59, R60: a missed tick that is not held over raises SLIP. -/
def State.tickLost (s : State) : Bool := s.isMember && s.pick.accepted.isNone && !s.holdsOver

/-- R70: STATE moves to a value, but never out of SLIPPED. -/
def State.setPickState (s : State) (v : Nat) : State := if s.pickState = pickSlipped then s else s.put PCK_STATUS.STATE v

/-- R59, R70: the state in which the pick begins. -/
def State.beginState (s : State) : State :=
  if s.holdsOver then (s.put PCK_STATUS.HOLDOVER (s.fld PCK_STATUS.HOLDOVER + 1)).setPickState pickHoldover
  else if s.tickLost then s
  else (s.put PCK_STATUS.HOLDOVER 0).setPickState pickLocked

/-! ## Lag (R66, R67, R69, R547) -/

/-- R66, R547, R336: the lag at a boundary that ends pick `ended`; none where none is evaluated. -/
def State.lagNow (s : State) (ended : Nat) : Option Nat :=
  match s.pick.lastComplete with
  | some l => if s.programOn && !s.seq.yielded then some (ended - l) else none
  | none => none

/-- R67, R72: PICK_OVERRUN is raised for the segment that is late. -/
def State.overrun (s : State) : State :=
  let late := match s.pick.lastComplete with | some l => s.lateRegion (l + 1) | none => none
  let s := (s.raise PCK_EVENT.OVERRUN).count PCK_MISC_COUNT.OVERRUNS
  s.event evOverrun (late.getD 0xFFFF) (s.regBytes PCK_STATUS)

/-- R47: the lag is evaluated, and PICK_OVERRUN or SLIP raised if due; `slipDue` gives the other causes of SLIP, none of which
counts while the module is YIELDED (R336). A boundary at which SLIP is due for such a cause and the lag is 1 or 2 raises SLIP
alone (DEDUCED, notes/assumptions/58.md). -/
def State.evaluateLag (s : State) (slipDue : Bool) (ended : Nat) : State :=
  let lag := (s.lagNow ended).getD 0
  let s := s.put PCK_STATUS.LAG (min lag 3)
  if (slipDue && !s.seq.yielded) || decide (3 ≤ lag) then s.slip
  else if lag = 0 || s.pickState == pickSlipped then s
  else s.overrun

/-! ## The background window (R41 to R46, R265, R296) -/

/-- R34, R44, R265: a window begins on the pseudo-channels; `cut` carries over the refreshes that the window cut short had
not issued. -/
def State.windowPchs (s : State) (cut : Bool) : State :=
  let fresh (x : PchSt) : PchSt := { x with refreshes := none, scrubbed := false }
  if cut then
    (List.range 512).foldl (fun (t : State) n =>
      let x := t.pch n
      t.setPch n (fresh { x with carried := x.carried + x.refreshes.getD 3 })) s
  else { s with hbm := { s.hbm with pchs := smapAllTo {} s.hbm.pchs fresh } }

/-- R44, R45, R46, R265, R296: a background window begins; what R222 keeps for a cycle of the span goes. -/
def State.beginWindow (s : State) (at_ : Nat) (cut : Bool) : State :=
  let s := s.windowPchs cut
  let s := { s with
    hbmStacks := smapAllTo {} s.hbmStacks (fun k => k.pause at_)
    pick := { s.pick with windowAt := at_, inWindow := true, walksStarted := 0 } }
  s.each s.regionsOn (fun n t => t.setRegion n { t.region n with clk := { (t.region n).clk with stepped := false }, before := [] })

/-- R41, R45, R47, R265, R296, R620: the window ends; row-mask changes still on their way reach the regions before the span. -/
def State.endWindow (s : State) : State :=
  let left := (s.mmu.walks.filter (fun w => !w.started)).length
  let s := if 32 ≤ s.pick.walksStarted then s.count MMU_TC_STAT.DEFERRED left else s
  let s := { s with
    pick := { s.pick with
      inWindow := false, spans := (s.pickNo, s.pick.windowAt + s.pickWin) :: s.pick.spans.take 3 }
    hbmStacks := smapAllTo {} s.hbmStacks (fun k => k.resume s.now) }
  let s := s.each s.regionsOn (fun n t => t.startSlotStretch n)
  (s.landMasks s.serve.changes).openSegment

/-! ## Perturbation slots (R619, R620) -/

/-- R620: a slot's values lie within its row. -/
def State.slotOk (s : State) (n : Nat) : Bool :=
  let sub := s.slotSub n
  let target := s.fld (PTB_SLOT_CTRL.TARGET n)
  let lo := s.slotParam n 0 16
  let hi := s.slotParam n 16 16
  match s.fld (PTB_SLOT_CTRL.KIND n) with
  | 1 => decide (target < 64) && decide (1 ≤ sub) && decide (sub ≤ 4) && hi == 0 && lo != 0
  | 2 => decide (target < 64) && sub == 0 && hi == 0 && decide (64 ≤ lo) && decide (lo ≤ 140)
  | 3 => decide (target < 64) && decide (sub < 16) && lo != 0
  | 4 => decide (target < 64) && sub == 0 && hi == 0 && lo / 256 != 0 && lo % 256 != 0
  | 5 => decide (target < 24) && decide (1 ≤ sub) && decide (sub < 8) && lo != 0
  | 6 => decide (target < 24) && decide (1 ≤ sub) && decide (sub ≤ 8) && hi == 0 && decide (16 ≤ lo)
  | _ => false

def State.slotStart (s : State) (n : Nat) : Nat := s.fld (PTB_SLOT_START_LO.START_LO n) + 4294967296 * s.fld (PTB_SLOT_START_HI.START_HI n)

/-- R615, R619: a slot starts or ends. -/
def State.setSlot (s : State) (n : Nat) (left : Option Nat) : State :=
  let acting := bnat left.isSome
  let s := { s with obs := { s.obs with
    slots := sset none s.obs.slots n left, counts := sset 0 (sset 0 s.obs.counts n 0) (32 + n) 0 } }
  let s := s.put (PTB_SLOT_CTRL.ACTIVE n) acting
  let s := s.put PTB_STATUS.ACTIVE (bitsPut (s.fld PTB_STATUS.ACTIVE) n 1 acting)
  s.trace 5 0xFF (leBytes 1 n ++ leBytes 1 (s.fld (PTB_SLOT_CTRL.KIND n)) ++ leBytes 1 acting)

/-- R619: a boundary passes for a slot. -/
def State.stepSlot (s : State) (n : Nat) : State :=
  match sget none s.obs.slots n with
  | some 0 => s
  | some 1 => (s.put (PTB_SLOT_CTRL.EN n) 0).setSlot n none
  | some (k + 2) => { s with obs := { s.obs with slots := sset none s.obs.slots n (some (k + 1)) } }
  | none =>
    if !s.flag (PTB_SLOT_CTRL.EN n) then s
    else if !s.slotOk n then s.raise PTB_STATUS.BAD
    else if s.slotStart n ≤ s.pickNo then s.setSlot n (some (s.fld (PTB_SLOT_CTRL.PICKS n)))
    else s

/-- R79, R619: the slots' part of a boundary; stretching by a slot ends with its pick. -/
def State.stepSlots (s : State) : State :=
  let s := s.each s.regionsOn (fun n t =>
    if (t.region n).clk.slotLeft = 0 then t else t.setClk n { (t.region n).clk with slotLeft := 0, slotDepth := 0 })
  (List.range 16).foldl (fun (t : State) n => t.stepSlot n) s

/-! ## Starting (R65, R115, R561) -/

/-- R561: at the boundary that begins pick S - 63 a module still ARMED disarms. -/
def State.armExpires (s : State) : State :=
  if s.fld PCK_START.STATE == startArmed && (match s.part.startPick with | some p => decide (p ≤ s.pickNo + 63) | none => false) then
    s.disarm
  else s

/-- R65, R115, R150, R561: the module begins segment S. -/
def State.beginProgram (s : State) (p : Nat) : State :=
  let base := match s.mail.image.bind (fun i => i.restored) with
    | some g => BitVec.ofNat 48 (p + 2 ^ 48 - (g + 1))
    | none => BitVec.ofNat 48 p
  let issued := s.seq.issued
  let s := s.put PCK_START.STATE startStarted
  let s := { s with
    part := { s.part with startPick := none }
    pick := { s.pick with lastComplete := some (p - 1), quiet := false }
    sync := { s.sync with filter := [] }
    mail := { s.mail with image := s.mail.image.map (fun (i : ImageSt) => { i with restored := none }) }
    seq := { s.seq with
      state := .issuing, segment := some p, open_ := false, segBase := base, base := issued, execLimit := none, committed := none
      branch := none, skipTag := false, yieldReq := none, yieldFault := false, yieldSeg := none, yielded := false
      stopReq := none, stopped := false } }
  s.each s.regionsOn (fun n t => t.setRegion n { t.region n with cycle := issued })

/-- R65, R70: a module COMMITTED for the pick that begins starts its program. SLIP before S does not undo the commit: the
module, still SLIPPED, begins segment S (DESIGN CHOICE, notes/assumptions/77.md: R65 and R561 do not say). -/
def State.startDue (s : State) : State :=
  match s.seq.committed with
  | some p => if s.fld PCK_START.STATE == startCommitted && p == s.pickNo then s.beginProgram p else s
  | none => s

/-! ## Waits and rehearsals (R494, R623) -/

/-- R494: an issue-side wait has held across a boundary. -/
def State.noteWait (s : State) : State :=
  match s.sync.wait with
  | none => s
  | some w =>
    if s.seq.state != .waiting then s
    else
      let limit := s.fld SYN_CTRL.SUSPECT_PICKS
      let due := !w.raised && limit != 0 && decide (limit ≤ w.picks + 1)
      let s := { s with sync := { s.sync with wait := some { w with picks := w.picks + 1, raised := w.raised || due } } }
      if due then
        let o := s.obj w.obj
        (s.raise SYN_EVT.SUSPECT).event evSuspect 0xFFFF (leBytes 2 w.obj ++ leBytes 1 o.type ++ leBytes 1 0 ++ leBytes 8 o.value.toNat)
      else s

/-- R623, R625: a rehearsed fault is injected at its pick; a reset of D3 is refused as RESET_DOMAIN would be (R88). -/
def State.inject (s : State) : State :=
  match s.obs.rehearse with
  | none => s
  | some r =>
    if r.running.isSome || r.pick != s.pickNo then s
    else
      match r.kind with
      | 0 =>
        let s := { s with obs := { s.obs with rehearse := some { r with running := some s.now } } }
        let s := if s.lnkState r.target = lnkDown then s else s.lnkToDown r.target
        s.setPort r.target { s.port r.target with held := some (s.now + msCycles) }
      | 1 =>
        if s.flag CLK_REF_STATUS.REF_LOSS then s.endRehearsal r stBadArg
        else
          let s := { s with obs := { s.obs with rehearse := some { r with running := some s.now } } }
          s.askReset 3 (some r.mailbox)
      | _ =>
        let s := s.endRehearsal r stOk
        let s := s.fenceAll [1, 2, 3] none
        { s with obs := { s.obs with silent := true } }

/-! ## Ticks and PICK_IO (R53, R57, R58, R60, R63, R400, R402) -/

/-- R53: the fixed latencies of the tick path in cycles, as the worked example beside R53 has them: the origin's egress, a
port's ingress, and a router's forwarding (DEDUCED, notes/assumptions/14.md). -/
def egressLatency : Nat := 20
def ingressLatency : Nat := 12
def forwardLatency : Nat := 52

/-- R400: the tick cell with a payload. -/
def tickCellOf (key : Nat) (payload : List Byte) : Cell := ⟨header 2 true false true 0 key 0xFFF, padTo 64 payload⟩

/-- R58: the payload. -/
def tickPayload (pick hop flags age origin key config : Nat) : List Byte :=
  leBytes 6 pick ++ leBytes 1 hop ++ leBytes 1 flags ++ leBytes 4 age ++ leBytes 2 origin ++ leBytes 2 key ++ leBytes 4 config

/-- R380: what a narrower port adds to a latency of the tick path: 2 ns at width 4 and 6 ns at width 2, in whole cycles (DESIGN
CHOICE, notes/assumptions/14.md: the spec does not say how they round). -/
def State.widthDelay (s : State) (p : Nat) : Nat := match s.lnkWidth p with | 4 => 3 | 2 => 10 | _ => 0

/-- R357, R400: a tick takes the first cell position of each child port after a latency; it is lost on a port that is not
ACTIVE, and does not cross the host port (R423). `payload` is its payload there. -/
def State.sendTick (s : State) (latency : Nat → Nat) (payload : Nat → List Byte) : State :=
  s.childPorts.foldl (fun (t : State) p =>
    if t.isHostPort p then t.count (RTE_DROP.ROUTE p)
    else if t.lnkUp p then
      t.setPort p { t.port p with tick := some (tickCellOf (t.memberKey.getD 0) (payload p)), tickAt := t.now + latency p }
    else t) s

/-- R62: the origin takes its boundaries from PICK_IO. -/
def State.fromPickIo (s : State) : Bool := s.isOrigin && s.feature featPickIn && s.flag PCK_ROLE.SOURCE

/-- R53, R60: the origin's tick for the next pick. -/
def State.originTick (s : State) : State :=
  if !s.isOrigin || s.pickNo == maxPick || s.holdoverOver || s.clk.oscillator then s
  else
    s.sendTick (fun _ => egressLatency) (fun _ => tickPayload (s.pickNo + 1) 0 (bnat (s.flag CLK_REF_STATUS.REF_LOSS) + 2 * bnat s.fromPickIo)
      egressLatency s.deviceId (s.memberKey.getD 0) s.config)

/-- R63, R648: the pulse of PICK_IO leaves 20 ns after the boundary and lasts 10 ns. -/
def pinDelay : Nat := 32
def State.pulseOut (s : State) (at_ : Nat) : State :=
  if s.feature featPickOut && s.flag PCK_ROLE.PICK_IO_OUT_EN then
    ({ s with pick := { s.pick with pulseUntil := some (at_ + pinDelay + 16) } }).emit (.pulse (at_ + pinDelay))
  else s

/-- R402, R52: the slots of a pick begin on every port; a cell that was ready before and has not been sent is late. -/
def State.beginSlots (s : State) : State :=
  let late (e : EgressCell) : EgressCell := { e with claim := none, waits := e.waits && decide (s.now ≤ e.ready) }
  { s with ports := smapAllTo {} s.ports (fun x => { x with
      slot := 0, ready := [], queue := x.queue.map late, ring := x.ring.map (fun r => { r with cell := late r.cell }) }) }

/-! ## The boundary (R47) -/

/-- R187: a tile's class is counted afresh in every pick. -/
def State.newTilePick (s : State) (n : Nat) : State := s.setRegion n { s.region n with tileClass := 0 }

/-- R47: the boundary actions in their order, and what else happens at the boundary: the yield (R335), before the lag, which a
YIELDED module does not evaluate (R336); the slots (R619), the caps (R80), the window (R41), the start (R65), SUSPECT (R494), a
rehearsal (R623) and the hang sample (R552). An origin's first boundary, which may fall on its own count (R38), does not set
IO_PULSE_BAD (DEDUCED, notes/assumptions/58.md: R62 speaks of edges after a previous boundary). -/
def State.boundaryActions (s : State) (at_ power : Nat) : State :=
  let held := s.holdsOver
  let slipDue := s.pick.endDue || s.tickLost
  let cut := s.defaultFramed && s.pick.inWindow
  let ended := s.pickNo
  let s := s.each s.regionsOn (fun n t => (t.accountClk n).newTilePick n)
  let s := if s.fromPickIo && s.pick.ioEdge.isNone && s.pick.boundaryAt.isSome then s.raise PCK_EVENT.IO_PULSE_BAD else s
  let s := s.beginState.advanceCount
  let s := s.takeSnapshot held
  let s := if held then (s.raise PCK_EVENT.TICK_MISS).count PCK_MISC_COUNT.TICK_MISSES else s
  let s := if s.yieldDue then s.enterYield else s
  let s := s.evaluateLag slipDue ended
  let s := { s with pick := { s.pick with
    boundaryAt := some at_, nextAt := some (at_ + s.fld PCK_LENGTH.LENGTH), accepted := none, ioEdge := none } }
  let s := s.trace 2 0xFF (leBytes 1 (s.fld PCK_STATUS.LAG) ++ leBytes 1 s.pickState ++ leBytes 1 (s.fld PCK_STATUS.HOLDOVER))
  let s := (s.stepSlots.windowCaps power).beginWindow at_ cut
  let s := s.armExpires.startDue
  let s := (s.beginSlots.originTick).pulseOut at_
  (s.noteWait.inject).sampleHang

end Sys2Proof.Machine
end

