-- ==== Sys2Proof/Machine/RegAccess.lean ====
section
/-! DEFINITION. Software's accesses to the register space (R18 to R24): what a write sets, ignores or starts, and what a read
returns, clears and latches. -/
namespace Sys2Proof.Machine

/-! ## Writes that are ignored -/

/-- R64, R147, R232, R284, R430, R463, R464, R465: the state of the module makes the register ignore a write.
R603: the rw fields of MGT_CEILING, MGT_FM and MGT_PERMITTED are written by the management core alone, as R578 and R587 give
(DEDUCED, notes/assumptions/53.md: another core's write to them is without effect). -/
def State.writeIgnored (s : State) (a : Nat) (v : Reg32) : Bool :=
  let idle := s.pickState == pickIdle
  if a = PCK_ROLE.addr then !idle
  else if a = SEQ_CHECK.addr then !s.feature featCheck
  else if a = MMU_ROOT.addr then s.flag MMU_CTRL.EN
  else if a = CTX_TABLE_LO.addr || a = CTX_TABLE_HI.addr then s.flag CTX_CTRL.EN
  else if a = CTX_ROWBLK.addr || a = CTX_COMMITBLK.addr then (s.physOf (bitsAt v.toNat 25 6)).isNone
  else if a = MGT_CEILING.addr || a = MGT_FM.addr || (List.range 4).any (fun k => a == (MGT_PERMITTED k).addr) then true
  else if 0x52000 ≤ a && decide (a < 0x53000) then !idle
  else if 0xC1000 ≤ a && decide (a < 0xD0000) then s.programOn
  else if 0x11000 ≤ a && decide (a < 0x13000) then
    0x20 ≤ (a - 0x11000) % 0x80 && decide ((a - 0x11000) % 0x80 < 0x60) && s.programOn
  else false

/-- R85, R342, R431, R554, R564: a field that does not take a value keeps the one it has. -/
def keepField (old new : Reg32) (f : Fld) (ok : Nat → Bool) : Reg32 :=
  if ok (bitsAt new.toNat f.lo f.len) then new
  else BitVec.ofNat 32 (bitsPut new.toNat f.lo f.len (bitsAt old.toNat f.lo f.len))

def writeValue (a : Nat) (old v : Reg32) : Reg32 :=
  if a = SHT_CTRL.addr then keepField old v SHT_CTRL.FETCH_TIMEOUT (fun n => n != 0)
  else if a = RTE_REQ_CTRL.addr then
    keepField old (keepField old v RTE_REQ_CTRL.RETRY (fun n => n != 0)) RTE_REQ_CTRL.TIMEOUT (fun n => n != 0)
  else if a = MGT_HANG_CTRL.addr then keepField old v MGT_HANG_CTRL.PICKS (fun n => n != 0)
  else if a = PCK_START_CTRL.addr then keepField old v PCK_START_CTRL.TIMEOUT (fun n => decide (1700 ≤ n))
  else if 0x21000 ≤ a && decide (a < 0x21100) then
    keepField old v (CLK_RGN_FREQ.PLAN_CODE 0) (fun n => decide (64 ≤ n) && decide (n ≤ 140))
  else v

/-! ## Writes that act -/

/-- R345, R506: the record at the head of a queue is removed. -/
def State.popFault (s : State) : State := { s with faultQ := s.faultQ.drop 1 }
def State.popFailure (s : State) : State := { s with sync := { s.sync with failures := s.sync.failures.drop 1 } }

/-- R280, R285: a write to MMU_INV_HI. -/
def State.invWrite (s : State) (v : Reg32) : State :=
  let va := bitsAt v.toNat 0 4 * 2 ^ 48 + s.mmu.invLo.toNat * 2 ^ 16
  if v.getLsbD 5 then s.invalidate true 0 0
  else if v.getLsbD 4 then s.invalidate false (va / 2 ^ 21 * 2 ^ 21) (2 ^ 21)
  else s.invalidate false va (2 ^ 16)

/-- R385: the actions of a write to LNK_CTRL of a port. -/
def State.lnkWrite (s : State) (p : Nat) (v : Reg32) : State :=
  let s := doPortEnWrite p (v.getLsbD 0) s
  if v.getLsbD 2 then doFullRetrain p s
  else
    let s := if v.getLsbD 1 && s.lnkUp p then s.fastRetrain p true else s
    if v.getLsbD 3 then doWiden p s else s

/-- R619: a slot whose EN is cleared ends. -/
def State.slotWrite (s : State) (n : Nat) : State :=
  if (sget none s.obs.slots n).isSome && !s.flag (PTB_SLOT_CTRL.EN n) then s.setSlot n none else s

/-- R18: what a write starts, once its bits are stored. Outside a partition RTE_ALIAS.EN is 0 (R422). -/
def State.writeAct (s : State) (a : Nat) (v : Reg32) : State :=
  if a = SEQ_BRK_CTRL.addr then (if v.getLsbD 2 then s.resumeSeq else s)
  else if a = MMU_INV_LO.addr then { s with mmu := { s.mmu with invLo := v } }
  else if a = MMU_INV_HI.addr then s.invWrite v
  else if a = MMU_ROOT.addr then { s with mmu := { s.mmu with rootRec := s.reg MMU_ROOT } }
  else if a = RTE_ALIAS.addr then (if s.part.joined.isNone then s.put RTE_ALIAS.EN 0 else s)
  else if a = SHT_FQ_STATUS.addr then (if v.getLsbD 31 then s.popFault else s)
  else if a = SYN_FAIL_STATUS.addr then (if v.getLsbD 31 then s.popFailure else s)
  else
    match instAt LNK_CTRL 24 a with
    | some p => s.lnkWrite p v
    | none =>
      match instAt PTB_SLOT_CTRL 16 a with
      | some n => s.slotWrite n
      | none => s

/-! ## Writes and reads -/

/-- R35: a write to PCK_LENGTH or PCK_PARTS. -/
def State.configWrite (s : State) (parts : Bool) (v : Reg32) : State :=
  if s.pickState != pickIdle then s.raise PCK_EVENT.CFG_MISMATCH
  else if parts then s.setReg PCK_PARTS (v &&& 0x3FFF1FFF)
  else s.setReg PCK_LENGTH (v &&& 0x1FFFF)

/-- R18, R21, R24: a software write to an address. -/
def State.writeReg (s : State) (a : Nat) (v : Reg32) : State :=
  match specAt a with
  | none => s
  | some r =>
    if s.deadReg a || s.writeIgnored a v then s
    else if a = PCK_LENGTH.addr then s.configWrite false v
    else if a = PCK_PARTS.addr then s.configWrite true v
    else
      let old := s.reg ⟨a, r.reset⟩
      (s.setReg ⟨a, r.reset⟩ (r.written old (writeValue a old v))).writeAct a v

/-- R39, R150, R602: a read of the low half of a count latches the upper half; a read of the upper half uses the latch up, but for
the meter's SEQ, whose upper half stays what the last read of the lower one latched. -/
def State.latchRead (s : State) (a : Nat) : State :=
  if a = PCK_COUNT_LO.addr then { s with pick := { s.pick with hiHold := some (BitVec.ofNat 16 (high32 s.pickNo)) } }
  else if a = PCK_COUNT_HI.addr then { s with pick := { s.pick with hiHold := none } }
  else if a = SEQ_RETIRED_LO.addr then { s with seq := { s.seq with retHold := some (BitVec.ofNat 32 (high32 s.retired)) } }
  else if a = SEQ_RETIRED_HI.addr then { s with seq := { s.seq with retHold := none } }
  else if a = SMU_SEQ_LO.addr then { s with smu := { s.smu with seqHold := some (BitVec.ofNat 32 (high32 s.smu.seq)) } }
  else s

/-- R78: a read of RGN_CLK_STAT counts time up to the read, and starts the count again. -/
def State.beforeRead (s : State) (a : Nat) : State :=
  match instAt RGN_CLK_STAT 64 a with
  | some n => s.accountClk n
  | none => s
def State.lostRead (s : State) (a : Nat) : State :=
  match instAt RGN_CLK_STAT 64 a with
  | some n => if (s.region n).clk.lost = 0 then s else s.setClk n { (s.region n).clk with lost := 0 }
  | none => s

/-- R18: a software read of an address: its value, the rc fields cleared, and the latches. -/
def State.readReg (s : State) (a : Nat) : State :=
  let s := s.beforeRead a
  let s := { s with rdata := s.peek a }
  match specAt a with
  | none => s
  | some r =>
    if s.deadReg a then s
    else ((s.latchRead a).setReg ⟨a, r.reset⟩ (r.afterRead (s.reg ⟨a, r.reset⟩))).lostRead a

/-- R19, R20: software's accesses take one cycle each, the one after every event before it in the queue. An event of the same
cycle thus comes after the access, and what it sets, or counts, stays. -/
def State.accessCycle (s : State) : State := s.at_ (s.now + 1)

/-- REGISTER_WRITE (R18, R19). -/
def execRegisterWrite (addr : BitVec 24) (value : BitVec 32) (s : State) : Out := .next (s.accessCycle.writeReg addr.toNat value)

/-- RC_READ (R18, R19, R20). -/
def execRcRead (addr : BitVec 24) (s : State) : Out := .next (s.accessCycle.readReg addr.toNat)

/-- PCK_COUNT_LO_READ (R39). -/
def execPckCountLoRead (s : State) : Out := .next (s.readReg PCK_COUNT_LO.addr)

/-- SEQ_RETIRED_LO_READ (R150). -/
def execSeqRetiredLoRead (s : State) : Out := .next (s.readReg SEQ_RETIRED_LO.addr)

/-- SMU_SEQ_LO_READ (R602). -/
def execSmuSeqLoRead (s : State) : Out := .next (s.readReg SMU_SEQ_LO.addr)

/-- PCK_CONFIG_WRITE (R35). -/
def execPckConfigWrite (parts : Bool) (value : BitVec 32) (s : State) : Out := .next (s.configWrite parts value)

/-- MMU_INVALIDATE_PAGE (R280). -/
def execMmuInvalidatePage (value : BitVec 32) (s : State) : Out := .next (s.invWrite (value &&& 0xFFFFFFDF))

/-- MMU_INVALIDATE_ALL (R280). -/
def execMmuInvalidateAll (value : BitVec 32) (s : State) : Out := .next (s.invWrite (value ||| 0x20))

/-- FQ_POP (R345). -/
def execFqPop (s : State) : Out := .next s.popFault

/-- FAIL_POP (R506). -/
def execFailPop (s : State) : Out := .next s.popFailure

end Sys2Proof.Machine
end

