-- ==== Sys2Proof/Machine/Observe.lean ====
section
/-! DEFINITION. Observability and test (R605 to R625): arming and reading snapshots, perturbation sessions, rehearsed faults,
and the writing of trace records. -/
namespace Sys2Proof.Machine

/-! ## Snapshots (R609, R611) -/

def State.armSnapshot (mb : Nat) (b : List Byte) (s : State) : State :=
  let p := rqBody b 0 8
  let arm (a : Option Nat) : State := ({ s with obs := { s.obs with armed := a } }).answer mb stOk
  if p = 0 then arm none
  else if s.pickState = pickIdle || p ≤ s.pickNo then s.answer mb stBadArg
  else
    match s.obs.armed with
    | some q => s.answer mb (if q = p then stOk else stBusy)
    | none => arm (some p)

/-- SNAPSHOT_ARM (R609). -/
def execSnapshotArm (mb : Nat) (s : State) : Out := onUnit (mb < 64) (s.withMail mb 0x50 (State.armSnapshot mb))

def State.findSnapshot (mb : Nat) (b : List Byte) (s : State) : State :=
  let p := rqBody b 0 8
  if s.snapshotOf p then s.answer mb stOk (leBytes 8 p)
  else s.answer mb (if s.obs.armed = some p then stBusy else stBadArg)

/-- SNAPSHOT_READ (R611). -/
def execSnapshotRead (mb : Nat) (s : State) : Out := onUnit (mb < 64) (s.withMail mb 0x51 (State.findSnapshot mb))

/-! ## Perturbation (R618) -/

/-- The pairs of a request: offset in the PTB_ block and value. -/
def ptbPairs (b : List Byte) : List (Nat × Nat) :=
  (List.range (rqBody b 4 4)).map (fun i => (rqBody b (8 + 8 * i) 4, rqBody b (12 + 8 * i) 4))

/-- R618: the first pair whose offset is no slot register's. -/
def badPair (l : List (Nat × Nat)) : Option Nat :=
  l.findIdx? (fun e => e.1 % 4 != 0 || decide (e.1 < 0x100) || decide (0x1FF < e.1))

def State.perturb (mb : Nat) (b : List Byte) (s : State) : State :=
  let opened := s.flag PTB_STATUS.OPEN
  let mine := s.fld PTB_STATUS.SESSION == mb
  match rqBody b 0 1 with
  | 0 =>
    if s.obs.rehearse.isSome then s.answer mb stFeatureConflict
    else if opened then s.answer mb stBusy
    else ((s.put PTB_STATUS.OPEN 1).put PTB_STATUS.SESSION mb).answer mb stOk
  | 1 =>
    if !opened then s.answer mb stBadArg
    else if !mine then s.answer mb stBusy
    else
      let l := ptbPairs b
      match badPair l with
      | some i => s.answer mb stBadArg [] i
      | none =>
        let s := l.foldl (fun (t : State) e => t.writeReg (0xF0000 + e.1) (BitVec.ofNat 32 e.2)) s
        s.answer mb stOk
  | 2 =>
    if !opened then s.answer mb stBadArg
    else if !mine then s.answer mb stBusy
    else s.endSession.answer mb stOk
  | _ => s.answer mb stBadArg

/-- PERTURB (R618): carried out in a background window. -/
def doPerturb (mb : Nat) (s : State) : State := if s.pick.inWindow then s.withMail mb 0x70 (State.perturb mb) else s
def execPerturb (mb : Nat) (s : State) : Out := onUnit (mb < 64) (doPerturb mb s)

/-! ## Rehearsal (R623) -/

/-- R623: TARGET fits the KIND. -/
def State.rehearsalFits (s : State) (kind target : Nat) : Bool :=
  if kind = 0 then decide (target < 24) else decide (kind ≤ 2) && target == s.fld RTE_SELF.PHYSICAL

def State.rehearse (mb : Nat) (b : List Byte) (s : State) : State :=
  let kind := rqBody b 0 1
  let target := rqBody b 2 2
  let pick := rqBody b 8 8
  if s.flag PTB_STATUS.OPEN then s.answer mb stFeatureConflict
  else if s.obs.rehearse.isSome then s.answer mb stBusy
  else if pick ≤ s.pickNo || !s.rehearsalFits kind target then s.answer mb stBadArg
  else
    ({ s with obs := { s.obs with rehearse := some ⟨kind, target, pick, mb, none⟩ } }).put PTB_STATUS.REHEARSE 1

/-- REHEARSE (R623). -/
def execRehearse (mb : Nat) (s : State) : Out := onUnit (mb < 64) (s.withMail mb 0x71 (State.rehearse mb))

/-- The link drop that is being rehearsed. -/
def State.linkDrop (s : State) : Option (Rehearsal × Nat) :=
  match s.obs.rehearse with
  | some r => if r.kind = 0 then r.running.map (fun t => (r, t)) else none
  | none => none

/-- REHEARSAL_LINK_RELEASE (R623): after 1 ms the port trains from DETECT. -/
def doRehearsalLinkRelease (s : State) : State :=
  match s.linkDrop with
  | none => s
  | some (r, _) =>
    match (s.port r.target).held with
    | none => s
    | some due =>
      let s := s.at_ due
      let s := s.setPort r.target { s.port r.target with held := none }
      if s.flag (LNK_CTRL.EN r.target) && !s.mgt.holdD1 then s.enterLnk r.target lnkDetect else s
def execRehearsalLinkRelease (s : State) : Out := .next (doRehearsalLinkRelease s)

/-- REHEARSAL_LINK_TIMEOUT (R623): the port is not ACTIVE within 100 ms. -/
def doRehearsalLinkTimeout (s : State) : State :=
  match s.linkDrop with
  | none => s
  | some (r, t) => (s.at_ (t + 100 * msCycles)).endRehearsal r stFault
def execRehearsalLinkTimeout (s : State) : Out := .next (doRehearsalLinkTimeout s)

/-! ## Trace records (R613, R614, R616) -/

/-- R614: a record. -/
def traceBytes (seq : Nat) (r : TraceRec) : List Byte :=
  leBytes 4 seq ++ leBytes 1 r.type ++ leBytes 1 r.source ++ leBytes 2 r.cycle ++ leBytes 8 r.pick.toNat ++ padTo 16 r.data

/-- R613: packed address of a byte of the trace ring, whose shares are concatenated in stack order. -/
def traceAt : List Nat → Nat → Nat → Option Nat
  | [], _, _ => none
  | t :: r, stack, o =>
    if o < t then some (packHbm stack (o / 2048 % 32) (0x5FB00000 + o / 2048 / 32 * 2048 + o % 2048))
    else traceAt r (stack + 1) (o - t)

/-- R613, R616: a record, of which SEQ shows the low 32 bits of its number, goes to HBM as an unscheduled access. -/
def State.putTrace (s : State) (r : TraceRec) : State :=
  match s.mail.image with
  | none => s
  | some im =>
    let k := s.obs.traceCount
    let size := im.trace.foldl (fun a b => a + b) 0
    match traceAt im.trace 0 (32 * (k % (size / 32))) with
    | none => s
    | some a =>
      let x := s.pch (pchOf a)
      let q : MemReq := { who := .trace, addr := a, write := some (traceBytes k r), page := none, stale := false }
      let s := s.setPch (pchOf a) { x with queue := x.queue ++ [q] }
      ({ s with obs := { s.obs with traceCount := k + 1 } } : State).put SEQ_TRACE_HEAD.SEQ ((k + 1) % 2 ^ 32)

/-- TRACE_WRITE (R616): the oldest record is written, after one that says how many were dropped since the last. -/
def doTraceWrite (s : State) : State :=
  match s.obs.trace with
  | [] => s
  | r :: rest =>
    let n := s.obs.traceDropped
    let s := { s with obs := { s.obs with trace := rest, traceDropped := 0 } }
    let s := if n = 0 then s else s.putTrace ⟨7, 0xFF, s.pickCycle, s.pick.count, leBytes 4 n⟩
    s.putTrace r
def execTraceWrite (s : State) : Out := .next (doTraceWrite s)

end Sys2Proof.Machine
end

