-- ==== Sys2Proof/Machine/Partition.lean ====
section
/-! DEFINITION. The commands that join and leave a partition (R533, R534, R566). -/
namespace Sys2Proof.Machine

def State.join (mb : Nat) (rq : List Byte) (s : State) : State :=
  let s := s.noteAccess .firmware (rqBody rq 0 8) (rqBody rq 8 4) false false
  match (s.vaRead (rqBody rq 0 8) (rqBody rq 8 4) []).1 with
  | none => s.answer mb stAuth
  | some b =>
    if sha256 b != rqBytes rq 0x10 32 then s.answer mb stAuth
    else if joinBad b then s.answer mb stBadArg
    else
      let j := joinOf b
      let s := s.noteWarps (rqBody rq 0x30 8)
      match s.joinCheck j (rqBody rq 0x30 8) with
      | .error st => s.answer mb st
      | .ok (w, reused) =>
        let s := s.installJoin j (rqBody rq 0x30 8) w reused
        s.answer mb stOk (leBytes 2 (s.joinIndex j) ++ leBytes 1 (bnat reused))

/-- JOIN_PARTITION (R533, R534). -/
def execJoinPartition (mb : Nat) (s : State) : Out := onUnit (mb < 64) (s.withMail mb 0x20 (State.join mb))

def State.leave (mb : Nat) (rq : List Byte) (s : State) : State :=
  let key := rqBody rq 0 2
  if s.keysHeld.contains key then s.retireKey key mb else s.answer mb stKeyMismatch

/-- LEAVE_PARTITION (R566). -/
def execLeavePartition (mb : Nat) (s : State) : Out := onUnit (mb < 64) (s.withMail mb 0x21 (State.leave mb))

/-- R570: a JOIN_PARTITION of a key has been taken and is not answered yet. -/
def State.joining (s : State) (key : Nat) : Bool :=
  s.mail.boxes.any (fun e => match e.2.busy with
    | some rq => rqCode rq == 0x20 && (match (s.vaRead (rqBody rq 0 8) 6 []).1 with
      | some b => leAt b 4 2 % 4096 == key
      | none => false)
    | none => false)

def State.retire (mb : Nat) (rq : List Byte) (s : State) : State :=
  let key := rqBody rq 0 2
  if s.joining key then s.answer mb stBusy
  else if s.keysHeld.contains key then s.retireKey key mb else s.answer mb stOk

/-- KEY_RETIRE (R566). -/
def execKeyRetire (mb : Nat) (s : State) : Out := onUnit (mb < 64) (s.withMail mb 0x63 (State.retire mb))

/-- KEY_DRAIN_COMPLETE (R566): no cell of the key remains in an egress queue or a backlog ring. -/
def execKeyDrainComplete (key : Nat) (s : State) : Out := onUnit (key < 4096) (s.endRetire key)

end Sys2Proof.Machine
end

