-- ==== Sys2Proof/Machine/Pick.lean ====
section
/-! DEFINITION. The commands of the pick: boundaries, windows, ticks and edges of PICK_IO (R38 to R63, R265). -/
namespace Sys2Proof.Machine

/-- PICK_BOUNDARY (R47): the boundary that is next set falls; `power` is the input power of the pick just ended, in
milliwatts (R82). -/
def doPickBoundary (power : Nat) (s : State) : State :=
  match s.pick.nextAt with
  | none => s
  | some t => if s.pickState = pickIdle then s else (s.at_ t).boundaryActions t power
def execPickBoundary (power : Nat) (s : State) : Out := .next (doPickBoundary power s)

/-- SPAN_START (R41): the background window ends. -/
def doSpanStart (s : State) : State :=
  if s.pick.inWindow then (s.at_ (s.pick.windowAt + s.pickWin)).endWindow else s
def execSpanStart (s : State) : Out := .next (doSpanStart s)

/-- DEFAULT_FRAMED_WINDOW (R265, R552): while the module is IDLE or ACQUIRING a window of the default framing begins;
`power` is the input power of the frame just ended, in milliwatts, which the governor takes as it takes a pick's (DEDUCED,
notes/assumptions/63.md). -/
def doDefaultFramedWindow (power : Nat) (s : State) : State :=
  if s.defaultFramed then
    let at_ := s.pick.windowAt + 8192
    let s := s.at_ at_
    let s := s.each s.regionsOn (fun n t => t.accountClk n)
    ((s.windowCaps power).beginWindow at_ false).sampleHang
  else s
def execDefaultFramedWindow (power : Nat) (s : State) : Out := .next (doDefaultFramedWindow power s)

/-! ## Ticks (R53 to R60) -/

/-- R58: fields of a tick cell's payload. -/
def tickPick (b : List Byte) : Nat := leAt b 0 6
def tickHop (b : List Byte) : Nat := leAt b 6 1
def tickFlags (b : List Byte) : Nat := leAt b 7 1
def tickAge (b : List Byte) : Nat := leAt b 8 4
def tickOrigin (b : List Byte) : Nat := leAt b 0x0C 2
def tickKey (b : List Byte) : Nat := leAt b 0x0E 2 % 4096
def tickConfig (b : List Byte) : Nat := leAt b 0x10 4

/-- R53, R56, R380: AGE after the member's own additions for the incoming link. -/
def State.ageHere (s : State) (p : Nat) (b : List Byte) : Nat :=
  tickAge b + s.fld (LNK_DELAY.CYCLES p) + ingressLatency + s.widthDelay p

/-- R56: the tick is discarded. -/
def State.tickBad (s : State) (p : Nat) (b : List Byte) : Bool :=
  decide (16 < tickHop b) || decide (s.fld PCK_LENGTH.LENGTH < s.ageHere p b + 256) || s.memberKey != some (tickKey b)
    || tickConfig b != s.config || (match s.part.joined with | some j => j.device != tickOrigin b | none => true)
    || (s.pick.boundaryAt.isSome && decide (tickPick b ≤ s.pickNo))

/-- R54, R57, R59, R70: the tick is accepted, and sets the next boundary; it is forwarded on the child ports. -/
def State.acceptTick (s : State) (p at_ : Nat) (b : List Byte) : State :=
  let age := s.ageHere p b
  let s := s.putMax PCK_STATUS.MAX_AGE age
  let s := s.put PCK_STATUS.HOLDOVER 0
  let s := if s.pickState = pickHoldover then s.put PCK_STATUS.STATE pickLocked else s
  let s := { s with
    pick := { s.pick with
      nextAt := some (at_ + s.fld PCK_LENGTH.LENGTH - age), accepted := some (BitVec.ofNat 48 (tickPick b)) }
    part := { s.part with depth := tickHop b + 1 } }
  s.sendTick (fun e => forwardLatency + s.widthDelay e) (fun e => tickPayload (tickPick b) (tickHop b + 1) (tickFlags b % 4) (age + forwardLatency + s.widthDelay e)
    (tickOrigin b) (tickKey b) (tickConfig b))

/-- R53 to R57: a tick reaches a member from a parent. -/
def State.takeTick (s : State) (p at_ : Nat) (b : List Byte) : State :=
  let s := if tickConfig b = s.config then s else s.raise PCK_EVENT.CFG_MISMATCH
  if s.tickBad p b then s.raise PCK_EVENT.TICK_BAD
  else if s.pick.accepted.isSome then s
  else s.acceptTick p at_ b

/-- TICK_CELL (R54): a tick cell arrives at a local time. -/
def doTickCell (p : Nat) (c : Cell) (at_ : Nat) (s : State) : State :=
  if c.kind != 2 || !c.mark then s
  else
    let s := (s.takeIngress p c).at_ at_
    if s.fabricFenced c then s
    else if s.isHostPort p then s.count (RTE_DROP.ROUTE p)
    else if !s.allows p c.key then s.count (RTE_DROP.KEY p)
    else if !s.isParentPort p || s.pickState == pickIdle then s
    else s.takeTick p at_ c.payload
def execTickCell (p : Nat) (c : Cell) (at_ : Nat) (s : State) : Out := onUnit (decide (p < 24) && c.ok) (doTickCell p c at_ s)

/-! ## PICK_IO (R38, R62, R648) -/

/-- R62: the boundary an edge gives is within 2 cycles of the one expected. -/
def nearBoundary (a b : Nat) : Bool := decide (a ≤ b + 2) && decide (b ≤ a + 2)

/-- R62: an edge sets the origin's next boundary, 20 ns after it, or is ignored; `expected` is L cycles after the previous
boundary. A second edge within the tolerance of the same boundary changes nothing (DEDUCED, notes/assumptions/58.md). -/
def State.takeEdge (s : State) (b expected : Nat) : State :=
  let set (s : State) : State := { s with pick := { s.pick with nextAt := some b, ioEdge := some b } }
  if s.pick.boundaryAt.isNone then (if s.pick.ioEdge.isNone then set s else s)
  else if !nearBoundary b expected then s.raise PCK_EVENT.IO_PULSE_BAD
  else if s.pick.ioEdge.isNone then set s
  else s

/-- PICK_IO_EDGE (R62): a rising edge on PICK_IO. -/
def doPickIoEdge (at_ : Nat) (s : State) : State :=
  if s.fromPickIo then
    match s.pick.nextAt with
    | some e =>
      let expected := match s.pick.boundaryAt with | some b => b + s.fld PCK_LENGTH.LENGTH | none => e
      (s.at_ at_).takeEdge (at_ + pinDelay) expected
    | none => s
  else s
def execPickIoEdge (at_ : Nat) (s : State) : Out := .next (doPickIoEdge at_ s)

end Sys2Proof.Machine
end

