-- ==== Sys2Proof/Machine/Power.lean ====
section
/-! DEFINITION. Power and sideband pins (R576, R641 to R650). -/
namespace Sys2Proof.Machine

/-! ## What loses power -/

/-- R538: what lies on the rails of D0 to D3 is lost. -/
def State.dark (s : State) : State :=
  let t := s.resetD0
  { t with mgt := { t.mgt with boots := s.mgt.boots } }

/-- R642, R644: power is removed from D0 to D3; VDD_SMU stays up. -/
def State.removePower (s : State) (fault : Bool) : State :=
  let t := s.dark
  { t with power := { t.power with on := false, step := 0, good := false, trip := false, fault := t.power.fault || fault } }

/-- R576, R650: the rails of steps 3 to 5 are removed: what lies in D1 to D3 is lost, and management stays. -/
def State.removeLogic (s : State) : State :=
  let kept (a : Nat) : Bool := match specAt a with | some r => r.domain == 0 || r.domain == 4 | none => false
  { s.resetD0 with
    regs := sfilter s.regs kept
    clk := s.clk
    mgt := { s.mgt with holdD1 := true, holdD3 := true } }

/-! ## Coming up (R641) -/

/-- POWER_UP (R641, R576): step 1 begins; a new power-up clears the trip. -/
def doPowerUp (s : State) : State :=
  if s.power.on || s.power.fault then s
  else { s with power := { s.power with on := true, step := 1, stepAt := s.now, good := false, trip := false } }
def execPowerUp (s : State) : Out := .next (doPowerUp s)

/-- R641: how long a step may take. -/
def stepLimit (n : Nat) : Nat := if n ≤ 2 then 5 * msCycles else 10 * msCycles

/-- R641: a step of the power-up is in progress. -/
def State.stepping (s : State) : Bool :=
  s.power.on && decide (1 ≤ s.power.step) && decide (s.power.step ≤ 5) && !s.power.trip

/-- R598, R599, R641: the sealed meter's rail comes up. -/
def State.meterUp (s : State) : State :=
  if s.power.smuUp then s
  else
    let s := s.resetD4
    { s with power := { s.power with smuUp := true } }

/-- RAIL_STEP_COMPLETE (R641): the next step begins; after step 5 MOD_PG is released, and D0 has been reset. -/
def doRailStepComplete (s : State) : State :=
  if !s.stepping || s.power.stepAt + stepLimit s.power.step < s.now then s
  else
    let n := s.power.step
    let s := if n = 1 then s.meterUp else s
    let s := { s with power := { s.power with step := n + 1, stepAt := s.now } }
    if n = 5 then
      let s := s.resetD0
      { s with power := { s.power with good := true } }
    else s
def execRailStepComplete (s : State) : Out := .next (doRailStepComplete s)

/-- RAIL_STEP_TIMEOUT (R642). -/
def doRailStepTimeout (s : State) : State :=
  if s.stepping then (s.at_ (s.power.stepAt + stepLimit s.power.step)).removePower true else s
def execRailStepTimeout (s : State) : Out := .next (doRailStepTimeout s)

/-- RAIL_FAULT (R642): a rail leaves 90 to 110 percent of its nominal value for 10 µs. -/
def doRailFault (s : State) : State := if s.power.on then s.removePower true else s
def execRailFault (rail : Nat) (s : State) : Out := onUnit (rail < 40) (doRailFault s)

/-! ## Going down (R642, R644) -/

/-- POWER_LOSS (R644): the meter writes a last checkpoint. -/
def doPowerLoss (s : State) : State :=
  if s.power.on then
    let s := if s.smu.run then s.saveCheckpoint else s
    s.removePower false
  else s
def execPowerLoss (s : State) : Out := .next (doPowerLoss s)

/-- INPUT_BELOW_40V (R642, R644): PWR_FAULT_N is released, and the meter loses its supply, having written its last checkpoint in
its hold-up. -/
def doInputBelow40V (s : State) : State :=
  let s := doPowerLoss s
  let s := if s.smu.run then s.saveCheckpoint else s
  let s := { s with power := { s.power with fault := false, smuUp := false } }
  s.resetD4
def execInputBelow40V (s : State) : Out := .next (doInputBelow40V s)

/-- R581: the log type of a thermal trip. -/
def logTrip : Nat := 0x30

/-- THERMAL_TRIP (R576, R650): held until power is removed; management writes its record if it runs. -/
def doThermalTrip (s : State) : State :=
  if !s.power.on || s.power.trip then s
  else
    let tripped := ({ s with power := { s.power with trip := true } } : State).thermBytes
    let s := if s.mgtUp then s.logRec logTrip 0xFFFF tripped else s
    let s := s.removeLogic
    { s with power := { s.power with trip := true, step := min s.power.step 2 } }
def execThermalTrip (s : State) : Out := .next (doThermalTrip s)

/-! ## Sideband pins (R643, R647) -/

/-- MOD_RESET_N (R643): a low level of 10 µs resets D0, and holds it in reset until the pin rises. -/
def doModResetN (release : Bool) (s : State) : State :=
  if release then
    if s.power.resetLow then
      { s with power := { s.power with resetLow := false }, mgt := { s.mgt with bootAt := s.now } }
    else s
  else if s.power.resetLow then s
  else
    let s := { s with power := { s.power with resetLow := true } }
    if s.power.good then s.resetD0 else s
def execModResetN (release : Bool) (s : State) : Out := .next (doModResetN release s)

/-- R535, R647: D2 is out of reset. -/
def State.d2Up (s : State) : Bool := s.mgt.stage == 5 && !s.mgt.holdD1 && !s.fence.resets.any (fun r => r.domain == 2)

/-- CXL_PERST_RELEASE (R647): CXL_PERST_N of a port goes high. -/
def doCxlPerstRelease (port : Nat) (s : State) : State :=
  if s.d2Up then { s with power := { s.power with perst := sset false s.power.perst port true } } else s
def execCxlPerstRelease (port : Nat) (s : State) : Out := onUnit (port < 8) (doCxlPerstRelease port s)

end Sys2Proof.Machine
end

