-- ==== Sys2Proof/Machine/Region.lean ====
section
/-! DEFINITION. The commands of a region: executing words, ending waits, and the writes that land (R51, R107, R108, R175). -/
namespace Sys2Proof.Machine

/-- WORD_EXECUTE (R107): the region meets the word at the head of its queue: it waits, traps or executes it. -/
def execWordExecute (region : Nat) (upsets : List (Nat × Bool)) (s : State) : Out :=
  onUnit (decide (region < 64) && upsets.all (fun u => decide (u.1 < 524288))) (s.tryWord region upsets false)

/-- REGION_WAIT_RESUME (R51): a waiting region advances once its condition clears. -/
def doRegionWaitResume (n : Nat) (s : State) : State := if (s.region n).waiting then s.tryWord n [] true else s
def execRegionWaitResume (region : Nat) (s : State) : Out := onUnit (region < 64) (doRegionWaitResume region s)

/-- PIPELINE_WRITEBACK (R108): the lane-register and predicate writes due in the region's next advancing cycle land. -/
def doPipelineWriteback (n : Nat) (s : State) : State :=
  if s.mayLand n then s.landRegs n (s.region n).cycle else s
def execPipelineWriteback (region : Nat) (s : State) : Out := onUnit (region < 64) (doPipelineWriteback region s)

/-- ARRAY_ROW_RESULT (R175): the column sums due in the region's next advancing cycle reach its accumulator rows. -/
def doArrayRowResult (n : Nat) (s : State) : State :=
  if s.mayLand n then s.landAcc n (s.region n).cycle else s
def execArrayRowResult (region : Nat) (s : State) : Out := onUnit (region < 64) (doArrayRowResult region s)

end Sys2Proof.Machine
end

