-- ==== Sys2Proof/Machine/Requests.lean ====
section
/-! DEFINITION. The commands of messages: requests taken from their flows, answers, retries and timeouts (R413, R417 to
R419, R497 to R499), and doorbells (R510). -/
namespace Sys2Proof.Machine

/-- R540: a message that a fenced D1 had taken is dropped; else it is handled. -/
def State.handle (s : State) (src cls op : Nat) (f : Message → State → State) : State :=
  match s.takeMessage src cls op with
  | none => s
  | some (m, t) => if t.fenced 1 then t else f m t

/-- READ (R413, R240). -/
def execRead (src : Nat) (s : State) : Out := onUnit (src < 65536) (s.handle src 0 opRead (fun m t => t.takeRead m))

/-- WRITE (R413, R418, R498, R240). -/
def execWrite (src : Nat) (s : State) : Out := onUnit (src < 65536) (s.handle src 0 opWrite (fun m t => t.takeWrite m))

/-- SYNC (R497). -/
def execSync (src : Nat) (s : State) : Out := onUnit (src < 65536) (s.handle src 0 opSync (fun m t => t.takeSync m))

/-- R417: an answer meets its entry, or is discarded as late. -/
def State.takeAnswer (s : State) (m : Message) : State :=
  match s.reqOfTag (leAt m.head 2 2) with
  | none => s.count RTE_REQ_STAT.LATE
  | some (n, e) =>
    let status := leAt m.head 5 1
    if status = stBusy && leAt e.head 0 1 != opRead then s.restartReq n
    else s.completeReq n e status m.lines

/-- READ_RESP (R417, R473). -/
def execReadResp (src : Nat) (s : State) : Out :=
  onUnit (src < 65536) (s.handle src 1 opReadResp (fun m t => t.takeAnswer m))

/-- WRITE_ACK (R417, R419). -/
def execWriteAck (src : Nat) (s : State) : Out :=
  onUnit (src < 65536) (s.handle src 1 opWriteAck (fun m t => t.takeAnswer m))

/-- SYNC_ACK (R417, R419, R499). -/
def execSyncAck (src : Nat) (s : State) : Out :=
  onUnit (src < 65536) (s.handle src 1 opSyncAck (fun m t => t.takeAnswer m))

/-- REQUEST_RETRY (R418): one RETRY interval after the entry's last send. -/
def doRequestRetry (n : Nat) (s : State) : State :=
  match s.reqEntry n with
  | none => s
  | some e => (s.at_ (e.lastAt + s.fld RTE_REQ_CTRL.RETRY * usCycles)).resend n
def execRequestRetry (n : Nat) (s : State) : Out := onUnit (n < 4096) (doRequestRetry n s)

/-- REQUEST_TIMEOUT (R419): TIMEOUT after the entry's first send, or after the last ST_BUSY. -/
def doRequestTimeout (n : Nat) (s : State) : State :=
  match s.reqEntry n with
  | none => s
  | some e => (s.at_ (e.countsAt + s.fld RTE_REQ_CTRL.TIMEOUT * usCycles)).endReq n
def execRequestTimeout (n : Nat) (s : State) : Out := onUnit (n < 4096) (doRequestTimeout n s)

/-- DOORBELL (R510, R513, R540): [63:32] of the value are reserved; what rang is answered. While D1 is fenced a mailbox command is
reached only through management. -/
def doDoorbell (mb src : Nat) (value : BitVec 64) (s : State) : State :=
  let r := if s.fenced 1 then (stFenced, s) else s.ringDoorbell mb src (value.toNat % 4294967296)
  r.2.emit (.doorbell mb src r.1)
def execDoorbell (mb src : Nat) (value : BitVec 64) (s : State) : Out :=
  onUnit (decide (mb < 64) && decide (src < 65536)) (doDoorbell mb src value s)

end Sys2Proof.Machine
end

