-- ==== Sys2Proof/Machine/Scratch.lean ====
section
/-! DEFINITION. The unscheduled accesses to the slices (R228, R229). -/
namespace Sys2Proof.Machine

/-- UNSCHEDULED_ACCESS (R228): the oldest access that may take the free port of a bank, its test, its transition and its
data. Where the region's own words claim the port, it is delayed and counted (R230); where the region's clock is stopped
for a frequency step, it waits (R81, R229). -/
def doUnscheduledAccess (region bank : Nat) (write : Bool) (ecc : Ecc) (s : State) : State :=
  match s.pickUnsched region bank write Unsched.testsTag with
  | none => s
  | some u =>
    if (s.region region).clk.stepEnd.isSome then s
    else if u.kind != .mark && s.portClaimed region bank write then s.countDelay region
    else (({ s with unsched := s.unsched.erase u }).portTaken u bank write).makeUnsched u ecc
def execUnscheduledAccess (region bank : Nat) (write : Bool) (ecc : Ecc) (s : State) : Out :=
  onUnit (decide (region < 64) && decide (bank < 64)) (doUnscheduledAccess region bank write ecc s)

end Sys2Proof.Machine
end

