-- ==== Sys2Proof/Machine/Sequencer.lean ====
section
/-! DEFINITION. The commands of the sequencer: issue, its waits and breaks, summaries, and the end of a segment (R50, R106,
R119, R137, R151, R523). -/
namespace Sys2Proof.Machine

/-- WORD_ISSUE (R106). -/
def execWordIssue (ecc : Ecc) (s : State) : Out := .next (s.tryIssue ecc)

/-- ISSUE_WAIT_RESUME (R137): a word that waits issues once its condition is seen to hold. -/
def doIssueWaitResume (ecc : Ecc) (s : State) : State := if s.seq.state = .waiting then s.tryIssue ecc else s
def execIssueWaitResume (ecc : Ecc) (s : State) : Out := .next (doIssueWaitResume ecc s)

/-- SUMMARY_ARRIVAL (R119). -/
def execSummaryArrival (s : State) : Out := .next s.landSummary

/-- RESUME (R151). -/
def execResume (s : State) : Out := .next s.resumeSeq

/-- R523: the program has stopped: the sequencer is idle and STOP is answered with the segment completed. A stop that only
a D3 reset leaves stays (R145, R542); that STOP is then answered none the less is the model's (DESIGN CHOICE,
notes/assumptions/47.md). -/
def State.programStops (s : State) (p : Nat) : State :=
  let req := s.seq.stopReq
  let q := { s.seq with open_ := false, stopReq := none, stopped := false }
  let s := { s with seq := if q.state.lasting then q else { q with state := .idle, segment := none } }
  match req with
  | some (_, _, mb) => s.answer mb stOk (leBytes 8 p)
  | none => s

/-- R340: a transfer was aborted before the yield segment was complete: nothing is saved and the program goes on. -/
def State.yieldFails (s : State) : State :=
  let req := s.seq.yieldReq
  let s := { s with seq := { s.seq with yieldReq := none, yieldSeg := none, yieldFault := false } }
  match req with
  | some (_, _, _, mb) => s.answer mb stFault
  | none => s

/-- SEGMENT_COMPLETE (R50, R68): the segment after the last complete one is complete; the program stops, a yield that an
abort has spoiled ends, or the next segment may begin. -/
def doSegmentComplete (s : State) : State :=
  match s.pick.lastComplete with
  | none => s
  | some l =>
    let p := l + 1
    if s.programOn && s.segmentRetired p && s.segmentResolved p then
      let s := { s with pick := { s.pick with lastComplete := some p } }
      if s.seq.stopped && s.seq.segment == some (p + 1) then s.programStops p
      else if s.seq.yieldSeg == some p then (if s.seq.yieldFault then s.yieldFails.openSegment else s)
      else s.openSegment
    else s
def execSegmentComplete (s : State) : Out := .next (doSegmentComplete s)

end Sys2Proof.Machine
end

