-- ==== Sys2Proof/Machine/Serving.lean ====
section
/-! DEFINITION. The commands of serving: contexts, variants, commit blocks and row masks (R437 to R463). -/
namespace Sys2Proof.Machine

/-- R450: where a variant's blocks lie, and their bytes. -/
def State.variantAt (s : State) (v : Nat) : Nat × Nat :=
  match s.serve.image with
  | none => (0, 0)
  | some m => (m.variantBase + v * m.layers * 8192, m.layers * 8192)

/-- The pages of a range, by one address each. -/
def State.pagesOf (s : State) (va n : Nat) : List Nat :=
  (List.range ((va + n + 65535) / 65536 - va / 65536)).filterMap (fun i =>
    let a := (va / 65536 + i) * 65536
    match s.translate a with
    | .leaf l => if i = 0 || l.va == a then some a else none
    | _ => none)

/-- R42, R279: the lines of HBM that a request takes beside its context's entry: the KV map's header that CTX_CREATE checks, and
the page-table entries that VARIANT_LOAD writes. -/
def State.moreLines (s : State) (b : List Byte) : List Nat :=
  if rqCode b = 0x30 then s.hbmLines (rqBody b 0x18 8) 64
  else if rqCode b = 0x34 then
    let d := s.variantAt (rqBody b 0 4)
    ((s.pagesOf d.1 d.2).flatMap s.entryLine).eraseDups
  else []

/-- R42: lines of HBM that a serving command reads or writes, where it is asked for and passes the common checks. -/
def State.ctxLines (s : State) (mb code : Nat) (entry : List Byte → Option Nat) : List Nat :=
  match (s.box mb).busy with
  | none => []
  | some b =>
    if rqCode b != code || !s.serving || (s.mailCheck mb b).isSome then []
    else s.moreLines b ++ (match entry b with
      | none => []
      | some n => s.hbmLines (s.ctxAddr n) 128)

/-- R42, R81, R444, R459: CTX_CANCEL of a context in a row takes the write port of its byte of the row-mask tensor; none where it
waits. -/
def State.holdMask (s : State) (mb code : Nat) : Option State :=
  match (s.box mb).busy, s.rowBlock with
  | some b, some (n, l) =>
    if code = 0x31 && rqCode b = code then
      match s.rowOf (rqBody b 0 4) with
      | some r => s.holdPort n (l + 4096 + r / 64)
      | none => some s
    else some s
  | _, _ => some s

/-- R42, R43, R44, R81: a serving command begins in a background window, from its cycle 16, once the pseudo-channels of its context
entry, and the port of the row mask that it writes, are free; none where it waits. -/
def State.ctxBegin (s : State) (mb code : Nat) (entry : List Byte → Option Nat) : Option State :=
  let start := max s.now (s.pick.windowAt + 16)
  if s.fitsWindow start 24 0 then ((s.at_ start).holdLines (s.ctxLines mb code entry)).bind (fun t => t.holdMask mb code) else none

/-- R435, R437, R459: a serving command acts in a background window, and needs a context table. -/
def State.ctxCommand (s : State) (mb code : Nat) (entry : List Byte → Option Nat) (f : List Byte → State → State) : State :=
  match s.ctxBegin mb code entry with
  | none => s
  | some u => u.withMail mb code (fun b t =>
      if t.serving then
        f b (match entry b with | some n => t.noteAccess .firmware (t.ctxAddr n) 128 false false | none => t)
      else t.answer mb stBadArg)

/-- The context that a request names in its first four bytes. -/
def namedCtx (b : List Byte) : Option Nat := some (rqBody b 0 4)

/-! ## CTX_CREATE (R437, R438) -/

/-- R438: the fields that a request breaks: offset, and the test. -/
def State.createBad (s : State) (b : List Byte) : Option Nat :=
  let f (o n : Nat) : Nat := rqBody b o n
  let va (o : Nat) : Bool := decide (2 ^ 52 ≤ f o 8)
  let entries := f 0x28 4
  let map := f 0x18 8
  let header := (s.vaRead map 64 []).1
  let tests : List (Nat × Bool) := [
    (0x00, bitsAt (f 0 4) 18 13 != 0), (0x04, decide (8 ≤ f 4 1)), (0x05, f 5 1 != 0 && f 5 1 != 4),
    (0x08, decide (2 ^ 48 ≤ f 8 8)),
    (0x18, va 0x18 || map % 64 != 0 || (match header with | some h => kvHeaderBad h | none => false)),
    (0x20, va 0x20 || f 0x20 8 % 64 != 0),
    (0x28, decide (entries < 64) || decide (65536 < entries) || 2 ^ Nat.log2 entries != entries),
    (0x2C, decide (2 ^ 20 ≤ f 0x2C 4)), (0x30, f 0x30 4 == 0 || decide (1048576 < f 0x30 4)),
    (0x34, f 0x34 4 == 0 || decide (f 0x30 4 ≤ f 0x34 4)), (0x38, va 0x38)]
  (tests.find? (fun t => t.2)).map (fun t => t.1)

/-- R282: a range lies in one of the ranges the image declares resident. -/
def State.inResident (s : State) (va n : Nat) : Bool :=
  match s.mail.image with
  | none => false
  | some im => coveredBy im.resident (va + n) im.resident.length va

/-- R438: the pages that a request breaks. -/
def State.createFault (s : State) (b : List Byte) : Option Nat :=
  let resident (va n : Nat) : Bool := (pagesIn va n).all (fun a => match s.translate a with | .leaf _ => true | _ => false)
  let map := rqBody b 0x18 8
  let mapOk := match (s.vaRead map 64 []).1 with
    | none => false
    | some h => s.resHbm map (kvMapOf h).bytes && s.inResident map (kvMapOf h).bytes
  if !mapOk then some 0x18
  else if !s.resHbm (rqBody b 0x20 8) (8 * rqBody b 0x28 4) then some 0x20
  else if !resident (rqBody b 0x38 8) (4 * rqBody b 0x34 4) then some 0x38
  else none

/-- R437: a new entry. -/
def newEntry (b : List Byte) : List Byte :=
  let e := List.replicate 128 (0 : Byte)
  let e := eput e enState ctxReady
  let e := eput e enFlags (rqBody b 5 1)
  let e := eput e enPriority (rqBody b 4 1)
  let e := eput e enDeadline (rqBody b 8 8)
  let e := eput e enSeed (rqBody b 0x10 8)
  let e := eput e enKvMap (rqBody b 0x18 8)
  let e := eput e enOutBase (rqBody b 0x20 8)
  let e := eput e enOutEntries (rqBody b 0x28 4)
  let e := eput e enVariant (rqBody b 0x2C 4)
  let e := eput e enMaxLen (rqBody b 0x30 4)
  let e := eput e enPromptLen (rqBody b 0x34 4)
  let e := eput e enPrompt (rqBody b 0x38 8)
  eput e enHostTag (rqBody b 0x40 8)

/-- R437: the entry a request takes, or the status that refuses it. -/
def State.createSlot (s : State) (b : List Byte) : Except Nat Nat :=
  let id := rqBody b 0 4
  if bitAt id 31 then (if s.ctxState (id % 2 ^ 18) = ctxFree then .ok (id % 2 ^ 18) else .error stBusy)
  else
    match (List.range 262144).find? (fun n => s.ctxState n == ctxFree) with
    | some n => .ok n
    | none => .error stExhausted

/-- The entry a creation will take. -/
def State.createEntry (s : State) (b : List Byte) : Option Nat := match s.createSlot b with | .ok n => some n | .error _ => none

/-- R275, R287, R438: the first page of a field's range that CTX_CREATE finds missing is asked for as an access. -/
def State.noteCreate (s : State) (b : List Byte) (o : Nat) : State :=
  let n := if o = 0x18 then (match (s.vaRead (rqBody b 0x18 8) 64 []).1 with | some h => (kvMapOf h).bytes | none => 64)
    else if o = 0x20 then 8 * rqBody b 0x28 4 else 4 * rqBody b 0x34 4
  s.notePage .firmware false false (s.vaFirstBad (rqBody b o 8) n false)

def State.ctxCreate (mb : Nat) (b : List Byte) (s : State) : State :=
  let s := s.noteAccess .firmware (rqBody b 0x18 8) 64 false false
  if bitAt (rqBody b 5 1) 2 && !s.feature featSpecTree then s.answer mb stNoFeature
  else
    match s.createBad b with
    | some o => s.answer mb stBadArg [] o
    | none =>
      match s.createFault b with
      | some o => (s.noteCreate b o).answer mb stFault [] o
      | none =>
        match s.createSlot b with
        | .error st => s.answer mb st
        | .ok n => (s.setCtx n (newEntry b)).answer mb stOk (leBytes 4 n)

/-- CTX_CREATE (R437). -/
def execCtxCreate (mb : Nat) (s : State) : Out := onUnit (mb < 64) (s.ctxCommand mb 0x30 s.createEntry (State.ctxCreate mb))

/-! ## CTX_CANCEL, CTX_DEADLINE and CTX_RELEASE (R441, R459, R460) -/

def State.ctxCancel (mb : Nat) (b : List Byte) (s : State) : State :=
  let n := rqBody b 0 4
  let e := s.ctxEntry n
  let st := eget e enState
  if st = ctxFree then s.answer mb stBadArg
  else
    let s := if st = ctxEnded then s
      else match s.rowOf n with
        | some r => if st = ctxActive then (s.setCtx n (setCancel e)).fwMask r causeCancel else s.endContext n stCancelled
        | none => s.endContext n stCancelled
    s.answer mb stOk (leBytes 1 st)

/-- CTX_CANCEL (R459). -/
def execCtxCancel (mb : Nat) (s : State) : Out := onUnit (mb < 64) (s.ctxCommand mb 0x31 namedCtx (State.ctxCancel mb))

def State.ctxDeadline (mb : Nat) (b : List Byte) (s : State) : State :=
  let n := rqBody b 0 4
  let d := rqBody b 8 8
  let e := s.ctxEntry n
  let st := eget e enState
  if st = ctxFree || st = ctxEnded then s.answer mb stBadArg
  else
    let s := s.setCtx n (eput e enDeadline d)
    let s := match s.rowOf n with | some r => s.setRow r { s.row r with deadline := d } | none => s
    s.answer mb stOk

/-- CTX_DEADLINE (R460). -/
def execCtxDeadline (mb : Nat) (s : State) : Out := onUnit (mb < 64) (s.ctxCommand mb 0x32 namedCtx (State.ctxDeadline mb))

def State.ctxRelease (mb : Nat) (b : List Byte) (s : State) : State :=
  let n := rqBody b 0 4
  let e := s.ctxEntry n
  let st := eget e enState
  if st = ctxFree then s.answer mb stBadArg
  else if st != ctxEnded then s.answer mb stBusy
  else
    let s := { s with serve := { s.serve with
      freed := sset [] s.serve.freed n (s.kvFrames e), parked := sset [] s.serve.parked n [] } }
    (s.setCtx n (eput (eput e enState ctxFree) enStatus 0)).answer mb stOk

/-- CTX_RELEASE (R441). -/
def execCtxRelease (mb : Nat) (s : State) : Out := onUnit (mb < 64) (s.ctxCommand mb 0x33 namedCtx (State.ctxRelease mb))

/-! ## VARIANT_LOAD (R450, R452) -/

/-- R260, R452: the blocks are read, as unscheduled accesses, and checked, and the pages they go to are held MIGRATING. -/
def State.variantBegin (mb : Nat) (b : List Byte) (s : State) : State :=
  let src := rqBody b 8 8
  let d := s.variantAt (rqBody b 0 4)
  let s := s.noteReads .firmware src d.2
  match (s.vaRead src d.2 []).1 with
  | none => s.answer mb stFault
  | some data =>
    if sha256 data != rqBytes b 0x10 32 then s.answer mb stAuth
    else if !s.vaOk d.1 d.2 false then s.answer mb stFault
    else
      let before := s.mmu.migrating.map (fun m => m.1)
      let s := (s.pagesOf d.1 d.2).foldl (fun (t : State) a => t.holdPage a true) s
      let held := s.mmu.migrating.filter (fun m => !before.contains m.1)
      let s := s.invalidate true 0 0
      { s with serve := { s.serve with loading := some (mb, src, d.1, held) } }

/-- R42, R44, R452: the accesses of the second part of a VARIANT_LOAD: the lines of the blocks, in the frames of the pages held for
them, and the entries. -/
def State.variantTouches (s : State) (dst n : Nat) (held : List (Nat × BitVec 64)) : List FwTouch :=
  (List.range (linesTouched dst n)).filterMap (fun i =>
    let va := (dst / 64 + i) * 64
    match s.leafOf va with
    | none => none
    | some (level, a) =>
      match held.find? (fun h => h.1 == a) with
      | none => none
      | some h =>
        match s.walkEntry level va h.2 with
        | .leaf l => (match l.place va with | .hbm x => some (FwTouch.line x) | .cxl _ _ => none)
        | _ => none)
    ++ ((held.map (fun h => h.1 / 64 * 64)).eraseDups).map (fun a => .line a)

/-- R281, R452: the pages that a VARIANT_LOAD holds are resident again, but for one whose entry is no longer MIGRATING. -/
def State.restorePages (s : State) (held : List (Nat × BitVec 64)) : State :=
  held.foldl (fun (t : State) e =>
    if t.mmu.migrating.contains e then (t.setEntryBits e.1 e.2).dropMigrating e.1 else t) s

/-- R452: with no old access left and every access made, the blocks, read and checked again, are written and the pages are resident
again; blocks that cannot be read, or whose digest no longer matches, are not written. -/
def State.variantEnd (s : State) : State :=
  match s.serve.loading with
  | none => s
  | some (mb, src, dst, held) =>
    let n := match s.serve.image with | some m => m.layers * 8192 | none => 0
    let hash := match (s.box mb).busy with | some b => rqBytes b 0x10 32 | none => []
    let s := { s with serve := { s.serve with loading := none, variantLeft := none } }
    let s := (s.restorePages held).noteReads .firmware src n
    match (s.vaRead src n []).1 with
    | none => s.answer mb stFault
    | some data =>
      if sha256 data != hash then s.answer mb stAuth
      else if !s.vaOk dst n false then s.answer mb stFault
      else (s.vaStore dst data false).answer mb stOk

/-- R42, R44, R452: the second part of a VARIANT_LOAD goes on: its accesses, and then its writes. -/
def State.variantGoOn (s : State) (dst : Nat) (held : List (Nat × BitVec 64)) : State :=
  let n := match s.serve.image with | some m => m.layers * 8192 | none => 0
  let r := s.touchAll (s.serve.variantLeft.getD (s.variantTouches dst n held))
  if r.1.isEmpty then r.2.variantEnd else { r.2 with serve := { r.2.serve with variantLeft := some r.1 } }

/-- VARIANT_LOAD (R452): in its first window the command holds its pages; in later ones it writes them. -/
def doVariantLoad (mb : Nat) (s : State) : State :=
  match s.serve.loading with
  | some (m, _, dst, held) =>
    if m = mb && s.pick.inWindow && !s.flag MMU_STATUS.INV_BUSY then s.variantGoOn dst held else s
  | none => if s.flag MMU_STATUS.INV_BUSY then s else s.ctxCommand mb 0x34 (fun _ => none) (State.variantBegin mb)
def execVariantLoad (mb : Nat) (s : State) : Out := onUnit (mb < 64) (doVariantLoad mb s)

/-! ## Commit and masks (R445, R455) -/

/-- COMMIT_BLOCK (R453 to R456). -/
def execCommitBlock (rows : Nat) (begun : Bool) (s : State) : Out := .next (s.commitBlock rows begun)

/-- ROW_MASK_PROPAGATE (R445). -/
def execRowMaskPropagate (s : State) : Out := .next s.landMask

end Sys2Proof.Machine
end

