-- ==== Sys2Proof/Machine/Shuttle.lean ====
section
/-! DEFINITION. The commands of a shuttle (R319 to R324, R399). -/
namespace Sys2Proof.Machine

/-- R319: the transfers before the first one not started have issued every source read. -/
def ShuttleSt.nextStart (x : ShuttleSt) : Option Transfer :=
  match x.transfers.find? (fun t => !t.started) with
  | none => none
  | some t => if x.transfers.all (fun u => decide (t.serial ≤ u.serial) || u.next == u.total) then some t else none

/-- TRANSFER_START (R319, R320): the next transfer starts, and the transfers under way issue what they can. -/
def doTransferStart (k : Nat) (s : State) : State :=
  if s.fenced 3 || s.shuttleStopped k then s
  else
    match (s.shuttle k).nextStart with
    | none => s.pumpShuttle k
    | some t => if s.ldComes t.ahead t.word then s else (s.setTransfer k { t with started := true }).pumpShuttle k
def execTransferStart (k : Nat) (s : State) : Out := onUnit (k < 88) (doTransferStart k s)

/-- The first transfer of the shuttle with this line arrived. -/
def ShuttleSt.arrived (x : ShuttleSt) (n : Nat) : Option (Transfer × LineInfo × LineData) :=
  x.transfers.findSome? (fun t => match t.line n with
    | some l => (match l.state with | .arrived d => some (t, l, d) | .reading _ | .writing => none)
    | none => none)

/-- R319: the first transfer of which this line has arrived and no earlier line to its destination is left. -/
def State.arrivedFree (s : State) (k n : Nat) : Option (Transfer × LineInfo × LineData) :=
  (s.shuttle k).transfers.findSome? (fun t => match t.line n with
    | some l => (match l.state with
      | .arrived d => if l.dst.any (s.earlierWrite k t n) then none else some (t, l, d)
      | .reading _ | .writing => none)
    | none => none)

/-- SOURCE_LINE_ARRIVAL (R319, R325): a line that has arrived goes to its destination, after every earlier line for it. -/
def doSourceLineArrival (k n : Nat) (s : State) : State :=
  match s.arrivedFree k n with
  | none => s
  | some (t, l, d) => if s.shuttleStopped k then s else (s.placeLine k t n l d).pumpShuttle k
def execSourceLineArrival (k n : Nat) (s : State) : Out := onUnit (k < 88) (doSourceLineArrival k n s)

/-- FETCH_TIMEOUT (R324): a source read unanswered for the fetch timeout fails. -/
def doFetchTimeout (k n : Nat) (s : State) : State :=
  let x := s.shuttle k
  let hit := x.transfers.findSome? (fun t =>
    if t.srcDesc.space = 3 then none
    else match t.line n with
      | some l => (match l.state with | .reading since => some (t, l, since) | .arrived _ | .writing => none)
      | none => none)
  match hit with
  | none => s
  | some (t, l, since) =>
    let s := (s.at_ (since + s.fld SHT_CTRL.FETCH_TIMEOUT * 1024)).raise SHT_EVT.TIMEOUT
    let s := s.setTransfer k (t.setLine n (some { l with state := .arrived (.failed causeTimeout 0) }))
    let y := s.shuttle k
    s.setShuttle k { y with late := (t.serial, n) :: y.late }
def execFetchTimeout (k n : Nat) (s : State) : Out := onUnit (k < 88) (doFetchTimeout k n s)

/-- R322: the completion counter of a shuttle; none for a region shuttle whose region is in no virtual row. -/
def State.shuttleCounter (s : State) (k : Nat) : Option Nat := if k < 64 then s.virtOf k else some k

/-- TRANSFER_COMPLETE (R321, R322): the first transfer in launch order has every destination line resolved. -/
def doTransferComplete (k : Nat) (s : State) : State :=
  let x := s.shuttle k
  match x.transfers with
  | [] => s
  | t :: r =>
    if t.done then
      let s := s.setShuttle k { x with transfers := r }
      let s := match s.shuttleCounter k with
        | some o => s.addObj o 1
        | none => s
      let done := match s.shuttleCounter k with
        | some o => (s.readObj o).toNat
        | none => 0
      s.trace 3 k (leBytes 8 t.segment ++ leBytes 4 done ++ leBytes 4 (bnat t.faulted + 2 * bnat t.aborted))
    else s
def execTransferComplete (k : Nat) (s : State) : Out := onUnit (k < 88) (doTransferComplete k s)

end Sys2Proof.Machine
end

