-- ==== Sys2Proof/Machine/Spdm.lean ====
section
/-! DEFINITION. The SPDM responder (R585, R586, R591, R592). The requests' order and the fields of a response that the spec
leaves to DSP0274 are as notes/assumptions/57.md gives. -/
namespace Sys2Proof.Machine

/-- Request codes, and the errors of DSP0274 that a request is answered with: the status 0 stands for no error. -/
def spdmDigests : Nat := 0x81
def spdmCertificate : Nat := 0x82
def spdmChallenge : Nat := 0x83
def spdmVersion : Nat := 0x84
def spdmMeasurements : Nat := 0xE0
def spdmCapabilities : Nat := 0xE1
def spdmAlgorithms : Nat := 0xE3
def spdmInvalid : Nat := 0x01
def spdmUnexpected : Nat := 0x04
def spdmUnspecified : Nat := 0x05
def spdmUnsupported : Nat := 0x07

/-- A response. -/
def State.spdmReply (s : State) (code error : Nat) (body : List Byte) : State := s.emit (.message 1 code error body)

/-- A request that needs the exchange to have come so far. -/
def State.spdmAt (s : State) (code stage : Nat) (f : State → State) : State :=
  if !s.mgtServes then s
  else if s.mgt.spdm < stage then s.spdmReply code spdmUnexpected []
  else f s

def State.setSpdm (s : State) (n : Nat) : State := { s with mgt := { s.mgt with spdm := n } }

/-- GET_VERSION (R591): SPDM 1.3. -/
def doGetVersion (s : State) : State :=
  s.spdmAt spdmVersion 0 (fun t => (t.setSpdm 1).spdmReply spdmVersion 0 [0x13])
def execGetVersion (s : State) : Out := .next (doGetVersion s)

/-- R591: what the responder supports, as DSP0274 numbers it (PRESUMED, notes/assumptions/57.md): certificates, challenges, and
measurements with signatures. -/
def capabilityFlags : List Byte := leBytes 4 0x16

/-- R591: the algorithms chosen, as DSP0274 numbers them (PRESUMED, notes/assumptions/57.md): MeasurementHashAlgo TPM_ALG_SHA_256,
BaseAsymAlgo TPM_ALG_RSASSA_3072 and BaseHashAlgo TPM_ALG_SHA_256. -/
def chosenAlgorithms : List Byte := leBytes 4 2 ++ leBytes 4 4 ++ leBytes 4 1

/-- GET_CAPABILITIES (R591). -/
def doGetCapabilities (s : State) : State :=
  s.spdmAt spdmCapabilities 1 (fun t => (t.setSpdm (max t.mgt.spdm 2)).spdmReply spdmCapabilities 0 capabilityFlags)
def execGetCapabilities (s : State) : Out := .next (doGetCapabilities s)

/-- NEGOTIATE_ALGORITHMS (R591): a requester that does not offer them is refused. -/
def doNegotiateAlgorithms (rsa3072 hash256 meas256 : Bool) (s : State) : State :=
  s.spdmAt spdmAlgorithms 2 (fun t =>
    if rsa3072 && hash256 && meas256 then (t.setSpdm 3).spdmReply spdmAlgorithms 0 chosenAlgorithms
    else t.spdmReply spdmAlgorithms spdmInvalid [])
def execNegotiateAlgorithms (rsa3072 : Bool) (sha256 : Bool) (measSha256 : Bool) (s : State) : Out :=
  .next (doNegotiateAlgorithms rsa3072 sha256 measSha256 s)

/-- R591: the certificate chain of slot 0: Mernor's manufacturing root and CA, the DIK and the AK. -/
def State.certChain (s : State) : List Byte := Config.mernorCerts ++ (match s.mgt.mfg with | some m => m.certs | none => [])

/-- GET_DIGESTS (R591). -/
def doGetDigests (s : State) : State :=
  s.spdmAt spdmDigests 3 (fun t => t.spdmReply spdmDigests 0 (sha256 t.certChain))
def execGetDigests (s : State) : Out := .next (doGetDigests s)

/-- GET_CERTIFICATE (R591): a portion of the chain, with the bytes that remain. -/
def doGetCertificate (slot offset length : Nat) (s : State) : State :=
  s.spdmAt spdmCertificate 3 (fun t =>
    let c := t.certChain
    if slot != 0 || decide (c.length < offset) then t.spdmReply spdmCertificate spdmInvalid []
    else
      let part := (c.drop offset).take length
      t.spdmReply spdmCertificate 0 (leBytes 2 part.length ++ leBytes 2 (c.length - offset - part.length) ++ part))
def execGetCertificate (slot : Nat) (offset : Nat) (length : Nat) (s : State) : Out :=
  .next (doGetCertificate slot offset length s)

/-- R585, R586: a response that the attestation key signs; a module without identity answers Unspecified. -/
def State.spdmSigned (s : State) (code : Nat) (nonce : BitVec 256) (body : List Byte) : State :=
  if s.flag MGT_BOOT.ID_FAIL then s.spdmReply code spdmUnspecified []
  else
    let k : BitVec 256 := Config.nonce s.freeCtr
    let s := { s with freeCtr := s.freeCtr + 1 }
    let text := body ++ leBytes 32 k.toNat
    s.spdmReply code 0 (text ++ Config.sign (s.mgt.ak.getD []) (leBytes 32 nonce.toNat ++ text))

/-- CHALLENGE (R591). -/
def doChallenge (slot : Nat) (nonce : BitVec 256) (s : State) : State :=
  s.spdmAt spdmChallenge 3 (fun t =>
    if slot = 0 then t.spdmSigned spdmChallenge nonce (sha256 t.certChain)
    else t.spdmReply spdmChallenge spdmInvalid [])
def execChallenge (slot : Nat) (nonce : BitVec 256) (s : State) : Out := .next (doChallenge slot nonce s)

/-! ## Measurements (R592) -/

def zeroDigest : List Byte := List.replicate 32 0

/-- R592: the meter's running firmware hash and event counter, with the meter's signature, as it relays them to management. -/
def State.meterReport (s : State) : List Byte :=
  let text := s.smu.image.now.hash ++ leBytes 4 s.smu.events
  text ++ Config.sign (s.smu.key.getD []) text

/-- R592: a measurement; what index 5 gives while no record is in force is left open. -/
def State.measurement (s : State) (index : Nat) : List Byte :=
  match index with
  | 1 => Config.romDigest
  | 2 => s.mgt.mgmt.now.hash
  | 3 => s.mgt.control.now.hash
  | 4 => sha256 (match s.mgt.mfg with | some m => m.bytes | none => [])
  | 5 =>
    match s.mgt.install with
    | some r => sha256 r.bytes
    | none => (List.range 32).map (fun i => Config.freeByte (s.freeCtr + i))
  | 6 => match s.mail.locked with | some v => sha256 (leBytes 16 v.toNat) | none => zeroDigest
  | 7 => match s.mail.image with | some i => i.hash | none => zeroDigest
  | _ => sha256 s.meterReport

def measureBlock (index : Nat) (d : List Byte) : List Byte := leBytes 1 index ++ leBytes 2 d.length ++ d

/-- GET_MEASUREMENTS (R592): the number of blocks for index 0, every block for 0xFF, else one. -/
def doGetMeasurements (index : Nat) (signed : Bool) (nonce : BitVec 256) (s : State) : State :=
  s.spdmAt spdmMeasurements 3 (fun t =>
    let body : Option (List Byte) :=
      if index = 0 then some (leBytes 1 8)
      else if index = 0xFF then some ((List.range 8).flatMap (fun i => measureBlock (i + 1) (t.measurement (i + 1))))
      else if index ≤ 8 then some (measureBlock index (t.measurement index))
      else none
    let u := { t with freeCtr := t.freeCtr + 32 }
    match body with
    | none => t.spdmReply spdmMeasurements spdmInvalid []
    | some b => if signed then u.spdmSigned spdmMeasurements nonce b else u.spdmReply spdmMeasurements 0 b)
def execGetMeasurements (index : Nat) (signed : Bool) (nonce : BitVec 256) (s : State) : Out :=
  .next (doGetMeasurements index signed nonce s)

/-- SPDM_UNSUPPORTED_REQUEST (R591). -/
def doSpdmUnsupportedRequest (code : BitVec 8) (s : State) : State :=
  if s.mgtServes then s.spdmReply code.toNat spdmUnsupported [] else s
def execSpdmUnsupportedRequest (code : BitVec 8) (s : State) : Out := .next (doSpdmUnsupportedRequest code s)

end Sys2Proof.Machine
end

