-- ==== Sys2Proof/Machine/Start.lean ====
section
/-! DEFINITION. The commands of a start: ARM and COMMIT by mailbox at the origin and by record at a member,
acknowledgements and their timeout (R555 to R562). -/
namespace Sys2Proof.Machine

/-- R540, R555: a start record arrives on a parent port, from the parent. -/
def State.recordArrives (s : State) (p src op : Nat) (rec : List Byte) : State :=
  if s.fenced 1 || !s.isParentPort p || !s.sentBy p src (s.memberKey.getD 0) || srOp rec != op then s
  else (s.sramPut startArea rec).takeStart rec (some p) 0

/-- ARM_RECORD (R559). -/
def execArmRecord (p src : Nat) (rec : List Byte) (s : State) : Out :=
  onUnit (decide (p < 24) && decide (src < 65536) && rec.length == 48) (s.recordArrives p src 1 rec)

/-- COMMIT_RECORD (R561). -/
def execCommitRecord (p src : Nat) (rec : List Byte) (s : State) : Out :=
  onUnit (decide (p < 24) && decide (src < 65536) && rec.length == 48) (s.recordArrives p src 2 rec)

/-- START_ACK (R557, R560, R562): an acknowledgement arrives from a child. -/
def doStartAck (p src : Nat) (rec : List Byte) (s : State) : State :=
  if s.fenced 1 || !s.childPorts.contains p || !s.sentBy p src (s.memberKey.getD 0) then s
  else (s.sramPut (ackSlot p) rec).takeStartAck p rec
def execStartAck (p src : Nat) (rec : List Byte) (s : State) : Out :=
  onUnit (decide (p < 24) && decide (src < 65536) && rec.length == 32) (doStartAck p src rec s)

/-- ARM_TIMEOUT (R560, R562). -/
def execArmTimeout (s : State) : Out := .next s.startTimeout

/-- R558: a start command at the origin, as a record of its operation; elsewhere it is refused. -/
def State.startCommand (op mb : Nat) (rq : List Byte) (s : State) : State :=
  let joined := match s.part.joined with | some j => j.origin | none => false
  if !joined then s.answer mb stBadArg
  else
    let record := startRecord op (rqBody rq 0 2) (rqBody rq 4 4) (rqBody rq 8 8) (s.fld PCK_START_CTRL.TIMEOUT)
    s.takeStart record none mb

/-- ARM_START (R558, R559). -/
def execArmStart (mb : Nat) (s : State) : Out := onUnit (mb < 64) (s.withMail mb 0x22 (State.startCommand 1 mb))

/-- COMMIT_START (R558, R561). -/
def execCommitStart (mb : Nat) (s : State) : Out := onUnit (mb < 64) (s.withMail mb 0x23 (State.startCommand 2 mb))

end Sys2Proof.Machine
end

