-- ==== Sys2Proof/Machine/Sync.lean ====
section
/-! DEFINITION. Retire-side operations of the Y slot (R136, R137). -/
namespace Sys2Proof.Machine

/-- R136, R458, R479, R495: the effect of a retire-side operation. -/
def State.yEffect (s : State) (y : YPending) : State :=
  let f := yField y.slot.bits
  if f.op = 0x02 then s.deadlineCheck
  else if f.op = 0x10 then (s.changeObj f.op f.obj y.slot.xval).gatePassed f.obj y.segment
  else if f.op = 0x13 || f.op = 0x14 || f.op = 0x16 then s.changeObj f.op f.obj 0 f.imm
  else if yRemote f.op then
    s.sendSync (y.slot.ext.toNat % 65536) f.op f.obj (if f.op = 0x30 then y.slot.xval else 0)
      (if f.op = 0x36 then f.imm else 0) y.segment
  else s

/-- Y_RETIRE_EFFECT (R137): the oldest retire-side operation whose word every region has retired takes effect, 8 cycles
after. -/
def doYRetireEffect (s : State) : State :=
  match s.seq.ypending.find? (fun y => y.due.isSome) with
  | none => s
  | some y =>
    let s := s.at_ (y.due.getD 0)
    let s := { s with seq := { s.seq with ypending := s.seq.ypending.erase y } }
    s.yEffect y
def execYRetireEffect (s : State) : Out := .next (doYRetireEffect s)

end Sys2Proof.Machine
end

