-- ==== Sys2Proof/Machine/Weights.lean ====
section
/-! DEFINITION. The commands of weight shards: fetches and swaps (R472 to R486). -/
namespace Sys2Proof.Machine

/-- R472: the map is asked of its gateway: READs of its lines. -/
def State.askMap (s : State) (rq : List Byte) : State :=
  s.emit (.mapRead (rqBody rq 0 8 / 2 ^ 48) (rqBody rq 0 8 % 2 ^ 48) ((rqBody rq 8 4 + 63) / 64))

/-- WEIGHT_FETCH (R472): `map` is what the gateway returned for the map's address. -/
def State.weightFetch (mb : Nat) (map rq : List Byte) (s : State) : State :=
  let staged := rqBody rq 0x0C 1 == 1
  let refuse (st r : Nat) : State := s.answer mb st (leBytes 4 r) r
  if s.weights.op.isSome then refuse stBusy 0
  else if s.part.joined.isNone || (!staged && s.programOn) || decide (2 ≤ rqBody rq 0x0C 1) then refuse stBadArg 0
  else
    let s := s.askMap rq
    let refuse (st r : Nat) : State := s.answer mb st (leBytes 4 r) r
    if map.length != rqBody rq 8 4 || sha256 map != rqBytes rq 0x10 32 then refuse stAuth 0
    else if !mapHeaderOk map then refuse stBadArg 0
    else
    let m := s.shardMap map
    match s.badChunk map m staged with
    | some i => refuse stBadArg i
    | none =>
      let o : WeightOp :=
        { swap := false, staged := staged, mailbox := mb, map := m, k := 0, gated := false, layers := [], copying := false
          queue := m.chunks.map (fun c => (c.index, 0)), left := m.chunks.map (fun c => c.index), bad := [], fails := []
          got := [] }
      let s := { s with weights := { s.weights with staged := none } }
      if m.chunks.isEmpty then (s.setWeightOp (some o)).fetchDone o else (s.setWeightOp (some o)).feedWeights
def execWeightFetch (mb : Nat) (map : List Byte) (s : State) : Out :=
  onUnit (mb < 64) (s.withMail mb 0x40 (State.weightFetch mb map))

/-- WEIGHT_SWAP (R480, R485): armed in a background window. -/
def State.weightSwap (mb : Nat) (rq : List Byte) (s : State) : State :=
  let k := rqBody rq 0x30 8
  let refuse (st : Nat) : State := s.answer mb st (leBytes 4 0)
  if s.weights.op.isSome || s.seq.yieldReq.isSome then refuse stBusy
  else
    match s.weights.gates, s.weights.staged with
    | some (w, _), some m =>
      if m.digest != rqBytes rq 0x10 32 then refuse stBadArg
      else if s.programOn && decide (k ≤ (s.obj (gatePass w 0)).value.toNat) then refuse stEpochStale
      else
        let layers := if s.programOn then List.range m.layers
          else (List.range m.layers).filter (fun l => sget 0 s.weights.versions l != m.version)
        let o : WeightOp :=
          { swap := true, staged := false, mailbox := mb, map := m, k := k, gated := s.programOn, layers := layers
            copying := false, queue := [], left := [], bad := [], fails := [], got := [] }
        let s := s.setWeightOp (some o)
        if layers.isEmpty then s.swapDone o else s
    | _, _ => refuse stBadArg
def doWeightSwap (mb : Nat) (s : State) : State := if s.pick.inWindow then s.withMail mb 0x41 (State.weightSwap mb) else s
def execWeightSwap (mb : Nat) (s : State) : Out := onUnit (mb < 64) (doWeightSwap mb s)

/-- LAYER_COPY_START (R482, R485): the next layer of a swap, whose cut is in force where the swap has gates. -/
def doLayerCopyStart (s : State) : State :=
  match s.weights.op with
  | none => s
  | some o =>
    match o.layers with
    | [] => s
    | l :: _ =>
      if o.copying || (o.gated && !s.weights.cuts.contains l) then s
      else
        (s.readStage o l).setWeightOp (some { o with
          copying := true, left := (o.map.chunks.filter (fun c => c.layer == l)).map (fun c => c.index), fails := [] })
def execLayerCopyStart (s : State) : Out := .next (doLayerCopyStart s)

/-- CHUNK_LANDED (R475, R476, R482): a chunk is hashed and compared; a swap copies one not yet tried first. -/
def doChunkLanded (i : Nat) (s : State) : State :=
  match s.weights.op with
  | none => s
  | some o =>
    match o.map.chunk i with
    | none => s
    | some c =>
      if !s.chunkHere o i then s
      else
        let tried := o.swap && sget 0 o.fails i == 0
        let r := if tried then s.copyChunk o c
          else (!o.bad.contains i
            && sha256 ((List.range c.lines).flatMap (fun n => sget [] o.got (2 ^ 20 * i + n))) == c.digest, s)
        if r.1 then
          let o := { o with left := o.left.filter (fun j => j != i), got := sfilter o.got (fun k => k / 2 ^ 20 != i) }
          let t := r.2.setWeightOp (some o)
          if o.left.isEmpty && !o.swap then t.fetchDone o else t
        else r.2.chunkFailed o i
def execChunkLanded (i : Nat) (s : State) : Out := .next (doChunkLanded i s)

/-- LAYER_COPY_COMPLETE (R482, R484). -/
def doLayerCopyComplete (s : State) : State :=
  match s.weights.op with
  | none => s
  | some o => if o.swap && o.copying && o.left.isEmpty then s.layerDone o else s
def execLayerCopyComplete (s : State) : Out := .next (doLayerCopyComplete s)

end Sys2Proof.Machine
end

