-- ==== Sys2Proof/Machine/Yield.lean ====
section
/-! DEFINITION. The commands of pre-emption and of STOP (R334, R335, R523). -/
namespace Sys2Proof.Machine

/-- R486: a swap is armed or running. -/
def State.swapping (s : State) : Bool := match s.weights.op with | some o => o.swap | none => false

/-- R334, R340, R486: YIELD is accepted in a background window; a module YIELDED after a failed save takes another save area
and repeats the save. -/
def State.acceptYield (mb : Nat) (b : List Byte) (s : State) : State :=
  if s.seq.yieldReq.isSome || s.swapping then s.answer mb stBusy
  else if !s.programOn then s.answer mb stBadArg
  else if rqBody b 0x18 8 < saveSize s.saveRanges then s.answer mb stExhausted
  else
    { s with
      seq := { s.seq with
        yieldReq := some (rqBody b 0 8, s.pickNo + rqBody b 8 4, rqBody b 0x10 8, mb), yieldFault := false }
      mail := { s.mail with saving := some (rqBody b 0x10 8, rqBody b 0x18 8, mb) } }

/-- YIELD (R334). -/
def doYield (mb : Nat) (s : State) : State := if s.pick.inWindow then s.withMail mb 0x25 (State.acceptYield mb) else s
def execYield (mb : Nat) (s : State) : Out := onUnit (mb < 64) (doYield mb s)

/-- SAVE_COMPLETE (R335, R340, R501). -/
def execSaveComplete (s : State) : Out := .next s.endSave

/-- YIELD_LIMIT_EXPIRY (R334, R340): the limit passes before the module is YIELDED: the program continues. -/
def doYieldLimitExpiry (s : State) : State :=
  match s.seq.yieldReq with
  | none => s
  | some (_, limit, _, _) =>
    if s.seq.yielded || s.pickNo < limit then s
    else
      let s := { s with seq := { s.seq with yieldSeg := none } }
      (s.answerYield stOverrun []).openSegment
def execYieldLimitExpiry (s : State) : Out := .next (doYieldLimitExpiry s)

/-- R523: STOP is accepted while a program runs. -/
def State.acceptStop (mb : Nat) (b : List Byte) (s : State) : State :=
  if !s.programOn then s.answer mb stBadArg
  else if s.seq.stopReq.isSome then s.answer mb stBusy
  else { s with seq := { s.seq with stopReq := some (rqBody b 0 8, s.pickNo + rqBody b 8 4, mb) } }

/-- STOP (R523). -/
def execStop (mb : Nat) (s : State) : Out := onUnit (mb < 64) (s.withMail mb 0x24 (State.acceptStop mb))

/-- STOP_LIMIT_EXPIRY (R523): no PICK_END that stops the program has issued within the limit. -/
def doStopLimitExpiry (s : State) : State :=
  match s.seq.stopReq with
  | none => s
  | some (_, limit, mb) =>
    if s.seq.stopped || s.pickNo < limit then s
    else ({ s with seq := { s.seq with stopReq := none } }).answer mb stOverrun
def execStopLimitExpiry (s : State) : Out := .next (doStopLimitExpiry s)

end Sys2Proof.Machine
end

