-- ==== Sys2Proof/Machine/Dispatch.lean ====
section
/-! DEFINITION. The meaning of each command, by its row of the spec's table. -/
namespace Sys2Proof.Machine

def exec (i : Instr) (s : State) : Host.Outcome State Fault Refusal :=
  match i with
  | .registerWrite addr value => Sys2Proof.Machine.execRegisterWrite addr value s
  | .rcRead addr => Sys2Proof.Machine.execRcRead addr s
  | .pckCountLoRead => Sys2Proof.Machine.execPckCountLoRead s
  | .seqRetiredLoRead => Sys2Proof.Machine.execSeqRetiredLoRead s
  | .smuSeqLoRead => Sys2Proof.Machine.execSmuSeqLoRead s
  | .pckConfigWrite parts value => Sys2Proof.Machine.execPckConfigWrite parts value s
  | .resume => Sys2Proof.Machine.execResume s
  | .mmuInvalidatePage value => Sys2Proof.Machine.execMmuInvalidatePage value s
  | .mmuInvalidateAll value => Sys2Proof.Machine.execMmuInvalidateAll value s
  | .fqPop => Sys2Proof.Machine.execFqPop s
  | .failPop => Sys2Proof.Machine.execFailPop s
  | .retrain port => Sys2Proof.Machine.execRetrain port s
  | .fullRetrain port => Sys2Proof.Machine.execFullRetrain port s
  | .widen port => Sys2Proof.Machine.execWiden port s
  | .portEnWrite port en => Sys2Proof.Machine.execPortEnWrite port en s
  | .pickBoundary power  => Sys2Proof.Machine.execPickBoundary power  s
  | .spanStart => Sys2Proof.Machine.execSpanStart s
  | .tickCell port cell at_ => Sys2Proof.Machine.execTickCell port cell at_ s
  | .pickIoEdge at_ => Sys2Proof.Machine.execPickIoEdge at_ s
  | .segmentComplete => Sys2Proof.Machine.execSegmentComplete s
  | .hbmRefresh stack pch => Sys2Proof.Machine.execHbmRefresh stack pch s
  | .frequencyStep region => Sys2Proof.Machine.execFrequencyStep region s
  | .frequencyStepEnd region => Sys2Proof.Machine.execFrequencyStepEnd region s
  | .pageWalkRead ecc => Sys2Proof.Machine.execPageWalkRead ecc s
  | .walkComplete => Sys2Proof.Machine.execWalkComplete s
  | .hbmScrub stack pch ecc => Sys2Proof.Machine.execHbmScrub stack pch ecc s
  | .firmwareWindowAccess act => Sys2Proof.Machine.execFirmwareWindowAccess act s
  | .monitorFire monitor depth => Sys2Proof.Machine.execMonitorFire monitor depth s
  | .monitorClear monitor => Sys2Proof.Machine.execMonitorClear monitor s
  | .refLoss => Sys2Proof.Machine.execRefLoss s
  | .refLossClear => Sys2Proof.Machine.execRefLossClear s
  | .holdoverExpiry => Sys2Proof.Machine.execHoldoverExpiry s
  | .wordIssue ecc => Sys2Proof.Machine.execWordIssue ecc s
  | .issueWaitResume ecc => Sys2Proof.Machine.execIssueWaitResume ecc s
  | .wordExecute region upsets => Sys2Proof.Machine.execWordExecute region upsets s
  | .regionWaitResume region => Sys2Proof.Machine.execRegionWaitResume region s
  | .pipelineWriteback region => Sys2Proof.Machine.execPipelineWriteback region s
  | .summaryArrival => Sys2Proof.Machine.execSummaryArrival s
  | .yRetireEffect => Sys2Proof.Machine.execYRetireEffect s
  | .arrayRowResult region => Sys2Proof.Machine.execArrayRowResult region s
  | .bmeCommandEnqueue stack region => Sys2Proof.Machine.execBmeCommandEnqueue stack region s
  | .opnd stack => Sys2Proof.Machine.execOpnd stack s
  | .gemv stack ecc => Sys2Proof.Machine.execGemv stack ecc s
  | .deq stack ecc => Sys2Proof.Machine.execDeq stack ecc s
  | .attn stack ecc => Sys2Proof.Machine.execAttn stack ecc s
  | .bmeCommandEnd stack serial => Sys2Proof.Machine.execBmeCommandEnd stack serial s
  | .unscheduledAccess region bank write ecc => Sys2Proof.Machine.execUnscheduledAccess region bank write ecc s
  | .hbmRun stack pch lines errors => Sys2Proof.Machine.execHbmRun stack pch lines errors s
  | .cxlCompletion port write index result => Sys2Proof.Machine.execCxlCompletion port write index result s
  | .cxlLinkDown port => Sys2Proof.Machine.execCxlLinkDown port s
  | .cxlLinkUp port narrow slow capacity retained => Sys2Proof.Machine.execCxlLinkUp port narrow slow capacity retained s
  | .invDrainComplete => Sys2Proof.Machine.execInvDrainComplete s
  | .hbmInitComplete stack => Sys2Proof.Machine.execHbmInitComplete stack s
  | .transferStart shuttle => Sys2Proof.Machine.execTransferStart shuttle s
  | .sourceLineArrival shuttle line => Sys2Proof.Machine.execSourceLineArrival shuttle line s
  | .fetchTimeout shuttle line => Sys2Proof.Machine.execFetchTimeout shuttle line s
  | .transferComplete shuttle => Sys2Proof.Machine.execTransferComplete shuttle s
  | .saveComplete => Sys2Proof.Machine.execSaveComplete s
  | .yieldLimitExpiry => Sys2Proof.Machine.execYieldLimitExpiry s
  | .stopLimitExpiry => Sys2Proof.Machine.execStopLimitExpiry s
  | .codewordReceive port lanes => Sys2Proof.Machine.execCodewordReceive port lanes s
  | .codewordSend port => Sys2Proof.Machine.execCodewordSend port s
  | .replayReq port first last all => Sys2Proof.Machine.execReplayReq port first last all s
  | .replayReqRetry port => Sys2Proof.Machine.execReplayReqRetry port s
  | .goBack port => Sys2Proof.Machine.execGoBack port s
  | .measure port index stamp hold => Sys2Proof.Machine.execMeasure port index stamp hold s
  | .measureEcho port index stamp hold => Sys2Proof.Machine.execMeasureEcho port index stamp hold s
  | .widthReq port lanes at_ => Sys2Proof.Machine.execWidthReq port lanes at_ s
  | .widthAck port lanes at_ => Sys2Proof.Machine.execWidthAck port lanes at_ s
  | .widthNak port lanes at_ => Sys2Proof.Machine.execWidthNak port lanes at_ s
  | .widthSwitchPoint port => Sys2Proof.Machine.execWidthSwitchPoint port s
  | .switchTimeout port => Sys2Proof.Machine.execSwitchTimeout port s
  | .retrainComplete port tests => Sys2Proof.Machine.execRetrainComplete port tests s
  | .retrainTimeout port => Sys2Proof.Machine.execRetrainTimeout port s
  | .laneSignalLoss port lane => Sys2Proof.Machine.execLaneSignalLoss port lane s
  | .laneDegrade port lane => Sys2Proof.Machine.execLaneDegrade port lane s
  | .trainingBlock port msg => Sys2Proof.Machine.execTrainingBlock port msg s
  | .trainingStageComplete port tests partner => Sys2Proof.Machine.execTrainingStageComplete port tests partner s
  | .trainingTimeout port => Sys2Proof.Machine.execTrainingTimeout port s
  | .ackCoalesce port => Sys2Proof.Machine.execAckCoalesce port s
  | .egressEnqueue port cell => Sys2Proof.Machine.execEgressEnqueue port cell s
  | .egressRefill port => Sys2Proof.Machine.execEgressRefill port s
  | .scheduledCell port cell => Sys2Proof.Machine.execScheduledCell port cell s
  | .inboundRelease port => Sys2Proof.Machine.execInboundRelease port s
  | .sprayedCell port cell => Sys2Proof.Machine.execSprayedCell port cell s
  | .reedGapSkip src cls => Sys2Proof.Machine.execReedGapSkip src cls s
  | .grantCell port cell => Sys2Proof.Machine.execGrantCell port cell s
  | .grantRequestRepeat dst cls => Sys2Proof.Machine.execGrantRequestRepeat dst cls s
  | .grantRefresh src cls => Sys2Proof.Machine.execGrantRefresh src cls s
  | .addressedWrite port cell => Sys2Proof.Machine.execAddressedWrite port cell s
  | .addressedRead port cell => Sys2Proof.Machine.execAddressedRead port cell s
  | .addressedReadData port cell => Sys2Proof.Machine.execAddressedReadData port cell s
  | .addressedStatus port cell => Sys2Proof.Machine.execAddressedStatus port cell s
  | .read src => Sys2Proof.Machine.execRead src s
  | .write src => Sys2Proof.Machine.execWrite src s
  | .readResp src => Sys2Proof.Machine.execReadResp src s
  | .writeAck src => Sys2Proof.Machine.execWriteAck src s
  | .sync src => Sys2Proof.Machine.execSync src s
  | .syncAck src => Sys2Proof.Machine.execSyncAck src s
  | .requestRetry entry => Sys2Proof.Machine.execRequestRetry entry s
  | .requestTimeout entry => Sys2Proof.Machine.execRequestTimeout entry s
  | .doorbell mailbox src value => Sys2Proof.Machine.execDoorbell mailbox src value s
  | .armRecord port src record => Sys2Proof.Machine.execArmRecord port src record s
  | .commitRecord port src record => Sys2Proof.Machine.execCommitRecord port src record s
  | .startAck port src record => Sys2Proof.Machine.execStartAck port src record s
  | .armTimeout => Sys2Proof.Machine.execArmTimeout s
  | .identify mb => Sys2Proof.Machine.execIdentify mb s
  | .negotiate mb => Sys2Proof.Machine.execNegotiate mb s
  | .loadImage mb => Sys2Proof.Machine.execLoadImage mb s
  | .patchImage mb => Sys2Proof.Machine.execPatchImage mb s
  | .mapGrid mb => Sys2Proof.Machine.execMapGrid mb s
  | .openWindow mb => Sys2Proof.Machine.execOpenWindow mb s
  | .closeWindow mb => Sys2Proof.Machine.execCloseWindow mb s
  | .joinPartition mb => Sys2Proof.Machine.execJoinPartition mb s
  | .leavePartition mb => Sys2Proof.Machine.execLeavePartition mb s
  | .armStart mb => Sys2Proof.Machine.execArmStart mb s
  | .commitStart mb => Sys2Proof.Machine.execCommitStart mb s
  | .stop mb => Sys2Proof.Machine.execStop mb s
  | .yield_ mb => Sys2Proof.Machine.execYield mb s
  | .ctxCreate mb => Sys2Proof.Machine.execCtxCreate mb s
  | .ctxCancel mb => Sys2Proof.Machine.execCtxCancel mb s
  | .ctxDeadline mb => Sys2Proof.Machine.execCtxDeadline mb s
  | .ctxRelease mb => Sys2Proof.Machine.execCtxRelease mb s
  | .variantLoad mb => Sys2Proof.Machine.execVariantLoad mb s
  | .weightFetch mb map => Sys2Proof.Machine.execWeightFetch mb map s
  | .weightSwap mb => Sys2Proof.Machine.execWeightSwap mb s
  | .snapshotArm mb => Sys2Proof.Machine.execSnapshotArm mb s
  | .snapshotRead mb => Sys2Proof.Machine.execSnapshotRead mb s
  | .fence mb => Sys2Proof.Machine.execFence mb s
  | .unfence mb => Sys2Proof.Machine.execUnfence mb s
  | .resetDomain mb => Sys2Proof.Machine.execResetDomain mb s
  | .keyRetire mb => Sys2Proof.Machine.execKeyRetire mb s
  | .perturb mb => Sys2Proof.Machine.execPerturb mb s
  | .rehearse mb => Sys2Proof.Machine.execRehearse mb s
  | .debugBreak mb => Sys2Proof.Machine.execDebugBreak mb s
  | .fenceDrainEnd => Sys2Proof.Machine.execFenceDrainEnd s
  | .fenceN => Sys2Proof.Machine.execFenceN s
  | .domainResetComplete domain => Sys2Proof.Machine.execDomainResetComplete domain s
  | .keyDrainComplete key => Sys2Proof.Machine.execKeyDrainComplete key s
  | .commitBlock rows begun => Sys2Proof.Machine.execCommitBlock rows begun s
  | .rowMaskPropagate => Sys2Proof.Machine.execRowMaskPropagate s
  | .chunkLanded record => Sys2Proof.Machine.execChunkLanded record s
  | .layerCopyStart => Sys2Proof.Machine.execLayerCopyStart s
  | .layerCopyComplete => Sys2Proof.Machine.execLayerCopyComplete s
  | .getInfo seq => Sys2Proof.Machine.execGetInfo seq s
  | .readSensors seq first count => Sys2Proof.Machine.execReadSensors seq first count s
  | .readLog seq first count => Sys2Proof.Machine.execReadLog seq first count s
  | .getNonce seq => Sys2Proof.Machine.execGetNonce seq s
  | .setCeiling seq watts sig => Sys2Proof.Machine.execSetCeiling seq watts sig s
  | .setPermitted seq mask sig => Sys2Proof.Machine.execSetPermitted seq mask sig s
  | .writeInstall seq record => Sys2Proof.Machine.execWriteInstall seq record s
  | .fenceMessage seq domains sig => Sys2Proof.Machine.execFenceMessage seq domains sig s
  | .unfenceMessage seq domains sig => Sys2Proof.Machine.execUnfenceMessage seq domains sig s
  | .resetDomainMessage seq domains sig => Sys2Proof.Machine.execResetDomainMessage seq domains sig s
  | .mailboxRelay seq mailbox request sig => Sys2Proof.Machine.execMailboxRelay seq mailbox request sig s
  | .event => Sys2Proof.Machine.execEvent s
  | .managementWatchdog => Sys2Proof.Machine.execManagementWatchdog s
  | .sensorSample sensor value => Sys2Proof.Machine.execSensorSample sensor value s
  | .thermalTrip => Sys2Proof.Machine.execThermalTrip s
  | .logWrite => Sys2Proof.Machine.execLogWrite s
  | .boot secret => Sys2Proof.Machine.execBoot secret s
  | .firmwareComponentWrite component image => Sys2Proof.Machine.execFirmwareComponentWrite component image s
  | .activateFirmware component => Sys2Proof.Machine.execActivateFirmware component s
  | .firmwareReady component => Sys2Proof.Machine.execFirmwareReady component s
  | .getVersion => Sys2Proof.Machine.execGetVersion s
  | .getCapabilities => Sys2Proof.Machine.execGetCapabilities s
  | .negotiateAlgorithms rsa3072 sha256 measSha256 => Sys2Proof.Machine.execNegotiateAlgorithms rsa3072 sha256 measSha256 s
  | .getDigests => Sys2Proof.Machine.execGetDigests s
  | .getCertificate slot offset length => Sys2Proof.Machine.execGetCertificate slot offset length s
  | .challenge slot nonce => Sys2Proof.Machine.execChallenge slot nonce s
  | .getMeasurements index signed nonce => Sys2Proof.Machine.execGetMeasurements index signed nonce s
  | .spdmUnsupportedRequest code => Sys2Proof.Machine.execSpdmUnsupportedRequest code s
  | .smuSample millivolts milliamps => Sys2Proof.Machine.execSmuSample millivolts milliamps s
  | .intervalClose => Sys2Proof.Machine.execIntervalClose s
  | .smuCheckpoint => Sys2Proof.Machine.execSmuCheckpoint s
  | .smuWatchdog => Sys2Proof.Machine.execSmuWatchdog s
  | .getReading => Sys2Proof.Machine.execGetReading s
  | .getRecords seq => Sys2Proof.Machine.execGetRecords seq s
  | .getCert => Sys2Proof.Machine.execGetCert s
  | .setInterval seconds => Sys2Proof.Machine.execSetInterval seconds s
  | .calibrationWrite data sig => Sys2Proof.Machine.execCalibrationWrite data sig s
  | .meterImageUpdate image activate => Sys2Proof.Machine.execMeterImageUpdate image activate s
  | .traceWrite => Sys2Proof.Machine.execTraceWrite s
  | .rehearsalLinkRelease => Sys2Proof.Machine.execRehearsalLinkRelease s
  | .rehearsalLinkTimeout => Sys2Proof.Machine.execRehearsalLinkTimeout s
  | .powerUp => Sys2Proof.Machine.execPowerUp s
  | .railStepComplete => Sys2Proof.Machine.execRailStepComplete s
  | .railStepTimeout => Sys2Proof.Machine.execRailStepTimeout s
  | .railFault rail => Sys2Proof.Machine.execRailFault rail s
  | .inputBelow40V => Sys2Proof.Machine.execInputBelow40V s
  | .powerLoss => Sys2Proof.Machine.execPowerLoss s
  | .modResetN release => Sys2Proof.Machine.execModResetN release s
  | .cxlPerstRelease port => Sys2Proof.Machine.execCxlPerstRelease port s
  | .defaultFramedWindow power => Sys2Proof.Machine.execDefaultFramedWindow power s
  | .fenceNRelease => Sys2Proof.Machine.execFenceNRelease s
  | .meterKeyRegeneration => Sys2Proof.Machine.execMeterKeyRegeneration s

end Sys2Proof.Machine
end

