-- ==== Sys2Proof/Safety.lean ====
section
/-! DEFINITION. What counts as a safe step, and the invariant of the module's stores and queues. -/
namespace Sys2Proof.Machine

/-- The step answers a next state. -/
def Safe (s : State) : Prop := ∃ t, step s = .next t

/-- R107, R220: a region's issue queue holds at most 64 words, and its slice is in canonical form. -/
structure RegionSt.Canon (r : RegionSt) : Prop where
  mem   : SMap.wf 0 r.mem = true
  queue : r.queue.length ≤ 64

/-- The invariant every step keeps: the module's stores are in canonical form, and its queues within what the spec gives
them: the fault queue (R329), the queue of failed remote operations (R499), the log's (R580) and the trace's (R616). -/
structure State.Inv (s : State) : Prop where
  regs     : SMap.wf 0 s.regs = true
  regions  : SMap.wf {} s.regions = true
  slices   : ∀ e ∈ s.regions, e.2.Canon
  hbm      : SMap.wf 0 s.hbm.mem = true
  pchs     : SMap.wf {} s.hbm.pchs = true
  cxl      : SMap.wf {} s.cxl = true
  windows  : SMap.wf {} s.windows = true
  bmes     : SMap.wf {} s.hbmStacks = true
  shuttles : SMap.wf {} s.shuttles = true
  ports    : SMap.wf {} s.ports = true
  objects  : SMap.wf {} s.sync.objects = true
  boxes    : SMap.wf {} s.mail.boxes = true
  sram     : SMap.wf 0 s.mail.sram = true
  faultQ   : s.faultQ.length ≤ 512
  failures : s.sync.failures.length ≤ 64
  log      : s.mgt.queue.length ≤ 16384
  trace    : s.obs.trace.length ≤ 4096

end Sys2Proof.Machine
end

