-- ==== Sys2Proof/Machine/Effects.lean ====
section
/-! DEFINITION. The words in which statements say what a command does and what it leaves as it was. -/
namespace Sys2Proof.Machine

/-! ## What a command leaves as it was -/

/-- The states agree in every register of the register space but those named. -/
def SameRegs (s t : State) (l : List Reg) : Prop := ∀ q : Reg, (∀ r ∈ l, q.addr ≠ r.addr) → t.reg q = s.reg q

/-- The states agree in every byte of memory: the HBM, the slices and the mailboxes' SRAM. -/
def SameMemory (s t : State) : Prop :=
  (∀ a, sget 0 t.hbm.mem a = sget 0 s.hbm.mem a) ∧ (∀ n a, sget 0 (t.region n).mem a = sget 0 (s.region n).mem a)
    ∧ ∀ a, sget 0 t.mail.sram a = sget 0 s.mail.sram a

/-- What an operation of a fabric port leaves as it was: every other port; every register but those of the port's frame
(R24) and the count of lost trace records; and everything but the ports, the records of events and of what left the
module, the meter's counts, the perturbation slots' counts, and time. -/
structure OnlyPort (p : Nat) (s t : State) : Prop where
  rest  : { t with
    now := s.now, freeCtr := s.freeCtr, regs := s.regs, outbox := s.outbox, ports := s.ports, mgt := s.mgt
    smu := s.smu, obs := s.obs } = s
  ports : ∀ q, q ≠ p → t.port q = s.port q
  regs  : ∀ r : Reg, r.addr < 0x41000 + 0x40 * p ∨ 0x41040 + 0x40 * p ≤ r.addr → r.addr ≠ SEQ_TRACE_LOST.addr →
    t.reg r = s.reg r

/-- R375, R379: the port has gone from ACTIVE or SWITCH to RETRAIN; `lead` where this end asked. -/
structure FastRetrain (p : Nat) (lead : Bool) (s t : State) : Prop where
  state  : t.fld (LNK_STATUS.STATE p) = 7
  leads  : t.flag (LNK_STATUS.LEAD p) = lead
  event  : t.flag (LNK_EVT.RETRAIN p) = true
  asked  : (t.port p).asked = lead
  kept   : (t.port p).replay = (s.port p).replay ∧ (t.port p).rxNext = (s.port p).rxNext
  counts : (t.port p).requests = if lead then (s.port p).requests + 1 else (s.port p).requests
  block  : t.outbox = s.outbox ++ [.training p (t.trainMsg p lnkRetrain (s.usableLanes p) lead)
    (trainingBlock (t.trainMsg p lnkRetrain (s.usableLanes p) lead))]
  raised : ∃ data, t.mgt.events = s.mgt.events ++ [(evRetrain, s.pick.count, data)]
  only   : OnlyPort p s t

/-- R374: the port trains anew from EQUALISE. -/
structure Equalising (p : Nat) (s t : State) : Prop where
  state : t.fld (LNK_STATUS.STATE p) = 2
  lost  : t.fld (LNK_LOST.CELLS_LOST p) = min (s.fld (LNK_LOST.CELLS_LOST p) + (s.port p).replay.length) 0xFFFFFFFF
  event : t.flag (LNK_EVT.SEQ_RESET p) = true
  tx    : (t.port p).txNext = 0 ∧ (t.port p).txOldest = 0 ∧ (t.port p).replay = [] ∧ (t.port p).resend = []
  rx    : (t.port p).rxNext = 0 ∧ (t.port p).rxMarks = [] ∧ (t.port p).gaps = []
  kept  : (t.port p).queue = (s.port p).queue ∧ (t.port p).ring = (s.port p).ring
  only  : OnlyPort p s t

/-! ## Picks and clocks -/

/-- R65, R335, R623: no program has begun or is to begin, and no rehearsal waits, at the boundary; the counter is not at its
end. -/
structure State.NoProgram (s : State) : Prop where
  segment  : s.pick.lastComplete = none
  start    : s.seq.committed = none
  rehearse : s.obs.rehearse = none
  notEnded : s.pick.endDue = false ∧ s.pickNo ≠ maxPick

/-- R38, R41, R47: a boundary at a time: the next is set a pick length later, and a window begins. -/
structure BeginsAt (at_ : Nat) (s t : State) : Prop where
  boundary : t.pick.boundaryAt = some at_
  next     : t.pick.nextAt = some (at_ + s.fld PCK_LENGTH.LENGTH)
  window   : t.pick.windowAt = at_ ∧ t.pick.inWindow = true
  now      : t.now = max s.now at_

/-- R54, R56, R410, R423: a tick cell at a port is a parent's, and nothing keeps it out. -/
structure State.TakesTick (s : State) (p : Nat) (c : Cell) : Prop where
  fence  : s.fabricFenced c = false
  host   : s.isHostPort p = false
  key    : s.allows p c.key = true
  parent : s.isParentPort p = true
  pick   : s.pickState ≠ pickIdle

/-- What a command of a region's clock leaves as it was. -/
structure OnlyClock (n : Nat) (s t : State) : Prop where
  rest    : { t with now := s.now, freeCtr := s.freeCtr, regs := s.regs, regions := s.regions } = s
  regions : ∀ m, m ≠ n → t.region m = s.region m
  region  : { t.region n with clk := (s.region n).clk } = s.region n
  regs    : SameRegs s t [CLK_RGN_FREQ n, RGN_CLK_STAT n]

/-! ## Words -/

/-- R104, R106, R120, R137, R151: the sequencer's next word meets no break, fault, wait or trap; no row of the grid is mapped
twice (R524). -/
structure State.MayIssue (s : State) : Prop where
  run    : s.seq.state = .issuing ∨ s.seq.state = .waiting
  span   : s.seq.open_ = true ∧ s.pick.inWindow = false
  breaks : s.tagBreak (s.wordAt s.seq.pc.toNat).hdr = false
  good   : s.wordBad s.seq.pc.toNat (s.wordAt s.seq.pc.toNat).hdr = false
    ∧ s.decodeFault (s.wordAt s.seq.pc.toNat) false = none
  room   : s.queueFull = false ∧ s.regionsOn.Nodup
  ready  : ∀ r ∈ (s.wordAt s.seq.pc.toNat).xReads, s.xWait r.2 = false
  waits  : (s.landX (s.seq.issued + 1)).yBlocked (s.wordAt s.seq.pc.toNat) = none
  traps  : (s.landX (s.seq.issued + 1)).issueTrap (s.wordAt s.seq.pc.toNat) = none

/-- R92: of a region, only what it may read of its crossings, and which of their slots are free, has changed. -/
def CrossOnly (r u : RegionSt) : Prop := { u with arrivals := r.arrivals, freedAt := r.freedAt } = r

/-- R101, R107: a word has issued. -/
structure Issued (s t : State) : Prop where
  number  : t.seq.issued = s.seq.issued + 1
  state   : t.seq.state = .issuing ∨ t.seq.state = .broken
  time    : s.now < t.now
  next    : s.seq.branch = none → t.seq.pc = BitVec.ofNat 22 (s.seq.pc.toNat + (s.wordAt s.seq.pc.toNat).hdr.len)
  queues  : ∀ n ∈ s.regionsOn, ∃ q, t.region n = { (s.region n).arrive (xQueue, 0, q.num) with queue := (s.region n).queue ++ [q] } ∧
    q.num = s.seq.issued + 1 ∧ q.tag = (s.wordAt s.seq.pc.toNat).hdr.tag ∧ q.v = (s.wordAt s.seq.pc.toNat).v
  idle    : ∀ n, n ∉ s.regionsOn → t.region n = s.region n
  regs    : SameRegs s t [SYN_EVT, SYN_STAT]
  rest    : { t with now := s.now, regs := s.regs, seq := s.seq, regions := s.regions, sync := s.sync } = s

/-- R51, R107, R148: the region would execute the word at the head of its queue, and nothing makes it wait or trap. -/
structure State.MayRun (s : State) (n : Nat) (q : QWord) (rest : List QWord) : Prop where
  head  : (s.region n).queue = q :: rest
  run   : s.canRun n q ((s.region n).edges + 1) = true
  waits : ((s.edge n).waitsOf n (s.region n).cycle q).any = false
  held  : s.actingSlot ptbTagwait n = none
  traps : (s.edge n).regionTrap n (s.region n).cycle q = none

/-! ## Mailboxes -/

/-- R511, R515: the mailbox is BUSY with this request, not carried out yet, of this code, and it passes the checks common to
all commands. -/
structure State.Asked (s : State) (mb code : Nat) (rq : List Byte) : Prop where
  box  : mb < 64
  busy : (s.box mb).busy = some rq ∧ (s.box mb).running = false
  code : rqCode rq = code
  pass : s.mailCheck mb rq = none

/-- A mailbox whose request is being carried out (R511). -/
def State.ran (s : State) (mb : Nat) : State := s.setBox mb { s.box mb with running := true }

/-- R522: the command of a mailbox for each code of the catalogue. -/
def mailInstr (mb : Nat) : Nat → Option Instr
  | 0x01 => some (.identify mb)
  | 0x02 => some (.negotiate mb)
  | 0x10 => some (.loadImage mb)
  | 0x11 => some (.patchImage mb)
  | 0x12 => some (.mapGrid mb)
  | 0x13 => some (.openWindow mb)
  | 0x14 => some (.closeWindow mb)
  | 0x20 => some (.joinPartition mb)
  | 0x21 => some (.leavePartition mb)
  | 0x22 => some (.armStart mb)
  | 0x23 => some (.commitStart mb)
  | 0x24 => some (.stop mb)
  | 0x50 => some (.snapshotArm mb)
  | 0x51 => some (.snapshotRead mb)
  | 0x60 => some (.fence mb)
  | 0x61 => some (.unfence mb)
  | 0x62 => some (.resetDomain mb)
  | 0x63 => some (.keyRetire mb)
  | 0x71 => some (.rehearse mb)
  | 0x72 => some (.debugBreak mb)
  | _ => none

/-- R435, R334, R491, R624: the commands carried out in a background window only. -/
def windowInstr (mb : Nat) : Nat → Option Instr
  | 0x25 => some (.yield_ mb)
  | 0x30 => some (.ctxCreate mb)
  | 0x31 => some (.ctxCancel mb)
  | 0x32 => some (.ctxDeadline mb)
  | 0x33 => some (.ctxRelease mb)
  | 0x70 => some (.perturb mb)
  | _ => none

/-- R509, R512: the request of a mailbox is answered with a status, a DETAIL and a body: the response stands in its area and
the mailbox is free again; the other mailboxes are as they were, and so is all else where no notify write and no relayed
request is to be answered. -/
structure Answered (mb status detail : Nat) (body rq : List Byte) (s t : State) : Prop where
  head  : t.sram (respArea mb) 32
    = responseHeader (rqCode rq) 2 body.length (rqSeq rq) status detail s.pick.count
  body  : t.sram (respArea mb + 0x20) body.length = body
  free  : t.box mb = { s.box mb with busy := none, running := false, relayed := none }
  boxes : ∀ n, n ≠ mb → t.box n = s.box n
  ready : t.mgt.cfReady = true
  rest  : bitAt (rqFlags rq) 0 = false → (s.box mb).relayed = none →
    t.mgt = { s.mgt with cfReady := true } ∧ { t with mail := s.mail, mgt := s.mgt } = s
  set   : { t.mail with boxes := s.mail.boxes, sram := s.mail.sram } = s.mail

end Sys2Proof.Machine
end

