-- ==== Sys2Proof/Certificates/Slice0/Obligations.lean ====
section
/-! DEFINITION. The statements for the provers. -/
open Sys2Proof Sys2Proof.Machine

/-- R18: a step on a queue with a command at its front is that command's effect on the state with the queue's rest; a step
on an empty queue passes one timebase cycle (R73; the model's choice, log entry 4). -/
def Obligations.StepRunsFrontCommand : Prop :=
  (∀ (c : Instr) (rest : List Instr) (s : State),
      step { s with pending := c :: rest } = exec c { s with pending := rest }) ∧
  (∀ s : State, s.pending = [] → step s = .next { s with now := s.now + 1 })

/-- A well-formed command answers a next state in every state; one that is not well formed faults, and no command is refused
(R26, R27, R253, R267, R317, R346, R507). -/
def Obligations.WellFormedCommandsRun : Prop :=
  ∀ (c : Instr) (s : State),
    (c.wellFormed = true → ∃ t, exec c s = .next t) ∧ (c.wellFormed = false → exec c s = .fault .noSuchUnit)

/-- The machine after reset meets the invariant. -/
def Obligations.ResetMeetsInvariant : Prop := State.reset.Inv

/-- Every step keeps the invariant: the stores in canonical form, the issue queues within 64 words, and the queues of fault
records, failure records, log records and trace records within their sizes (R107, R220, R329, R499, R580, R616). -/
def Obligations.StepKeepsInvariant : Prop := ∀ s t : State, s.Inv → step s = .next t → t.Inv

/-- R22: after reset every register of the register map reads its reset value; and the pick is IDLE, the sequencer idle, no
region is stretched, every slice byte and every mailbox byte reads zero, no port is enabled, and nothing is queued. -/
def Obligations.ResetState : Prop :=
  (∀ r : Reg, State.reset.reg r = r.reset) ∧ State.reset.pickState = pickIdle ∧ State.reset.seq = {} ∧
  (∀ n a, sget 0 (State.reset.region n).mem a = 0) ∧ (∀ a, sget 0 State.reset.mail.sram a = 0) ∧
  (∀ n, State.reset.region n = {}) ∧ (∀ p, p < 24 → State.reset.flag (LNK_CTRL.EN p) = false) ∧
  State.reset.pending = [] ∧ State.reset.faultQ = [] ∧ State.reset.sync.failures = [] ∧ State.reset.unsched = []

/-- R39: a read of PCK_COUNT_LO answers bits [31:0] of the pick counter and latches bits [47:32], which the next read of
PCK_COUNT_HI answers, whatever the counter has become by then; with no read of the low half before it, PCK_COUNT_HI answers
the live bits. -/
def Obligations.PickCountReadsWhole : Prop :=
  (∀ s : State, ∃ t, exec .pckCountLoRead s = .next t ∧ t.rdata.toNat = s.pick.count.toNat % 2 ^ 32 ∧
      { t with regs := s.regs, rdata := s.rdata, pick := s.pick } = s ∧ t.pick.count = s.pick.count ∧
      ∀ (a : BitVec 24) (c : BitVec 48), a.toNat = PCK_COUNT_HI.addr →
        ∃ u, exec (.rcRead a) { t with pick := { t.pick with count := c } } = .next u ∧
        u.rdata.toNat = s.pick.count.toNat / 2 ^ 32 ∧ u.pick.hiHold = none) ∧
  (∀ (s : State) (a : BitVec 24), a.toNat = PCK_COUNT_HI.addr → s.pick.hiHold = none → ∃ u, exec (.rcRead a) s = .next u ∧
      u.rdata.toNat = s.pick.count.toNat / 2 ^ 32) ∧
  State.reset.peek PCK_COUNT_LO.addr = 0 ∧ State.reset.peek PCK_COUNT_HI.addr = 0

/-- R18, R21, R24: a write to a register takes a cycle (R19; the model's choice, log entry 72). Each rw bit takes the value written, each w1c bit
written 1 clears, every other bit of the register keeps its value, and nothing else changes. An offset that holds no
register, a register of a region not in use, and a register whose unit ignores writes now take nothing. A write that
starts an action is the store followed by that action; a write of PCK_LENGTH or PCK_PARTS is PCK_CONFIG_WRITE (R35). -/
def Obligations.RegisterWriteByAccess : Prop :=
  (∀ s : State, s.accessCycle = { s with now := s.now + 1 }) ∧
  (∀ (s : State) (a : BitVec 24) (v : BitVec 32), specAt a.toNat = none →
      exec (.registerWrite a v) s = .next s.accessCycle) ∧
  (∀ (s : State) (a : BitVec 24) (v : BitVec 32), s.deadReg a.toNat = true ∨ s.writeIgnored a.toNat v = true →
      exec (.registerWrite a v) s = .next s.accessCycle) ∧
  (∀ (s : State) (a : BitVec 24) (v : BitVec 32) (r : RegSpec), specAt a.toNat = some r →
      s.deadReg a.toNat = false → s.writeIgnored a.toNat v = false →
      a.toNat ≠ PCK_LENGTH.addr → a.toNat ≠ PCK_PARTS.addr →
      ∃ u : State,
        (∀ i : Nat, i < 32 → (u.reg ⟨a.toNat, r.reset⟩).getLsbD i =
          if r.rw.getLsbD i then (writeValue a.toNat (s.reg ⟨a.toNat, r.reset⟩) v).getLsbD i
          else if r.w1c.getLsbD i then
            (s.reg ⟨a.toNat, r.reset⟩).getLsbD i && !(writeValue a.toNat (s.reg ⟨a.toNat, r.reset⟩) v).getLsbD i
          else (s.reg ⟨a.toNat, r.reset⟩).getLsbD i) ∧
        SameRegs s u [⟨a.toNat, r.reset⟩] ∧ { u with regs := s.regs } = s.accessCycle ∧
        exec (.registerWrite a v) s = .next (u.writeAct a.toNat v)) ∧
  (∀ (s : State) (a : Nat) (v : BitVec 32), a ≠ SEQ_BRK_CTRL.addr → a ≠ MMU_INV_LO.addr → a ≠ MMU_INV_HI.addr →
      a ≠ MMU_ROOT.addr → a ≠ SHT_FQ_STATUS.addr → a ≠ SYN_FAIL_STATUS.addr → (∀ p, p < 24 → a ≠ (LNK_CTRL p).addr) →
      (∀ n, n < 16 → a ≠ (PTB_SLOT_CTRL n).addr) → s.writeAct a v = s) ∧
  (∀ (s : State) (a : BitVec 24) (v : BitVec 32),
      (a.toNat = PCK_LENGTH.addr → exec (.registerWrite a v) s = exec (.pckConfigWrite false v) s.accessCycle) ∧
      (a.toNat = PCK_PARTS.addr → exec (.registerWrite a v) s = exec (.pckConfigWrite true v) s.accessCycle))

/-- R18, R20: a read takes a cycle (R19; the model's choice, log entry 72), answers what the register shows and then clears
its rc bits; no other bit, register or unit changes. A read of an offset that holds no register answers zero. -/
def Obligations.ReadClearsCounters : Prop :=
  (∀ (s : State) (a : BitVec 24), specAt a.toNat = none → (∀ n, n < 64 → a.toNat ≠ (RGN_CLK_STAT n).addr) →
      exec (.rcRead a) s = .next { s.accessCycle with rdata := 0 }) ∧
  (∀ (s : State) (a : BitVec 24) (r : RegSpec), specAt a.toNat = some r → s.deadReg a.toNat = false →
      (∀ n, n < 64 → a.toNat ≠ (RGN_CLK_STAT n).addr) →
      a.toNat ∉ [PCK_COUNT_LO.addr, PCK_COUNT_HI.addr, SEQ_RETIRED_LO.addr, SEQ_RETIRED_HI.addr, SMU_SEQ_LO.addr,
        SMU_SEQ_HI.addr] →
      ∃ t, exec (.rcRead a) s = .next t ∧ t.rdata = s.accessCycle.peek a.toNat ∧
        (∀ i : Nat, (t.reg ⟨a.toNat, r.reset⟩).getLsbD i = ((s.reg ⟨a.toNat, r.reset⟩).getLsbD i && !r.rc.getLsbD i)) ∧
        SameRegs s t [⟨a.toNat, r.reset⟩] ∧ { t with regs := s.regs, rdata := s.rdata } = s.accessCycle)

/-- R150, R602: a read of SEQ_RETIRED_LO or SMU_SEQ_LO answers the low 32 bits of its count and latches the upper half; the
next read of the high half answers the latched half, whatever the count has become. -/
def Obligations.RetiredAndMeterCountReads : Prop :=
  (∀ s : State, ∃ t, exec .seqRetiredLoRead s = .next t ∧ t.rdata.toNat = s.retired % 2 ^ 32 ∧
      { t with regs := s.regs, rdata := s.rdata, seq := s.seq } = s ∧
      ∀ (a : BitVec 24) (b : Nat), a.toNat = SEQ_RETIRED_HI.addr →
        ∃ u, exec (.rcRead a) { t with seq := { t.seq with base := b } } = .next u ∧
        u.rdata.toNat = s.retired / 2 ^ 32 % 2 ^ 32) ∧
  (∀ s : State, ∃ t, exec .smuSeqLoRead s = .next t ∧ t.rdata.toNat = s.smu.seq % 2 ^ 32 ∧
      { t with regs := s.regs, rdata := s.rdata, smu := s.smu } = s ∧
      ∀ (a : BitVec 24) (n : Nat), a.toNat = SMU_SEQ_HI.addr →
        ∃ u, exec (.rcRead a) { t with smu := { t.smu with seq := n } } = .next u ∧
        u.rdata.toNat = s.smu.seq / 2 ^ 32 % 2 ^ 32)

/-- R35: while the pick state is IDLE a write to PCK_LENGTH or PCK_PARTS sets that register's fields and nothing else;
in every other state both registers keep their values and PCK_EVENT.CFG_MISMATCH is set. -/
def Obligations.PickConfigOnlyWhileIdle : Prop :=
  (∀ (s : State) (v : BitVec 32), s.fld PCK_STATUS.STATE = 0 →
      ∃ t, exec (.pckConfigWrite false v) s = .next t ∧ t.reg PCK_LENGTH = v &&& 0x1FFFF ∧
        SameRegs s t [PCK_LENGTH] ∧ { t with regs := s.regs } = s) ∧
  (∀ (s : State) (v : BitVec 32), s.fld PCK_STATUS.STATE = 0 →
      ∃ t, exec (.pckConfigWrite true v) s = .next t ∧ t.reg PCK_PARTS = v &&& 0x3FFF1FFF ∧
        SameRegs s t [PCK_PARTS] ∧ { t with regs := s.regs } = s) ∧
  (∀ (s : State) (parts : Bool) (v : BitVec 32), s.fld PCK_STATUS.STATE ≠ 0 →
      ∃ t, exec (.pckConfigWrite parts v) s = .next t ∧ t.flag PCK_EVENT.CFG_MISMATCH = true ∧
        (∀ f ∈ [PCK_EVENT.END_OF_COUNT, PCK_EVENT.IO_PULSE_BAD, PCK_EVENT.TICK_BAD, PCK_EVENT.TICK_MISS, PCK_EVENT.SLIP,
          PCK_EVENT.OVERRUN], t.fld f = s.fld f) ∧
        SameRegs s t [PCK_EVENT] ∧ { t with regs := s.regs } = s)

/-- R151, R345, R506: a pop removes the oldest record of its queue, or does nothing where the queue is empty; RESUME
restarts a broken sequencer at the held program counter, with one tag match passed over. -/
def Obligations.PopsAndResume : Prop :=
  (∀ s : State, exec .fqPop s = .next { s with faultQ := s.faultQ.tail }) ∧
  (∀ (s : State) (k : Nat), k < 8 → s.faultQ = [] → s.peek (SHT_FQ_HEAD k).addr = 0) ∧
  (∀ s : State, exec .failPop s = .next { s with sync := { s.sync with failures := s.sync.failures.tail } }) ∧
  (∀ (s : State) (k : Nat), k < 4 → s.sync.failures = [] → s.peek (SYN_FAIL_HEAD k).addr = 0) ∧
  (∀ s : State, s.seq.state = .broken →
      exec .resume s = .next { s with seq := { s.seq with state := .issuing, skipTag := true } }) ∧
  (∀ s : State, s.seq.state ≠ .broken → exec .resume s = .next s)

/-- R280: with no invalidation outstanding, a write to MMU_INV_HI removes every cached leaf that meets the named page (or
every leaf), puts the page's walks back to their start behind the others, and sets INV_BUSY; while one is outstanding it
does nothing but set INV_LOST. INV_BUSY clears when no access through an invalidated entry is left. -/
def Obligations.InvalidationTakesTheCachedPage : Prop :=
  (∀ (s : State) (v : BitVec 32), s.flag MMU_STATUS.INV_BUSY = false →
      ∃ t, exec (.mmuInvalidateAll v) s = .next t ∧ t.mmu.cache = [] ∧ t.flag MMU_STATUS.INV_BUSY = true ∧
        t.mmu.walks.map (fun w => w.page) = s.mmu.walks.map (fun w => w.page) ∧
        (∀ w ∈ t.mmu.walks, w.started = false ∧ w.result = none) ∧
        t.mmu.waiting = s.mmu.waiting ∧ SameRegs s t [MMU_STATUS] ∧ SameMemory s t) ∧
  (∀ (s : State) (v : BitVec 32), s.flag MMU_STATUS.INV_BUSY = false → v.getLsbD 4 = false →
      ∃ t, exec (.mmuInvalidatePage v) s = .next t ∧ t.flag MMU_STATUS.INV_BUSY = true ∧
        (∀ l, l ∈ t.mmu.cache ↔ l ∈ s.mmu.cache ∧
          ¬(l.va < (v.toNat % 16 * 2 ^ 48 + s.mmu.invLo.toNat * 2 ^ 16) + 65536 ∧
            v.toNat % 16 * 2 ^ 48 + s.mmu.invLo.toNat * 2 ^ 16 < l.va + l.size)) ∧
        SameRegs s t [MMU_STATUS] ∧ SameMemory s t) ∧
  (∀ (s : State) (v : BitVec 32), s.flag MMU_STATUS.INV_BUSY = true →
      (∃ t, exec (.mmuInvalidatePage v) s = .next t ∧ t.flag MMU_STATUS.INV_LOST = true ∧ t.flag MMU_STATUS.INV_BUSY = true ∧
        SameRegs s t [MMU_STATUS] ∧ { t with regs := s.regs } = s) ∧
      (∃ t, exec (.mmuInvalidateAll v) s = .next t ∧ t.flag MMU_STATUS.INV_LOST = true ∧ t.flag MMU_STATUS.INV_BUSY = true ∧
        SameRegs s t [MMU_STATUS] ∧ { t with regs := s.regs } = s)) ∧
  (∀ s : State, s.staleLeft = false →
      ∃ t, exec .invDrainComplete s = .next t ∧ t.flag MMU_STATUS.INV_BUSY = false ∧
        t.flag MMU_STATUS.INV_LOST = s.flag MMU_STATUS.INV_LOST ∧ SameRegs s t [MMU_STATUS] ∧ { t with regs := s.regs } = s)

/-- R375, R379, R385: each cause of a fast retrain takes the port to RETRAIN. -/
def Obligations.CausesOfAFastRetrain : Prop :=
  (∀ (s : State) (p : Nat), p < 24 → s.fld (LNK_STATUS.STATE p) = 6 →
      ∃ t, exec (.retrain p) s = .next t ∧ FastRetrain p true s t) ∧
  (∀ (s : State) (p lane : Nat), p < 24 → lane < 8 → s.fld (LNK_STATUS.STATE p) = 6 →
      (s.fld (LNK_STATUS.LANES p)).testBit lane = true →
      ∃ t, exec (.laneSignalLoss p lane) s = .next t ∧ FastRetrain p true s t) ∧
  (∀ (s : State) (p : Nat) (m : TrainMsg), p < 24 → s.fld (LNK_STATUS.STATE p) = 6 → m.good = true →
        m.retrain = true → ∃ t, exec (.trainingBlock p m) s = .next t ∧ FastRetrain p false s t) ∧
  (∀ (s : State) (p : Nat), p < 24 → s.fld (LNK_STATUS.STATE p) = 8 →
      ∃ t, exec (.switchTimeout p) s = .next t ∧ FastRetrain p true s t ∧ (s.port p).since + 1600 ≤ t.now) ∧
  (∀ (s : State) (p : Nat), p < 24 → s.fld (LNK_STATUS.STATE p) ≠ 6 → exec (.retrain p) s = .next s)

/-- R370, R374, R376, R385: a full retrain, by a write or by a fast retrain that lasts 8 µs, takes the port to EQUALISE,
where the sequence state starts anew and the unacknowledged cells are counted as lost; EN cleared takes it to DOWN, which
sets LNK_EVT.DOWN, and EN set lets it leave DOWN; a training state that outlasts its time goes back to DETECT. -/
def Obligations.PortLeavesItsState : Prop :=
  (∀ (s : State) (p : Nat), p < 24 → 2 ≤ s.fld (LNK_STATUS.STATE p) →
      ∃ t, exec (.fullRetrain p) s = .next t ∧ Equalising p s t) ∧
  (∀ (s : State) (p : Nat), p < 24 → s.fld (LNK_STATUS.STATE p) = 7 →
      ∃ t, exec (.retrainTimeout p) s = .next t ∧ Equalising p s t ∧ (s.port p).since + 12800 ≤ t.now) ∧
  (∀ (s : State) (p : Nat), p < 24 → s.fld (LNK_STATUS.STATE p) ≠ 0 →
      ∃ t, exec (.portEnWrite p false) s = .next t ∧ t.fld (LNK_STATUS.STATE p) = 0 ∧ t.fld (LNK_CTRL.EN p) = 0 ∧
        t.flag (LNK_EVT.DOWN p) = true ∧ OnlyPort p s t) ∧
  (∀ (s : State) (p : Nat), p < 24 → s.fld (LNK_STATUS.STATE p) = 0 → (s.port p).held = none → s.mgt.holdD1 = false →
      ∃ t, exec (.portEnWrite p true) s = .next t ∧ t.fld (LNK_STATUS.STATE p) = 1 ∧ t.fld (LNK_CTRL.EN p) = 1 ∧
        OnlyPort p s t) ∧
  (∀ (s : State) (p : Nat), p < 24 → s.fld (LNK_STATUS.STATE p) = 2 ∨ s.fld (LNK_STATUS.STATE p) = 3 ∨
        s.fld (LNK_STATUS.STATE p) = 4 ∨ s.fld (LNK_STATUS.STATE p) = 5 →
      ∃ t, exec (.trainingTimeout p) s = .next t ∧ t.fld (LNK_STATUS.STATE p) = 1 ∧ t.flag (LNK_EVT.DOWN p) = true ∧
        (s.port p).since + (match s.fld (LNK_STATUS.STATE p) with
          | 2 => 80000000 | 3 => 1600000 | 4 => 32000 | _ => 16000) ≤ t.now ∧ OnlyPort p s t)

/-- R361, R362, R363, R376, R383: a REPLAY_REQ queues the held cells it names; a gap open 1 µs after its request asks
again, eight times, and then asks for all; a sender whose ACK stood still for 4 µs goes back; and a coalescing point sends
the expected number. -/
def Obligations.ReplayAndAcknowledgement : Prop :=
  (∀ (s : State) (p first last : Nat), p < 24 → first < 65536 → last < 65536 → s.fld (LNK_STATUS.STATE p) = 6 →
      s.flag (LNK_STATUS.COMPAT p) = false →
      ∃ t, exec (.replayReq p first last false) s = .next t ∧ { t with ports := s.ports } = s ∧
        (∀ q, q ≠ p → t.port q = s.port q) ∧
        { t.port p with resend := (s.port p).resend } = s.port p ∧
        ∀ n, n ∈ (t.port p).resend ↔ n ∈ (s.port p).resend ∨
          (∃ c, (n, c) ∈ (s.port p).replay) ∧ seqFrom first n = true ∧ seqFrom n last = true) ∧
  (∀ (s : State) (p : Nat) (g : Gap), p < 24 → (s.port p).gaps = [g] → (s.port p).gapOpen g = true → g.requests < 8 →
      s.flag (LNK_STATUS.COMPAT p) = false →
      ∃ t, exec (.replayReqRetry p) s = .next t ∧ OnlyPort p s t ∧ t.now = max s.now (g.lastAt + 1600) ∧
        (t.port p).gaps = [{ g with requests := g.requests + 1, lastAt := t.now }] ∧
        (t.port p).control = (s.port p).control ++ [ctlReplay false g.first g.last]) ∧
  (∀ (s : State) (p : Nat) (g : Gap), p < 24 → (s.port p).gaps = [g] → (s.port p).gapOpen g = true → 8 ≤ g.requests →
      ∃ t, exec (.replayReqRetry p) s = .next t ∧ OnlyPort p s t ∧ (t.port p).gaps = [] ∧
        (t.port p).control = (s.port p).control ++ [ctlReplay true (s.port p).rxNext 0]) ∧
  (∀ (s : State) (p : Nat), p < 24 → s.fld (LNK_STATUS.STATE p) = 6 → (s.port p).replay ≠ [] →
      ∃ t, exec (.goBack p) s = .next t ∧ OnlyPort p s t ∧ t.now = max s.now ((s.port p).ackAt + 6400) ∧
        (t.port p).ackAt = t.now ∧
        t.fld (LNK_REPLAY.GO_BACKS p) = min (s.fld (LNK_REPLAY.GO_BACKS p) + 1) 255 ∧
        (t.port p).replay = (s.port p).replay) ∧
  (∀ (s : State) (p : Nat), p < 24 → s.fld (LNK_STATUS.STATE p) = 6 → s.flag (LNK_STATUS.COMPAT p) = true →
      1 ≤ (s.port p).ackCount →
      ∃ t, exec (.ackCoalesce p) s = .next t ∧ OnlyPort p s t ∧ t.regs = s.regs ∧
        (t.port p).ackSent = (s.port p).rxNext ∧ (t.port p).ackCount = 0 ∧
        ((s.port p).ackCount < 32 → t.now = max s.now ((s.port p).ackPoint + 320)))

/-- R373: a MEASURE cell is echoed with the cycles it was held; each of sixteen echoes adds its delay, and the sixteenth
sets LNK_DELAY to their average in sixteenths of a cycle. -/
def Obligations.DelayIsTheAverageOfSixteen : Prop :=
  (∀ (s : State) (p : Nat) (i : BitVec 8) (stamp : BitVec 32) (hold : Nat), p < 24 → s.fld (LNK_STATUS.STATE p) = 6 →
      s.flag (LNK_STATUS.COMPAT p) = false →
      ∃ t, exec (.measure p i stamp hold) s = .next t ∧ { t with ports := s.ports } = s ∧
        (∀ q, q ≠ p → t.port q = s.port q) ∧
        t.port p = { s.port p with control := (s.port p).control ++ [ctlEcho i.toNat stamp.toNat hold s.now] }) ∧
  (∀ (s : State) (p : Nat) (i : BitVec 8) (stamp hold : BitVec 32), p < 24 → s.fld (LNK_STATUS.STATE p) = 6 →
      s.flag (LNK_STATUS.COMPAT p) = false → (s.port p).measured < 15 →
      ∃ t, exec (.measureEcho p i stamp hold) s = .next t ∧ { t with ports := s.ports } = s ∧
        (t.port p).measured = (s.port p).measured + 1 ∧
        (t.port p).delaySum = (s.port p).delaySum
          + ((s.now + 4294967296 - stamp.toNat) % 4294967296 - hold.toNat) * 8) ∧
  (∀ (s : State) (p : Nat) (i : BitVec 8) (stamp hold : BitVec 32), p < 24 → s.fld (LNK_STATUS.STATE p) = 6 →
      s.flag (LNK_STATUS.COMPAT p) = false → (s.port p).measured = 15 →
      ∃ t, exec (.measureEcho p i stamp hold) s = .next t ∧ OnlyPort p s t ∧ (t.port p).measured = 16 ∧
        t.fld (LNK_DELAY.CYCLES p) = min ((t.port p).delaySum / 16 / 16) 4095 ∧
        t.fld (LNK_DELAY.FRACTION p) = (t.port p).delaySum / 16 % 16)

/-- R377, R378: a width request is accepted where its lanes can be used and refused otherwise; an acceptance or a refusal
settles this end's request; at the agreed codeword, counted modulo 2^32, the port switches; and a lane with more than
65,536 corrected symbols, or a write of WIDEN, asks
for the widest width of the lanes that pass, 256 codewords ahead. -/
def Obligations.LinkWidthSwitch : Prop :=
  (∀ (s : State) (p : Nat) (lanes : BitVec 8) (at_ : BitVec 32), p < 24 → s.fld (LNK_STATUS.STATE p) = 6 →
      (s.port p).width = none → lanes.toNat &&& (255 - s.usableLanes p) = 0 → widthCode (lanesOf lanes.toNat).length ≠ 0 →
      ∃ t, exec (.widthReq p lanes at_) s = .next t ∧ { t with ports := s.ports } = s ∧
        (t.port p).width = some ⟨lanes, at_.toNat, false, true⟩ ∧
        (t.port p).control = (s.port p).control ++ [ctlWidth 5 lanes.toNat at_.toNat]) ∧
  (∀ (s : State) (p : Nat) (lanes : BitVec 8) (at_ : BitVec 32), p < 24 → s.fld (LNK_STATUS.STATE p) = 6 →
      (s.port p).width = none →
      (lanes.toNat &&& (255 - s.usableLanes p) ≠ 0 ∨ widthCode (lanesOf lanes.toNat).length = 0) →
      ∃ t, exec (.widthReq p lanes at_) s = .next t ∧ { t with ports := s.ports } = s ∧ (t.port p).width = none ∧
        (t.port p).control = (s.port p).control ++ [ctlWidth 6 lanes.toNat at_.toNat]) ∧
  (∀ (s : State) (p : Nat) (w : WidthSwitch), p < 24 → (s.port p).width = some w → w.mine = true →
      w.at_ < 4294967296 →
      ∃ t, exec (.widthAck p w.lanes (BitVec.ofNat 32 w.at_)) s = .next t ∧ { t with ports := s.ports } = s ∧
        t.port p = { s.port p with width := some { w with agreed := true } }) ∧
  (∀ (s : State) (p : Nat) (w : WidthSwitch), p < 24 → (s.port p).width = some w → w.mine = true → w.agreed = false →
      w.at_ < 4294967296 →
      ∃ t, exec (.widthNak p w.lanes (BitVec.ofNat 32 w.at_)) s = .next t ∧ { t with ports := s.ports } = s ∧
        t.port p = { s.port p with width := none }) ∧
  (∀ (s : State) (p : Nat) (w : WidthSwitch), p < 24 → s.fld (LNK_STATUS.STATE p) = 6 → (s.port p).width = some w →
      w.agreed = true → countReached w.at_ (s.port p).codewords = true →
      ∃ t, exec (.widthSwitchPoint p) s = .next t ∧ OnlyPort p s t ∧ t.fld (LNK_STATUS.STATE p) = 8 ∧
        t.fld (LNK_STATUS.LANES p) = w.lanes.toNat ∧ (t.port p).width = none ∧ (t.port p).since = s.now) ∧
  (∀ (s : State) (p lane : Nat), p < 24 → lane < 8 → s.fld (LNK_STATUS.STATE p) = 6 →
      (s.fld (LNK_STATUS.LANES p)).testBit lane = true → 65536 < sget 0 (s.port p).symErrs lane →
      ∃ t, exec (.laneDegrade p lane) s = .next t ∧ OnlyPort p s t ∧ t.flag (LNK_EVT.LANE_DROP p) = true ∧
        t.fld (LNK_STATUS.FAILED p) = s.fld (LNK_STATUS.FAILED p) ||| 2 ^ lane) ∧
  (∀ (s : State) (p : Nat), p < 24 → s.fld (LNK_STATUS.STATE p) = 6 →
      ∃ t back, exec (.widen p) s = .next t ∧ OnlyPort p s t ∧
        t.fld (LNK_STATUS.FAILED p) = s.fld (LNK_STATUS.FAILED p) &&& (255 - (s.fld (LNK_STATUS.FAILED p) &&& back)) ∧
        (t.port p).passing = BitVec.ofNat 8 ((s.port p).passing.toNat ||| (s.fld (LNK_STATUS.FAILED p) &&& back)))

/-- R38, R47, R57, R59, R60, R70: at a boundary of a member with no program under way, the counter takes the pick that the
accepted tick announces and the module is LOCKED; with no tick it advances by one in HOLDOVER and counts the miss, eight
picks at most; after those it slips. The boundary sets the next one a pick length later and begins a background window. -/
def Obligations.BoundaryBeginsThePick : Prop :=
  (∀ (s : State) (power at_ : Nat) (p : BitVec 48), s.pick.nextAt = some at_ → s.NoProgram → s.isMember = true →
      1 ≤ s.pickState → s.pickState ≤ 3 → s.pick.accepted = some p → p.toNat < maxPick →
      ∃ t, exec (.pickBoundary power) s = .next t ∧ t.pick.count = p ∧ t.pickState = 2 ∧ t.fld PCK_STATUS.HOLDOVER = 0 ∧
        t.fld PCK_STATUS.LAG = 0 ∧ t.pick.accepted = none ∧ BeginsAt at_ s t) ∧
  (∀ (s : State) (power at_ : Nat), s.pick.nextAt = some at_ → s.NoProgram → s.isMember = true →
      1 ≤ s.pickState → s.pickState ≤ 3 → s.pick.accepted = none → s.flag CLK_REF_STATUS.REF_LOSS = false →
      s.fld PCK_STATUS.HOLDOVER < 8 → s.pickNo + 1 < maxPick →
      ∃ t, exec (.pickBoundary power) s = .next t ∧ t.pickNo = s.pickNo + 1 ∧ t.pickState = 3 ∧
        t.fld PCK_STATUS.HOLDOVER = s.fld PCK_STATUS.HOLDOVER + 1 ∧ t.flag PCK_EVENT.TICK_MISS = true ∧
        t.fld PCK_MISC_COUNT.TICK_MISSES = min (s.fld PCK_MISC_COUNT.TICK_MISSES + 1) 65535 ∧ BeginsAt at_ s t) ∧
  (∀ (s : State) (power at_ : Nat), s.pick.nextAt = some at_ → s.NoProgram → s.isMember = true →
      1 ≤ s.pickState → s.pickState ≤ 3 → s.pick.accepted = none → s.fld PCK_STATUS.HOLDOVER = 8 → s.pick.quiet = false →
      s.pickNo + 1 < maxPick →
      ∃ t, exec (.pickBoundary power) s = .next t ∧ t.pickNo = s.pickNo + 1 ∧ t.pickState = 4 ∧
        t.flag PCK_EVENT.SLIP = true ∧ (s.seq.state = .issuing → t.seq.state = .stoppedSlip) ∧ BeginsAt at_ s t) ∧
  (∀ (s : State) (power : Nat), s.pick.nextAt = none → exec (.pickBoundary power) s = .next s)

/-- R41, R45, R265: the scheduled span starts at the end of the window, and opens the segment that is due; in IDLE and
ACQUIRING a default window begins every 8,192 cycles; outside those states that command does nothing. -/
def Obligations.WindowsBeginAndEnd : Prop :=
  (∀ s : State, s.pick.inWindow = true →
      ∃ t, exec .spanStart s = .next t ∧ t.pick = { s.pick with inWindow := false, spans := (s.pickNo, s.pick.windowAt + s.pickWin) :: s.pick.spans.take 3 } ∧
        t.now = max s.now (s.pick.windowAt + s.pickWin) ∧ t.mmu = s.mmu ∧ SameMemory s t ∧
        (∀ n, s.seq.segment = some n → s.programOn = true → n ≤ s.pickNo → s.seq.stopped = false → s.seq.yieldSeg = none →
          s.pick.lastComplete.map (fun l => l + 1) = some n → t.seq.open_ = true)) ∧
  (∀ s : State, s.pick.inWindow = false → exec .spanStart s = .next s) ∧
  (∀ (s : State) (power : Nat), s.pickState ≤ 1 →
      ∃ t, exec (.defaultFramedWindow power) s = .next t ∧
        t.pick = { s.pick with windowAt := s.pick.windowAt + 8192, inWindow := true, walksStarted := 0 } ∧
        t.now = max s.now (s.pick.windowAt + 8192) ∧ t.seq = s.seq ∧ t.mmu = s.mmu ∧ SameMemory s t) ∧
  (∀ (s : State) (power : Nat), 2 ≤ s.pickState → exec (.defaultFramedWindow power) s = .next s)

/-- R57 (and R53, R54, R56): the first valid tick that a member takes from a parent for a pick sets its next boundary at the tick's arrival plus a pick
length less its age, names the pick that begins there, and goes on to every child port that is ACTIVE and no host port, one hop further; the second is
ignored, a bad tick only sets TICK_BAD, a tick from another port is not accepted, and none of these is forwarded. -/
def Obligations.TickSetsTheNextBoundary : Prop :=
  (∀ (s : State) (p at_ : Nat) (c : Cell), p < 24 → c.ok = true → c.kind = 2 → c.mark = true → s.TakesTick p c →
      tickConfig c.payload = s.config → s.tickBad p c.payload = false → s.pick.accepted = none →
      ∃ t, exec (.tickCell p c at_) s = .next t ∧ t.now = max s.now at_ ∧
        t.pick = { s.pick with
          nextAt := some (at_ + s.fld PCK_LENGTH.LENGTH - s.ageHere p c.payload)
          accepted := some (BitVec.ofNat 48 (tickPick c.payload)) } ∧
        t.part = { s.part with depth := tickHop c.payload + 1 } ∧ t.fld PCK_STATUS.HOLDOVER = 0 ∧
        (∀ q ∈ s.childPorts, s.isHostPort q = false → s.lnkUp q = true → ∃ b, (t.port q).tick = some (tickCellOf (s.memberKey.getD 0) b) ∧
          tickPick b = tickPick c.payload ∧ tickHop b = tickHop c.payload + 1) ∧
        SameRegs s t (PCK_STATUS :: s.childPorts.map RTE_DROP) ∧ SameMemory s t) ∧
  (∀ (s : State) (p at_ : Nat) (c : Cell), p < 24 → c.ok = true → c.kind = 2 → c.mark = true → s.TakesTick p c →
      s.tickBad p c.payload = true →
      ∃ t, exec (.tickCell p c at_) s = .next t ∧ t.flag PCK_EVENT.TICK_BAD = true ∧ t.pick = s.pick ∧
        (∀ q, (t.port q).tick = (s.port q).tick) ∧ SameRegs s t [PCK_EVENT] ∧ SameMemory s t) ∧
  (∀ (s : State) (p at_ : Nat) (c : Cell), p < 24 → c.ok = true → c.kind = 2 → c.mark = true → s.TakesTick p c →
      tickConfig c.payload = s.config → s.tickBad p c.payload = false → s.pick.accepted ≠ none →
      ∃ t, exec (.tickCell p c at_) s = .next t ∧ t.pick = s.pick ∧ (∀ q, (t.port q).tick = (s.port q).tick) ∧
        t.regs = s.regs ∧ SameMemory s t) ∧
  (∀ (s : State) (p at_ : Nat) (c : Cell), p < 24 → c.ok = true → s.isParentPort p = false →
      ∃ t, exec (.tickCell p c at_) s = .next t ∧ t.pick = s.pick ∧ (∀ q, (t.port q).tick = (s.port q).tick))

/-- R62: an edge of PICK_IO that puts a boundary within 2 cycles of a pick length after the previous one sets the origin's next
boundary 20 ns after it; a second such edge changes nothing (the model's choice, log entry 58); any other sets IO_PULSE_BAD and
moves nothing; a module that does not take its picks from PICK_IO ignores it. -/
def Obligations.PickIoSetsTheNextBoundary : Prop :=
  (∀ (s : State) (at_ b : Nat), s.fromPickIo = true → s.pick.nextAt ≠ none → s.pick.boundaryAt = some b →
      s.pick.ioEdge = none → at_ + 32 ≤ b + s.fld PCK_LENGTH.LENGTH + 2 → b + s.fld PCK_LENGTH.LENGTH ≤ at_ + 34 →
      exec (.pickIoEdge at_) s
        = .next { s with now := max s.now at_, pick := { s.pick with nextAt := some (at_ + 32), ioEdge := some (at_ + 32) } }) ∧
  (∀ (s : State) (at_ b : Nat), s.fromPickIo = true → s.pick.nextAt ≠ none → s.pick.boundaryAt = some b →
      s.pick.ioEdge ≠ none → at_ + 32 ≤ b + s.fld PCK_LENGTH.LENGTH + 2 → b + s.fld PCK_LENGTH.LENGTH ≤ at_ + 34 →
      exec (.pickIoEdge at_) s = .next { s with now := max s.now at_ }) ∧
  (∀ (s : State) (at_ b : Nat), s.fromPickIo = true → s.pick.nextAt ≠ none → s.pick.boundaryAt = some b →
      b + s.fld PCK_LENGTH.LENGTH + 2 < at_ + 32 ∨ at_ + 34 < b + s.fld PCK_LENGTH.LENGTH →
      ∃ t, exec (.pickIoEdge at_) s = .next t ∧ t.flag PCK_EVENT.IO_PULSE_BAD = true ∧ SameRegs s t [PCK_EVENT] ∧
        { t with regs := s.regs, now := s.now } = s) ∧
  (∀ (s : State) (at_ : Nat), s.fromPickIo = false → exec (.pickIoEdge at_) s = .next s)

/-- R80, R81, R87: in its window a region whose clock is not at its target stops for its step, and restarts with a code at
most 8 away; the step's end sets CUR_CODE and STATE. -/
def Obligations.FrequencyStepsOfARegion : Prop :=
  (∀ (s : State) (n : Nat), n < 64 → s.mayStep n = true →
      ∃ t due code, exec (.frequencyStep n) s = .next t ∧ (t.region n).clk.stepEnd = some (due, code) ∧
        (t.region n).clk.stepped = true ∧ t.fld (CLK_RGN_FREQ.STATE n) = 1 ∧
        t.fld (CLK_RGN_FREQ.CUR_CODE n) = s.fld (CLK_RGN_FREQ.CUR_CODE n) ∧
        code ≤ s.fld (CLK_RGN_FREQ.CUR_CODE n) + 8 ∧ s.fld (CLK_RGN_FREQ.CUR_CODE n) ≤ code + 8 ∧
        code ≠ s.fld (CLK_RGN_FREQ.CUR_CODE n) ∧ s.pick.windowAt + 112 ≤ due ∧ due ≤ s.pick.windowAt + 336 ∧
        t.now = max s.now (s.pick.windowAt + 16) ∧ OnlyClock n s t) ∧
  (∀ (s : State) (n due code : Nat), n < 64 → (s.region n).clk.stepEnd = some (due, code) → code < 256 →
      ∃ t, exec (.frequencyStepEnd n) s = .next t ∧ (t.region n).clk.stepEnd = none ∧ t.fld (CLK_RGN_FREQ.STATE n) = 0 ∧
        t.fld (CLK_RGN_FREQ.CUR_CODE n) = code ∧ t.now = max s.now due ∧ OnlyClock n s t) ∧
  (∀ (s : State) (n : Nat), n < 64 → s.mayStep n = false → exec (.frequencyStep n) s = .next s) ∧
  (∀ (s : State) (n : Nat), n < 64 → (s.region n).clk.stepEnd = none → exec (.frequencyStepEnd n) s = .next s)

/-- R76, R78: a monitor's firing makes its region stretch by that monitor's depth, from the first or the second cycle after it;
its clearing ends that; the other monitor of the region goes on as it was, and the deeper of the two counts. A region not in
use has no monitor. -/
def Obligations.MonitorsStretchTheRegion : Prop :=
  (∀ (s : State) (n d : Nat), n < 64 → 1 ≤ d → d ≤ 4 → s.regionOn n = true →
      (∃ t, exec (.monitorFire ⟨n, false⟩ d) s = .next t ∧ (t.region n).clk.droop = d ∧
        (t.region n).clk.path = (s.region n).clk.path ∧ OnlyClock n s t) ∧
      (∃ t, exec (.monitorFire ⟨n, true⟩ d) s = .next t ∧ (t.region n).clk.path = d ∧
        (t.region n).clk.droop = (s.region n).clk.droop ∧ OnlyClock n s t)) ∧
  (∀ (s : State) (n d : Nat), n < 64 → 1 ≤ d → d ≤ 4 → s.regionOn n = true →
      ((s.region n).clk.droop = 0 → ∃ t, exec (.monitorFire ⟨n, false⟩ d) s = .next t ∧ (t.region n).clk.droopSkip < 2) ∧
      ((s.region n).clk.path = 0 → ∃ t, exec (.monitorFire ⟨n, true⟩ d) s = .next t ∧ (t.region n).clk.pathSkip < 2)) ∧
  (∀ (s : State) (n : Nat), n < 64 →
      ((s.region n).clk.droop ≠ 0 → ∃ t, exec (.monitorClear ⟨n, false⟩) s = .next t ∧ (t.region n).clk.droop = 0 ∧
        (t.region n).clk.path = (s.region n).clk.path ∧ OnlyClock n s t) ∧
      ((s.region n).clk.path ≠ 0 → ∃ t, exec (.monitorClear ⟨n, true⟩) s = .next t ∧ (t.region n).clk.path = 0 ∧
        (t.region n).clk.droop = (s.region n).clk.droop ∧ OnlyClock n s t)) ∧
  (∀ (s : State) (n : Nat), n < 64 →
      ((s.region n).clk.droop = 0 → exec (.monitorClear ⟨n, false⟩) s = .next s) ∧
      ((s.region n).clk.path = 0 → exec (.monitorClear ⟨n, true⟩) s = .next s)) ∧
  (∀ (s : State) (n d : Nat) (path : Bool), n < 64 → 1 ≤ d → d ≤ 4 → s.regionOn n = false →
      exec (.monitorFire ⟨n, path⟩ d) s = .next s) ∧
  (∀ c : RegionClk, c.droopSkip = 0 → c.pathSkip = 0 → c.monitorDepth = max c.droop c.path)

/-- R86, R88, R89, R90: the loss of the reference raises REF_LOSS once and starts the holdover; its return clears REF_LOSS
and leaves LOSS_SEEN; at 10 ms of holdover the sequencer stops, EXPIRED is set and every clock in use is on the internal
oscillator. -/
def Obligations.ReferenceLossAndHoldover : Prop :=
  (∀ s : State, s.flag CLK_REF_STATUS.REF_LOSS = false →
      ∃ t data, exec .refLoss s = .next t ∧ t.flag CLK_REF_STATUS.REF_LOSS = true ∧ t.flag CLK_REF_STATUS.LOSS_SEEN = true ∧
        t.clk = { s.clk with holdSince := some s.now } ∧ t.holdTime = 0 ∧
        t.mgt.events = s.mgt.events ++ [(evRefLoss, s.pick.count, data)] ∧ t.pick = s.pick ∧ t.seq = s.seq ∧
        SameRegs s t [CLK_REF_STATUS, SEQ_TRACE_LOST] ∧ SameMemory s t) ∧
  (∀ s : State, s.flag CLK_REF_STATUS.REF_LOSS = true → s.mgt.stage ≠ 4 →
      ∃ t, exec .refLossClear s = .next t ∧ t.flag CLK_REF_STATUS.REF_LOSS = false ∧
        t.flag CLK_REF_STATUS.LOSS_SEEN = s.flag CLK_REF_STATUS.LOSS_SEEN ∧ t.holdTime = s.holdTime ∧
        SameRegs s t [CLK_REF_STATUS] ∧ { t with regs := s.regs, clk := s.clk } = s) ∧
  (∀ (s : State) (h : Nat), s.clk.holdSince = some h → s.clk.oscillator = false →
      ∃ t, exec .holdoverExpiry s = .next t ∧ t.flag CLK_REF_STATUS.EXPIRED = true ∧ t.clk.oscillator = true ∧
        h + 16000000 ≤ t.now ∧ (s.seq.state = .issuing → t.seq.state = .stoppedSlip) ∧
        (∀ n ∈ s.regionsOn, t.clockCode n = 64 ∧ t.fld (CLK_RGN_FREQ.STATE n) = 3 ∧ (t.region n).clk.stepEnd = none) ∧
        (s.part.joined.isSome = true → s.pick.quiet = false → t.pickState = 4) ∧ SameMemory s t) ∧
  (∀ s : State, s.flag CLK_REF_STATUS.REF_LOSS = true → exec .refLoss s = .next s) ∧
  (∀ s : State, s.flag CLK_REF_STATUS.REF_LOSS = false → exec .refLossClear s = .next s) ∧
  (∀ s : State, s.clk.holdSince = none → exec .holdoverExpiry s = .next s)

/-- R101, R106, R107: a word that meets no break, fault, wait or trap issues: it enters the queue of every region in use with
the next word number, the pc moves past it (a branch's delay slots apart), and no region's other state changes. A waiting
word issues the same way once its wait is over. -/
def Obligations.WordIssueFillsTheQueues : Prop :=
  (∀ s : State, s.MayIssue → ∃ t, exec (.wordIssue .good) s = .next t ∧ Issued s t) ∧
  (∀ s : State, s.MayIssue → s.seq.state = .waiting → ∃ t, exec (.issueWaitResume .good) s = .next t ∧ Issued s t) ∧
  (∀ (s : State) (e : Ecc), s.seq.state ≠ .waiting → exec (.issueWaitResume e) s = .next s) ∧
  (∀ (s : State) (e : Ecc), s.seq.open_ = false ∨ s.pick.inWindow = true → exec (.wordIssue e) s = .next s)

/-- R104, R144, R151, R51: at a tag break the sequencer stops as broken and issues nothing; at a decode fault it stops with
the least cause and its slot in SEQ_FAULT; while a region's queue is full it waits. -/
def Obligations.WhatKeepsAWordFromIssuing : Prop :=
  (∀ s : State, s.seq.state = .issuing → s.seq.open_ = true → s.pick.inWindow = false →
      s.tagBreak (s.wordAt s.seq.pc.toNat).hdr = true →
      exec (.wordIssue .good) s = .next { s with seq := { s.seq with state := .broken } }) ∧
  (∀ (s : State) (cause slot : Nat), s.seq.state = .issuing → s.seq.open_ = true → s.pick.inWindow = false →
      s.tagBreak (s.wordAt s.seq.pc.toNat).hdr = false → s.wordBad s.seq.pc.toNat (s.wordAt s.seq.pc.toNat).hdr = false →
      s.decodeFault (s.wordAt s.seq.pc.toNat) false = some (cause, slot) → s.fld SEQ_FAULT.CAUSE = 0 →
      ∃ t, exec (.wordIssue .good) s = .next t ∧ t.seq = { s.seq with state := .stoppedFault, open_ := false } ∧
        t.fld SEQ_FAULT.CAUSE = cause ∧ t.fld SEQ_FAULT.SLOT = slot ∧ t.fld SEQ_FAULT.REGION = 0x7F ∧
        SameRegs s t [SEQ_FAULT] ∧ { t with regs := s.regs, seq := s.seq } = s) ∧
  (∀ s : State, s.seq.state = .issuing → s.seq.open_ = true → s.pick.inWindow = false →
      s.tagBreak (s.wordAt s.seq.pc.toNat).hdr = false → s.wordBad s.seq.pc.toNat (s.wordAt s.seq.pc.toNat).hdr = false →
      s.decodeFault (s.wordAt s.seq.pc.toNat) false = none → s.queueFull = true →
      ∃ t, exec (.wordIssue .good) s = .next t ∧ t.seq.state = .waiting ∧ t.seq.issued = s.seq.issued ∧
        t.seq.pc = s.seq.pc ∧ { t with seq := s.seq, sync := s.sync } = s)

/-- R118, R119: the oldest summary whose word every region has retired arrives: its register takes the sum and its pending
count falls by one; the other registers hold what the words issued before left in them. -/
def Obligations.SummaryArrives : Prop :=
  (∀ (s : State) (y : Summary) (rest : List Summary) (d : Nat), s.seq.summaries = y :: rest → y.due = some d →
      ∃ t, exec .summaryArrival s = .next t ∧ t.now = max s.now d ∧ t.seq.summaries = rest ∧
        (y.dst ≠ 0 → t.xval y.dst = sumValue y.op y.fmt (64 * s.regionsOn.length)
          ((y.parts.mergeSort (fun a b => decide (a.1 ≤ b.1))).map (fun e => e.2))) ∧
        (∀ r, r ≠ y.dst → t.xval r = (s.landX (s.seq.issued + 1)).xval r) ∧ sget 0 t.seq.xPending y.dst = sget 0 s.seq.xPending y.dst - 1 ∧
        { t with now := s.now, seq := s.seq } = s) ∧
  (∀ s : State, s.seq.summaries = [] → exec .summaryArrival s = .next s)

/-- R50, R68, R523: a segment that every region has retired and that left nothing unfinished is complete: it becomes the last
complete one, and the next segment opens if its pick has begun; where the program was to stop after it, the sequencer is
idle, unless a cause that only a reset of D3 leaves has stopped it (R145). -/
def Obligations.SegmentCompletes : Prop :=
  (∀ (s : State) (l : Nat), s.pick.lastComplete = some l → s.programOn = true → s.segmentRetired (l + 1) = true →
      s.segmentResolved (l + 1) = true → s.seq.stopped = false → s.seq.yieldSeg = none →
      ∃ t, exec .segmentComplete s = .next t ∧ t.pick = { s.pick with lastComplete := some (l + 1) } ∧
        (s.seq.segment = some (l + 2) → l + 2 ≤ s.pickNo → s.pick.inWindow = false → t.seq.open_ = true) ∧
        { t with pick := s.pick, seq := s.seq } = s) ∧
  (∀ (s : State) (l : Nat), s.pick.lastComplete = some l → s.programOn = true → s.segmentRetired (l + 1) = true →
      s.segmentResolved (l + 1) = true → s.seq.stopped = true → s.seq.segment = some (l + 2) →
      ∃ t, exec .segmentComplete s = .next t ∧ t.pick = { s.pick with lastComplete := some (l + 1) } ∧
        (s.seq.state.lasting = false → t.seq.state = .idle ∧ t.seq.segment = none) ∧
        (s.seq.state.lasting = true → t.seq.state = s.seq.state) ∧ t.seq.stopped = false) ∧
  (∀ s : State, s.pick.lastComplete = none → exec .segmentComplete s = .next s)

/-- R41: no region executes a word in a background window, and the words in its queue stay there; a clock edge
only counts (R92); they are executed from the start of the span, which SPAN_START begins. -/
def Obligations.RegionsRestInTheWindow : Prop :=
  (∀ (s : State) (n : Nat) (upsets : List (Nat × Bool)), n < 64 → upsets.all (fun u => decide (u.1 < 524288)) = true →
      s.pick.inWindow = true →
      exec (.wordExecute n upsets) s = .next (s.edge n) ∧ exec (.regionWaitResume n) s = .next s ∧
        (s.edge n).region n = { s.region n with edges := ((s.edge n).region n).edges } ∧
        (∀ m, m ≠ n → (s.edge n).region m = s.region m) ∧ { s.edge n with regions := s.regions } = s) ∧
  (∀ s : State, s.pick.inWindow = true →
      ∃ t, exec .spanStart s = .next t ∧ t.pick.inWindow = false ∧
        ∀ n, (t.region n).queue = (s.region n).queue ∧ (t.region n).cycle = (s.region n).cycle)

/-- R51, R107, R144: in the span a region executes the word at the head of its queue: the word leaves the queue and the
region's cycle advances by one, while in every other region only what it may read of the crossings and their free slots
change (R92); where the word meets a wait the region waits and
keeps the word; where it meets a trap the sequencer stops and the region keeps the word. A waiting region goes on once
nothing makes it wait. -/
def Obligations.RegionExecutesOneWordPerCycle : Prop :=
  (∀ (s : State) (n : Nat) (q : QWord) (rest : List QWord), n < 64 → s.MayRun n q rest →
      ∃ t, exec (.wordExecute n []) s = .next t ∧ (t.region n).queue = rest ∧
        (t.region n).cycle = (s.region n).cycle + 1 ∧ (t.region n).waiting = false ∧
        (∀ m, m ≠ n → CrossOnly (s.region m) (t.region m)) ∧ t.pick = s.pick ∧ t.seq.issued = s.seq.issued ∧ t.seq.pc = s.seq.pc) ∧
  (∀ (s : State) (n : Nat) (q : QWord) (rest : List QWord), n < 64 → s.MayRun n q rest → (s.region n).waiting = true →
      ∃ t, exec (.regionWaitResume n) s = .next t ∧ (t.region n).queue = rest ∧
        (t.region n).cycle = (s.region n).cycle + 1 ∧ (t.region n).waiting = false ∧
        ∀ m, m ≠ n → CrossOnly (s.region m) (t.region m)) ∧
  (∀ (s : State) (n : Nat) (q : QWord) (rest : List QWord), n < 64 → (s.region n).queue = q :: rest →
      s.canRun n q ((s.region n).edges + 1) = true → ((s.edge n).waitsOf n (s.region n).cycle q).any = true →
      ∃ t, exec (.wordExecute n []) s = .next t ∧ (t.region n).waiting = true ∧
        (t.region n).queue = (s.region n).queue ∧ (t.region n).cycle = (s.region n).cycle ∧
        (∀ m, m ≠ n → t.region m = s.region m) ∧ SameRegs s t [RGN_XING_WAIT n, RGN_SPAD_WAIT n] ∧
        { t with regs := s.regs, regions := s.regions } = s) ∧
  (∀ (s : State) (n cause slot : Nat) (q : QWord) (rest : List QWord), n < 64 → (s.region n).queue = q :: rest →
      s.canRun n q ((s.region n).edges + 1) = true → ((s.edge n).waitsOf n (s.region n).cycle q).any = false →
      s.actingSlot ptbTagwait n = none → (s.edge n).regionTrap n (s.region n).cycle q = some (cause, slot) →
      s.seq.state = .issuing →
      ∃ t, exec (.wordExecute n []) s = .next t ∧ t.regions = (s.edge n).regions ∧ t.seq.state = .stoppedFault ∧
        (∀ w ∈ t.seq.execLimit, w ≤ q.num - 1) ∧ SameRegs s t [SEQ_FAULT] ∧
        { t with regs := s.regs, seq := s.seq } = s.edge n) ∧
  (∀ (s : State) (n : Nat), n < 64 → (s.region n).waiting = false → exec (.regionWaitResume n) s = .next s)

/-- R108, R172, R175: where a region would execute its next word, a lane write that is due lands in its register, and a
column sum that is due lands in its accumulator row, added to it where the stream accumulates; where the region would not,
nothing lands. -/
def Obligations.ResultsLandInTheirCycle : Prop :=
  (∀ (s : State) (n k i : Nat) (v : BitVec 32) (p : Pending), n < 64 → i < 64 → s.mayLand n = true →
      (s.region n).pending = [p] → p.due ≤ (s.region n).cycle → p.dest = .lane k → p.lanes = [(i, v)] →
      ∃ t, exec (.pipelineWriteback n) s = .next t ∧ sget 0 (t.region n).lanes (64 * k + i) = v ∧
        (∀ j, j ≠ 64 * k + i → sget 0 (t.region n).lanes j = sget 0 (s.region n).lanes j) ∧ (t.region n).pending = [] ∧
        (t.region n).mem = (s.region n).mem ∧ (t.region n).acc = (s.region n).acc ∧ (t.region n).cycle = (s.region n).cycle ∧
        (∀ m, m ≠ n → t.region m = s.region m) ∧ SameRegs s t [RGN_LANE_CONFLICT n] ∧
        { t with regs := s.regs, regions := s.regions } = s) ∧
  (∀ (s : State) (n r c m : Nat) (x : Stream) (y : List (BitVec 32)), n < 64 → s.mayLand n = true →
      (s.region n).pending = [] → (s.region n).sumsAt ≠ some (s.region n).cycle → s.gridPos n = some (r, c) →
      (s.rowsAt (s.accOffset c) (s.region n).cycle).filter (fun e => s.sumRow e.2 == r) = [(x, m)] →
      sget [] s.array.partials (arrKey x m s.gridRows c) = y → y.length = 128 →
      ∃ t, exec (.arrayRowResult n) s = .next t ∧
        (∀ i, i < 128 → sget 0 (t.region n).acc (128 * ((x.accRow + m / s.gridRows) % 4096) + i) =
          if x.accum then addFp32 (sget 0 (s.region n).acc (128 * ((x.accRow + m / s.gridRows) % 4096) + i)) (y.getD i 0)
          else y.getD i 0) ∧
        sget [] t.array.partials (arrKey x m s.gridRows c) = [] ∧ (t.region n).mem = (s.region n).mem ∧
        (t.region n).lanes = (s.region n).lanes ∧ (∀ k, k ≠ n → CrossOnly (s.region k) (t.region k)) ∧
        SameRegs s t [RGN_LANE_CONFLICT n] ∧
        { t with regs := s.regs, regions := s.regions, array := s.array } = s) ∧
  (∀ (s : State) (n : Nat), n < 64 → s.mayLand n = false →
      exec (.pipelineWriteback n) s = .next s ∧ exec (.arrayRowResult n) s = .next s)

/-- R137, R489, R491, R493: the oldest retire-side operation whose word every region has retired takes effect on its object, if
the object is of the operation's type, and on no other object; a release comes before a SEM_ACQUIRE of its
cycle, and finds the semaphore as it was before that; on an object of
another type an operation changes none and is counted. -/
def Obligations.RetiredOperationTakesEffect : Prop :=
  (∀ (s : State) (y : YPending) (op : Nat), s.seq.ypending.find? (fun y => y.due.isSome) = some y →
      (yField y.slot.bits).op = op → op = 0x10 ∨ op = 0x13 ∨ op = 0x14 ∨ op = 0x16 → s.weights.gates = none →
      (s.obj (yField y.slot.bits).obj).type = opType op →
      (∀ e ∈ s.sync.changes, e.obj = (yField y.slot.bits).obj → e.cycle = max s.now (y.due.getD 0) → ∀ c ∈ e.done, c.rank < 3) →
      ∃ t, exec .yRetireEffect s = .next t ∧ t.now = max s.now (y.due.getD 0) ∧
        t.obj (yField y.slot.bits).obj = ((s.obj (yField y.slot.bits).obj).apply op
          (if op = 0x10 then y.slot.xval else 0) (if op = 0x10 then 0 else (yField y.slot.bits).imm)).1 ∧
        (∀ k, k ≠ (yField y.slot.bits).obj → t.obj k = s.obj k) ∧ t.seq = { s.seq with ypending := s.seq.ypending.erase y } ∧
        SameRegs s t [SYN_STAT] ∧ { t with now := s.now, regs := s.regs, seq := s.seq, sync := s.sync } = s) ∧
  (∀ (s : State) (y : YPending) (n : Nat) (o : SyncObj) (rest : List ObjCycle),
      s.seq.ypending.find? (fun y => y.due.isSome) = some y →
      (yField y.slot.bits).op = 0x13 → (yField y.slot.bits).obj = n → (s.obj n).type = 2 →
      s.sync.changes = ⟨n, max s.now (y.due.getD 0), o, [⟨3, 0x12, 0, 0⟩]⟩ :: rest →
      ∃ t, exec .yRetireEffect s = .next t ∧ (∀ k, k ≠ n → t.obj k = s.obj k) ∧ t.obj n =
        { o with value := (if o.value.toNat < o.target.toNat then o.value + 1 else o.value) - 1 }) ∧
  (∀ (s : State) (y : YPending) (op : Nat), s.seq.ypending.find? (fun y => y.due.isSome) = some y →
      (yField y.slot.bits).op = op → op = 0x10 ∨ op = 0x13 ∨ op = 0x14 ∨ op = 0x16 → s.weights.gates = none →
      (s.obj (yField y.slot.bits).obj).type ≠ opType op →
      ∃ t, exec .yRetireEffect s = .next t ∧ t.flag SYN_EVT.TYPE = true ∧ (∀ k, t.obj k = s.obj k) ∧
        SameRegs s t [SYN_STAT, SYN_EVT]) ∧
  (∀ s : State, s.seq.ypending = [] → exec .yRetireEffect s = .next s)

/-- R228, R230, R234, R241: the access that takes a bank's free port is made: it leaves the list, a write puts its bytes and
fills a tagged line, a read empties a tagged line and changes no byte. A port that the region's own words claim delays the
access, counted once a region cycle; with no access to take the port nothing changes. -/
def Obligations.UnscheduledAccessTakesThePort : Prop :=
  (∀ (s : State) (n bank : Nat) (w : Bool) (e : Ecc) (u : Unsched) (b : List Byte), n < 64 → bank < 64 →
      s.pickUnsched n bank w Unsched.testsTag = some u → (s.region n).clk.stepEnd = none → s.portClaimed n bank w = false →
      u.kind = .write b → b.length = 64 →
      ∃ t, exec (.unscheduledAccess n bank w e) s = .next t ∧
        t = (({ s with unsched := s.unsched.erase u }).portTaken u bank w).makeUnsched u e ∧
        (t.region n).line u.line = b ∧ (s.tagged n u.line = true → (t.region n).tag u.line = tagFull) ∧
        (∀ a, a / 64 ≠ u.line → sget 0 (t.region n).mem a = sget 0 (s.region n).mem a) ∧
        (∀ m a, m ≠ n → sget 0 (t.region m).mem a = sget 0 (s.region m).mem a) ∧ t.hbm.mem = s.hbm.mem) ∧
  (∀ (s : State) (n bank : Nat) (w : Bool) (e : Ecc) (u : Unsched), n < 64 → bank < 64 →
      s.pickUnsched n bank w Unsched.testsTag = some u → (s.region n).clk.stepEnd = none → s.portClaimed n bank w = false →
      u.kind = .read →
      ∃ t, exec (.unscheduledAccess n bank w e) s = .next t ∧
        t = (({ s with unsched := s.unsched.erase u }).portTaken u bank w).makeUnsched u e ∧
        (u.testsTag = true → s.tagged n u.line = true → (t.region n).tag u.line = tagEmpty) ∧
        (u.testsTag = false → (t.region n).tags = (s.region n).tags) ∧ SameMemory s t) ∧
  (∀ (s : State) (n bank : Nat) (w : Bool) (e : Ecc) (u : Unsched), n < 64 → bank < 64 →
      s.pickUnsched n bank w Unsched.testsTag = some u → (s.region n).clk.stepEnd = none → u.kind ≠ .mark →
      s.portClaimed n bank w = true →
      ∃ t, exec (.unscheduledAccess n bank w e) s = .next t ∧ t.unsched = s.unsched ∧
        t.fld (RGN_SPAD_WAIT.UNSCHED_DELAY n) = (if (s.region n).delayAt = some (s.region n).cycle then
          s.fld (RGN_SPAD_WAIT.UNSCHED_DELAY n) else min (s.fld (RGN_SPAD_WAIT.UNSCHED_DELAY n) + 1) 0xFFFF) ∧
        (t.region n).delayAt = some (s.region n).cycle ∧ SameRegs s t [RGN_SPAD_WAIT n] ∧
        { t with regs := s.regs, regions := s.regions } = s ∧ SameMemory s t) ∧
  (∀ (s : State) (n bank : Nat) (w : Bool) (e : Ecc), n < 64 → bank < 64 →
      s.pickUnsched n bank w Unsched.testsTag = none → exec (.unscheduledAccess n bank w e) s = .next s)

/-- R42 to R44, R264, R265: in a window that has room, a pseudo-channel issues one of the refreshes it owes, and then, where no
walk and no access of the control firmware can start on it, scrubs one line: the scrub takes the window's only turn, counts a line it cannot correct, and changes no byte. -/
def Obligations.HbmRefreshAndScrub : Prop :=
  (∀ (s : State) (k c start owed : Nat), k < 16 → c < 32 → s.hbm.selfRefresh = false → s.pick.inWindow = true →
      start = max s.now (max (s.pch (pchNo k c)).busyUntil (s.pick.windowAt + 16)) →
      (s.pch (pchNo k c)).refreshes.getD (refreshesOf s.pickLen) = owed + 1 → s.fitsWindow start 96 0 = true →
      ∃ t, exec (.hbmRefresh k c) s = .next t ∧ t.now = start ∧
        t.pch (pchNo k c) = { s.pch (pchNo k c) with refreshes := some owed, busyUntil := start + 96 } ∧
        (∀ j, j ≠ pchNo k c → t.pch j = s.pch j) ∧ { t.hbm with pchs := s.hbm.pchs } = s.hbm ∧
        { t with now := s.now, hbm := s.hbm } = s) ∧
  (∀ (s : State) (k c : Nat), k < 16 → c < 32 → s.pick.inWindow = false → (s.pch (pchNo k c)).carried = 0 →
      exec (.hbmRefresh k c) s = .next s) ∧
  (∀ (s : State) (k c start : Nat) (e : Ecc), k < 16 → c < 32 → s.hbm.selfRefresh = false →
      (s.pch (pchNo k c)).scrubbed = false → (s.pch (pchNo k c)).refreshes = some 0 →
      (s.pch (pchNo k c)).scrubAt < 0x60000000 → start = max s.now (max (s.pch (pchNo k c)).busyUntil (s.pick.windowAt + 16)) →
      s.fitsWindow start 24 0 = true →
      (s.walkWants (pchNo k c) = false ∧ s.fwWants (pchNo k c) = false) ∨ s.pchSlot (pchNo k c) = none →
      ∃ t, exec (.hbmScrub k c e) s = .next t ∧ t.now = start ∧
        t.pch (pchNo k c) = { s.pch (pchNo k c) with
          scrubbed := true, scrubAt := ((s.pch (pchNo k c)).scrubAt + 64) % 0x60000000, busyUntil := start + 24 } ∧
        (∀ j, j ≠ pchNo k c → t.pch j = s.pch j) ∧ t.hbm.mem = s.hbm.mem ∧
        (e = .good → (s.hbmCheck (packHbm k c (s.pch (pchNo k c)).scrubAt) e).1 = false → t.regs = s.regs) ∧
        (e = .uncorrectable → t.fld (BME_STACK_ECC.SCRUB_UNCORR k) = min (s.fld (BME_STACK_ECC.SCRUB_UNCORR k) + 1) 0x7FFF) ∧
        SameRegs s t [BME_STACK_ECC k, BME_STACK_ECC_ADDR k] ∧
        { t with now := s.now, regs := s.regs, hbm := s.hbm, mgt := s.mgt } = s) ∧
  (∀ (s : State) (k c : Nat) (e : Ecc), k < 16 → c < 32 → (s.pch (pchNo k c)).scrubbed = true ∨
      ((s.walkWants (pchNo k c) = true ∨ s.fwWants (pchNo k c) = true) ∧ (s.pchSlot (pchNo k c)).isSome = true) →
      exec (.hbmScrub k c e) s = .next s)

/-- R260, R262 to R265: a run makes the oldest access of a pseudo-channel: a write puts its bytes and no other, a read changes
no byte. The zeroing of a stack clears its bytes and no other stack's; the sixteenth to end releases the domains. -/
def Obligations.HbmRunsAndZeroing : Prop :=
  (∀ (s : State) (k c start : Nat) (r : MemReq) (rest : List MemReq), k < 16 → c < 32 → s.hbm.selfRefresh = false →
      (s.pch (pchNo k c)).queue = r :: rest → start = max s.now (s.pch (pchNo k c)).busyUntil →
      s.runFits k c (start + 24) = true →
      ∃ t, exec (.hbmRun k c 1 []) s = .next t ∧
        t = ((s.at_ start).setPch (pchNo k c) { s.pch (pchNo k c) with queue := rest, busyUntil := start + 24 }).makeHbm r .good ∧
        (∀ b, r.write = some b → ∀ a, sget 0 t.hbm.mem a =
          if r.addr ≤ a then (b[a - r.addr]?).getD (sget 0 s.hbm.mem a) else sget 0 s.hbm.mem a) ∧
        (r.write = none → t.hbm.mem = s.hbm.mem) ∧ ∀ n a, sget 0 (t.region n).mem a = sget 0 (s.region n).mem a) ∧
  (∀ (s : State) (k c n : Nat) (errors : List (Nat × Bool)), k < 16 → c < 32 → 1 ≤ n → n ≤ 32 →
      (s.pch (pchNo k c)).queue = [] → exec (.hbmRun k c n errors) s = .next s) ∧
  (∀ (s : State) (k : Nat), k < 16 → k ∉ s.hbm.initDone → s.mgt.stage ≠ 4 ∨ s.hbm.initDone.length < 15 →
      ∃ t, exec (.hbmInitComplete k) s = .next t ∧
        (∀ a, sget 0 t.hbm.mem a = if hbmStack a = k then 0 else sget 0 s.hbm.mem a) ∧ k ∈ t.hbm.initDone ∧
        (∀ a ∈ t.hbm.badLines, hbmStack a ≠ k) ∧ t.hbm.pchs = s.hbm.pchs ∧ { t with hbm := s.hbm } = s) ∧
  (∀ (s : State) (k : Nat), k < 16 → k ∉ s.hbm.initDone → s.mgt.stage = 4 → s.hbm.initDone.length = 15 →
      s.flag CLK_REF_STATUS.REF_LOSS = false → s.power.trip = false →
      ∃ t, exec (.hbmInitComplete k) s = .next t ∧ t.mgt.stage = 5 ∧ t.mgt.holdD1 = false) ∧
  (∀ (s : State) (k : Nat), k < 16 → k ∈ s.hbm.initDone → exec (.hbmInitComplete k) s = .next s)

/-- R267, R270, R271: an access of a CXL port ends: a write is acknowledged, a read gets its data or its failure, unless an
earlier write to its line is still out; the access leaves the port's list and the 257th takes its turn. A port that goes down is
counted and fails every access; one that comes up tells its device's rate, width and capacity; one that is up may change its rate
and width. -/
def Obligations.CxlPortEndsItsAccesses : Prop :=
  (∀ (s : State) (p i : Nat) (r : MemReq) (b : List Byte), p < 8 → i < 256 → b.length = 64 →
      (s.cxlPort p).reads[i]? = some r → s.cxlBlocked p r = false →
      exec (.cxlCompletion p false i (.data b)) s =
        .next (((s.takeCxl p i false).cxlStore p r.addr b).readDone r.who (.data b)) ∧
      exec (.cxlCompletion p false i .failed) s =
        .next ((s.takeCxl p i false).readDone r.who (.failed causeCxlDown 0)) ∧
      (s.takeCxl p i false).cxlPort p = { s.cxlPort p with reads := (s.cxlPort p).reads.eraseIdx i }) ∧
  (∀ (s : State) (p i : Nat) (r : MemReq), p < 8 → i < 256 → (s.cxlPort p).writes[i]? = some r →
      exec (.cxlCompletion p true i .ack) s =
        .next (((s.takeCxl p i true).cxlStore p r.addr (r.write.getD [])).writeDone r.who true) ∧
      (s.takeCxl p i true).cxlPort p = { s.cxlPort p with writes := (s.cxlPort p).writes.eraseIdx i }) ∧
  (∀ (s : State) (p i : Nat) (r w : MemReq) (x : CxlResult), p < 8 → x.ok = true → (s.cxlPort p).reads[i]? = some r →
      w ∈ (s.cxlPort p).writes → w.serial < r.serial → w.addr / 64 = r.addr / 64 → exec (.cxlCompletion p false i x) s = .next s) ∧
  (∀ (s : State) (p : Nat), p < 8 → s.flag (CXL_PORT_STATUS.UP p) = true →
      ∃ u, exec (.cxlLinkDown p) s = .next (u.failCxl p) ∧ u.flag (CXL_PORT_STATUS.UP p) = false ∧
        u.fld (CXL_PORT_STATUS.RATE p) = 0 ∧ u.fld (CXL_PORT_STATUS.WIDTH p) = 0 ∧
        u.fld (CXL_PORT_ERR.LINK_DOWN p) = min (s.fld (CXL_PORT_ERR.LINK_DOWN p) + 1) 0xFFFF ∧
        SameRegs s u [CXL_PORT_STATUS p, CXL_PORT_ERR p] ∧ { u with regs := s.regs, mgt := s.mgt } = s ∧
        (s.cxlPort p = {} → (u.failCxl p).cxlPort p = {} ∧ { u.failCxl p with cxl := s.cxl } = u)) ∧
  (∀ (s : State) (p cap : Nat) (narrow slow : Bool), p < 8 → s.flag (CXL_PORT_STATUS.UP p) = false →
      s.feature featCxl = true → sget false s.power.perst p = true →
      ∃ t, exec (.cxlLinkUp p narrow slow cap true) s = .next t ∧ t.flag (CXL_PORT_STATUS.UP p) = true ∧
        t.fld (CXL_PORT_STATUS.CAPACITY p) = min (cap / 2097152) 1048576 ∧
        t.flag (CXL_PORT_STATUS.LIMIT p) = decide (2 ^ 41 < cap) ∧ t.fld (CXL_PORT_STATUS.RATE p) = (if slow then 2 else 1) ∧
        t.fld (CXL_PORT_STATUS.WIDTH p) = (if narrow then 2 else 1) ∧ t.flag (CXL_PORT_STATUS.RETAINED p) = true ∧
        SameRegs s t [CXL_PORT_STATUS p] ∧ { t with regs := s.regs } = s) ∧
  (∀ (s : State) (p cap : Nat) (narrow slow keep : Bool), p < 8 → s.flag (CXL_PORT_STATUS.UP p) = true →
      s.feature featCxl = true → sget false s.power.perst p = true →
      ∃ t, exec (.cxlLinkUp p narrow slow cap keep) s = .next t ∧ t.flag (CXL_PORT_STATUS.UP p) = true ∧
        t.fld (CXL_PORT_STATUS.RATE p) = (if slow then 2 else 1) ∧ t.fld (CXL_PORT_STATUS.WIDTH p) = (if narrow then 2 else 1) ∧
        t.fld (CXL_PORT_STATUS.CAPACITY p) = s.fld (CXL_PORT_STATUS.CAPACITY p) ∧
        SameRegs s t [CXL_PORT_STATUS p] ∧ { t with regs := s.regs } = s) ∧
  (∀ (s : State) (p cap : Nat) (narrow slow keep : Bool), p < 8 → s.feature featCxl = false →
      exec (.cxlLinkUp p narrow slow cap keep) s = .next s)

/-- R45, R277, R278: a walk reads the entry of its next level, and a leaf or a fault ends it; the access that waited for its
page then joins its pseudo-channel's queue, or faults as ABSENT. -/
def Obligations.WalksReadAndEnd : Prop :=
  (∀ (s : State) (w : Walk) (start : Nat),
      s.walkOrder.find? (fun w => (s.pchSlot (pchOf (s.walkRead w))).isSome) = some w →
      s.pchSlot (pchOf (s.walkRead w)) = some start → s.hbm.badLines = [] →
      ∃ t, exec (.pageWalkRead .good) s = .next t ∧ t.now = max s.now start ∧
        t.pch (pchOf (s.walkRead w)) = { s.pch (pchOf (s.walkRead w)) with busyUntil := start + 24 } ∧
        t.mmu = (s.setWalk (match s.walkEntry w.level w.va (BitVec.ofNat 64 (leNat (s.hbmBytes (s.walkRead w) 8))) with
          | .table a => { w with started := true, level := w.level + 1, table := a }
          | _ => { w with started := true
                          result := some (some (BitVec.ofNat 64 (leNat (s.hbmBytes (s.walkRead w) 8)))) })).mmu ∧
        t.pick = (if w.started then s.pick else { s.pick with walksStarted := s.pick.walksStarted + 1 }) ∧
        t.fld MMU_TC_STAT.MISSES =
          (if w.started then s.fld MMU_TC_STAT.MISSES else min (s.fld MMU_TC_STAT.MISSES + 1) 0xFFFF) ∧
        SameRegs s t [MMU_TC_STAT] ∧ { t.hbm with pchs := s.hbm.pchs } = s.hbm ∧
        { t with now := s.now, regs := s.regs, hbm := s.hbm, mmu := s.mmu, pick := s.pick } = s) ∧
  (∀ (s : State) (w : Walk) (l : Leaf) (x : WalkWait) (e : BitVec 64) (a : Nat),
      s.mmu.walks.find? (fun w => w.result.isSome) = some w → w.result = some (some e) →
      s.walkEntry w.level w.va e = .leaf l → s.mmu.waiting = [x] → l.covers (x.page * 65536) = true → l.covers x.va = true →
      x.write = none ∨ l.w = true → l.place x.va = .hbm a →
      ∃ t, exec .walkComplete s = .next t ∧ t.mmu.cache = l :: s.mmu.cache.take 16383 ∧ t.mmu.waiting = [] ∧
        t.mmu.walks = s.mmu.walks.filter (fun k => !l.covers (k.page * 65536)) ∧
        t.pch (pchOf a) = { s.pch (pchOf a) with
          queue := (s.pch (pchOf a)).queue ++
            [{ who := x.who, addr := a, write := x.write, page := some (x.va / 65536), stale := false, big := l.size == 2097152 }] } ∧
        (∀ n, n ≠ pchOf a → t.pch n = s.pch n) ∧ t.hbm.mem = s.hbm.mem ∧
        { t with mmu := s.mmu, hbm := s.hbm } = s) ∧
  (∀ (s : State) (w : Walk) (e : BitVec 64), s.mmu.walks.find? (fun w => w.result.isSome) = some w →
      w.result = some (some e) → s.walkEntry w.level w.va e = .absent → s.mmu.waiting = [] →
      ∃ t, exec .walkComplete s = .next t ∧ t.mmu.walks = s.mmu.walks.filter (fun k => k.page != w.page) ∧
        t.mmu.cache = s.mmu.cache ∧ { t with mmu := s.mmu } = s) ∧
  (∀ (s : State) (e : Ecc), s.mmu.walks = [] → exec (.pageWalkRead e) s = .next s ∧ exec .walkComplete s = .next s)

/-- R42 to R44: while the control cores run, the actions of the control firmware that wait, and the one that comes, are carried
out in their order in a window that has room: bytes go into a slice without its tags, or an aligned page-table entry where the
pseudo-channel is free, or the record at the head of the fault queue is taken. An action that cannot start keeps its place, and so
do those behind it, as they do behind one that has accesses left. -/
def Obligations.FirmwareActsInTheWindow : Prop :=
  (∀ (s t : State) (act : FwAction) (start : Nat), act.ok = true → s.controlUp = true → s.serve.fwWait = [] → s.serve.job = none →
      start = max s.now (s.pick.windowAt + 16) → s.fitsWindow start 24 0 = true → (s.at_ start).firmwareAct act = some t →
      exec (.firmwareWindowAccess act) s = .next { t with serve := { t.serve with fwWait := [] } }) ∧
  (∀ (s : State) (act : FwAction) (start : Nat), act.ok = true → s.controlUp = true → s.serve.fwWait = [] → s.serve.job = none →
      start = max s.now (s.pick.windowAt + 16) → s.fitsWindow start 24 0 = true → (s.at_ start).firmwareAct act = none →
      ∃ t, exec (.firmwareWindowAccess act) s = .next t ∧ t.serve.fwWait = [act] ∧
        { t with now := s.now, serve := s.serve } = s) ∧
  (∀ (s : State) (a b : FwAction) (start : Nat), b.ok = true → s.controlUp = true → s.serve.fwWait = [a] → s.serve.job = none →
      start = max s.now (s.pick.windowAt + 16) → s.fitsWindow start 24 0 = true → (s.at_ start).firmwareAct a = none →
      ∃ t, exec (.firmwareWindowAccess b) s = .next t ∧ t.serve.fwWait = [a, b] ∧
        { t with now := s.now, serve := s.serve } = s) ∧
  (∀ (s u : State) (act : FwAction) (start : Nat) (j : FwJob), act.ok = true → s.controlUp = true → s.serve.job = some j →
      start = max s.now (s.pick.windowAt + 16) → s.fitsWindow start 24 0 = true → (s.at_ start).fwGoOn j.act j.left = u →
      u.serve.job.isSome = true →
      exec (.firmwareWindowAccess act) s = .next { u with serve := { u.serve with fwWait := s.serve.fwWait ++ [act] } }) ∧
  (∀ (s : State) (act : FwAction), act.ok = true → s.controlUp = true →
      s.fitsWindow (max s.now (s.pick.windowAt + 16)) 24 0 = false →
      exec (.firmwareWindowAccess act) s = .next { s with serve := { s.serve with fwWait := s.serve.fwWait ++ [act] } }) ∧
  (∀ (s : State) (act : FwAction), act.ok = true → s.controlUp = false →
      exec (.firmwareWindowAccess act) s = .next s) ∧
  (∀ (s : State) (v n a start : Nat) (b : List Byte), (FwAction.writeSlice v a b).ok = true → s.controlUp = true →
      s.serve.fwWait = [] → s.serve.job = none → start = max s.now (s.pick.windowAt + 16) → s.fitsWindow start 24 0 = true →
      s.fitsWindow start (24 * ((linesTouched a b.length + 63) / 64)) 0 = true → s.physOf v = some n →
      (s.region n).clk.stepEnd = none → (∀ k, sget 0 (s.region n).fwPorts k ≤ start) →
      ∃ t, exec (.firmwareWindowAccess (.writeSlice v a b)) s = .next t ∧ t.now = start ∧
        (∀ j, sget 0 (t.region n).mem j =
          if a ≤ j then (b[j - a]?).getD (sget 0 (s.region n).mem j) else sget 0 (s.region n).mem j) ∧
        (t.region n).tags = (s.region n).tags ∧ (∀ m, m ≠ n → t.region m = s.region m) ∧
        { t with now := s.now, regions := s.regions } = s) ∧
  (∀ (s : State) (a start st : Nat) (e : BitVec 64), (FwAction.writeEntry a e).ok = true → s.controlUp = true →
      s.serve.fwWait = [] → s.serve.job = none → start = max s.now (s.pick.windowAt + 16) → s.fitsWindow start 24 0 = true →
      s.entryFree a = true → s.walkWants (pchOf (a / 64 * 64)) = false →
      (s.at_ start).pchSlot (pchOf (a / 64 * 64)) = some st →
      ∃ t, exec (.firmwareWindowAccess (.writeEntry a e)) s = .next t ∧ t.now = max start st ∧
        (t.pch (pchOf (a / 64 * 64))).busyUntil = st + 24 ∧
        (∀ j, sget 0 t.hbm.mem j = if a ≤ j then ((leBytes 8 e.toNat)[j - a]?).getD (sget 0 s.hbm.mem j)
          else sget 0 s.hbm.mem j) ∧ { t with now := s.now, hbm := s.hbm } = s) ∧
  (∀ (s : State) (start : Nat) (r : List Reg32) (rest : List (List Reg32)), s.controlUp = true → s.serve.fwWait = [] → s.serve.job = none →
      start = max s.now (s.pick.windowAt + 16) → s.fitsWindow start 24 0 = true → s.faultQ = r :: rest →
      ∃ t, exec (.firmwareWindowAccess .faultRecord) s = .next t ∧ t.faultQ = rest ∧ SameMemory s t ∧ t.regs = s.regs ∧
        (recAbort r = true → { t with now := s.now, faultQ := s.faultQ } = s) ∧
        (recAbort r = false → recCause r = causeAbsent →
          recAddr r / 65536 ∈ t.mmu.asked ∧ t.serve.stepPages = s.serve.stepPages ++ [recAddr r]))

/-- R365, R370 to R373, R376, R377, R382, R386, R387: a stage of training that ends takes the port to the next state; training
through LOCK chooses the lanes that pass and starts the measurement, sixteen echoes end MEASURE, IDENTIFY records the partner and
accepts or refuses it; a retrain locks again on lanes that were not dropped and that the partner's mask names, measures the delay,
and then goes back, or trains anew where no lanes are left. -/
def Obligations.TrainingAdvances : Prop :=
  (∀ (s : State) (p : Nat) (tests : List LaneTest) (b : Partner), p < 24 → tests.length = 8 → s.lnkState p = lnkDown →
      s.flag (LNK_CTRL.EN p) = true → (s.port p).held = none → s.mgt.holdD1 = false →
      ∃ t, exec (.trainingStageComplete p tests b) s = .next t ∧ t.lnkState p = lnkDetect ∧ OnlyPort p s t) ∧
  (∀ (s : State) (p : Nat) (tests : List LaneTest) (b : Partner), p < 24 → tests.length = 8 → s.lnkState p = lnkDetect →
      ∃ t, exec (.trainingStageComplete p tests b) s = .next t ∧ Equalising p s t) ∧
  (∀ (s : State) (p : Nat) (tests : List LaneTest) (b : Partner), p < 24 → tests.length = 8 → s.lnkState p = lnkEqualise →
      ∃ t, exec (.trainingStageComplete p tests b) s = .next t ∧ t.lnkState p = lnkLock ∧ OnlyPort p s t) ∧
  (∀ (s : State) (p k : Nat) (tests : List LaneTest) (b : Partner), p < 24 → tests.length = 8 → s.lnkState p = lnkLock →
      chooseLanes (passingOf tests &&& (255 - s.fld (LNK_CTRL.LANE_DIS p))) = k →
      ∃ t, exec (.trainingStageComplete p tests b) s = .next t ∧ OnlyPort p s t ∧
        t.fld (LNK_STATUS.FAILED p) = 255 - passingOf tests ∧
        (k = 0 → t.lnkState p = lnkLock) ∧
        (k ≠ 0 → t.lnkState p = lnkMeasure ∧ t.fld (LNK_STATUS.LANES p) = k ∧ (b.delef = false → (t.port p).measured = 0 ∧
          (t.port p).control = (s.port p).control ++ (List.range 16).map ctlMeasure) ∧
          (b.delef = true → (t.port p).control = (s.port p).control))) ∧
  (∀ (s : State) (p : Nat) (tests : List LaneTest) (b : Partner), p < 24 → tests.length = 8 → s.lnkState p = lnkMeasure →
      b.delef = true ∨ 16 ≤ (s.port p).measured →
      ∃ t, exec (.trainingStageComplete p tests b) s = .next t ∧ t.lnkState p = lnkIdentify ∧ OnlyPort p s t) ∧
  (∀ (s : State) (p : Nat) (tests : List LaneTest) (b : Partner), p < 24 → tests.length = 8 → s.lnkState p = lnkMeasure →
      b.delef = false → (s.port p).measured < 16 → exec (.trainingStageComplete p tests b) s = .next s) ∧
  (∀ (s : State) (p : Nat) (tests : List LaneTest) (b : Partner), p < 24 → tests.length = 8 → s.lnkState p = lnkIdentify →
      s.obs.rehearse = none →
      ∃ t, exec (.trainingStageComplete p tests b) s = .next t ∧ OnlyPort p s t ∧
        t.fld (LNK_PARTNER_LO.ID_LO p) + 4294967296 * t.fld (LNK_PARTNER_HI.ID_HI p) = b.identity.toNat ∧
        t.fld (LNK_DELAY.PARTNER_DEV p) = b.device.toNat ∧
        (s.partnerBad b = false → t.lnkState p = lnkActive ∧ t.flag (LNK_STATUS.COMPAT p) = b.delef ∧
          t.flag (LNK_STATUS.SPILL p) = (s.feature featSpill && !b.delef) ∧ (t.port p).partner = b.port.toNat) ∧
        (s.partnerBad b = true → t.lnkState p = lnkDetect ∧ t.flag (LNK_EVT.PARTNER_BAD p) = true)) ∧
  (∀ (s : State) (p : Nat) (tests : List LaneTest) (b : Partner), p < 24 → tests.length = 8 → s.lnkState p = lnkSwitch →
      ∃ t, exec (.trainingStageComplete p tests b) s = .next t ∧ t.lnkState p = lnkActive ∧
        t.flag (LNK_EVT.SWITCH p) = true ∧ OnlyPort p s t) ∧
  (∀ (s : State) (p k : Nat) (tests : List LaneTest), p < 24 → tests.length = 8 → s.lnkState p = lnkRetrain →
      (s.port p).relocked = false →
      chooseLanes (passingOf tests &&& (255 - s.fld (LNK_STATUS.FAILED p)) &&& (255 - s.fld (LNK_CTRL.LANE_DIS p)) &&&
        (s.port p).leadLanes.toNat) = k →
      ∃ t, exec (.retrainComplete p tests) s = .next t ∧ OnlyPort p s t ∧
        (k = 0 → Equalising p s t) ∧
        (k ≠ 0 → t.lnkState p = lnkRetrain ∧ (t.port p).relocked = true ∧ t.fld (LNK_STATUS.LANES p) = k ∧
          (t.port p).replay = (s.port p).replay ∧ (s.compat p = false → (t.port p).measured = 0 ∧
            (t.port p).control = (s.port p).control ++ (List.range 16).map ctlMeasure) ∧
          (s.compat p = true → (t.port p).measured = 16))) ∧
  (∀ (s : State) (p : Nat) (tests : List LaneTest), p < 24 → tests.length = 8 → s.lnkState p = lnkRetrain →
      (s.port p).relocked = true → 16 ≤ (s.port p).measured →
      ∃ t, exec (.retrainComplete p tests) s = .next t ∧ OnlyPort p s t ∧ t.lnkState p = lnkActive ∧
        (t.port p).replay = (s.port p).replay ∧ (t.port p).asked = false ∧ t.fld (LNK_REPLAY.GO_BACKS p) =
          (if (s.port p).replay = [] then s.fld (LNK_REPLAY.GO_BACKS p) else min (s.fld (LNK_REPLAY.GO_BACKS p) + 1) 0xFF)) ∧
  (∀ (s : State) (p : Nat) (tests : List LaneTest), p < 24 → tests.length = 8 → s.lnkState p ≠ lnkRetrain ∨
      ((s.port p).relocked = true ∧ (s.port p).measured < 16) → exec (.retrainComplete p tests) s = .next s)

/-- R366, R367, R369, R384, R402: a cell routed to a port joins its egress queue while that has room and no cell of its class
waits in the ring, then its ring, whose slot is written to HBM as two lines, and is else dropped and counted; room in the queue has
cells read back from the ring's head, and one whose lines have both come joins the queue. -/
def Obligations.CellsJoinTheEgress : Prop :=
  (∀ (s : State) (p : Nat) (c : Cell), p < 24 → c.ok = true → 2 ≤ c.kind → c.kind ≤ 4 → s.actingSlot ptbCelldly p = none →
      (s.port p).queue.length < 4096 → (s.port p).ring = [] →
      ∃ t, exec (.egressEnqueue p c) s = .next t ∧
        (t.port p).queue = (s.port p).queue ++ [⟨egressClass c, c, none, s.now, none, c.kind == 2⟩] ∧ (t.port p).ring = [] ∧
        t.fld (LNK_SPILL.BACKLOG p) = (s.port p).queue.length + 1 ∧ OnlyPort p s t) ∧
  (∀ (s : State) (p a : Nat) (c : Cell), p < 24 → c.ok = true → 2 ≤ c.kind → c.kind ≤ 4 → s.actingSlot ptbCelldly p = none →
      4096 ≤ (s.port p).queue.length → s.ringOpen p = true → (s.port p).ring.length < 491520 →
      a = spillAddr p (s.port p).freeSlot →
      ∃ t, exec (.egressEnqueue p c) s = .next t ∧ (t.port p).queue = (s.port p).queue ∧
        (t.port p).ring = (s.port p).ring ++
          [{ slot := (s.port p).freeSlot, cell := ⟨egressClass c, c, none, s.now, none, c.kind == 2⟩ }] ∧
        t.pch (pchOf a) = { s.pch (pchOf a) with queue := (s.pch (pchOf a)).queue ++
          [{ who := .spill p (s.port p).freeSlot 0, addr := a, write := some ((slotBytes c 0).take 64), page := none, stale := false },
            { who := .spill p (s.port p).freeSlot 1, addr := a + 64, write := some ((slotBytes c 0).drop 64), page := none,
              stale := false }] } ∧
        (∀ n, n ≠ pchOf a → t.pch n = s.pch n) ∧ { t.hbm with pchs := s.hbm.pchs } = s.hbm ∧
        OnlyPort p s { t with hbm := s.hbm }) ∧
  (∀ (s : State) (p : Nat) (c : Cell), p < 24 → c.ok = true → c.kind = 3 ∨ c.kind = 4 → s.actingSlot ptbCelldly p = none →
      4096 ≤ (s.port p).queue.length → s.ringOpen p = false →
      ∃ t, exec (.egressEnqueue p c) s = .next t ∧
        t.fld (LNK_SPILL_DROP.DROPS p) = min (s.fld (LNK_SPILL_DROP.DROPS p) + 1) 0xFFFFFFFF ∧
        t.flag (LNK_EVT.SPILL_DROP p) = true ∧ SameRegs s t [LNK_SPILL_DROP p, LNK_EVT p] ∧ { t with regs := s.regs } = s) ∧
  (∀ (s : State) (p room : Nat), p < 24 → s.spillHeld = false → (∀ r ∈ (s.port p).ring, r.reading = false) →
      ((s.port p).ring.map (fun r => r.slot)).Nodup → (s.port p).ring ≠ [] → (s.port p).queue.length + room = 4096 → room ≠ 0 →
      ∃ t, exec (.egressRefill p) s = .next t ∧ { t.hbm with pchs := s.hbm.pchs } = s.hbm ∧
        OnlyPort p s { t with hbm := s.hbm } ∧ (t.port p).queue = (s.port p).queue ∧
        (t.port p).ring = ((s.port p).ring.take room).map (fun r => { r with reading := true }) ++ (s.port p).ring.drop room ∧
        ∀ n, (t.pch n).queue = (s.pch n).queue ++ (((s.port p).ring.take room).filter
            (fun r => pchOf (spillAddr p r.slot) == n)).flatMap (fun r => [0, 1].map (fun l =>
          { who := .spill p r.slot l, addr := spillAddr p r.slot + 64 * l, write := none, page := none, stale := false }))) ∧
  (∀ (s : State) (p : Nat), p < 24 → s.spillHeld = true ∨ (s.port p).ring = [] ∨ 4096 ≤ (s.port p).queue.length →
      exec (.egressRefill p) s = .next s) ∧
  (∀ (s : State) (p : Nat) (r : RingCell) (rest : List RingCell) (a b : List Byte), p < 24 → 32768 ≤ r.slot →
      (s.port p).ring = r :: rest → r.reading = true → r.got = [(0, some a)] → rest.all (fun f => f.got.isEmpty) = true →
      (∀ f ∈ rest, f.slot ≠ r.slot) →
      ((s.spillRead p r.slot 1 (some b)).port p).queue = (s.port p).queue ++ [{ r.cell with cell := cellOf (a ++ b) }] ∧
        ((s.spillRead p r.slot 1 (some b)).port p).ring = rest ∧ OnlyPort p s (s.spillRead p r.slot 1 (some b)))

/-- R347, R350, R351, R354, R356, R358, R375: the symbols of the lanes give a codeword; one that the code cannot correct is counted
and discarded; one without errors gives its three cells to the receiver, which counts a cell whose CRC is wrong and takes the next
cell in order. A port with nothing to send sends three idle cells with its next number and its acknowledgement, as symbols of its
lanes. -/
def Obligations.CodewordsCarryCells : Prop :=
  (∀ (s : State) (p : Nat) (w : List (List Pam4)), p < 24 → lanesOk w = true → s.takesCodewords p = true →
      s.actingSlot ptbReplay p = none → rsErrors (s.takeLanes p w).1 = none → (s.port p).badRun < 3 →
      ∃ t, exec (.codewordReceive p w) s = .next t ∧ t.fld (LNK_ERR.UNCORR p) = min (s.fld (LNK_ERR.UNCORR p) + 1) 0xFFFF ∧
        t.port p = { (s.takeLanes p w).2.port p with badRun := (s.port p).badRun + 1 } ∧ SameRegs s t [LNK_ERR p] ∧
        OnlyPort p s t) ∧
  (∀ (s : State) (p : Nat) (w : List (List Pam4)) (b : List Byte), p < 24 → lanesOk w = true → s.takesCodewords p = true →
      s.actingSlot ptbReplay p = none → (s.takeLanes p w).1 = b → rsErrors b = some [] →
      exec (.codewordReceive p w) s = .next (((((s.takeLanes p w).2.setPort p { (s.takeLanes p w).2.port p with badRun := 0 }).receiveCell
        p (bytesAt b 0 80)).receiveCell p (bytesAt b 80 80)).receiveCell p (bytesAt b 160 80))) ∧
  (∀ (s : State) (p : Nat) (w : List (List Pam4)), p < 24 →
      (s.takeLanes p w).1 = (fromLanes (lanesOf (s.fld (LNK_STATUS.LANES p))) (s.port p).scramRx w).1 ∧
        OnlyPort p s (s.takeLanes p w).2 ∧ { (s.takeLanes p w).2.port p with scramRx := (s.port p).scramRx } = s.port p) ∧
  (∀ (s : State) (p : Nat) (b : List Byte), p < 24 → leAt b 72 4 ≠ (crc32c (b.take 72 ++ bytesAt b 76 4)).toNat →
      s.receiveCell p b = s.count (LNK_ERR.CRC p)) ∧
  (∀ (s : State) (p n : Nat) (b : List Byte), p < 24 → leAt b 72 4 = (crc32c (b.take 72 ++ bytesAt b 76 4)).toNat →
      2 ≤ (cellOf b).kind → (cellOf b).kind ≤ 4 → (cellOf b).noseq = false → leAt b 76 2 = n → (s.port p).rxNext = n →
      (s.port p).rxMarks = [] →
      ((s.receiveCell p b).port p).ingress = (s.port p).ingress ++ [cellOf b] ∧
        ((s.receiveCell p b).port p).rxNext = (n + 1) % 65536 ∧ OnlyPort p s (s.receiveCell p b)) ∧
  (∀ (s : State) (p ack : Nat), p < 24 → s.lnkUp p = true → (s.port p).tick = none → (s.port p).control = [] →
      (s.port p).resend = [] → (s.port p).queue = [] → (s.port p).ring = [] →
      ack = (if s.compat p then (s.port p).ackSent else (s.port p).rxNext) →
      ∃ t, exec (.codewordSend p) s = .next t ∧ t.outbox = s.outbox ++ [.codeword p (toLanes
          (lanesOf (s.fld (LNK_STATUS.LANES p))) (s.port p).scramTx (rsEncode
          (linkCell idleCell (s.port p).txNext ack ++ linkCell idleCell (s.port p).txNext ack ++
            linkCell idleCell (s.port p).txNext ack))).1] ∧
        (t.port p).txNext = (s.port p).txNext ∧ (t.port p).slot = s.nextSlot p + 3 * s.slotStep p ∧
        (t.port p).codewords = ((s.port p).codewords + 1) % 4294967296 ∧ OnlyPort p s t) ∧
  (∀ (s : State) (p : Nat) (w : List (List Pam4)), p < 24 → lanesOk w = true → s.takesCodewords p = false →
      exec (.codewordSend p) s = .next s ∧ exec (.codewordReceive p w) s = .next s)

/-- R134, R290, R291, R293 to R295, R299 to R305: a command of a region enters its stack's queue if that has room and the
same word's LD slot has no command ahead of it; the command at
the head starts when its operation comes and it may, and runs for its latency; when it ends its result lines go to the
slice. No stack starts a command of another operation. -/
def Obligations.BesideMemoryCommands : Prop :=
  (∀ (s : State) (k n : Nat) (c : BmeCmd), k < 16 → n < 64 → s.bmeWay.find? (fun c => c.stack == k && c.region == n) = some c →
      (s.stack k).queue.length < 64 → s.bmeAhead c = false → s.fenced 2 = false →
      ∃ t, exec (.bmeCommandEnqueue k n) s = .next t ∧ t.stack k = { s.stack k with queue := (s.stack k).queue ++ [c] } ∧
        t.bmeWay = s.bmeWay.erase c ∧ (∀ j, j ≠ k → t.stack j = s.stack j) ∧
        { t with bmeWay := s.bmeWay, hbmStacks := s.hbmStacks } = s) ∧
  (∀ (s : State) (k n : Nat), k < 16 → n < 64 → s.bmeWay.find? (fun c => c.stack == k && c.region == n) = none ∨
      64 ≤ (s.stack k).queue.length → exec (.bmeCommandEnqueue k n) s = .next s) ∧
  (∀ (s : State) (k n : Nat) (c d : BmeCmd), k < 16 → n < 64 → s.bmeWay.find? (fun c => c.stack == k && c.region == n) = some c →
      d ∈ s.bmeWay → d.stack = k → c.stack = k → d.word = c.word → c.ahead = some d.region →
      exec (.bmeCommandEnqueue k n) s = .next s) ∧
  (∀ (s : State) (k at_ planned : Nat) (e : Ecc) (c : BmeCmd) (rest : List BmeCmd) (i : Instr), k < 16 →
      (s.stack k).queue = c :: rest → c.stack = k → s.bmeStart c = some (at_, planned) → s.bmeFault c = none →
      (c.op = 1 ∧ i = .opnd k) ∨ (c.op = 2 ∧ i = .gemv k e) ∨ (c.op = 3 ∧ i = .deq k e) ∨ (c.op = 4 ∧ i = .attn k e) →
      ∃ t r, exec i s = .next t ∧ t.now = max s.now at_ ∧ (t.stack k).queue = rest ∧
        (t.stack k).running = (s.stack k).running ++ [r] ∧ r.cmd = c ∧ r.ended = false ∧ r.endAt = t.now + c.latency ∧
        r.planned = planned + c.latency ∧ r.results.map (fun x => x.1) <+: c.dstLines ∧
        (t.stack k).lastStart = some t.now ∧
        t.fld (BME_Q_STAT.STARTED k) = min (s.fld (BME_Q_STAT.STARTED k) + 1) 0xFFFF ∧ t.hbm.mem = s.hbm.mem ∧
        (∀ j, j ≠ k → t.stack j = s.stack j) ∧
        { t with now := s.now, regs := s.regs, hbm := s.hbm, hbmStacks := s.hbmStacks, unsched := s.unsched
                 smu := s.smu, mgt := s.mgt } = s) ∧
  (∀ (s : State) (k : Nat) (e : Ecc) (c : BmeCmd) (rest : List BmeCmd), k < 16 → (s.stack k).queue = c :: rest → c.op = 2 →
      exec (.opnd k) s = .next s ∧ exec (.deq k e) s = .next s ∧ exec (.attn k e) s = .next s) ∧
  (∀ (s : State) (k n : Nat) (r : BmeRun), k < 16 → (s.stack k).running.find? (fun r => r.serial == n) = some r →
      r.ended = false → r.paused = none → r.reads = [] → r.discard = false → r.results ≠ [] →
      ∃ t, exec (.bmeCommandEnd k n) s = .next t ∧ t.now = max s.now r.endAt ∧
        t.unsched = s.unsched ++ r.results.map (fun x =>
          (⟨r.cmd.region, x.1, false, .bme r.cmd.stack n x.1, match x.2 with | some b => .write b | none => .mark⟩ : Unsched)) ∧
        (t.stack k).running = (s.stack k).running.map (fun u => if u.serial = n then
          { r with ended := true, results := [], left := r.results.map (fun x => x.1) } else u) ∧
        SameRegs s t [BME_LATE k, SEQ_TRACE_LOST] ∧ SameMemory s t) ∧
  (∀ (s : State) (k n : Nat), k < 16 → (s.stack k).running.find? (fun r => r.serial == n) = none →
      exec (.bmeCommandEnd k n) s = .next s)

/-- R81, R228, R319, R321, R322, R324, R325, R329, R333: a transfer that starts asks for its source line; a line that has arrived
goes to its destination, or aborts a transfer that may not fault; a read that is late fails its line; a transfer with every
line resolved leaves its shuttle and adds 1 to the shuttle's counter. -/
def Obligations.ShuttleTransfers : Prop :=
  (∀ (s : State) (k : Nat) (t : Transfer), k < 88 → s.fenced 3 = false → s.shuttleStopped k = false →
      (s.shuttle k).transfers = [t] → s.ldComes t.ahead t.word = false →
      t.started = false → t.total = 1 → t.next = 0 → t.lines = [] → t.srcDesc.space = 1 → t.srcDesc.idxFmt = 0 →
      t.dstDesc.idxFmt = 0 → t.srcDesc.inSpace (t.srcDesc.addr 0 0) = true → t.dstDesc.inSpace (t.dstDesc.addr 0 0) = true →
      ∃ u, exec (.transferStart k) s = .next u ∧
        u.unsched = s.unsched ++ [⟨s.descRegion t t.srcDesc, (t.srcDesc.addr 0 0).toNat / 64,
          decide (k < 64) && s.descRegion t t.srcDesc == k && s.descRegion t t.srcDesc == t.region,
          .shuttleRead k t.serial 0, .read⟩] ∧
        (u.shuttle k).transfers = [{ t with
          started := true, next := 1, srcIdx := none, dstIdx := none
          lines := [(0, some { dst := t.dstDesc.goal 0 0 (t.dstDesc.addr 0 0), state := .reading s.now })] }] ∧
        (∀ j, j ≠ k → u.shuttle j = s.shuttle j) ∧ { u with unsched := s.unsched, shuttles := s.shuttles } = s) ∧
  (∀ (s : State) (k : Nat), k < 88 → s.fenced 3 = true ∨ s.shuttleStopped k = true ∨ (s.shuttle k).transfers = [] →
      exec (.transferStart k) s = .next s) ∧
  (∀ (s : State) (k n a : Nat) (t : Transfer) (l : LineInfo) (b : List Byte), k < 88 →
      (s.shuttle k).arrived n = some (t, l, .data b) → l.dst = some a → t.dstDesc.space = 1 → s.earlierWrite k t n a = false →
      s.shuttleStopped k = false →
      (∀ u ∈ (s.shuttle k).transfers, u.total ≤ u.next) →
      ∃ u, exec (.sourceLineArrival k n) s = .next u ∧
        u.unsched = s.unsched ++ [⟨s.descRegion t t.dstDesc, a / 64,
          decide (k < 64) && s.descRegion t t.dstDesc == k && s.descRegion t t.dstDesc == t.region,
          .shuttleWrite k t.serial n, .write b⟩] ∧
        (u.shuttle k).transfers = (s.shuttle k).transfers.map (fun v =>
          if v.serial = t.serial then t.setLine n (some { l with state := .writing }) else v) ∧
        { u with unsched := s.unsched, shuttles := s.shuttles } = s) ∧
  (∀ (s : State) (k n cause status : Nat) (t : Transfer) (l : LineInfo), k < 88 →
      (s.shuttle k).arrived n = some (t, l, .failed cause status) → l.dst = none → cause ≠ 0 → t.mayFault = false →
      s.faultQ.length < 512 → s.shuttleStopped k = false → (∀ u ∈ (s.shuttle k).transfers, u.total ≤ u.next) →
      ∃ u, exec (.sourceLineArrival k n) s = .next u ∧ u.flag SHT_EVT.ABORT = true ∧ u.serve.abortDue = true ∧
        u.faultQ = s.faultQ ++ [faultRecord t k (s.sideAddr t n false).1 (t.srcDesc.elementOf n) (s.sideAddr t n false).2
          cause status false true false] ∧ SameMemory s u) ∧
  (∀ (s : State) (k n : Nat), k < 88 → (s.shuttle k).arrived n = none ∨ s.shuttleStopped k = true →
      exec (.sourceLineArrival k n) s = .next s) ∧
  (∀ (s : State) (k n since : Nat) (t : Transfer) (rest : List Transfer) (l : LineInfo), k < 88 →
      (s.shuttle k).transfers = t :: rest → t.srcDesc.space ≠ 3 → t.line n = some l → l.state = .reading since →
      ∃ u, exec (.fetchTimeout k n) s = .next u ∧ u.now = max s.now (since + s.fld SHT_CTRL.FETCH_TIMEOUT * 1024) ∧
        u.flag SHT_EVT.TIMEOUT = true ∧ (u.shuttle k).late = (t.serial, n) :: (s.shuttle k).late ∧
        (u.shuttle k).transfers.head? = some (t.setLine n (some { l with state := .arrived (.failed causeTimeout 0) })) ∧
        SameRegs s u [SHT_EVT] ∧ { u with now := s.now, regs := s.regs, shuttles := s.shuttles } = s) ∧
  (∀ (s : State) (k n : Nat), k < 88 → (s.shuttle k).transfers = [] → exec (.fetchTimeout k n) s = .next s) ∧
  (∀ (s : State) (k o : Nat) (t : Transfer) (rest : List Transfer), k < 88 → (s.shuttle k).transfers = t :: rest →
      t.done = true → s.shuttleCounter k = some o → (s.obj o).type = 1 →
      ∃ u, exec (.transferComplete k) s = .next u ∧ (u.shuttle k).transfers = rest ∧
        u.obj o = { s.obj o with value := (s.obj o).value + 1 } ∧ (∀ j, j ≠ o → u.obj j = s.obj j) ∧
        SameRegs s u [SEQ_TRACE_LOST] ∧
        { u with regs := s.regs, shuttles := s.shuttles, sync := s.sync, obs := s.obs } = s) ∧
  (∀ (s : State) (k : Nat) (t : Transfer) (rest : List Transfer), k < 88 → (s.shuttle k).transfers = t :: rest →
      t.done = false → exec (.transferComplete k) s = .next s)

/-- R242, R334, R335, R340, R523: once no fault record is left, no access of a window runs and every remote operation is over, the
save of a module that has yielded ends its program, or fails; a yield or a stop whose limit has passed is answered OVERRUN, and the
program goes on. -/
def Obligations.YieldsAndStopsEnd : Prop :=
  (∀ (s : State) (c limit va mb seg : Nat) (save : Nat × Nat × Nat) (rq : List Byte),
      s.seq.yieldReq = some (c, limit, va, mb) → s.seq.yieldSeg = some seg → s.mail.saving = some save →
      s.seq.yielded = true → s.remoteSettled = true → s.faultQ = [] → s.closeWindows.windowsBusy = false → mb < 64 →
      s.slicesStopped = false → (s.closeWindows.box mb).busy = some rq →
      ∃ w t, w = (s.closeWindows.landX (s.seq.issued + 64)).writeSave va seg ∧ exec .saveComplete s = .next t ∧
        t.seq.yieldReq = none ∧ t.mail.saving = none ∧
        (if w.1 then (w.2.seq.state.lasting = false → t.seq.state = .idle) ∧
          Answered mb stOk 0 (leBytes 8 seg ++ leBytes 8 (saveSize s.saveRanges)) rq
            { w.2 with
              seq := { w.2.seq with
                state := if w.2.seq.state.lasting then w.2.seq.state else .idle
                segment := if w.2.seq.state.lasting then w.2.seq.segment else none, yieldReq := none, yieldFault := false }
              mail := { w.2.mail with saving := none } } t
        else Answered mb stFault 0 [] rq
          { w.2 with seq := { w.2.seq with yieldReq := none, yieldFault := false }, mail := { w.2.mail with saving := none } } t)) ∧
  (∀ s : State, s.faultQ ≠ [] ∨ s.slicesStopped = true → exec .saveComplete s = .next s) ∧
  (∀ s : State, s.seq.yielded = false → exec .saveComplete s = .next s) ∧
  (∀ (s : State) (c limit va mb : Nat) (rq : List Byte), s.seq.yieldReq = some (c, limit, va, mb) → s.seq.yielded = false →
      limit ≤ s.pickNo → mb < 64 → (s.box mb).busy = some rq →
      ∃ t, exec .yieldLimitExpiry s = .next t.openSegment ∧ Answered mb stOverrun 0 [] rq
        { s with
          seq := { s.seq with yieldSeg := none, yieldReq := none, yieldFault := false }
          mail := { s.mail with saving := none } } t) ∧
  (∀ (s : State) (c limit va mb : Nat), s.seq.yieldReq = some (c, limit, va, mb) → s.seq.yielded = true ∨ s.pickNo < limit →
      exec .yieldLimitExpiry s = .next s) ∧
  (∀ (s : State) (c limit mb : Nat) (rq : List Byte), s.seq.stopReq = some (c, limit, mb) → s.seq.stopped = false →
      limit ≤ s.pickNo → mb < 64 → (s.box mb).busy = some rq →
      ∃ t, exec .stopLimitExpiry s = .next t ∧
        Answered mb stOverrun 0 [] rq { s with seq := { s.seq with stopReq := none } } t) ∧
  (∀ s : State, s.seq.stopReq = none → exec .stopLimitExpiry s = .next s)

/-- R394, R396, R399, R402, R414, R423, R539: a scheduled cell leaves the cells that wait for the router and goes to each port
of its circuit's warp, ready there after its transit, or is dropped and counted; one for this module reaches its transfer,
waits, or is dropped. A cell that waited is delivered once it need not wait. -/
def Obligations.ScheduledCellsFollowTheirWarp : Prop :=
  (∀ (s : State) (p e : Nat) (c : Cell), p < 24 → c.ok = true → c.kind = 2 → c.mark = false → s.fabricFenced c = false →
      s.isHostPort p = false → s.allows p c.key = true → warpValid (s.warp c.circuit) = true →
      warpKey (s.warp c.circuit) = c.key → warpIn (s.warp c.circuit) = p → c.circuit ≠ 0xFFF →
      warpPorts (s.warp c.circuit) = [e] → warpLocal (s.warp c.circuit) = false → s.compat e = false →
      s.isHostPort e = false → s.allows e c.key = true → s.actingSlot ptbCelldly e = none → e ≠ p →
      (s.port e).queue.length < 4096 → (s.port e).ring = [] →
      ∃ t, exec (.scheduledCell p c) s = .next t ∧
        (t.port e).queue = (s.port e).queue ++ [⟨.scheduled, c, none, s.now + s.transit p e, none, true⟩] ∧
        OnlyPort e (s.takeIngress p c) t) ∧
  (∀ (s : State) (p : Nat) (c : Cell), p < 24 → c.ok = true → c.kind = 2 → c.mark = false → s.fabricFenced c = false →
      s.isHostPort p = false → s.allows p c.key = false →
      ∃ t, exec (.scheduledCell p c) s = .next t ∧ t.fld (RTE_DROP.KEY p) = min (s.fld (RTE_DROP.KEY p) + 1) 0xFFFF ∧
        SameRegs s t [RTE_DROP p] ∧ { t with regs := s.regs } = s.takeIngress p c) ∧
  (∀ (s : State) (p : Nat) (c : Cell), p < 24 → c.ok = true → c.kind = 2 → c.mark = false → s.fabricFenced c = false →
      s.isHostPort p = false → s.allows p c.key = true → warpValid (s.warp c.circuit) = false →
      ∃ t, exec (.scheduledCell p c) s = .next t ∧ t.fld (RTE_DROP.ROUTE p) = min (s.fld (RTE_DROP.ROUTE p) + 1) 0xFF ∧
        SameRegs s t [RTE_DROP p] ∧ { t with regs := s.regs } = s.takeIngress p c) ∧
  (∀ (s : State) (p : Nat) (c : Cell), p < 24 → c.ok = true → c.kind = 2 → c.mark = false → s.fabricFenced c = true →
      exec (.scheduledCell p c) s = .next (s.takeIngress p c)) ∧
  (∀ (s : State) (p serial : Nat) (c : Cell) (t : Transfer) (l : LineInfo) (rest : List Transfer), p < 24 →
      (s.port p).inbound = [c] → s.warpVerdict (64 + p) c = .take serial → (s.shuttle (64 + p)).transfers = t :: rest →
      t.serial = serial → t.line c.index = some l → l.state.isReading = true → (s.shuttle (64 + p)).late = [] →
      ∃ u, exec (.inboundRelease p) s = .next u ∧ (u.port p).inbound = [] ∧
        (u.shuttle (64 + p)).transfers.head? = some (t.setLine c.index (some { l with
          state := .arrived (if c.fault then .failed 0 0 else .data c.payload) })) ∧
        { u with ports := s.ports, shuttles := s.shuttles } = s) ∧
  (∀ (s : State) (p : Nat), p < 24 → (∀ c ∈ (s.port p).inbound, s.warpVerdict (64 + p) c = .wait) →
      exec (.inboundRelease p) s = .next s)

/-- R405 to R411, R414: a sprayed cell for this module takes its place in its flow: a message that is whole is delivered and
NEXT moves past it; a repeated cell, one beyond the grant and one of no known flow are counted and change no flow. A cell for
another module goes on, one that the port does not admit is dropped. A gap that stays open is skipped, grants are asked for
again, refreshed, and taken by their sender. -/
def Obligations.SprayedCellsKeepTheirFlow : Prop :=
  (∀ (s : State) (p : Nat) (c : Cell) (f : Flow), p < 24 → c.ok = true → c.kind = 3 → c.cls < 2 → s.fabricFenced c = false →
      s.isHostPort p = false → s.admits p c = true → s.forUs c = true → s.findFlow c.src c.cls = some f →
      f.next < 4294967296 → c.fseq = f.next % 4096 → f.held = [] → 0 < f.room → s.flowBlocked c.src c.cls = false →
      c.mark = true → dataCells c.payload = 0 →
      ∃ t g, exec (.sprayedCell p c) s = .next t ∧ t.findFlow c.src c.cls = some g ∧ g.next = (f.next + 1) % 4294967296 ∧
        g.ready = f.ready ++ [⟨c.src, c.cls, c.key, c.payload, []⟩] ∧ g.held = [] ∧ SameMemory s t) ∧
  (∀ (s : State) (p : Nat) (c : Cell), p < 24 → c.ok = true → c.kind = 3 → c.cls < 2 → s.fabricFenced c = false →
      s.isHostPort p = false → s.admits p c = true → s.forUs c = true → s.findFlow c.src c.cls = none →
      ∃ t, exec (.sprayedCell p c) s = .next t ∧ t.fld REED_DROP.BEYOND = min (s.fld REED_DROP.BEYOND + 1) 0xFF ∧
        SameRegs s t [REED_DROP] ∧ { t with regs := s.regs } = s.takeIngress p c) ∧
  (∀ (s : State) (p : Nat) (c : Cell) (f : Flow), p < 24 → c.ok = true → c.kind = 3 → c.cls < 2 → s.fabricFenced c = false →
      s.isHostPort p = false → s.admits p c = true → s.forUs c = true → s.findFlow c.src c.cls = some f →
      f.countOf c.fseq = none →
      ∃ t, exec (.sprayedCell p c) s = .next t ∧ t.fld REED_DROP.DUP = min (s.fld REED_DROP.DUP + 1) 0xFF ∧
        SameRegs s t [REED_DROP] ∧ { t with regs := s.regs } = s.takeIngress p c) ∧
  (∀ (s : State) (p : Nat) (c : Cell), p < 24 → c.ok = true → c.kind = 3 → s.fabricFenced c = false →
      s.isHostPort p = false → s.admits p c = true → s.forUs c = false →
      (c.cls < 2 → exec (.sprayedCell p c) s = .next ((s.takeIngress p c).forward c p)) ∧
      (c.cls = 2 → exec (.grantCell p c) s = .next ((s.takeIngress p c).forward c p))) ∧
  (∀ (s : State) (p : Nat) (c : Cell), p < 24 → c.ok = true → c.kind = 3 → s.fabricFenced c = false →
      s.isHostPort p = false → s.admits p c = false →
      (c.cls < 2 → exec (.sprayedCell p c) s = .next ((s.takeIngress p c).count (RTE_DROP.KEY p))) ∧
      (c.cls = 2 → exec (.grantCell p c) s = .next ((s.takeIngress p c).count (RTE_DROP.KEY p)))) ∧
  (∀ (s : State) (p n : Nat) (c : Cell), p < 24 → c.ok = true → c.kind = 3 → c.cls = 2 → s.fabricFenced c = false →
      s.isHostPort p = false → s.admits p c = true → s.forUs c = true →
      c.payload = padTo 64 (leBytes 1 8 ++ leBytes 3 0 ++ leBytes 4 n) → n < 4294967296 →
      countBelow (s.sendFlow c.src 0).grant n = true → (s.sendFlow c.src 0).waiting = [] →
      ∃ t, exec (.grantCell p c) s = .next t ∧ t.sendFlow c.src 0 = { s.sendFlow c.src 0 with grant := n, asked := none } ∧
        { t with reed := s.reed } = s.takeIngress p c) ∧
  (∀ (s : State) (src cls later : Nat) (f g : Flow), src < 65536 → cls < 4 → s.findFlow src cls = some f →
      s.flowBlocked src cls = false → f.skip = some (later, g) → f.at 0 = none →
      exec (.reedGapSkip src cls) s =
        .next (State.carryAll (((s.at_ (later + 2 * usCycles)).putFlow g).pumpReed src cls))) ∧
  (∀ (s : State) (src cls : Nat), src < 65536 → cls < 4 → s.findFlow src cls = none →
      exec (.reedGapSkip src cls) s = .next s ∧ exec (.grantRefresh src cls) s = .next s) ∧
  (∀ (s : State) (dst cls at_ : Nat) (c : Cell) (rest : List Cell), dst < 65536 → cls < 4 →
      (s.sendFlow dst cls).waiting = c :: rest → (s.sendFlow dst cls).asked = some at_ →
      ∃ t, exec (.grantRequestRepeat dst cls) s = .next t ∧ t.now = max s.now (at_ + 10 * usCycles) ∧
        t.sendFlow dst cls = { s.sendFlow dst cls with asked := some t.now }) ∧
  (∀ (s : State) (dst cls : Nat), dst < 65536 → cls < 4 → (s.sendFlow dst cls).waiting = [] →
      exec (.grantRequestRepeat dst cls) s = .next s) ∧
  (∀ (s : State) (src cls at_ : Nat) (f : Flow), src < 65536 → cls < 4 → s.findFlow src cls = some f → f.src = src →
      f.cls = cls → f.delivered = some at_ → max s.now f.refreshDue ≤ at_ + msCycles →
      ∃ t, exec (.grantRefresh src cls) s = .next t ∧
        t.findFlow src cls = some { f with granted := f.grant, refreshed := some t.now } ∧ t.now = max s.now f.refreshDue)

/-- R393, R405, R414, R416: an addressed cell of each operation is carried out where it is this module's, a service cell at
once and for windows 0 to 2 only, a keyed one in its flow; it goes on where it is another's, and is dropped where the port
does not admit it. A write to the mailboxes' area puts its bytes; data and statuses change nothing. -/
def Obligations.AddressedCells : Prop :=
  (∀ (s : State) (p op : Nat) (c : Cell) (i : Instr), p < 24 → c.ok = true → isAddressed c op = true →
      (op = 0 ∧ i = .addressedWrite p c) ∨ (op = 1 ∧ i = .addressedRead p c) ∨ (op = 2 ∧ i = .addressedReadData p c) ∨
        (op = 3 ∧ i = .addressedStatus p c) → s.fabricFenced c = false → s.hostDrops p c = false →
      (s.admits p c = false → exec i s = .next ((s.takeIngress p c).dropUnadmitted p c)) ∧
      (s.admits p c = true → s.forUs c = false → exec i s = .next ((s.takeIngress p c).forward c p)) ∧
      (s.admits p c = true → s.forUs c = true → c.svc = true → remoteWindow c.aAddr ≤ 2 →
        exec i s = .next ((s.takeIngress p c).carryOut c)) ∧
      (s.admits p c = true → s.forUs c = true → c.svc = true → 2 < remoteWindow c.aAddr →
        exec i s = .next ((s.takeIngress p c).count (RTE_DROP.ROUTE p))) ∧
      (s.admits p c = true → s.forUs c = true → c.svc = false →
        exec i s = .next (State.carryAll ((s.takeIngress p c).reedTake c 3)))) ∧
  (∀ (s : State) (p op : Nat) (c : Cell), p < 24 → c.ok = true → isAddressed c op = false →
      (op = 0 → exec (.addressedWrite p c) s = .next s) ∧ (op = 1 → exec (.addressedRead p c) s = .next s) ∧
      (op = 2 → exec (.addressedReadData p c) s = .next s) ∧ (op = 3 → exec (.addressedStatus p c) s = .next s)) ∧
  (∀ (s : State) (p : Nat) (c : Cell), p < 24 → c.ok = true → isAddressed c 0 = true → s.fabricFenced c = false →
      s.hostDrops p c = false → s.admits p c = true → s.forUs c = true → c.svc = true → remoteWindow c.aAddr = 0 →
      remoteOffset c.aAddr + c.aData.length ≤ 0x80000 →
      reachesManager (remoteOffset c.aAddr) = false ∨ c.src = s.fld MGT_FM.FM_DEV → c.aTag = 0 →
      ∃ t, exec (.addressedWrite p c) s = .next t ∧ (∀ a, sget 0 t.mail.sram a =
          if remoteOffset c.aAddr ≤ a then (c.aData[a - remoteOffset c.aAddr]?).getD (sget 0 s.mail.sram a)
          else sget 0 s.mail.sram a) ∧
        { t with mail := s.mail } = s.takeIngress p c) ∧
  (∀ (s : State) (p : Nat) (c : Cell), p < 24 → c.ok = true → s.fabricFenced c = false → s.hostDrops p c = false →
      s.admits p c = true → s.forUs c = true → c.svc = true → remoteWindow c.aAddr ≤ 2 →
      (isAddressed c 2 = true → exec (.addressedReadData p c) s = .next (s.takeIngress p c)) ∧
      (isAddressed c 3 = true → exec (.addressedStatus p c) s = .next (s.takeIngress p c)))

/-- R240, R413, R417 to R419, R498, R540: the message at the head of its flow is taken: a read of window 0 is answered with its
lines, a write of a line there is made and recorded against repetition, a request to a closed window is refused and
counted; an answer completes the entry of its TAG, restarts it, or is late. An entry is sent again after RETRY, and ends
after TIMEOUT. A fenced D1 drops the message. -/
def Obligations.MessagesAndRequests : Prop :=
  (∀ (s u : State) (src cls op : Nat) (i : Instr) (m : Message), src < 65536 →
      (cls = 0 ∧ op = opRead ∧ i = .read src) ∨ (cls = 0 ∧ op = opWrite ∧ i = .write src) ∨
        (cls = 0 ∧ op = opSync ∧ i = .sync src) ∨ (cls = 1 ∧ op = opReadResp ∧ i = .readResp src) ∨
        (cls = 1 ∧ op = opWriteAck ∧ i = .writeAck src) ∨ (cls = 1 ∧ op = opSyncAck ∧ i = .syncAck src) →
      (s.takeMessage src cls op = none → exec i s = .next s) ∧
      (s.takeMessage src cls op = some (m, u) → s.fenced 1 = true → exec i s = .next u)) ∧
  (∀ (s u : State) (src n : Nat) (m : Message), src < 65536 → s.takeMessage src 0 opRead = some (m, u) → s.fenced 1 = false →
      remoteWindow (msgAddr m) = 0 → msgLines m = n → 1 ≤ n → n ≤ 64 → remoteOffset (msgAddr m) + 64 * n ≤ 0x80400 →
      exec (.read src) s = .next (u.sendMessage m.src 1 m.key (answerHead opReadResp m.head n stOk [])
        ((chunksOf 64 n (s.sram (remoteOffset (msgAddr m)) (64 * n))).map (fun b => (false, b))))) ∧
  (∀ (s u v : State) (src : Nat) (m : Message) (b : List Byte), src < 65536 → s.takeMessage src 0 opWrite = some (m, u) →
      s.fenced 1 = false → u.inbound = [] → u.filterCheck m.src (leAt m.head 8 4) = (.fresh, v) →
      remoteWindow (msgAddr m) = 0 → msgLines m = 1 → m.lines = [(false, b)] → b.length = 64 →
      0x8000 ≤ remoteOffset (msgAddr m) → remoteOffset (msgAddr m) + 64 ≤ 0x80000 →
      exec (.write src) s = .next (((v.sramPut (remoteOffset (msgAddr m)) b).filterRecord m.src (leAt m.head 8 4) stOk).sendMessage
        m.src 1 m.key (answerHead opWriteAck m.head 0 stOk []) [])) ∧
  (∀ (s u : State) (src : Nat) (m : Message), src < 65536 → s.takeMessage src 0 opRead = some (m, u) → s.fenced 1 = false →
      16 ≤ remoteWindow (msgAddr m) → (s.window (remoteWindow (msgAddr m))).valid = false →
      (s.window (remoteWindow (msgAddr m))).deviceVa = false → s.fenced 3 = false → 1 ≤ msgLines m → msgLines m ≤ 64 →
      exec (.read src) s = .next ((u.count SHT_WIN_STAT.REFUSED).sendMessage m.src 1 m.key
        (answerHead opReadResp m.head 0 stBadArg []) [])) ∧
  (∀ (s u : State) (src : Nat) (m : Message), src < 65536 → s.takeMessage src 0 opSync = some (m, u) → s.fenced 1 = false →
      s.part.joined = none →
      exec (.sync src) s = .next (u.sendMessage m.src 1 m.key (answerHead opSyncAck m.head 0 stFenced (syncOperands
        (leAt m.head 0x18 2 % 4096) (leAt m.head 0x1A 1) 0 (leAt m.head 0x1C 4) 0)) [])) ∧
  (∀ (s u : State) (src op : Nat) (i : Instr) (m : Message), src < 65536 →
      (op = opReadResp ∧ i = .readResp src) ∨ (op = opWriteAck ∧ i = .writeAck src) ∨ (op = opSyncAck ∧ i = .syncAck src) →
      s.takeMessage src 1 op = some (m, u) → s.fenced 1 = false →
      (u.reqOfTag (leAt m.head 2 2) = none → exec i s = .next (u.count RTE_REQ_STAT.LATE)) ∧
      (∀ n e, u.reqOfTag (leAt m.head 2 2) = some (n, e) → leAt m.head 5 1 ≠ stBusy →
        exec i s = .next (u.completeReq n e (leAt m.head 5 1) m.lines))) ∧
  (∀ (s : State) (n : Nat) (e : ReqEntry), n < 4096 → s.reqEntry n = some e →
      ∃ t, exec (.requestRetry n) s = .next t ∧ t.now = max s.now (e.lastAt + s.fld RTE_REQ_CTRL.RETRY * usCycles) ∧
        t.reqEntry n = some { e with lastAt := t.now } ∧ SameMemory s t) ∧
  (∀ (s : State) (n : Nat) (e : ReqEntry), n < 4096 → s.reqEntry n = some e →
      ∃ t, exec (.requestTimeout n) s = .next t ∧
        t.now = max s.now (e.countsAt + s.fld RTE_REQ_CTRL.TIMEOUT * usCycles) ∧
        t.fld RTE_REQ_STAT.TIMEOUTS = min (s.fld RTE_REQ_STAT.TIMEOUTS + 1) 0xFF) ∧
  (∀ (s : State) (n : Nat), n < 4096 → s.reqEntry n = none →
      exec (.requestRetry n) s = .next s ∧ exec (.requestTimeout n) s = .next s)

/-- R510, R513, R540, R555, R557, R559 to R562, R564: a doorbell with a new number makes its mailbox pending and is answered ST_OK;
one that repeats the last, finds the mailbox taken, may not use it, or comes while D1 is fenced, changes nothing and is answered. An ARM from the parent arms the module for its pick,
and the COMMIT of the same start commits it; the last child's acknowledgement, or the end of the time for it, ends the
wait. -/
def Obligations.DoorbellsAndStarts : Prop :=
  (∀ (s : State) (mb src : Nat) (v : BitVec 64), mb < 64 → src < 65536 → s.fenced 1 = false → s.mayUse mb src = true →
      (s.box mb).lastSeq ≠ some (v.extractLsb' 0 32) → (s.box mb).pending = none → (s.box mb).busy = none →
      ∃ t, exec (.doorbell mb src v) s = .next t ∧
        t.box mb = { s.box mb with lastSeq := some (v.extractLsb' 0 32), pending := some s.mail.order } ∧
        t.mail.order = s.mail.order + 1 ∧ (∀ n, n ≠ mb → t.box n = s.box n) ∧
        t.outbox = s.outbox ++ [.doorbell mb src stOk] ∧ { t with mail := s.mail, outbox := s.outbox } = s) ∧
  (∀ (s : State) (mb src : Nat) (v : BitVec 64) (status : Nat), mb < 64 → src < 65536 → s.fenced 1 = false →
      (s.mayUse mb src = false ∧ status = stAuth) ∨
        (s.mayUse mb src = true ∧ (s.box mb).lastSeq = some (v.extractLsb' 0 32) ∧ status = stOk) ∨
        (s.mayUse mb src = true ∧ (s.box mb).lastSeq ≠ some (v.extractLsb' 0 32) ∧
          ((s.box mb).pending.isSome = true ∨ (s.box mb).busy.isSome = true) ∧ status = stBusy) →
      exec (.doorbell mb src v) s = .next { s with outbox := s.outbox ++ [.doorbell mb src status] }) ∧
  (∀ (s : State) (mb src : Nat) (v : BitVec 64), mb < 64 → src < 65536 → s.fenced 1 = true →
      exec (.doorbell mb src v) s = .next { s with outbox := s.outbox ++ [.doorbell mb src stFenced] }) ∧
  (∀ (s : State) (p src : Nat) (r : List Byte), p < 24 → src < 65536 → r.length = 48 → s.fenced 1 = false →
      s.fenced 3 = false → s.isParentPort p = true → s.sentBy p src (s.memberKey.getD 0) = true → srOp r = 1 →
      s.memberKey = some (srKey r) → epochOlder (srEpoch r) (s.reg PCK_EPOCH).toNat = false →
      s.fld PCK_START.STATE ≠ startArmed → s.fld PCK_START.STATE ≠ startCommitted → s.startForbidden = false →
      s.childPorts = [] → s.part.starts = [] →
      ∃ t, exec (.armRecord p src r) s = .next t ∧ t.fld PCK_START.STATE = startArmed ∧
        (t.reg PCK_EPOCH).toNat = srEpoch r ∧ t.part.startPick = some (srPick r) ∧ t.seq.committed = none ∧
        t.fld PCK_START_CNT.DONE = 1 ∧ t.fld PCK_START_CNT.FAILED = 0 ∧ t.sram startArea 48 = r) ∧
  (∀ (s : State) (p src : Nat) (r : List Byte), p < 24 → src < 65536 → r.length = 48 → s.fenced 1 = false →
      s.fenced 3 = false → s.isParentPort p = true → s.sentBy p src (s.memberKey.getD 0) = true → srOp r = 2 →
      s.memberKey = some (srKey r) → srEpoch r = (s.reg PCK_EPOCH).toNat → s.fld PCK_START.STATE = startArmed →
      s.part.startPick = some (srPick r) → s.pickNo + 64 ≤ srPick r → s.childPorts = [] → s.part.starts = [] →
      ∃ t, exec (.commitRecord p src r) s = .next t ∧ t.fld PCK_START.STATE = startCommitted ∧
        t.seq.committed = some (srPick r) ∧ t.part.epoch.toNat = srEpoch r ∧ t.sync.opid = 1 ∧ t.sync.filter = []) ∧
  (∀ (s : State) (p src : Nat) (r : List Byte), p < 24 → src < 65536 → r.length = 48 → s.isParentPort p = false →
      exec (.armRecord p src r) s = .next s ∧ exec (.commitRecord p src r) s = .next s) ∧
  (∀ (s : State) (p q src : Nat) (r : List Byte) (w : StartWait), p < 24 → src < 65536 → r.length = 32 → s.fenced 1 = false →
      p ∈ s.childPorts → s.sentBy p src (s.memberKey.getD 0) = true → s.part.starts = [w] → w.waiting = [p, q] → p ≠ q →
      leAt r 0 1 = w.op → leAt r 4 4 = w.epoch.toNat → leAt r 0x0C 4 = 0 →
      ∃ t, exec (.startAck p src r) s = .next t ∧
        t.part = { s.part with starts := [{ w with waiting := [q], done := w.done + leAt r 8 4 }] } ∧
        { t with part := s.part, mail := s.mail } = s) ∧
  (∀ (s : State) (p src : Nat) (r : List Byte), p < 24 → src < 65536 → r.length = 32 → p ∉ s.childPorts →
      exec (.startAck p src r) s = .next s) ∧
  (∀ (s : State) (w : StartWait), s.part.starts = [w] →
      ∃ t, exec .armTimeout s = .next t ∧ t.now = max s.now (s.waitDue w) ∧ t.part.starts = [] ∧
        t.fld PCK_START_CNT.FAILED = min (w.failed + w.waiting.length) 65535) ∧
  (∀ s : State, s.part.starts = [] → exec .armTimeout s = .next s)

/-- R515, R517, R518, R520, R522, R524, R527, R530, R151, R242: a request that fails a common check is answered with its status, and
no command is carried out twice or without its request. IDENTIFY answers who the module is; NEGOTIATE locks the features that are
offered, supported and permitted, once; MAP_GRID maps the rows; OPEN_WINDOW and CLOSE_WINDOW set and clear an entry; DEBUG_BREAK sets
a break, clears both or resumes; LOAD_IMAGE writes an image that passes its checks, and PATCH_IMAGE relocates it again. -/
def Obligations.MailboxesSetTheModuleUp : Prop :=
  (∀ (s : State) (mb code st : Nat) (i : Instr) (rq : List Byte), mb < 64 →
      (mailInstr mb code = some i ∨ (windowInstr mb code = some i ∧ s.pick.inWindow = true)) → (s.box mb).busy = some rq →
      (s.box mb).running = false → rqCode rq = code → s.mailCheck mb rq = some st →
      ∃ t, exec i s = .next t ∧ Answered mb st 0 [] rq s t) ∧
  (∀ (s : State) (mb code : Nat) (i : Instr), mb < 64 → mailInstr mb code = some i ∨ windowInstr mb code = some i →
      (s.box mb).busy = none ∨ (s.box mb).running = true → exec i s = .next s) ∧
  (∀ (s : State) (mb : Nat) (rq : List Byte), s.Asked mb 0x01 rq →
      ∃ t, exec (.identify mb) s = .next t ∧ Answered mb stOk 0 s.identifyBody rq (s.ran mb) t) ∧
  (∀ (s : State) (mb : Nat) (rq : List Byte) (offer accepted : BitVec 128), s.Asked mb 0x02 rq →
      offer = BitVec.ofNat 128 (rqBody rq 0 16) → accepted = offer &&& supported &&& s.permitted → s.mail.locked = none →
      (offer.getLsbD featPickIn && offer.getLsbD featPickOut) = false →
      s.pickState = pickIdle ∨ accepted &&& d1Bits = s.mail.d1Set &&& d1Bits →
      ∃ t u, exec (.negotiate mb) s = .next t ∧ t.mail.locked = some accepted ∧ t.mail.d1Set = accepted ∧
        Answered mb stOk 0 (leBytes 16 accepted.toNat ++ leBytes 16 (offer &&& ~~~accepted).toNat) rq u t ∧
        (∀ p, p < 24 → u.fld (LNK_STATUS.SPILL p) = (if lnkActive ≤ s.lnkState p then
          bnat (accepted.getLsbD featSpill && !s.compat p) else s.fld (LNK_STATUS.SPILL p))) ∧
        SameRegs s u ((List.range 24).map LNK_STATUS) ∧ { u with regs := s.regs, mail := s.mail } = s) ∧
  (∀ (s : State) (mb : Nat) (rq : List Byte) (v : BitVec 128), s.Asked mb 0x02 rq → s.mail.locked = some v →
      ∃ t, exec (.negotiate mb) s = .next t ∧ Answered mb stBusy 0 (leBytes 16 v.toNat ++
        leBytes 16 (BitVec.ofNat 128 (rqBody rq 0 16) &&& ~~~v).toNat) rq (s.ran mb) t) ∧
  (∀ (s : State) (mb : Nat) (rq : List Byte) (g : List Nat), s.Asked mb 0x12 rq → s.mail.image = none →
      s.gridFor (rqBody rq 0 1) (rqBody rq 1 1) = some g →
      ∃ t u, exec (.mapGrid mb) s = .next t ∧ t.mail.grid = g ∧ Answered mb stOk 0 ((List.range 8).map (fun r =>
          match g[r]? with | some p => BitVec.ofNat 8 p | none => 0xFF)) rq u t ∧ SameMemory s u ∧
        { u with regs := s.regs, regions := s.regions, mail := s.mail } = s) ∧
  (∀ (s : State) (mb : Nat) (rq : List Byte), s.Asked mb 0x12 rq →
      s.mail.image.isSome = true ∨ s.gridFor (rqBody rq 0 1) (rqBody rq 1 1) = none →
      ∃ t, exec (.mapGrid mb) s = .next t ∧ Answered mb (if s.mail.image.isSome then stBusy else stBadArg) 0 [] rq (s.ran mb) t) ∧
  (∀ (s : State) (mb w : Nat) (rq e : List Byte), s.Asked mb 0x13 rq → e = rqBytes rq 8 32 → windowBad e = false →
      (windowOf e).deviceVa = true ∨ (s.physOf (windowOf e).vreg).isSome = true →
      (rqBody rq 0 1 = 0 ∧ 16 ≤ w ∧ w < 256 ∧ s.windowHeld w = false ∧ (∀ v, 16 ≤ v → v < w → s.windowHeld v = true)) ∨
        (rqBody rq 0 1 = w ∧ 16 ≤ w ∧ s.windowHeld w = false) →
      ∃ t, exec (.openWindow mb) s = .next t ∧ t.window w = windowOf e ∧
        Answered mb stOk 0 (leBytes 1 w) rq ((s.ran mb).setWindow w (windowOf e)) t) ∧
  (∀ (s : State) (mb : Nat) (rq : List Byte), s.Asked mb 0x13 rq → windowBad (rqBytes rq 8 32) = true →
      ∃ t, exec (.openWindow mb) s = .next t ∧ Answered mb stBadArg 0 [] rq (s.ran mb) t) ∧
  (∀ (s : State) (mb w : Nat) (rq : List Byte), s.Asked mb 0x14 rq → w = rqBody rq 0 1 → (s.window w).valid = true →
      (∀ b ∈ s.inbound, b.window ≠ w) →
      ∃ t, exec (.closeWindow mb) s = .next t ∧ t.window w = { s.window w with valid := false, closing := none } ∧
        Answered mb stOk 0 (leBytes 4 0) rq ((s.ran mb).setWindow w { s.window w with valid := false, closing := none }) t) ∧
  (∀ (s : State) (mb w : Nat) (rq : List Byte) (b : Inbound), s.Asked mb 0x14 rq → w = rqBody rq 0 1 →
      (s.window w).valid = true → b ∈ s.inbound → b.window = w → (∀ c ∈ s.inbound, c.write = false) →
      ∃ t, exec (.closeWindow mb) s = .next t ∧ t = (s.ran mb).setWindow w { s.window w with valid := false, closing := some (mb, 0) }) ∧
  (∀ (s : State) (mb : Nat) (rq : List Byte), s.Asked mb 0x14 rq → (s.window (rqBody rq 0 1)).valid = false →
      ∃ t, exec (.closeWindow mb) s = .next t ∧ Answered mb stBadArg 0 [] rq (s.ran mb) t) ∧
  (∀ (s : State) (mb k : Nat) (rq : List Byte), s.Asked mb 0x72 rq → rqBody rq 0 1 = k → k < 3 ∨ (k = 3 ∧ s.seq.state = .broken) →
      ∃ t u, exec (.debugBreak mb) s = .next t ∧
        Answered mb stOk 0 (leBytes 8 s.retired ++ leBytes 4 s.seq.pc.toNat) rq u t ∧
        (k = 0 → (u.reg SEQ_BRK_COUNT_LO).toNat + 4294967296 * (u.reg SEQ_BRK_COUNT_HI).toNat = rqBody rq 8 8 ∧
          u.flag SEQ_BRK_CTRL.COUNT_EN = true) ∧
        (k = 1 → u.fld SEQ_BRK_CTRL.TAG = rqBody rq 0x10 2 % 4096 ∧ u.flag SEQ_BRK_CTRL.TAG_EN = true) ∧
        (k = 2 → u.flag SEQ_BRK_CTRL.COUNT_EN = false ∧ u.flag SEQ_BRK_CTRL.TAG_EN = false) ∧
        (k = 3 → u.seq.state = .issuing) ∧ SameRegs s u [SEQ_BRK_COUNT_LO, SEQ_BRK_COUNT_HI, SEQ_BRK_CTRL] ∧
        { u with regs := s.regs, seq := s.seq, mail := s.mail } = s) ∧
  (∀ (s a v z : State) (mb n : Nat) (rq b : List Byte) (y : List Nat) (records : List (Option Reloc)), s.Asked mb 0x10 rq →
      s.loadBusy = false → s.slicesStopped = false → a = (s.ran mb).noteAccess .firmware (rqBody rq 0 8) (rqBody rq 8 8) false false →
      (a.vaRead (rqBody rq 0 8) (rqBody rq 8 8) []).1 = some b → a.imageCheck b (rqBytes rq 0x10 32) = none →
      ({ a with mail := { a.mail with image := none } } : State).writeSections (sectionsOf b) 0 = (none, v) →
      records = (recordsOf (sectionsOf b) 4 32).map (fun r => if relocBad r then none else some (relocOf r)) →
      (if records.isEmpty then some [] else (v.noteAccess .firmware (rqBody rq 0x30 8) (8 * rqBody rq 0x38 4) false false).symbols
        (rqBody rq 0x30 8) (rqBody rq 0x38 4)) = some y →
      (if records.isEmpty then v else v.noteAccess .firmware (rqBody rq 0x30 8) (8 * rqBody rq 0x38 4) false false).applyRelocs y
        (residentOf (sectionsOf b)) records 0 = (none, n, z) → (rqBody rq 0x3C 4).testBit 0 = false →
      ∃ t, exec (.loadImage mb) s = .next t ∧ t.mail.image = some (imageState b (rqBytes rq 0x10 32) none) ∧
        t.seq.pc.toNat = leAt b 0x18 4 % 4194304 ∧ t.weights.gates = gatesOf (sectionsOf b) ∧ t.seq.yielded = false ∧
        t.fld SEQ_TRACE_HEAD.SEQ = 0 ∧ (ofKind (sectionsOf b) 7 = none → t.fld CTX_CTRL.EN = 0 ∧ t.serve.image = none)) ∧
  (∀ (s : State) (mb : Nat), mb < 64 → s.slicesStopped = true → (s.loadBusy = false → exec (.loadImage mb) s = .next s) ∧
      (s.patchBusy = false → exec (.patchImage mb) s = .next s)) ∧
  (∀ (s : State) (mb : Nat) (rq : List Byte), s.Asked mb 0x10 rq → s.loadBusy = true →
      ∃ t, exec (.loadImage mb) s = .next t ∧ Answered mb stBusy 0 [] rq (s.ran mb) t) ∧
  (∀ (s : State) (mb : Nat) (rq : List Byte) (im : ImageSt), s.Asked mb 0x11 rq → s.mail.image = some im → im.relocs = [] →
      s.programOn = false ∨ s.seq.yielded = true → s.slicesStopped = false →
      ∃ t, exec (.patchImage mb) s = .next t ∧ Answered mb stOk 0 (leBytes 4 0) rq (s.ran mb) t) ∧
  (∀ (s a z : State) (mb n : Nat) (rq : List Byte) (im : ImageSt) (y : List Nat), s.Asked mb 0x11 rq → s.mail.image = some im →
      im.relocs ≠ [] → s.programOn = false ∨ s.seq.yielded = true → s.slicesStopped = false →
      a = (s.ran mb).noteAccess .firmware (rqBody rq 0 8) (8 * rqBody rq 8 4) false false →
      a.symbols (rqBody rq 0 8) (rqBody rq 8 4) = some y → a.applyRelocs y im.resident (im.relocs.map some) 0 = (none, n, z) →
      exec (.patchImage mb) s = .next (z.answer mb stOk (leBytes 4 n))) ∧
  (∀ (s : State) (mb : Nat) (rq : List Byte), s.Asked mb 0x11 rq → s.programOn = true → s.seq.yielded = false →
      ∃ t, exec (.patchImage mb) s = .next t ∧ Answered mb stBusy 0 [] rq (s.ran mb) t)

/-- R334, R340, R522, R523, R533, R534, R558, R559, R561, R566: a join whose record and checks hold is installed; a key that is given
up, where no join of it is still to be answered, leaves the allow-sets, the flows and the inbound buffers at once, and the module's entries once no cell of it is queued; a start
is armed and committed by the origin; STOP and YIELD are accepted while a program runs. -/
def Obligations.PartitionsStartAndStop : Prop :=
  (∀ (s u p a : State) (mb va : Nat) (rq b : List Byte) (j : JoinRec) (w : Warps) (reused : Bool), s.Asked mb 0x20 rq →
      u = (s.ran mb).noteAccess .firmware (rqBody rq 0 8) (rqBody rq 8 4) false false →
      (u.vaRead (rqBody rq 0 8) (rqBody rq 8 4) []).1 = some b → sha256 b = rqBytes rq 0x10 32 → joinBad b = false →
      j = joinOf b → va = rqBody rq 0x30 8 → p = u.noteWarps va → p.joinCheck j va = .ok (w, reused) → a = p.installJoin j va w reused →
      ∃ t, exec (.joinPartition mb) s = .next t ∧
        Answered mb stOk 0 (leBytes 2 (a.joinIndex j) ++ leBytes 1 (bnat reused)) rq a t ∧
        (j.role = 3 → j.key ∈ t.part.transit ∧ t.part.joined = s.part.joined) ∧
        (j.role ≠ 3 → t.part.joined = some ⟨j.key, j.role == 2, j.origin, j.members⟩ ∧
          t.fld PCK_STATUS.STATE = pickAcquiring ∧ t.fld PCK_ROLE.ROLE = j.role % 4) ∧
        (∀ p, p < 24 → j.keyPorts.testBit p = true → t.allows p j.key = true)) ∧
  (∀ (s u : State) (mb : Nat) (rq b : List Byte), s.Asked mb 0x20 rq →
      u = (s.ran mb).noteAccess .firmware (rqBody rq 0 8) (rqBody rq 8 4) false false →
      (u.vaRead (rqBody rq 0 8) (rqBody rq 8 4) []).1 = some b →
      (sha256 b ≠ rqBytes rq 0x10 32 → ∃ t, exec (.joinPartition mb) s = .next t ∧ Answered mb stAuth 0 [] rq u t) ∧
      (sha256 b = rqBytes rq 0x10 32 → joinBad b = true →
        ∃ t, exec (.joinPartition mb) s = .next t ∧ Answered mb stBadArg 0 [] rq u t) ∧
      (∀ st, sha256 b = rqBytes rq 0x10 32 → joinBad b = false →
        (u.noteWarps (rqBody rq 0x30 8)).joinCheck (joinOf b) (rqBody rq 0x30 8) = .error st →
        ∃ t, exec (.joinPartition mb) s = .next t ∧ Answered mb st 0 [] rq (u.noteWarps (rqBody rq 0x30 8)) t)) ∧
  (∀ (s : State) (mb code key : Nat) (i : Instr) (rq : List Byte), s.Asked mb code rq → key = rqBody rq 0 2 →
      (code = 0x21 ∧ i = .leavePartition mb) ∨ (code = 0x63 ∧ i = .keyRetire mb) → key ∈ s.keysHeld →
      s.memberKey ≠ some key ∨ s.programOn = false ∨ s.fenced 3 = true → s.keyEntries key = [] →
      (code = 0x63 → (s.ran mb).joining key = false) →
      ∃ t, exec i s = .next t ∧ t.part.retiring = s.part.retiring ++ [(key, mb)] ∧
        (∀ p, p < 24 → t.allows p key = false) ∧ (∀ f ∈ t.reed.flows, f.key ≠ key) ∧
        (∀ p, ∀ c ∈ (t.port p).inbound, c.key ≠ key) ∧ (t.box mb).busy = some rq ∧ SameMemory s t ∧
        SameRegs s t ((List.range 24).flatMap (fun p => [RTE_ALLOW_LO p, RTE_ALLOW_HI p]))) ∧
  (∀ (s : State) (mb key : Nat) (rq : List Byte), s.Asked mb 0x63 rq → key = rqBody rq 0 2 → (s.ran mb).joining key = true →
      ∃ t, exec (.keyRetire mb) s = .next t ∧ Answered mb stBusy 0 [] rq (s.ran mb) t) ∧
  (∀ (s : State) (mb key : Nat) (rq : List Byte), s.Asked mb 0x63 rq → key = rqBody rq 0 2 → key ∉ s.keysHeld →
      (s.ran mb).joining key = false →
      ∃ t, exec (.keyRetire mb) s = .next t ∧ Answered mb stOk 0 [] rq (s.ran mb) t) ∧
  (∀ (s : State) (mb key : Nat) (rq : List Byte), s.Asked mb 0x21 rq → key = rqBody rq 0 2 → key ∉ s.keysHeld →
      ∃ t, exec (.leavePartition mb) s = .next t ∧ Answered mb stKeyMismatch 0 [] rq (s.ran mb) t) ∧
  (∀ (s : State) (mb key : Nat) (rq : List Byte), s.Asked mb 0x21 rq → key = rqBody rq 0 2 → s.memberKey = some key →
      s.programOn = true → s.fenced 3 = false →
      ∃ t, exec (.leavePartition mb) s = .next t ∧ Answered mb stBusy 0 [] rq (s.ran mb) t) ∧
  (∀ (s : State) (key mb : Nat) (rq : List Byte), key < 4096 → s.part.retiring = [(key, mb)] → s.keyQueued key = false →
      mb < 64 → (s.box mb).busy = some rq → s.memberKey ≠ some key →
      ∃ t, exec (.keyDrainComplete key) s = .next t ∧ t.part.retiring = [] ∧ key ∉ t.part.transit ∧
        t.part.joined = s.part.joined ∧ (t.box mb).busy = none ∧
        (∀ c, t.warp c = if warpValid (s.warp c) && warpKey (s.warp c) == key then 0 else s.warp c) ∧
        ∀ n, n < 64 → t.flag (RTE_REMAP_HI.VALID n) = (s.flag (RTE_REMAP_HI.VALID n) && s.fld (RTE_REMAP_HI.KEY n) != key)) ∧
  (∀ (s : State) (key mb : Nat) (rq : List Byte), key < 4096 → s.part.retiring = [(key, mb)] → s.keyQueued key = false →
      mb < 64 → (s.box mb).busy = some rq → s.memberKey = some key → s.pickState ≠ pickSlipped →
      (∀ e ∈ s.windows, e.2.key ≠ key) →
      ∃ t, exec (.keyDrainComplete key) s = .next t ∧ t.part.retiring = [] ∧ t.part.joined = none ∧
        t.fld PCK_STATUS.STATE = pickIdle ∧ t.reg PCK_ROLE = PCK_ROLE.reset ∧ t.flag RTE_ALIAS.EN = false ∧
        (t.box mb).busy = none) ∧
  (∀ (s : State) (key : Nat), key < 4096 → (∀ r ∈ s.part.retiring, r.1 ≠ key) ∨ s.keyQueued key = true →
      exec (.keyDrainComplete key) s = .next s) ∧
  (∀ (s : State) (mb : Nat) (rq r : List Byte) (j : Joined), s.Asked mb 0x22 rq → s.part.joined = some j → j.origin = true →
      r = startRecord 1 (rqBody rq 0 2) (rqBody rq 4 4) (rqBody rq 8 8) (s.fld PCK_START_CTRL.TIMEOUT) → s.fenced 3 = false →
      s.memberKey = some (srKey r) → epochOlder (srEpoch r) (s.reg PCK_EPOCH).toNat = false →
      s.fld PCK_START.STATE ≠ startArmed → s.fld PCK_START.STATE ≠ startCommitted → s.startForbidden = false →
      s.childPorts = [] → s.part.starts = [] →
      ∃ t, exec (.armStart mb) s = .next t ∧ t.fld PCK_START.STATE = startArmed ∧ (t.reg PCK_EPOCH).toNat = srEpoch r ∧
        t.part.startPick = some (srPick r) ∧ t.seq.committed = none ∧ t.fld PCK_START_CNT.DONE = 1 ∧
        t.fld PCK_START_CNT.FAILED = 0 ∧ (t.box mb).busy = none ∧
        t.sram (respArea mb) 32 = responseHeader 0x22 2 0 (rqSeq rq) stOk 0 s.pick.count) ∧
  (∀ (s : State) (mb : Nat) (rq r : List Byte) (j : Joined), s.Asked mb 0x23 rq → s.part.joined = some j → j.origin = true →
      r = startRecord 2 (rqBody rq 0 2) (rqBody rq 4 4) (rqBody rq 8 8) (s.fld PCK_START_CTRL.TIMEOUT) → s.fenced 3 = false →
      s.memberKey = some (srKey r) → srEpoch r = (s.reg PCK_EPOCH).toNat → s.fld PCK_START.STATE = startArmed →
      s.part.startPick = some (srPick r) → s.pickNo + 64 ≤ srPick r → s.childPorts = [] → s.part.starts = [] →
      ∃ t, exec (.commitStart mb) s = .next t ∧ t.fld PCK_START.STATE = startCommitted ∧ t.seq.committed = some (srPick r) ∧
        t.part.epoch.toNat = srEpoch r ∧ t.sync.opid = 1 ∧ t.sync.filter = [] ∧ (t.box mb).busy = none ∧
        t.sram (respArea mb) 32 = responseHeader 0x23 2 0 (rqSeq rq) stOk 0 s.pick.count) ∧
  (∀ (s : State) (mb code : Nat) (i : Instr) (rq : List Byte), s.Asked mb code rq →
      (code = 0x22 ∧ i = .armStart mb) ∨ (code = 0x23 ∧ i = .commitStart mb) → (∀ j, s.part.joined = some j → j.origin = false) →
      ∃ t, exec i s = .next t ∧ Answered mb stBadArg 0 [] rq (s.ran mb) t) ∧
  (∀ (s : State) (mb : Nat) (rq : List Byte), s.Asked mb 0x24 rq → s.programOn = true → s.seq.stopReq = none →
      ∃ t, exec (.stop mb) s = .next t ∧
        t = { s.ran mb with seq := { s.seq with stopReq := some (rqBody rq 0 8, s.pickNo + rqBody rq 8 4, mb) } }) ∧
  (∀ (s : State) (mb : Nat) (rq : List Byte), s.Asked mb 0x24 rq → s.programOn = false ∨ s.seq.stopReq.isSome = true →
      ∃ t, exec (.stop mb) s = .next t ∧ Answered mb (if s.programOn then stBusy else stBadArg) 0 [] rq (s.ran mb) t) ∧
  (∀ (s : State) (mb : Nat) (rq : List Byte), s.Asked mb 0x25 rq → s.pick.inWindow = true → s.seq.yieldReq = none →
      s.swapping = false → s.programOn = true → saveSize s.saveRanges ≤ rqBody rq 0x18 8 →
      ∃ t, exec (.yield_ mb) s = .next t ∧ t = { s.ran mb with
        seq := { s.seq with
          yieldReq := some (rqBody rq 0 8, s.pickNo + rqBody rq 8 4, rqBody rq 0x10 8, mb), yieldFault := false }
        mail := { (s.ran mb).mail with saving := some (rqBody rq 0x10 8, rqBody rq 0x18 8, mb) } }) ∧
  (∀ (s : State) (mb : Nat) (rq : List Byte), s.Asked mb 0x25 rq → s.pick.inWindow = true →
      s.seq.yieldReq.isSome = true ∨ s.swapping = true ∨ s.programOn = false ∨ rqBody rq 0x18 8 < saveSize s.saveRanges →
      ∃ t, exec (.yield_ mb) s = .next t ∧ Answered mb (if s.seq.yieldReq.isSome || s.swapping then stBusy
        else if s.programOn then stExhausted else stBadArg) 0 [] rq (s.ran mb) t) ∧
  (∀ (s : State) (mb : Nat), mb < 64 → s.pick.inWindow = false → exec (.yield_ mb) s = .next s)

/-- R42 to R44, R433 to R435, R437 to R441, R445, R452 to R456, R459, R460: a serving command begins in a background window once the
pseudo-channels of its entry are free, and is answered there: CTX_CREATE takes a FREE entry, CTX_CANCEL ends a context or masks its
row, CTX_DEADLINE and CTX_RELEASE write the entry; VARIANT_LOAD holds its pages and, once no old access is left, writes them. The
serving control takes up a block, commits its rows one by one and finishes it, and a change of a row reaches the regions. -/
def Obligations.ContextsAreServed : Prop :=
  (∀ (s u v : State) (mb n : Nat) (rq : List Byte), s.ctxBegin mb 0x30 s.createEntry = some u → u.Asked mb 0x30 rq →
      u.serving = true → v = (match s.createEntry rq with
        | some n => (u.ran mb).noteAccess .firmware ((u.ran mb).ctxAddr n) 128 false false
        | none => u.ran mb).noteAccess .firmware (rqBody rq 0x18 8) 64 false false →
      (rqBody rq 5 1).testBit 2 = false ∨ v.feature featSpecTree = true → v.createBad rq = none → v.createFault rq = none →
      v.createSlot rq = .ok n →
      ∃ t, exec (.ctxCreate mb) s = .next t ∧ Answered mb stOk 0 (leBytes 4 n) rq (v.setCtx n (newEntry rq)) t ∧
        eget (newEntry rq) enState = ctxReady ∧ eget (newEntry rq) enCommitted = 0 ∧
        eget (newEntry rq) enDeadline = rqBody rq 8 8 ∧ eget (newEntry rq) enSeed = rqBody rq 0x10 8 ∧
        eget (newEntry rq) enMaxLen = rqBody rq 0x30 4) ∧
  (∀ (s u v : State) (mb st d : Nat) (rq : List Byte), s.ctxBegin mb 0x30 s.createEntry = some u → u.Asked mb 0x30 rq →
      u.serving = true → v = (match s.createEntry rq with
        | some n => (u.ran mb).noteAccess .firmware ((u.ran mb).ctxAddr n) 128 false false
        | none => u.ran mb).noteAccess .firmware (rqBody rq 0x18 8) 64 false false →
      (rqBody rq 5 1).testBit 2 = false ∨ v.feature featSpecTree = true →
      ((v.createBad rq = some d ∧ st = stBadArg) ∨
        (v.createBad rq = none ∧ v.createFault rq = none ∧ v.createSlot rq = .error st ∧ d = 0) →
        ∃ t, exec (.ctxCreate mb) s = .next t ∧ Answered mb st d [] rq v t) ∧
      (v.createBad rq = none → v.createFault rq = some d →
        ∃ t, exec (.ctxCreate mb) s = .next t ∧ Answered mb stFault d [] rq (v.noteCreate rq d) t)) ∧
  (∀ (s u v : State) (mb n st : Nat) (rq e : List Byte), s.ctxBegin mb 0x31 namedCtx = some u → u.Asked mb 0x31 rq →
      u.serving = true → n = rqBody rq 0 4 → v = (u.ran mb).noteAccess .firmware ((u.ran mb).ctxAddr n) 128 false false →
      e = v.ctxEntry n → st = eget e enState →
      (st = ctxFree → ∃ t, exec (.ctxCancel mb) s = .next t ∧ Answered mb stBadArg 0 [] rq v t) ∧
      (st ≠ ctxFree → ∃ t, exec (.ctxCancel mb) s = .next t ∧ Answered mb stOk 0 (leBytes 1 st) rq
        (if st = ctxEnded then v
         else match v.rowOf n with
           | some r => if st = ctxActive then (v.setCtx n (setCancel e)).fwMask r causeCancel else v.endContext n stCancelled
           | none => v.endContext n stCancelled) t)) ∧
  (∀ (s u v : State) (mb n : Nat) (rq e : List Byte), s.ctxBegin mb 0x32 namedCtx = some u → u.Asked mb 0x32 rq →
      u.serving = true → n = rqBody rq 0 4 → v = (u.ran mb).noteAccess .firmware ((u.ran mb).ctxAddr n) 128 false false →
      e = v.ctxEntry n →
      (eget e enState = ctxFree ∨ eget e enState = ctxEnded →
        ∃ t, exec (.ctxDeadline mb) s = .next t ∧ Answered mb stBadArg 0 [] rq v t) ∧
      (eget e enState ≠ ctxFree → eget e enState ≠ ctxEnded → v.rowOf n = none → ∃ t, exec (.ctxDeadline mb) s = .next t ∧
        Answered mb stOk 0 [] rq (v.setCtx n (eput e enDeadline (rqBody rq 8 8))) t) ∧
      (∀ r, eget e enState ≠ ctxFree → eget e enState ≠ ctxEnded → v.rowOf n = some r →
        ∃ t, exec (.ctxDeadline mb) s = .next t ∧ (t.row r) = { v.row r with deadline := rqBody rq 8 8 } ∧
          ∀ k, k ≠ r → t.row k = v.row k)) ∧
  (∀ (s u v : State) (mb n : Nat) (rq e : List Byte), s.ctxBegin mb 0x33 namedCtx = some u → u.Asked mb 0x33 rq →
      u.serving = true → n = rqBody rq 0 4 → v = (u.ran mb).noteAccess .firmware ((u.ran mb).ctxAddr n) 128 false false →
      e = v.ctxEntry n →
      (eget e enState = ctxEnded → ∃ t, exec (.ctxRelease mb) s = .next t ∧ Answered mb stOk 0 [] rq
        (({ v with serve := { v.serve with
          freed := sset [] v.serve.freed n (v.kvFrames e), parked := sset [] v.serve.parked n [] } } : State).setCtx n
            (eput (eput e enState ctxFree) enStatus 0)) t) ∧
      (eget e enState = ctxFree → ∃ t, exec (.ctxRelease mb) s = .next t ∧ Answered mb stBadArg 0 [] rq v t) ∧
      (eget e enState ≠ ctxFree → eget e enState ≠ ctxEnded →
        ∃ t, exec (.ctxRelease mb) s = .next t ∧ Answered mb stBusy 0 [] rq v t)) ∧
  (∀ (s : State) (mb : Nat), mb < 64 →
      (s.ctxBegin mb 0x30 s.createEntry = none → exec (.ctxCreate mb) s = .next s) ∧
      (s.ctxBegin mb 0x31 namedCtx = none → exec (.ctxCancel mb) s = .next s) ∧
      (s.ctxBegin mb 0x32 namedCtx = none → exec (.ctxDeadline mb) s = .next s) ∧
      (s.ctxBegin mb 0x33 namedCtx = none → exec (.ctxRelease mb) s = .next s)) ∧
  (∀ (s u v : State) (mb : Nat) (rq data : List Byte) (d : Nat × Nat), s.serve.loading = none →
      s.flag MMU_STATUS.INV_BUSY = false → s.ctxBegin mb 0x34 (fun _ => none) = some u → u.Asked mb 0x34 rq →
      u.serving = true → d = (u.ran mb).variantAt (rqBody rq 0 4) → v = (u.ran mb).noteReads .firmware (rqBody rq 8 8) d.2 →
      (v.vaRead (rqBody rq 8 8) d.2 []).1 = some data →
      (sha256 data = rqBytes rq 0x10 32 → v.vaOk d.1 d.2 false = true →
        ∃ t held, exec (.variantLoad mb) s = .next t ∧ t.serve.loading = some (mb, rqBody rq 8 8, d.1, held) ∧
          (t.box mb).busy = some rq) ∧
      (sha256 data ≠ rqBytes rq 0x10 32 → ∃ t, exec (.variantLoad mb) s = .next t ∧ Answered mb stAuth 0 [] rq v t)) ∧
  (∀ (s : State) (mb : Nat), mb < 64 → s.serve.loading = none → s.flag MMU_STATUS.INV_BUSY = true ∨
      s.ctxBegin mb 0x34 (fun _ => none) = none → exec (.variantLoad mb) s = .next s) ∧
  (∀ (s u : State) (mb src dst n : Nat) (held : List (Nat × BitVec 64)) (left : List FwTouch), mb < 64 →
      s.serve.loading = some (mb, src, dst, held) → s.pick.inWindow = true → s.flag MMU_STATUS.INV_BUSY = false →
      n = (match s.serve.image with | some m => m.layers * 8192 | none => 0) →
      s.touchAll (s.serve.variantLeft.getD (s.variantTouches dst n held)) = (left, u) →
      (left ≠ [] → exec (.variantLoad mb) s = .next { u with serve := { u.serve with variantLeft := some left } }) ∧
      (∀ (v : State) (rq data : List Byte), left = [] → (s.box mb).busy = some rq →
        v = (({ u with serve := { u.serve with loading := none, variantLeft := none } } : State).restorePages held).noteReads
          .firmware src n → (v.vaRead src n []).1 = some data →
        (sha256 data = rqBytes rq 0x10 32 → v.vaOk dst n false = true →
          ∃ t, exec (.variantLoad mb) s = .next t ∧ Answered mb stOk 0 [] rq (v.vaStore dst data false) t) ∧
        (sha256 data ≠ rqBytes rq 0x10 32 → ∃ t, exec (.variantLoad mb) s = .next t ∧ Answered mb stAuth 0 [] rq v t))) ∧
  (∀ (s : State) (mb : Nat) (l : Nat × Nat × Nat × List (Nat × BitVec 64)), mb < 64 → s.serve.loading = some l →
      l.1 ≠ mb ∨ s.pick.inWindow = false ∨ s.flag MMU_STATUS.INV_BUSY = true → exec (.variantLoad mb) s = .next s) ∧
  (∀ (s : State) (n l : Nat) (h : List Byte), s.serving = true → s.flag CTX_CTRL.EN = true → s.pick.inWindow = false →
      s.fenced 3 = false → s.serve.running = none → s.serve.finished < (s.obj 88).value.toNat → s.commitAt = some (n, l) →
      s.linesFree s.commitAt 0 1 false = true → (s.region n).badLines = [] → h = (s.region n).line l → l < 524288 →
      1 ≤ leAt h 8 2 → leAt h 8 2 ≤ s.batch → leAt h 10 54 = 0 → s.serve.lastStep ≠ some (leAt h 0 8) →
      exec (.commitBlock 0 false) s =
        .next { s with serve := { s.serve with running := some (leAt h 0 8, leAt h 8 2, 0), begun := none } }) ∧
  (∀ (s : State) (step rows r : Nat), s.serving = true → s.flag CTX_CTRL.EN = true → s.pick.inWindow = false →
      s.fenced 3 = false → s.serve.running = some (step, rows, r) → s.linesFree s.commitAt (4 + 8 * r) 8 false = true →
      s.linesFree s.rowBlock r 1 true = true → s.serve.begun = none →
      exec (.commitBlock 0 true) s = .next { s with serve := { s.serve with begun := some (s.row r).cause } } ∧
      ∃ t, exec (.commitBlock 1 false) s = .next t ∧ t.serve.begun = none ∧
        (r + 1 < rows → t.serve.running = some (step, rows, r + 1) ∧ t.serve.finished = s.serve.finished) ∧
        (rows ≤ r + 1 → t.serve.running = none ∧ t.serve.finished = s.serve.finished + 1 ∧ t.serve.lastStep = some step)) ∧
  (∀ (s : State) (n : Nat) (b : Bool), s.serving = false ∨ s.flag CTX_CTRL.EN = false ∨ s.pick.inWindow = true ∨
      s.fenced 3 = true → exec (.commitBlock n b) s = .next s) ∧
  (∀ (s : State) (c : MaskChange) (rest : List MaskChange), s.serve.changes = c :: rest →
      ∃ t, exec .rowMaskPropagate s = .next t ∧ t.now = max s.now c.due ∧ t.serve = { s.serve with changes := rest } ∧
        (∀ n ∈ s.regionsOn, t.region n = { s.region n with
          live := ((s.region n).live.filter (fun k => k != c.row) ++ (if c.live then [c.row] else [])) }) ∧
        (∀ n, n ∉ s.regionsOn → t.region n = s.region n) ∧
        { t with now := s.now, regions := s.regions, serve := s.serve } = s) ∧
  (∀ s : State, s.serve.changes = [] → exec .rowMaskPropagate s = .next s)

/-- R472 to R476, R480 to R486: a weight fetch that passes its checks asks for the chunks of the module, and is answered with its
version recorded once all of them have verified; a chunk that does not verify is fetched again, and the third failure ends the
operation. A swap is armed in a background window, copies layer after layer, reopens each, and records the version. -/
def Obligations.WeightsAreFetchedAndSwapped : Prop :=
  (∀ (s : State) (mb : Nat) (map rq : List Byte), s.Asked mb 0x40 rq → s.weights.op.isSome = true →
      ∃ t, exec (.weightFetch mb map) s = .next t ∧ Answered mb stBusy 0 (leBytes 4 0) rq (s.ran mb) t) ∧
  (∀ (s : State) (mb : Nat) (map rq : List Byte), s.Asked mb 0x40 rq → s.weights.op = none →
      s.part.joined = none ∨ (rqBody rq 0x0C 1 ≠ 1 ∧ s.programOn = true) ∨ 2 ≤ rqBody rq 0x0C 1 →
      ∃ t, exec (.weightFetch mb map) s = .next t ∧ Answered mb stBadArg 0 (leBytes 4 0) rq (s.ran mb) t) ∧
  (∀ (s : State) (mb : Nat) (map rq : List Byte) (m : ShardMap) (staged : Bool), s.Asked mb 0x40 rq → s.weights.op = none →
      s.part.joined.isSome = true → rqBody rq 0x0C 1 = bnat staged → staged = true ∨ s.programOn = false → m = s.shardMap map →
      (map.length ≠ rqBody rq 8 4 ∨ sha256 map ≠ rqBytes rq 0x10 32 →
        ∃ t, exec (.weightFetch mb map) s = .next t ∧ Answered mb stAuth 0 (leBytes 4 0) rq ((s.ran mb).askMap rq) t) ∧
      (map.length = rqBody rq 8 4 → sha256 map = rqBytes rq 0x10 32 → mapHeaderOk map = false →
        ∃ t, exec (.weightFetch mb map) s = .next t ∧ Answered mb stBadArg 0 (leBytes 4 0) rq ((s.ran mb).askMap rq) t) ∧
      (∀ i, map.length = rqBody rq 8 4 → sha256 map = rqBytes rq 0x10 32 → mapHeaderOk map = true →
        s.badChunk map m staged = some i →
        ∃ t, exec (.weightFetch mb map) s = .next t ∧ Answered mb stBadArg i (leBytes 4 i) rq ((s.ran mb).askMap rq) t) ∧
      (map.length = rqBody rq 8 4 → sha256 map = rqBytes rq 0x10 32 → mapHeaderOk map = true → s.badChunk map m staged = none →
        ∃ t, exec (.weightFetch mb map) s = .next t ∧
          .mapRead (rqBody rq 0 8 / 2 ^ 48) (rqBody rq 0 8 % 2 ^ 48) ((rqBody rq 8 4 + 63) / 64) ∈ t.outbox ∧
          (m.chunks ≠ [] → t.fld SHT_WEIGHT_STAT.OP = 1 ∧ t.weights.staged = none ∧ t.weights.versions = s.weights.versions ∧
            (t.box mb).busy = some rq ∧ ∃ o, t.weights.op = some o ∧ o.swap = false ∧ o.staged = staged ∧ o.map = m ∧
              o.mailbox = mb ∧ o.left = m.chunks.map (fun c => c.index)) ∧
          (m.chunks = [] → t.weights.op = none ∧ (t.box mb).busy = none ∧
            t.weights.staged = (if staged then some m else none) ∧
            (staged = false → t.fld SHT_WEIGHT_VER.VERSION = m.version ∧
              ∀ l, l < m.layers → sget 0 t.weights.versions l = m.version)))) ∧
  (∀ (s : State) (o : WeightOp) (c : Chunk) (i : Nat), s.weights.op = some o → o.map.chunk i = some c → s.chunkHere o i = true →
      o.swap = false → i ∉ o.bad →
      sha256 ((List.range c.lines).flatMap (fun n => sget [] o.got (2 ^ 20 * i + n))) = c.digest →
      ((∃ j ∈ o.left, j ≠ i) → exec (.chunkLanded i) s = .next (s.setWeightOp (some { o with
        left := o.left.filter (fun j => j != i), got := sfilter o.got (fun k => k / 2 ^ 20 != i) }))) ∧
      (∀ rq, o.left = [i] → o.mailbox < 64 → (s.box o.mailbox).busy = some rq →
        ∃ t, exec (.chunkLanded i) s = .next t ∧ t.weights.op = none ∧ (t.box o.mailbox).busy = none ∧
          t.sram (respArea o.mailbox) 32 = responseHeader (rqCode rq) 2 4 (rqSeq rq) stOk 0 s.pick.count ∧
          (o.staged = true → t.weights.staged = some o.map ∧ t.weights.versions = s.weights.versions) ∧
          (o.staged = false → t.fld SHT_WEIGHT_VER.VERSION = o.map.version % 2 ^ 32 ∧
            ∀ l, l < o.map.layers → sget 0 t.weights.versions l = o.map.version))) ∧
  (∀ (s : State) (o : WeightOp) (c : Chunk) (i : Nat), s.weights.op = some o → o.map.chunk i = some c → s.chunkHere o i = true →
      i ∈ o.bad → o.swap = false ∨ sget 0 o.fails i ≠ 0 →
      (sget 0 o.fails i < 2 → ∃ t p, exec (.chunkLanded i) s = .next t ∧ t.weights.op = some p ∧ p.left = o.left ∧
        sget 0 p.fails i = sget 0 o.fails i + 1 ∧ i ∉ p.bad ∧
        t.fld SHT_WEIGHT_STAT.RETRIES = min (s.fld SHT_WEIGHT_STAT.RETRIES + 1) (2 ^ SHT_WEIGHT_STAT.RETRIES.len - 1)) ∧
      (∀ rq, 2 ≤ sget 0 o.fails i → o.mailbox < 64 → (s.box o.mailbox).busy = some rq →
        ∃ t, exec (.chunkLanded i) s = .next t ∧ t.weights.op = none ∧ (t.box o.mailbox).busy = none ∧
          t.sram (respArea o.mailbox) 32 = responseHeader (rqCode rq) 2 4 (rqSeq rq) stFault (if o.swap then 0 else i) s.pick.count ∧
          (o.swap = false → t.weights.versions = s.weights.versions) ∧
          (∀ l r, o.swap = true → o.layers = l :: r → sget 0 t.weights.versions l = noVersion))) ∧
  (∀ (s u : State) (o : WeightOp) (c : Chunk) (i : Nat), s.weights.op = some o → o.map.chunk i = some c → s.chunkHere o i = true →
      o.swap = true → sget 0 o.fails i = 0 → s.copyChunk o c = (true, u) →
      exec (.chunkLanded i) s = .next (u.setWeightOp (some { o with
        left := o.left.filter (fun j => j != i), got := sfilter o.got (fun k => k / 2 ^ 20 != i) }))) ∧
  (∀ (s : State) (i : Nat), (∀ o, s.weights.op = some o → o.map.chunk i = none ∨ s.chunkHere o i = false) →
      exec (.chunkLanded i) s = .next s) ∧
  (∀ (s : State) (mb : Nat) (rq : List Byte), s.Asked mb 0x41 rq → s.pick.inWindow = true →
      (s.weights.op.isSome = true ∨ s.seq.yieldReq.isSome = true →
        ∃ t, exec (.weightSwap mb) s = .next t ∧ Answered mb stBusy 0 (leBytes 4 0) rq (s.ran mb) t) ∧
      (s.weights.op = none → s.seq.yieldReq = none →
        s.weights.gates = none ∨ s.weights.staged = none ∨ (∃ m, s.weights.staged = some m ∧ m.digest ≠ rqBytes rq 0x10 32) →
        ∃ t, exec (.weightSwap mb) s = .next t ∧ Answered mb stBadArg 0 (leBytes 4 0) rq (s.ran mb) t) ∧
      (∀ m w n, s.weights.op = none → s.seq.yieldReq = none → s.weights.gates = some (w, n) → s.weights.staged = some m →
        m.digest = rqBytes rq 0x10 32 →
        (s.programOn = true → rqBody rq 0x30 8 ≤ (s.obj w).value.toNat →
          ∃ t, exec (.weightSwap mb) s = .next t ∧ Answered mb stEpochStale 0 (leBytes 4 0) rq (s.ran mb) t) ∧
        (s.programOn = true → (s.obj w).value.toNat < rqBody rq 0x30 8 → 1 ≤ m.layers →
          exec (.weightSwap mb) s = .next ((s.ran mb).setWeightOp (some ⟨true, false, mb, m, rqBody rq 0x30 8, true,
            List.range m.layers, false, [], [], [], [], []⟩))) ∧
        (s.programOn = false → (∃ l, l < m.layers ∧ sget 0 s.weights.versions l ≠ m.version) →
          exec (.weightSwap mb) s = .next ((s.ran mb).setWeightOp (some ⟨true, false, mb, m, rqBody rq 0x30 8, false,
            (List.range m.layers).filter (fun l => sget 0 s.weights.versions l != m.version), false, [], [], [], [], []⟩))))) ∧
  (∀ (s : State) (mb : Nat), mb < 64 → s.pick.inWindow = false → exec (.weightSwap mb) s = .next s) ∧
  (∀ (s : State) (o : WeightOp) (l : Nat) (r : List Nat), s.weights.op = some o → o.layers = l :: r → o.copying = false →
      (o.gated = false ∨ l ∈ s.weights.cuts → exec .layerCopyStart s = .next ((s.readStage o l).setWeightOp (some { o with
        copying := true, left := (o.map.chunks.filter (fun c => c.layer == l)).map (fun c => c.index), fails := [] }))) ∧
      (o.gated = true → l ∉ s.weights.cuts → exec .layerCopyStart s = .next s)) ∧
  (∀ (s : State) (o : WeightOp) (l : Nat) (r : List Nat), s.weights.op = some o → o.swap = true → o.copying = true →
      o.left = [] → o.layers = l :: r →
      ∃ t, exec .layerCopyComplete s = .next t ∧ sget 0 t.weights.versions l = o.map.version ∧
        (∀ w n, s.weights.gates = some (w, n) → o.gated = true →
          (t.obj (w + 3 * l + 1)).value = BitVec.ofNat 64 (o.k + 1) ∧ t.weights.cuts = s.weights.cuts.filter (fun j => j != l)) ∧
        (o.gated = false → t.sync = s.sync) ∧
        (r ≠ [] → t.weights.op = some { o with layers := r, copying := false } ∧ t.weights.staged = s.weights.staged) ∧
        (r = [] → t.weights.op = none ∧ t.weights.staged = none ∧ t.fld SHT_WEIGHT_VER.VERSION = o.map.version % 2 ^ 32)) ∧
  (∀ s : State, s.weights.op = none → exec .layerCopyStart s = .next s ∧ exec .layerCopyComplete s = .next s) ∧
  (∀ (s : State) (o : WeightOp), s.weights.op = some o → o.swap = false ∨ o.copying = false ∨ o.left ≠ [] →
      exec .layerCopyComplete s = .next s)

/-- R609, R611, R613, R614, R616, R618, R623: a snapshot is armed for a pick to come and read once it holds it; a perturbation
session is opened, applied and closed in background windows by its mailbox; a rehearsal waits for its pick; a rehearsed link drop
is released after its time, or ends with its limit; and a trace record is queued for its place in the ring. -/
def Obligations.ObservedAndPerturbed : Prop :=
  (∀ (s : State) (mb p : Nat) (rq : List Byte), s.Asked mb 0x50 rq → p = rqBody rq 0 8 →
      (p = 0 → ∃ t, exec (.snapshotArm mb) s = .next t ∧
        Answered mb stOk 0 [] rq { s.ran mb with obs := { s.obs with armed := none } } t) ∧
      (p ≠ 0 → s.pickState = pickIdle ∨ p ≤ s.pickNo → ∃ t, exec (.snapshotArm mb) s = .next t ∧
        Answered mb stBadArg 0 [] rq (s.ran mb) t) ∧
      (s.pickState ≠ pickIdle → s.pickNo < p →
        (s.obs.armed = none → ∃ t, exec (.snapshotArm mb) s = .next t ∧
          Answered mb stOk 0 [] rq { s.ran mb with obs := { s.obs with armed := some p } } t) ∧
        (∀ q, s.obs.armed = some q → ∃ t, exec (.snapshotArm mb) s = .next t ∧
          Answered mb (if q = p then stOk else stBusy) 0 [] rq (s.ran mb) t))) ∧
  (∀ (s : State) (mb p : Nat) (rq : List Byte), s.Asked mb 0x51 rq → p = rqBody rq 0 8 →
      (s.snapshotOf p = true → ∃ t, exec (.snapshotRead mb) s = .next t ∧ Answered mb stOk 0 (leBytes 8 p) rq (s.ran mb) t) ∧
      (s.snapshotOf p = false → ∃ t, exec (.snapshotRead mb) s = .next t ∧
        Answered mb (if s.obs.armed = some p then stBusy else stBadArg) 0 [] rq (s.ran mb) t)) ∧
  (∀ (s : State) (mb : Nat) (rq : List Byte), s.Asked mb 0x70 rq → s.pick.inWindow = true → rqBody rq 0 1 = 0 →
      (s.obs.rehearse.isSome = true → ∃ t, exec (.perturb mb) s = .next t ∧
        Answered mb stFeatureConflict 0 [] rq (s.ran mb) t) ∧
      (s.obs.rehearse = none → s.flag PTB_STATUS.OPEN = true → ∃ t, exec (.perturb mb) s = .next t ∧
        Answered mb stBusy 0 [] rq (s.ran mb) t) ∧
      (s.obs.rehearse = none → s.flag PTB_STATUS.OPEN = false → ∃ t u, exec (.perturb mb) s = .next t ∧
        Answered mb stOk 0 [] rq u t ∧ u.flag PTB_STATUS.OPEN = true ∧ u.fld PTB_STATUS.SESSION = mb ∧
        SameRegs s u [PTB_STATUS] ∧ { u with regs := s.regs, mail := s.mail } = s)) ∧
  (∀ (s : State) (mb : Nat) (rq : List Byte), s.Asked mb 0x70 rq → s.pick.inWindow = true →
      rqBody rq 0 1 = 1 ∨ rqBody rq 0 1 = 2 →
      s.flag PTB_STATUS.OPEN = false ∨ s.fld PTB_STATUS.SESSION ≠ mb →
      ∃ t, exec (.perturb mb) s = .next t ∧
        Answered mb (if s.flag PTB_STATUS.OPEN then stBusy else stBadArg) 0 [] rq (s.ran mb) t) ∧
  (∀ (s : State) (mb : Nat) (rq : List Byte), s.Asked mb 0x70 rq → s.pick.inWindow = true → rqBody rq 0 1 = 1 →
      s.flag PTB_STATUS.OPEN = true → s.fld PTB_STATUS.SESSION = mb →
      (∀ i, badPair (ptbPairs rq) = some i → ∃ t, exec (.perturb mb) s = .next t ∧ Answered mb stBadArg i [] rq (s.ran mb) t) ∧
      (badPair (ptbPairs rq) = none → ∃ t, exec (.perturb mb) s = .next t ∧ Answered mb stOk 0 [] rq
        ((ptbPairs rq).foldl (fun (u : State) e => u.writeReg (0xF0000 + e.1) (BitVec.ofNat 32 e.2)) (s.ran mb)) t)) ∧
  (∀ (s : State) (mb : Nat) (rq : List Byte), s.Asked mb 0x70 rq → s.pick.inWindow = true → rqBody rq 0 1 = 2 →
      s.flag PTB_STATUS.OPEN = true → s.fld PTB_STATUS.SESSION = mb →
      ∃ t, exec (.perturb mb) s = .next t ∧ t.flag PTB_STATUS.OPEN = false ∧ t.fld PTB_STATUS.SESSION = 0x3F ∧
        t.obs.slots = [] ∧ (t.box mb).busy = none ∧
        t.sram (respArea mb) 32 = responseHeader 0x70 2 0 (rqSeq rq) stOk 0 s.pick.count) ∧
  (∀ (s : State) (mb : Nat), mb < 64 → s.pick.inWindow = false → exec (.perturb mb) s = .next s) ∧
  (∀ (s : State) (mb kind target pick : Nat) (rq : List Byte), s.Asked mb 0x71 rq → kind = rqBody rq 0 1 →
      target = rqBody rq 2 2 → pick = rqBody rq 8 8 →
      (s.flag PTB_STATUS.OPEN = true → ∃ t, exec (.rehearse mb) s = .next t ∧
        Answered mb stFeatureConflict 0 [] rq (s.ran mb) t) ∧
      (s.flag PTB_STATUS.OPEN = false → s.obs.rehearse.isSome = true → ∃ t, exec (.rehearse mb) s = .next t ∧
        Answered mb stBusy 0 [] rq (s.ran mb) t) ∧
      (s.flag PTB_STATUS.OPEN = false → s.obs.rehearse = none → pick ≤ s.pickNo ∨ 2 < kind ∨ (kind = 0 ∧ 24 ≤ target) ∨
          (kind ≠ 0 ∧ target ≠ s.fld RTE_SELF.PHYSICAL) →
        ∃ t, exec (.rehearse mb) s = .next t ∧ Answered mb stBadArg 0 [] rq (s.ran mb) t) ∧
      (s.flag PTB_STATUS.OPEN = false → s.obs.rehearse = none → s.pickNo < pick →
          (kind = 0 ∧ target < 24) ∨ ((kind = 1 ∨ kind = 2) ∧ target = s.fld RTE_SELF.PHYSICAL) →
        ∃ t, exec (.rehearse mb) s = .next t ∧ t.obs = { s.obs with rehearse := some ⟨kind, target, pick, mb, none⟩ } ∧
          t.flag PTB_STATUS.REHEARSE = true ∧ (t.box mb).busy = some rq ∧ SameRegs s t [PTB_STATUS] ∧
          { t with obs := s.obs, regs := s.regs, mail := s.mail } = s)) ∧
  (∀ (s : State) (p pick mb begun due : Nat), s.obs.rehearse = some ⟨0, p, pick, mb, some begun⟩ → p < 24 →
      (s.port p).held = some due →
      ∃ t, exec .rehearsalLinkRelease s = .next t ∧ t.now = max s.now due ∧ (t.port p).held = none ∧
        t.fld (LNK_STATUS.STATE p) =
          (if s.flag (LNK_CTRL.EN p) && !s.mgt.holdD1 then lnkDetect else s.fld (LNK_STATUS.STATE p)) ∧
        (∀ q, q ≠ p → t.port q = s.port q) ∧ SameRegs s t [LNK_STATUS p] ∧ SameMemory s t) ∧
  (∀ (s : State) (p pick mb begun : Nat) (rq : List Byte), s.obs.rehearse = some ⟨0, p, pick, mb, some begun⟩ → mb < 64 →
      (s.box mb).busy = some rq →
      ∃ t, exec .rehearsalLinkTimeout s = .next t ∧ t.now = max s.now (begun + 100 * msCycles) ∧ t.obs.rehearse = none ∧
        t.fld PTB_STATUS.REHEARSE = 0 ∧ (t.box mb).busy = none ∧
        t.sram (respArea mb) 32 = responseHeader (rqCode rq) 2 0 (rqSeq rq) stFault 0 s.pick.count) ∧
  (∀ s : State, (∀ r, s.obs.rehearse = some r → r.kind ≠ 0 ∨ r.running = none) →
      exec .rehearsalLinkRelease s = .next s ∧ exec .rehearsalLinkTimeout s = .next s) ∧
  (∀ (s : State) (r : TraceRec) (rest : List TraceRec) (im : ImageSt) (a n : Nat), s.obs.trace = r :: rest →
      s.mail.image = some im → n = s.obs.traceCount → s.obs.traceDropped = 0 →
      traceAt im.trace 0 (32 * (n % (im.trace.foldl (fun x y => x + y) 0 / 32))) = some a →
      ∃ t, exec .traceWrite s = .next t ∧ t.obs = { s.obs with trace := rest, traceCount := n + 1 } ∧
        t.fld SEQ_TRACE_HEAD.SEQ = (n + 1) % 2 ^ 32 ∧
        (t.pch (pchOf a)).queue = (s.pch (pchOf a)).queue ++ [⟨.trace, a, some (leBytes 4 n ++ leBytes 1 r.type ++
          leBytes 1 r.source ++ leBytes 2 r.cycle ++ leBytes 8 r.pick.toNat ++ padTo 16 r.data), none, false, 0, false⟩] ∧
        SameMemory s t ∧ SameRegs s t [SEQ_TRACE_HEAD]) ∧
  (∀ (s : State) (r : TraceRec) (rest : List TraceRec) (im : ImageSt) (a b n : Nat), s.obs.trace = r :: rest →
      s.mail.image = some im → n = s.obs.traceCount → s.obs.traceDropped ≠ 0 →
      traceAt im.trace 0 (32 * (n % (im.trace.foldl (fun x y => x + y) 0 / 32))) = some a →
      traceAt im.trace 0 (32 * ((n + 1) % (im.trace.foldl (fun x y => x + y) 0 / 32))) = some b →
      ∃ t, exec .traceWrite s = .next t ∧ t.obs = { s.obs with trace := rest, traceDropped := 0, traceCount := n + 2 } ∧
        t.fld SEQ_TRACE_HEAD.SEQ = (n + 2) % 2 ^ 32 ∧
        ⟨.trace, a, some (traceBytes n ⟨7, 0xFF, s.pickCycle, s.pick.count, leBytes 4 s.obs.traceDropped⟩), none, false, 0, false⟩ ∈
          (t.pch (pchOf a)).queue ∧
        ⟨.trace, b, some (traceBytes (n + 1) r), none, false, 0, false⟩ ∈ (t.pch (pchOf b)).queue ∧ SameMemory s t) ∧
  (∀ (s : State), s.obs.trace = [] → exec .traceWrite s = .next s)

/-- R535, R536, R539, R541 to R545, R578: FENCE, by mailbox, by message or by the pin, fences the domains named and begins or joins a
drain; the drain ends with its time and the answers, by force at its limit; UNFENCE restores what is not in reset; RESET_DOMAIN
resets a domain that is fenced and drained, waits where it is not, and is refused as the spec says; a reset ends with the domain
serving and its command answered. A message whose signature does not verify is answered ST_AUTH. -/
def Obligations.FencesAndResets : Prop :=
  (∀ (s : State) (mb mask : Nat) (rq : List Byte), s.Asked mb 0x60 rq → mask = rqBody rq 0 1 → mask ≠ 0 →
      ∃ t d, exec (.fence mb) s = .next t ∧ t.fence.drain = some d ∧ mb ∈ d.boxes ∧
        (∀ k, k ∈ domainsOf mask → t.fenced k = true ∧ d.domains.testBit k = true) ∧
        (∀ k, 1 ≤ k → k ≤ 3 → mask.testBit k = false → t.fenced k = s.fenced k) ∧
        (s.fence.drain = none → d.since = t.now) ∧
        (s.fenced 3 = false → mask.testBit 3 = true → t.weights.op = none ∧ t.seq.yieldReq = none ∧ t.serve.rows = [])) ∧
  (∀ (s : State) (mb code : Nat) (i : Instr) (rq : List Byte), s.Asked mb code rq → rqBody rq 0 1 = 0 →
      (code = 0x60 ∧ i = .fence mb) ∨ (code = 0x61 ∧ i = .unfence mb) ∨ (code = 0x62 ∧ i = .resetDomain mb) →
      ∃ t, exec i s = .next t ∧ Answered mb stBadArg 0 [] rq (s.ran mb) t) ∧
  (∀ (s : State) (mb mask : Nat) (rq : List Byte), s.Asked mb 0x61 rq → mask = rqBody rq 0 1 → mask ≠ 0 →
      (s.fence.pinLow = false → ∃ t u, exec (.unfence mb) s = .next t ∧ Answered mb stOk 0 [] rq u t ∧
        (∀ k, 1 ≤ k → k ≤ 3 → u.fenced k =
          (s.fenced k && !(mask.testBit k && s.fence.resets.all (fun r => r.domain != k)))) ∧
        SameRegs s u [MGT_FENCE] ∧ { u with regs := s.regs, obs := s.obs, mail := s.mail } = s) ∧
      (s.fence.pinLow = true → ∃ t, exec (.unfence mb) s = .next t ∧ Answered mb stOk 0 [] rq (s.ran mb) t)) ∧
  (∀ (s : State) (mb mask d : Nat) (rq : List Byte), s.Asked mb 0x62 rq → mask = rqBody rq 0 1 → 1 ≤ d → d ≤ 3 →
      mask = 2 ^ d →
      ((d ≠ 3 ∧ s.fenced 3 = false) ∨ (d = 3 ∧ s.flag CLK_REF_STATUS.REF_LOSS = true) →
        ∃ t, exec (.resetDomain mb) s = .next t ∧ Answered mb stBadArg 0 [] rq (s.ran mb) t) ∧
      ((d = 3 ∨ s.fenced 3 = true) → (d = 3 → s.flag CLK_REF_STATUS.REF_LOSS = false) →
        (∃ r ∈ s.fence.resets, r.domain = d) ∨ (∃ a ∈ s.fence.after, a.1 = d) →
        ∃ t, exec (.resetDomain mb) s = .next t ∧ Answered mb stBusy 0 [] rq (s.ran mb) t) ∧
      ((d = 3 ∨ s.fenced 3 = true) → (d = 3 → s.flag CLK_REF_STATUS.REF_LOSS = false) → s.fence.resets = [] → s.fence.after = [] →
        s.fence.dropped = [] →
        (s.fenced d = true → s.fence.drain = none → ∃ t, exec (.resetDomain mb) s = .next t ∧
          t.fence.resets = [⟨d, s.now + (if d = 1 then 100 * usCycles else if d = 2 then msCycles else 400 * usCycles), some mb⟩] ∧
          (t.box mb).busy = some rq ∧
          (d = 1 → t.ports = [] ∧ t.router = {} ∧ t.part = {} ∧ t.reed = {}) ∧
          (d = 2 → t.mmu.cache = [] ∧ t.mmu.walks = [] ∧ t.cxl = [] ∧ t.hbmStacks = [] ∧ t.hbm.selfRefresh = true ∧
            t.hbm.mem = s.hbm.mem ∧ t.ports = s.ports) ∧
          (d = 3 → t.seq = {} ∧ t.sync = {} ∧ t.shuttles = [] ∧ t.faultQ = [] ∧ t.mail.image = none ∧ t.mail.locked = none)) ∧
        (s.fenced d = false ∨ s.fence.drain.isSome = true → ∃ t, exec (.resetDomain mb) s = .next t ∧
          t.fence.after = [(d, some mb)] ∧ t.fenced d = true ∧ t.fence.drain.isSome = true))) ∧
  (∀ (s : State) (since mask mb us : Nat) (rq : List Byte), s.fence.drain = some ⟨since, mask, [mb]⟩ → s.fence.after = [] →
      (∀ k, k ∈ domainsOf mask → s.drained k = true) → s.now < since + 50 * usCycles → mb < 64 → (s.box mb).busy = some rq →
      us = (s.now - since) / usCycles →
      ∃ t, exec .fenceDrainEnd s = .next t ∧ t.fence = { s.fence with drain := none } ∧ t.fld MGT_FENCE.DRAIN_US = us ∧
        t.flag MGT_FENCE.FORCED = s.flag MGT_FENCE.FORCED ∧ t.now = s.now ∧ (t.box mb).busy = none ∧
        t.sram (respArea mb) 32 = responseHeader (rqCode rq) 2 4 (rqSeq rq) stOk 0 s.pick.count) ∧
  (∀ (s : State) (since mask : Nat), s.fence.drain = some ⟨since, mask, []⟩ → s.fence.after = [] →
      (∃ k, k ∈ domainsOf mask ∧ s.drained k = false) ∨ since + 50 * usCycles ≤ s.now →
      ∃ t, exec .fenceDrainEnd s = .next t ∧ t.fence.drain = none ∧ t.flag MGT_FENCE.FORCED = true ∧
        t.now = max s.now (since + 50 * usCycles) ∧
        t.fld MGT_RESET_COUNT.FORCED = min (s.fld MGT_RESET_COUNT.FORCED + 1) 255) ∧
  (∀ (s : State) (since mask d : Nat), s.fence.drain = some ⟨since, mask, []⟩ → s.fence.after = [(d, none)] → s.fence.resets = [] → 1 ≤ d → d ≤ 3 →
      (∀ k, k ∈ domainsOf mask → s.drained k = true) → s.now < since + 50 * usCycles →
      ∃ t, exec .fenceDrainEnd s = .next t ∧ t.fence.drain = none ∧ t.fence.after = [] ∧
        t.fence.resets = [⟨d, s.now + resetTime d, none⟩]) ∧
  (∀ s : State, s.fence.drain = none → s.fence.after = [] → exec .fenceDrainEnd s = .next s) ∧
  (∀ s : State, ∃ t d, exec .fenceN s = .next t ∧ t.fence.pinLow = true ∧ t.flag MGT_FENCE.HW = true ∧
      (∀ k, 1 ≤ k → k ≤ 3 → t.fenced k = true ∧ d.domains.testBit k = true) ∧ t.fence.drain = some d) ∧
  (∀ s : State, ∃ t, exec .fenceNRelease s = .next t ∧ t.fence = { s.fence with pinLow := false } ∧
      t.flag MGT_FENCE.HW = false ∧ (∀ k, 1 ≤ k → k ≤ 3 → t.fenced k = s.fenced k) ∧ SameRegs s t [MGT_FENCE] ∧
      { t with fence := s.fence, regs := s.regs } = s) ∧
  (∀ (s : State) (d due mb : Nat) (rq : List Byte), 1 ≤ d → d ≤ 3 → s.fence.resets = [⟨d, due, some mb⟩] → mb < 64 →
      (s.box mb).busy = some rq → s.fence.dropped = [] →
      ∃ t, exec (.domainResetComplete d) s = .next t ∧ t.now = max s.now due ∧ t.fence.resets = [] ∧
        t.fenced d = (s.fenced d && s.fence.pinLow) ∧ (t.box mb).busy = none ∧
        t.sram (respArea mb) 32 = responseHeader (rqCode rq) 2 0 (rqSeq rq) stOk 0 s.pick.count ∧
        (d = 1 → ∀ p, p < 24 → s.flag (LNK_CTRL.EN p) = true → t.fld (LNK_STATUS.STATE p) = lnkDetect) ∧
        (d = 2 → t.hbm.selfRefresh = false ∧ t.reg MMU_ROOT = s.mmu.rootRec ∧ t.flag MMU_CTRL.EN = true)) ∧
  (∀ (s : State) (d : Nat), 1 ≤ d → d ≤ 3 → (∀ r ∈ s.fence.resets, r.domain ≠ d) →
      exec (.domainResetComplete d) s = .next s) ∧
  (∀ (s : State) (h : MsgHead) (domains : BitVec 8) (sig : List Byte) (op : Nat) (i : Instr), s.mgtServes = true →
      (op = opFence ∧ i = .fenceMessage h domains sig) ∨ (op = opUnfence ∧ i = .unfenceMessage h domains sig) ∨
        (op = opResetDomain ∧ i = .resetDomainMessage h domains sig) →
      ∃ t, exec i s = .next t ∧
        (s.signedBy s.fmKey op h [domains] sig = false →
          t = { s with outbox := s.outbox ++ [.message 0 op stAuth (answerMessage op h.seq.toNat stAuth [])] }) ∧
        (s.signedBy s.fmKey op h [domains] sig = true → op = opFence → domainsOk domains.toNat = true →
          ∀ k, k ∈ domainsOf domains.toNat → t.fenced k = true) ∧
        (s.signedBy s.fmKey op h [domains] sig = true → op = opUnfence → domainsOk domains.toNat = true →
          s.fence.pinLow = false → t.outbox = s.outbox ++ [.message 0 op stOk (answerMessage op h.seq.toNat stOk [])] ∧
          ∀ k, 1 ≤ k → k ≤ 3 → t.fenced k =
            (s.fenced k && !(domains.getLsbD k && s.fence.resets.all (fun r => r.domain != k)))) ∧
        (s.signedBy s.fmKey op h [domains] sig = true → op = opResetDomain → domains = 1 →
          t.mgt.boots = s.mgt.boots + 1 ∧ t.mgt.stage = 0 ∧ t.mgt.up = false ∧ t.seq = {} ∧ t.ports = [] ∧ t.hbm = { cxlMem := s.hbm.cxlMem, cxlLife := s.hbm.cxlLife } ∧
            t.smu = s.smu ∧ t.outbox = s.outbox ++ [.message 0 op stOk (answerMessage op h.seq.toNat stOk [])])) ∧
  (∀ (s : State) (h : MsgHead) (domains : BitVec 8) (sig : List Byte), s.mgtServes = false →
      exec (.fenceMessage h domains sig) s = .next s ∧ exec (.unfenceMessage h domains sig) s = .next s ∧
        exec (.resetDomainMessage h domains sig) s = .next s)

/-- R573, R576 to R583, R603, R604, R650: management answers its messages while it serves; a signed one is acted on only where its
signature verifies, and draws a new nonce; a relayed request makes its mailbox pending; the oldest event is sent and the oldest log
record is written, at most a thousand in a second; a sensor's reading is kept within its range and may raise the warning; the
management watchdog restarts the core alone, and a thermal trip removes the logic's rails. -/
def Obligations.ManagementServes : Prop :=
  (∀ (s : State) (h : MsgHead), s.mgtUp = true → exec (.getInfo h) s = .next { s with
      outbox := s.outbox ++ [.message 0 1 stOk (answerMessage 1 h.seq.toNat stOk (s.identifyBody ++ leBytes 4 (s.reg MGT_BOOT).toNat))] }) ∧
  (∀ (s : State) (h : MsgHead), s.mgtUp = false → exec (.getInfo h) s = .next s) ∧
  (∀ (s : State) (h : MsgHead) (first count : BitVec 16), s.mgtServes = true →
      exec (.readSensors h first count) s = .next { s with outbox := s.outbox ++ [
        if 572 < first.toNat + count.toNat then .message 0 2 stBadArg (answerMessage 2 h.seq.toNat stBadArg [])
        else .message 0 2 stOk (answerMessage 2 h.seq.toNat stOk (((List.range count.toNat).map (fun i =>
          first.toNat + i)).flatMap (fun n => leBytes 4 (BitVec.ofInt 32 (sget 0 s.mgt.sensors n)).toNat)))] }) ∧
  (∀ (s : State) (h : MsgHead) (first : BitVec 64) (count : BitVec 16), s.mgtServes = true →
      exec (.readLog h first count) s = .next { s with outbox := s.outbox ++ [.message 0 3 stOk (answerMessage 3 h.seq.toNat stOk
        (((List.range (min count.toNat 15)).map (fun i => first.toNat + i)).flatMap (fun n =>
          match s.logAt n with | some r => logBytes n r | none => [])))] }) ∧
  (∀ (s : State) (h : MsgHead), s.mgtServes = true → exec (.getNonce h) s = .next { s with
      outbox := s.outbox ++ [.message 0 4 stOk (answerMessage 4 h.seq.toNat stOk (leBytes 32 s.mgt.nonce.toNat))] }) ∧
  (∀ (s : State) (h : MsgHead) (watts : BitVec 16) (sig : List Byte), s.mgtServes = true →
      ∃ t, exec (.setCeiling h watts sig) s = .next t ∧
        (s.signedBy s.operatorKey opSetCeiling h (leBytes 2 watts.toNat) sig = false →
          t = { s with outbox := s.outbox ++ [.message 0 0x10 stAuth (answerMessage 0x10 h.seq.toNat stAuth [])] }) ∧
        (s.signedBy s.operatorKey opSetCeiling h (leBytes 2 watts.toNat) sig = true →
          t.mgt = { s.mgt with nonce := Config.nonce s.freeCtr } ∧ t.freeCtr = s.freeCtr + 1 ∧ SameRegs s t [MGT_CEILING] ∧
          (600 ≤ watts.toNat → watts.toNat ≤ 2000 → t.fld MGT_CEILING.WATTS = watts.toNat ∧
            t.outbox = s.outbox ++ [.message 0 0x10 stOk (answerMessage 0x10 h.seq.toNat stOk [])]) ∧
          (watts.toNat < 600 ∨ 2000 < watts.toNat → t.regs = s.regs ∧
            t.outbox = s.outbox ++ [.message 0 0x10 stBadArg (answerMessage 0x10 h.seq.toNat stBadArg [])]))) ∧
  (∀ (s : State) (h : MsgHead) (mask : BitVec 128) (sig : List Byte), s.mgtServes = true →
      ∃ t, exec (.setPermitted h mask sig) s = .next t ∧
        (s.signedBy s.operatorKey opSetPermitted h (leBytes 16 mask.toNat) sig = false →
          t = { s with outbox := s.outbox ++ [.message 0 0x11 stAuth (answerMessage 0x11 h.seq.toNat stAuth [])] }) ∧
        (s.signedBy s.operatorKey opSetPermitted h (leBytes 16 mask.toNat) sig = true →
          t.mgt = { s.mgt with nonce := Config.nonce s.freeCtr } ∧
          (∀ k, k < 4 → t.reg (MGT_PERMITTED k) = (mask &&& 0x3FFF).extractLsb' (32 * k) 32) ∧
          SameRegs s t ((List.range 4).map MGT_PERMITTED) ∧
          t.outbox = s.outbox ++ [.message 0 0x11 stOk (answerMessage 0x11 h.seq.toNat stOk [])])) ∧
  (∀ (s : State) (h : MsgHead) (record : List Byte), s.mgtServes = true →
      ∃ t, exec (.writeInstall h record) s = .next t ∧
        (s.installOk record = false → t = { s with outbox := s.outbox ++ [.message 0 0x12 stAuth (answerMessage 0x12 h.seq.toNat stAuth [])] }) ∧
        (s.installOk record = true → s.mgt.generation < t.mgt.generation ∧ t.mgt.generation = leAt record 4 4 ∧
          t.mgt.install = s.mgt.install ∧ t.outbox = s.outbox ++ [.message 0 0x12 stOk (answerMessage 0x12 h.seq.toNat stOk [])] ∧
          (s.mgt.install.isSome = true ∧ s.mgt.install = s.mgt.installA →
            t.mgt.installB = some (installOf record) ∧ t.mgt.installA = s.mgt.installA) ∧
          (s.mgt.install = none ∨ s.mgt.install ≠ s.mgt.installA →
            t.mgt.installA = some (installOf record) ∧ t.mgt.installB = s.mgt.installB))) ∧
  (∀ (s : State) (h : MsgHead) (mailbox : BitVec 8) (rq sig : List Byte), s.mgtServes = true →
      ∃ t, exec (.mailboxRelay h mailbox rq sig) s = .next t ∧
        (s.signedBy s.fmKey opRelay h (leBytes 1 mailbox.toNat ++ rq) sig = false →
          t = { s with outbox := s.outbox ++ [.message 0 0x23 stAuth (answerMessage 0x23 h.seq.toNat stAuth [])] }) ∧
        (s.signedBy s.fmKey opRelay h (leBytes 1 mailbox.toNat ++ rq) sig = true →
          (4 ≤ mailbox.toNat ∨ 4096 < rq.length → t.mail = s.mail ∧
            t.outbox = s.outbox ++ [.message 0 0x23 stBadArg (answerMessage 0x23 h.seq.toNat stBadArg [])]) ∧
          (mailbox.toNat < 4 → rq.length ≤ 4096 →
            (s.box mailbox.toNat).pending.isSome = true ∨ (s.box mailbox.toNat).busy.isSome = true → t.mail = s.mail ∧
            t.outbox = s.outbox ++ [.message 0 0x23 stBusy (answerMessage 0x23 h.seq.toNat stBusy [])]) ∧
          (mailbox.toNat < 4 → rq.length ≤ 4096 → (s.box mailbox.toNat).pending = none → (s.box mailbox.toNat).busy = none →
            (s.box mailbox.toNat).lastSeq ≠ some (BitVec.ofNat 32 (rqSeq rq)) →
            t.sram (reqArea mailbox.toNat) 4096 = padTo 4096 rq ∧ t.outbox = s.outbox ∧ t.box mailbox.toNat =
              { s.box mailbox.toNat with lastSeq := some (BitVec.ofNat 32 (rqSeq rq)), pending := some s.mail.order,
                                         relayed := some h.seq.toNat }))) ∧
  (∀ (s : State) (h : MsgHead) (first count : BitVec 16) (from_ : BitVec 64) (watts : BitVec 16) (mask : BitVec 128)
      (mailbox : BitVec 8) (rq sig : List Byte), s.mgtServes = false →
      exec (.readSensors h first count) s = .next s ∧ exec (.readLog h from_ count) s = .next s ∧
        exec (.getNonce h) s = .next s ∧ exec (.setCeiling h watts sig) s = .next s ∧
        exec (.setPermitted h mask sig) s = .next s ∧ exec (.writeInstall h rq) s = .next s ∧
        exec (.mailboxRelay h mailbox rq sig) s = .next s ∧ exec .event s = .next s ∧ exec .logWrite s = .next s ∧
        exec .managementWatchdog s = .next s) ∧
  (∀ (s : State) (type : Nat) (pick : BitVec 48) (detail : List Byte) (rest : List (Nat × BitVec 48 × List Byte)),
      s.mgtServes = true → s.mgt.events = (type, pick, detail) :: rest →
      exec .event s = .next { s with
        mgt := { s.mgt with events := rest }
        outbox := s.outbox ++ [.event (s.fld MGT_FM.FM_DEV) (kxFrames s.mgt.eid (answerMessage 0x30
          (Config.eventSeq pick.toNat).toNat stOk (leBytes 2 type ++ leBytes 8 pick.toNat ++ padTo 20 detail)))] }) ∧
  (∀ s : State, s.mgt.events = [] → exec .event s = .next s) ∧
  (∀ s : State, s.mgtServes = true → s.mgt.mgmt.pending = none ∨ s.mgt.mgmt.running = s.mgt.mgmt.active →
      (∀ d, s.fence.drain = some d → d.boxes = [] ∨ (∃ n ∈ d.boxes, n < 64) ∨ s.fence.pinLow = true) →
      ∃ t, exec .managementWatchdog s = .next t ∧ t.mgt.spdm = 0 ∧ s.now ≤ t.mgt.downUntil ∧ t.mgt.readyFrom = t.mgt.downUntil ∧
        (s.now < t.mgt.downUntil → t.mgtServes = false) ∧ (∀ n, t.box n = { s.box n with relayed := none }) ∧
        ((t.mgt.queue = s.mgt.queue ∧ t.mgt.events = s.mgt.events) ∨ (t.mgt.queue = [] ∧ t.mgt.events = [])) ∧
        { t.mgt with spdm := s.mgt.spdm, queue := s.mgt.queue, events := s.mgt.events, downUntil := s.mgt.downUntil,
                     readyFrom := s.mgt.readyFrom } = s.mgt ∧
        { t with mgt := s.mgt, fence := s.fence, mail := s.mail, freeCtr := s.freeCtr } = s) ∧
  (∀ (s : State) (d : Drain), s.mgtServes = true → s.fence.drain = some d → d.boxes ≠ [] → (∀ n ∈ d.boxes, 64 ≤ n) →
      s.fence.pinLow = false → s.mgt.mgmt.pending = none →
      ∃ t, exec .managementWatchdog s = .next t ∧ t.fence.drain = none ∧ SameRegs s t [MGT_FENCE] ∧
        ∀ k, 1 ≤ k → k ≤ 3 → t.fenced k =
          (s.fenced k && !(d.domains.testBit k && s.fence.resets.all (fun r => r.domain != k)))) ∧
  (∀ (s : State) (n : Nat), s.mgtServes = true → s.fence.drain = none → s.mgt.mgmt.pending = some n →
      s.mgt.mgmt.running ≠ s.mgt.mgmt.active →
      ∃ t, exec .managementWatchdog s = .next t ∧
        (n + 1 < 3 → t.mgt.mgmt = { s.mgt.mgmt with pending := some (n + 1) } ∧ t.regs = s.regs) ∧
        (3 ≤ n + 1 → t.mgt.mgmt = { s.mgt.mgmt with pending := none, running := s.mgt.mgmt.active } ∧
          SameRegs s t [MGT_BOOT])) ∧
  (∀ (s : State) (value : Int) (v w : Int) (n m : Nat), s.mgtServes = true → s.mgt.inputs = ((v, n), (w, m)) →
      exec (.sensorSample 184 value) s = .next { s with
        mgt := { s.mgt with inputs := ((v + max 4000 (min 6000 value), n + 1), (w, m)) } } ∧
      exec (.sensorSample 185 value) s = .next { s with
        mgt := { s.mgt with inputs := ((v, n), (w + max 0 (min 5000 value), m + 1)) } }) ∧
  (∀ (s : State) (sensor : Nat) (value : Int), sensor < 572 → sensor ≠ 184 → sensor ≠ 185 → s.mgtServes = true →
      ∃ t, exec (.sensorSample sensor value) s = .next t ∧ sget 0 t.mgt.sensors sensor = clampReading sensor value ∧
        (∀ lo hi, sensorRange sensor = some (lo, hi) → lo ≤ hi → lo ≤ sget 0 t.mgt.sensors sensor ∧
          sget 0 t.mgt.sensors sensor ≤ hi) ∧
        (∀ n, n ≠ sensor → sget 0 t.mgt.sensors n = sget 0 s.mgt.sensors n) ∧
        (sensor < 64 → 400 ≤ value → t.flag MGT_THERM.WARN = true) ∧
        (128 ≤ sensor → sensor < 144 → 190 ≤ value → t.flag MGT_THERM.WARN = true) ∧
        (64 ≤ sensor → sensor < 128 ∨ 144 ≤ sensor → t.regs = s.regs) ∧
        SameRegs s t [MGT_THERM] ∧ { t with mgt := s.mgt, regs := s.regs } = s) ∧
  (∀ (s : State) (sensor : Nat) (value : Int), sensor < 572 → s.mgtServes = false →
      exec (.sensorSample sensor value) s = .next s) ∧
  (∀ s : State, s.power.on = true → s.power.trip = false →
      ∃ t, exec .thermalTrip s = .next t ∧ t.power.trip = true ∧ t.power.on = true ∧ t.power.step = min s.power.step 2 ∧
        t.mgt.holdD1 = true ∧ t.mgt.holdD3 = true ∧ t.seq = {} ∧ t.ports = [] ∧ t.hbm = { cxlMem := s.hbm.cxlMem, cxlLife := s.hbm.cxlLife } ∧ t.smu = s.smu ∧
        t.mgt.log = s.mgt.log) ∧
  (∀ s : State, s.power.on = false ∨ s.power.trip = true → exec .thermalTrip s = .next s) ∧
  (∀ (s : State) (r : LogRec) (rest : List LogRec), s.mgtServes = true → s.mgt.queue = r :: rest → s.mgt.dropped = 0 →
      s.logSecond.1 < 1000 →
      exec .logWrite s = .next { s with mgt := { s.mgt with
        queue := rest, logRate := (s.logSecond.1 + 1, s.logSecond.2), log := sset none s.mgt.log (s.mgt.logSeq % 1048576) (some r),
        logSeq := s.mgt.logSeq + 1 } }) ∧
  (∀ (s : State) (r : LogRec) (rest : List LogRec), s.mgtServes = true → s.mgt.queue = r :: rest → s.mgt.dropped ≠ 0 →
      s.logSecond.1 + 1 < 1000 →
      ∃ t, exec .logWrite s = .next t ∧ t.mgt.queue = rest ∧ t.mgt.dropped = 0 ∧ t.mgt.logSeq = s.mgt.logSeq + 2 ∧
        sget none t.mgt.log (s.mgt.logSeq % 1048576) =
          some ⟨0xFF, 0xFFFF, s.uptime, s.pick.count, leBytes 8 s.mgt.dropped, s.mgt.boots⟩ ∧
        sget none t.mgt.log ((s.mgt.logSeq + 1) % 1048576) = some r) ∧
  (∀ s : State, s.mgt.queue = [] ∨ 1000 ≤ s.logSecond.1 → exec .logWrite s = .next s)

/-- R535, R538, R576, R583 to R590, R641 to R644, R647, R649, R650: the boot chain stops where a record or an image does not verify,
and otherwise puts the installation record in force and releases D1 and D2 once every stack is zeroed; an image that verifies goes
to the slot not in use, is activated, and becomes the active one once it reaches ready; the rails come up step by step, and what
lies on them is lost with them. -/
def Obligations.BootsAndPower : Prop :=
  (∀ (s : State) (startup : List Byte), s.power.good = true → s.power.resetLow = false → s.mgt.stage = 0 →
      ∃ t, exec (.boot startup) s = .next t ∧ t.mgt.up = true ∧
        (s.mgt.mfg = none → t = { s with mgt := { s.mgt with stage := 1, up := true } }) ∧
        (∀ m, s.mgt.mfg = some m → m.good = false → t.mgt.stage = 1 ∧ t.regs = s.regs ∧ t.seq = s.seq) ∧
        (∀ m, s.mgt.mfg = some m → m.good = true → (m.unwraps (Config.extract startup s.mgt.helper) = false → t.flag MGT_BOOT.ID_FAIL = true) ∧
          (s.mgt.mgmt.start.2 = none → t.mgt.stage = 2) ∧
          (s.mgt.mgmt.start.2.isSome = true →
            (s.hbm.initDone.length < 16 ∨ s.flag CLK_REF_STATUS.REF_LOSS = true ∨ s.power.trip = true → t.mgt.stage = 4) ∧
            (16 ≤ s.hbm.initDone.length → s.flag CLK_REF_STATUS.REF_LOSS = false → s.power.trip = false →
              t.mgt.stage = 5 ∧ t.mgt.holdD1 = false) ∧
            t.clk.trim = m.trim ∧ t.mgt.readyFrom = s.now ∧
            (s.mgt.held = none → t.mgt.install = s.mgt.install ∧ t.fld RTE_SELF.VALID = s.fld RTE_SELF.VALID) ∧
            ∀ r, s.mgt.held = some r → t.mgt.install = some r ∧ t.fld RTE_SELF.PHYSICAL = r.deviceId.toNat ∧
              t.flag RTE_SELF.VALID = true ∧ t.fld MGT_FM.FM_DEV = r.fmDev.toNat ∧ t.flag MGT_BOOT.INSTALL_OK = true ∧
              (600 ≤ r.ceiling.toNat → r.ceiling.toNat ≤ 2000 → t.fld MGT_CEILING.WATTS = r.ceiling.toNat)))) ∧
  (∀ (s : State) (startup : List Byte), s.power.good = false ∨ s.power.resetLow = true ∨ s.mgt.stage ≠ 0 →
      exec (.boot startup) s = .next s) ∧
  (∀ (s : State) (c : Nat) (image : List Byte) (p : FwPair), c = 1 ∨ c = 2 → p = s.fwPair c → s.pldmUp c = true →
      ∃ t, exec (.firmwareComponentWrite c image) s = .next t ∧ (t.fwPair c).now = p.now ∧
        (imageOk 1 c p.counter image = true →
          (t.fwPair c).spare = ⟨true, imageVersion image, imageSvn image, imageHash image⟩ ∧
          (t.fwPair c).pending = (if p.running = p.active then none else p.pending) ∧ (t.fwPair c).active = p.active ∧
          (t.fwPair c).counter = p.counter ∧ t.outbox = s.outbox ++ [.message 2 c 0 []]) ∧
        (imageOk 1 c p.counter image = false → t.fwPair c = p ∧ t.outbox = s.outbox ++ [.message 2 c 1 []])) ∧
  (∀ (s : State) (c : Nat) (p : FwPair), c = 1 ∨ c = 2 → p = s.fwPair c → s.pldmUp c = true →
      (p.spare.valid = true → ∃ t, exec (.activateFirmware c) s = .next t ∧
        t.fwPair c = { p with active := p.running, pending := some 0 } ∧ t.outbox = s.outbox ++ [.message 2 c 0 []] ∧ SameRegs s t [MGT_BOOT]) ∧
      (p.spare.valid = false → ∃ t, exec (.activateFirmware c) s = .next t ∧
        t = { s with outbox := s.outbox ++ [.message 2 c 1 []] })) ∧
  (∀ (s : State) (c : Nat) (p : FwPair), c = 1 ∨ c = 2 → p = s.fwPair c → p.pending.isSome = true → p.running ≠ p.active →
      (c = 1 ∧ s.mgt.up = true ∧ 4 ≤ s.mgt.stage) ∨ (c = 2 ∧ s.controlUp = true ∧ s.mgt.cfReady = true) →
      ∃ t, exec (.firmwareReady c) s = .next t ∧
        t.fwPair c = { p with active := p.running, pending := none, counter := max p.counter p.now.svn.toNat } ∧
        t.now = (if c = 1 then max s.now (s.mgt.readyFrom + 60000 * msCycles) else s.now) ∧ SameRegs s t [MGT_BOOT]) ∧
  (∀ (s : State) (c : Nat) (p : FwPair), c = 1 ∨ c = 2 → p = s.fwPair c → p.pending = none ∨ p.running = p.active →
      exec (.firmwareReady c) s = .next s) ∧
  (∀ (s : State) (c : Nat) (image : List Byte), c = 1 ∨ c = 2 → s.pldmUp c = false →
      exec (.firmwareComponentWrite c image) s = .next s ∧ exec (.activateFirmware c) s = .next s) ∧
  (∀ s : State, s.power.on = false → s.power.fault = false → exec .powerUp s = .next { s with
      power := { s.power with on := true, step := 1, stepAt := s.now, good := false, trip := false } }) ∧
  (∀ s : State, s.power.on = true ∨ s.power.fault = true → exec .powerUp s = .next s) ∧
  (∀ (s : State) (n : Nat), s.power.on = true → s.power.trip = false → s.power.step = n → 1 ≤ n → n ≤ 5 →
      s.now ≤ s.power.stepAt + (if n ≤ 2 then 5 * msCycles else 10 * msCycles) →
      ∃ t, exec .railStepComplete s = .next t ∧ t.power.step = n + 1 ∧ t.power.stepAt = s.now ∧ t.power.on = true ∧
        (n = 1 → t.power.smuUp = true ∧ (s.power.smuUp = false → t.smu.run = false)) ∧
        (2 ≤ n → n ≤ 4 → t = { s with power := { s.power with step := n + 1, stepAt := s.now } }) ∧
        (n = 5 → t.power.good = true ∧ t.mgt.boots = s.mgt.boots + 1 ∧ t.mgt.stage = 0 ∧ t.seq = {} ∧ t.smu = s.smu ∧
          t.mgt.log = s.mgt.log) ∧ (n ≠ 5 → t.power.good = s.power.good)) ∧
  (∀ (s : State) (n : Nat), s.power.on = true → s.power.trip = false → s.power.step = n → 1 ≤ n → n ≤ 5 →
      ∃ t, exec .railStepTimeout s = .next t ∧
        t.now = max s.now (s.power.stepAt + (if n ≤ 2 then 5 * msCycles else 10 * msCycles)) ∧ t.power.on = false ∧
        t.power.fault = true ∧ t.power.good = false ∧ t.power.step = 0 ∧ t.smu = s.smu) ∧
  (∀ s : State, s.power.on = false ∨ s.power.trip = true ∨ s.power.step = 0 ∨ 5 < s.power.step →
      exec .railStepComplete s = .next s ∧ exec .railStepTimeout s = .next s) ∧
  (∀ (s : State) (rail : Nat), rail < 40 → s.power.on = true →
      ∃ t, exec (.railFault rail) s = .next t ∧ t.power.on = false ∧ t.power.fault = true ∧ t.power.good = false ∧
        t.seq = {} ∧ t.ports = [] ∧ t.hbm = { cxlMem := s.hbm.cxlMem, cxlLife := s.hbm.cxlLife } ∧ t.smu = s.smu ∧ t.mgt.log = s.mgt.log ∧ t.mgt.boots = s.mgt.boots) ∧
  (∀ s : State, s.power.on = true →
      ∃ t, exec .powerLoss s = .next t ∧ t.power.on = false ∧ t.power.fault = s.power.fault ∧ t.power.good = false ∧
        t.seq = {} ∧ t.mgt.log = s.mgt.log ∧ t.smu = (if s.smu.run then { s.smu with
          checkpoint := some ⟨s.smu.energy, s.smu.total, s.smu.startUs, s.smu.poweredUs, s.smu.keys⟩ } else s.smu)) ∧
  (∀ (s : State) (rail : Nat), rail < 40 → s.power.on = false →
      exec (.railFault rail) s = .next s ∧ exec .powerLoss s = .next s) ∧
  (∀ s : State, ∃ t, exec .inputBelow40V s = .next t ∧ t.power.on = false ∧ t.power.fault = false ∧ t.power.smuUp = false ∧
      t.smu.run = false ∧ t.smu.ring = s.smu.ring ∧ t.mgt.log = s.mgt.log ∧ t.smu.checkpoint = (if s.smu.run then
        some ⟨s.smu.energy, s.smu.total, s.smu.startUs, s.smu.poweredUs, s.smu.keys⟩ else s.smu.checkpoint)) ∧
  (∀ s : State, s.power.resetLow = false →
      (s.power.good = true → ∃ t, exec (.modResetN false) s = .next t ∧ t.power.resetLow = true ∧ t.mgt.boots = s.mgt.boots + 1 ∧
        t.mgt.stage = 0 ∧ t.seq = {} ∧ t.smu = s.smu) ∧
      (s.power.good = false → exec (.modResetN false) s = .next { s with power := { s.power with resetLow := true } }) ∧
      exec (.modResetN true) s = .next s) ∧
  (∀ s : State, s.power.resetLow = true → exec (.modResetN false) s = .next s ∧ exec (.modResetN true) s = .next { s with
      power := { s.power with resetLow := false }, mgt := { s.mgt with bootAt := s.now } }) ∧
  (∀ (s : State) (k : Nat), k < 8 → s.mgt.stage = 5 → s.mgt.holdD1 = false → (∀ r ∈ s.fence.resets, r.domain ≠ 2) →
      ∃ t, exec (.cxlPerstRelease k) s = .next t ∧ sget false t.power.perst k = true ∧
        (∀ j, j ≠ k → sget false t.power.perst j = sget false s.power.perst j) ∧ { t with power := s.power } = s) ∧
  (∀ (s : State) (k : Nat), k < 8 → s.mgt.stage ≠ 5 ∨ s.mgt.holdD1 = true → exec (.cxlPerstRelease k) s = .next s)

/-- R585, R586, R591, R592: the SPDM responder answers its requests in their order, and a request that comes before its place as
unexpected; a challenge and signed measurements carry a fresh nonce and the attestation key's signature, or are answered
unspecified by a module without identity; other requests are unsupported. -/
def Obligations.SpdmAnswers : Prop :=
  (∀ s : State, s.mgtServes = true → exec .getVersion s = .next { s with
      mgt := { s.mgt with spdm := 1 }, outbox := s.outbox ++ [.message 1 0x84 0 [0x13]] }) ∧
  (∀ s : State, s.mgtServes = true → 1 ≤ s.mgt.spdm → exec .getCapabilities s = .next { s with
      mgt := { s.mgt with spdm := max s.mgt.spdm 2 }, outbox := s.outbox ++ [.message 1 0xE1 0 [0x16, 0, 0, 0]] }) ∧
  (∀ (s : State) (rsa hash meas : Bool), s.mgtServes = true → 2 ≤ s.mgt.spdm →
      exec (.negotiateAlgorithms rsa hash meas) s = .next (if rsa && hash && meas then { s with
          mgt := { s.mgt with spdm := 3 }, outbox := s.outbox ++ [.message 1 0xE3 0 [2, 0, 0, 0, 4, 0, 0, 0, 1, 0, 0, 0]] }
        else { s with outbox := s.outbox ++ [.message 1 0xE3 0x01 []] })) ∧
  (∀ s : State, s.mgtServes = true → 3 ≤ s.mgt.spdm → exec .getDigests s = .next { s with
      outbox := s.outbox ++ [.message 1 0x81 0 (sha256 s.certChain)] }) ∧
  (∀ (s : State) (slot offset length : Nat) (part : List Byte), s.mgtServes = true → 3 ≤ s.mgt.spdm →
      part = (s.certChain.drop offset).take length →
      (slot = 0 → offset ≤ s.certChain.length → exec (.getCertificate slot offset length) s = .next { s with
        outbox := s.outbox ++ [.message 1 0x82 0 (leBytes 2 part.length ++
          leBytes 2 (s.certChain.length - offset - part.length) ++ part)] }) ∧
      (slot ≠ 0 ∨ s.certChain.length < offset → exec (.getCertificate slot offset length) s = .next { s with
        outbox := s.outbox ++ [.message 1 0x82 0x01 []] })) ∧
  (∀ (s : State) (slot : Nat) (nonce k : BitVec 256) (text : List Byte), s.mgtServes = true → 3 ≤ s.mgt.spdm →
      k = Config.nonce s.freeCtr → text = sha256 s.certChain ++ leBytes 32 k.toNat →
      (slot = 0 → s.flag MGT_BOOT.ID_FAIL = false → exec (.challenge slot nonce) s = .next { s with
        freeCtr := s.freeCtr + 1
        outbox := s.outbox ++ [.message 1 0x83 0 (text ++ Config.sign (s.mgt.ak.getD []) (leBytes 32 nonce.toNat ++ text))] }) ∧
      (slot = 0 → s.flag MGT_BOOT.ID_FAIL = true → exec (.challenge slot nonce) s = .next { s with
        outbox := s.outbox ++ [.message 1 0x83 0x05 []] }) ∧
      (slot ≠ 0 → exec (.challenge slot nonce) s = .next { s with outbox := s.outbox ++ [.message 1 0x83 0x01 []] })) ∧
  (∀ (s : State) (index : Nat) (signed : Bool) (nonce : BitVec 256) (block : Nat → List Byte) (body : List Byte),
      s.mgtServes = true → 3 ≤ s.mgt.spdm →
      (∀ i, block i = leBytes 1 i ++ leBytes 2 (s.measurement i).length ++ s.measurement i) →
      (index = 0 ∧ body = [8]) ∨ (1 ≤ index ∧ index ≤ 8 ∧ body = block index) ∨
        (index = 0xFF ∧ body = block 1 ++ block 2 ++ block 3 ++ block 4 ++ block 5 ++ block 6 ++ block 7 ++ block 8) →
      ∃ t, exec (.getMeasurements index signed nonce) s = .next t ∧ { t with freeCtr := s.freeCtr, outbox := s.outbox } = s ∧
        (signed = false → t.outbox = s.outbox ++ [.message 1 0xE0 0 body]) ∧
        (signed = true → s.flag MGT_BOOT.ID_FAIL = true → t.outbox = s.outbox ++ [.message 1 0xE0 0x05 []]) ∧
        (signed = true → s.flag MGT_BOOT.ID_FAIL = false → ∃ k : BitVec 256, t.outbox = s.outbox ++ [.message 1 0xE0 0
          (body ++ leBytes 32 k.toNat ++ Config.sign (s.mgt.ak.getD []) (leBytes 32 nonce.toNat ++ (body ++ leBytes 32 k.toNat)))])) ∧
  (∀ (s : State) (index : Nat) (signed : Bool) (nonce : BitVec 256), s.mgtServes = true → 3 ≤ s.mgt.spdm → 8 < index →
      index ≠ 0xFF → exec (.getMeasurements index signed nonce) s = .next { s with
        outbox := s.outbox ++ [.message 1 0xE0 0x01 []] }) ∧
  (∀ (s : State), s.mgtServes = true →
      (s.mgt.spdm < 1 → exec .getCapabilities s = .next { s with outbox := s.outbox ++ [.message 1 0xE1 0x04 []] }) ∧
      (∀ rsa hash meas, s.mgt.spdm < 2 → exec (.negotiateAlgorithms rsa hash meas) s = .next { s with
        outbox := s.outbox ++ [.message 1 0xE3 0x04 []] }) ∧
      (s.mgt.spdm < 3 → exec .getDigests s = .next { s with outbox := s.outbox ++ [.message 1 0x81 0x04 []] }) ∧
      (∀ slot offset length, s.mgt.spdm < 3 → exec (.getCertificate slot offset length) s = .next { s with
        outbox := s.outbox ++ [.message 1 0x82 0x04 []] }) ∧
      (∀ slot nonce, s.mgt.spdm < 3 → exec (.challenge slot nonce) s = .next { s with
        outbox := s.outbox ++ [.message 1 0x83 0x04 []] }) ∧
      (∀ index signed nonce, s.mgt.spdm < 3 → exec (.getMeasurements index signed nonce) s = .next { s with
        outbox := s.outbox ++ [.message 1 0xE0 0x04 []] })) ∧
  (∀ (s : State) (code : BitVec 8), s.mgtServes = true → exec (.spdmUnsupportedRequest code) s = .next { s with
      outbox := s.outbox ++ [.message 1 code.toNat 0x07 []] }) ∧
  (∀ (s : State) (rsa hash meas signed : Bool) (a b c : Nat) (nonce : BitVec 256) (code : BitVec 8), s.mgtServes = false →
      exec .getVersion s = .next s ∧ exec .getCapabilities s = .next s ∧ exec (.negotiateAlgorithms rsa hash meas) s = .next s ∧
        exec .getDigests s = .next s ∧ exec (.getCertificate a b c) s = .next s ∧ exec (.challenge a nonce) s = .next s ∧
        exec (.getMeasurements a signed nonce) s = .next s ∧ exec (.spdmUnsupportedRequest code) s = .next s)

/-- R593, R596 to R602, R604, R635: the sealed meter counts energy by samples, closes its intervals with chained records, keeps a
checkpoint, starts again from it, and answers its requests while it runs; a change that counts as a metrology event closes the
interval and writes a record of KIND 3, and none is made once the event counter is at its end. -/
def Obligations.MeterCountsAndAnswers : Prop :=
  (∀ (s : State) (v a : Nat), s.power.smuUp = true → s.smu.failed = false → s.smu.run = true →
      ∃ t, exec (.smuSample v a) s = .next t ∧ t.smu.energy = s.smu.energy + (if v * a < 5000000 then 0 else v * a) ∧
        t.smu.total = s.smu.total + (if v * a < 5000000 then 0 else v * a) ∧ t.smu.poweredUs = s.smu.poweredUs + 1 ∧
        t.smu.keys = s.smu.keys ∧ t.smu.ring = s.smu.ring ∧
        ((s.smu.poweredUs + 1) % 1000000 ≠ 0 → t.smu.secEnergy = s.smu.secEnergy + v * a ∧ t.regs = s.regs) ∧
        ((s.smu.poweredUs + 1) % 1000000 = 0 → t.smu.secEnergy = 0 ∧
          t.fld SMU_POWER.WATTS = min 65535 ((s.smu.secEnergy + v * a) / 100000000000) ∧ SameRegs s t [SMU_POWER]) ∧
        { t with smu := s.smu, regs := s.regs } = s) ∧
  (∀ (s : State) (v a : Nat) (c : Checkpoint) (p : FwPair), s.power.smuUp = true → s.smu.failed = false → s.smu.run = false →
      s.smu.image.start.2 = some p → s.smu.checkpoint = some c → (c.poweredUs + 1) % 1000000 ≠ 0 →
      ∃ t, exec (.smuSample v a) s = .next t ∧ t.smu.run = true ∧ t.smu.image = p ∧ t.smu.keys = c.keys ∧
        t.smu.energy = c.energy + (if v * a < 5000000 then 0 else v * a) ∧ t.smu.poweredUs = c.poweredUs + 1 ∧
        t.smu.seq = s.smu.seq + 1) ∧
  (∀ (s : State) (v a : Nat), s.power.smuUp = false ∨ s.smu.failed = true → exec (.smuSample v a) s = .next s) ∧
  (∀ (s : State) (u : Nat), s.smu.run = true → s.smu.keys.length ≤ 4096 → u = max s.smu.poweredUs (s.smu.startUs + s.smu.interval * 1000000) →
      ∃ t r, exec .intervalClose s = .next t ∧ t.smu.poweredUs = u ∧ t.smu.startUs = u ∧ t.smu.energy = 0 ∧ t.smu.keys = [] ∧
        t.smu.total = s.smu.total ∧ t.smu.seq = s.smu.seq + 1 ∧ t.smu.ring.getLast? = some r ∧ r.kind = 1 ∧
        r.seq = s.smu.seq + 1 ∧ r.keys = (countedKeys s.smu.keys).flatMap keyEntry ∧ t.smu.prevHash = sha256 r.body ∧
        { t with smu := s.smu } = s) ∧
  (∀ s : State, s.smu.run = true → exec .smuCheckpoint s = .next { s with smu := { s.smu with
      checkpoint := some ⟨s.smu.energy, s.smu.total, s.smu.startUs, s.smu.poweredUs, s.smu.keys⟩
      image := if s.smu.image.pending.isSome && s.smu.image.running != s.smu.image.active then
        { s.smu.image with active := s.smu.image.running, pending := none,
                           counter := max s.smu.image.counter s.smu.image.now.svn.toNat } else s.smu.image } }) ∧
  (∀ (s : State) (p : FwPair) (c : Checkpoint), s.power.smuUp = true → s.smu.image.start.2 = some p → s.smu.checkpoint = some c →
      ∃ t, exec .smuWatchdog s = .next t ∧ t.smu.run = true ∧ t.smu.image = p ∧ t.smu.interval = 900 ∧ t.smu.energy = c.energy ∧
        t.smu.total = c.total ∧ t.smu.keys = c.keys ∧ t.smu.ring = s.smu.ring ∧ t.smu.seq = s.smu.seq) ∧
  (∀ s : State, s.power.smuUp = true → s.smu.image.start.2 = none → s.smu.events < 0xFFFFFFFF →
      ∃ t, exec .smuWatchdog s = .next t ∧ t.smu.run = false ∧ t.smu.failed = true ∧ t.smu.events = s.smu.events + 1 ∧
        t.smu.seq = s.smu.seq + 2 ∧ t.smu.energy = 0 ∧ t.smu.keys = [] ∧
        (t.smu.ring.getLast?.map (fun r => r.kind)) = some 3) ∧
  (∀ s : State, s.power.smuUp = false → exec .smuWatchdog s = .next s) ∧
  (∀ s : State, s.smu.run = true → exec .getReading s = .next { s with outbox := s.outbox ++ [.message 3 1 0
      (leBytes 8 (s.smu.energy / 1000000000) ++ leBytes 8 (s.smu.total / 1000000000) ++
        (countedKeys s.smu.keys).flatMap keyEntry)] }) ∧
  (∀ (s : State) (seq : BitVec 64), s.smu.run = true → exec (.getRecords seq) s = .next { s with
      outbox := s.outbox ++ [.message 3 2 0
        ((s.smu.ring.filter (fun r => decide (seq.toNat ≤ r.seq))).flatMap (fun r => r.body ++ r.keys))] }) ∧
  (∀ s : State, s.smu.run = true → exec .getCert s = .next { s with outbox := s.outbox ++ [.message 3 3 0 s.smu.cert] }) ∧
  (∀ (s : State) (n : Nat), s.smu.run = true →
      (n < 60 ∨ 3600 < n → exec (.setInterval n) s = .next { s with outbox := s.outbox ++ [.message 3 4 1 []] }) ∧
      (60 ≤ n → n ≤ 3600 → n = s.smu.interval → exec (.setInterval n) s = .next { s with
        outbox := s.outbox ++ [.message 3 4 0 []] }) ∧
      (60 ≤ n → n ≤ 3600 → n ≠ s.smu.interval → s.smu.events < 0xFFFFFFFF → ∃ t, exec (.setInterval n) s = .next t ∧
        t.smu.interval = n ∧ t.smu.events = s.smu.events + 1 ∧ t.smu.seq = s.smu.seq + 2 ∧ t.smu.energy = 0 ∧ t.smu.keys = [] ∧
        t.outbox = s.outbox ++ [.message 3 4 0 []] ∧ (t.smu.ring.getLast?.map (fun r => r.kind)) = some 3 ∧
        { t with smu := s.smu, outbox := s.outbox } = s) ∧
      (60 ≤ n → n ≤ 3600 → n ≠ s.smu.interval → s.smu.events = 0xFFFFFFFF → exec (.setInterval n) s = .next { s with
        outbox := s.outbox ++ [.message 3 4 stExhausted []] })) ∧
  (∀ s : State, s.smu.run = true →
      (s.smu.events < 0xFFFFFFFF → ∃ t, exec .meterKeyRegeneration s = .next t ∧ t.smu.keyId = s.smu.keyId + 1 ∧
        t.smu.key = some (Config.meterKey (s.smu.keyId + 1)) ∧
        t.smu.events = s.smu.events + 1 ∧ t.smu.seq = s.smu.seq + 2 ∧ t.outbox = s.outbox ++ [.message 3 7 0 []] ∧
        { t with smu := s.smu, outbox := s.outbox } = s) ∧
      (s.smu.events = 0xFFFFFFFF → exec .meterKeyRegeneration s = .next { s with
        outbox := s.outbox ++ [.message 3 7 stExhausted []] })) ∧
  (∀ (s : State) (data sig : List Byte), s.smu.run = true →
      ∃ t, exec (.calibrationWrite data sig) s = .next t ∧ { t with smu := s.smu, outbox := s.outbox } = s ∧
        (rsaVerify (Config.rootKey 2) data sig = false → t.smu = s.smu ∧ t.outbox = s.outbox ++ [.message 3 5 1 []]) ∧
        (rsaVerify (Config.rootKey 2) data sig = true → s.smu.events < 0xFFFFFFFF → t.smu.calibration = data ∧
          t.smu.events = s.smu.events + 1 ∧ t.smu.seq = s.smu.seq + 2 ∧ t.outbox = s.outbox ++ [.message 3 5 0 []]) ∧
        (rsaVerify (Config.rootKey 2) data sig = true → s.smu.events = 0xFFFFFFFF → t.smu = s.smu ∧
          t.outbox = s.outbox ++ [.message 3 5 stExhausted []])) ∧
  (∀ (s : State) (image : List Byte) (activate : Bool), s.smu.run = true →
      ∃ t, exec (.meterImageUpdate image activate) s = .next t ∧ { t with smu := s.smu, outbox := s.outbox } = s ∧
        (imageOk 2 3 s.smu.image.counter image = false → t.smu = s.smu ∧ t.outbox = s.outbox ++ [.message 3 6 1 []]) ∧
        (imageOk 2 3 s.smu.image.counter image = true →
          (activate = false → t.smu.events = s.smu.events ∧ t.smu.image.active = s.smu.image.active ∧
            t.smu.image.spare = ⟨true, imageVersion image, imageSvn image, imageHash image⟩ ∧
            t.outbox = s.outbox ++ [.message 3 6 0 []]) ∧
          (activate = true → s.smu.events < 0xFFFFFFFF → t.smu.events = s.smu.events + 1 ∧
            t.smu.image.active = s.smu.image.running ∧ t.smu.image.running = !s.smu.image.running ∧
            t.smu.image.pending = some 0 ∧
            t.smu.image.now = ⟨true, imageVersion image, imageSvn image, imageHash image⟩ ∧
            t.smu.image.counter = s.smu.image.counter ∧
            t.outbox = s.outbox ++ [.message 3 6 0 []]))) ∧
  (∀ (s : State) (seq : BitVec 64) (n : Nat) (x y : List Byte) (b : Bool), s.smu.run = false →
      exec .intervalClose s = .next s ∧ exec .smuCheckpoint s = .next s ∧ exec .getReading s = .next s ∧
        exec (.getRecords seq) s = .next s ∧ exec .getCert s = .next s ∧ exec (.setInterval n) s = .next s ∧
        exec (.calibrationWrite x y) s = .next s ∧ exec (.meterImageUpdate x b) s = .next s ∧
        exec .meterKeyRegeneration s = .next s)

/-- R361 to R363, R376 to R378, R383, R413, R419, R293: where its conditions hold, each command of the replay, of the width of
a port, of the coalesced acknowledgement, of an answer and of GEMV answers a next state, which is that of its own effect. A
REPLAY_REQ queues the held cells it names, or with ALL (which compatibility mode alone knows) all from its first; a gap that
is still open is asked for again 1 µs after its last request, and after the eighth by ALL; a sender whose ACK stood still for
4 µs queues all it holds and counts a go-back. A WIDTH_REQ is accepted where the lanes can be used, and refused otherwise;
WIDTH_ACK and WIDTH_NAK settle the request that they name, and leave a port without one as it was; at the agreed codeword the
port goes to SWITCH on the new lanes. A degraded lane is marked and leaves the passing ones; WIDEN takes back those of the
failed lanes that pass, which are a free value; both ask, 256 codewords ahead, for the lanes then chosen. -/
def Obligations.LinkRepairAndAnswersComplete : Prop :=
  (∀ (s : State) (p first last : Nat) (all : Bool), p < 24 → first < 65536 → last < 65536 →
      s.fld (LNK_STATUS.STATE p) = 6 →
      ∃ t, exec (.replayReq p first last all) s = .next t ∧ OnlyPort p s t ∧
        ∀ n, n ∈ (t.port p).resend ↔ n ∈ (s.port p).resend ∨
          (∃ c, (n, c) ∈ (s.port p).replay) ∧ seqFrom first n = true ∧
            (all = true ∨ s.flag (LNK_STATUS.COMPAT p) = true ∨ seqFrom n last = true)) ∧
  (∀ (s : State) (p : Nat) (g : Gap), p < 24 → oldestGap ((s.port p).gaps.filter (s.port p).gapOpen) = some g →
      ∃ t, exec (.replayReqRetry p) s = .next t ∧ OnlyPort p s t ∧ t.now = max s.now (g.lastAt + 1600) ∧
        (t.port p).control = (s.port p).control ++
          [if g.requests < 8 ∧ s.flag (LNK_STATUS.COMPAT p) = false then ctlReplay false g.first g.last
            else ctlReplay true (s.port p).rxNext 0] ∧
        (t.port p).gaps = if g.requests < 8 then
            ((s.port p).gaps.filter (s.port p).gapOpen).map
              (fun h => if h = g then { g with requests := g.requests + 1, lastAt := t.now } else h)
          else ((s.port p).gaps.filter (s.port p).gapOpen).filter (fun h => h != g)) ∧
  (∀ (s : State) (p : Nat), p < 24 → s.fld (LNK_STATUS.STATE p) = 6 → (s.port p).replay ≠ [] →
      ∃ t, exec (.goBack p) s = .next t ∧ OnlyPort p s t ∧ t.now = max s.now ((s.port p).ackAt + 6400) ∧
        t.fld (LNK_REPLAY.GO_BACKS p) = min (s.fld (LNK_REPLAY.GO_BACKS p) + 1) 255 ∧
        ∀ n, n ∈ (t.port p).resend ↔ n ∈ (s.port p).resend ∨
          (∃ c, (n, c) ∈ (s.port p).replay) ∧ seqFrom (s.port p).txOldest n = true) ∧
  (∀ (s : State) (p : Nat) (lanes : BitVec 8) (at_ : BitVec 32), p < 24 → s.fld (LNK_STATUS.STATE p) = 6 →
      (∀ w, (s.port p).width = some w → w.mine = true → w.agreed = true) →
      ∃ t, exec (.widthReq p lanes at_) s = .next t ∧ { t with ports := s.ports } = s ∧ (∀ q, q ≠ p → t.port q = s.port q) ∧
        t.port p =
          if lanes.toNat &&& (255 - s.usableLanes p) = 0 ∧ widthCode (lanesOf lanes.toNat).length ≠ 0 then
            { s.port p with
              width := some ⟨lanes, at_.toNat, false, true⟩
              control := (s.port p).control ++ [ctlWidth 5 lanes.toNat at_.toNat] }
          else { s.port p with
            width := none, control := (s.port p).control ++ [ctlWidth 6 lanes.toNat at_.toNat] }) ∧
  (∀ (s : State) (p : Nat) (w : WidthSwitch), p < 24 → (s.port p).width = some w → w.mine = true →
      w.at_ < 4294967296 →
      exec (.widthAck p w.lanes (BitVec.ofNat 32 w.at_)) s =
        .next (s.setPort p { s.port p with width := some { w with agreed := true } }) ∧
      (w.agreed = false → exec (.widthNak p w.lanes (BitVec.ofNat 32 w.at_)) s =
        .next (s.setPort p { s.port p with width := none }))) ∧
  (∀ (s : State) (p : Nat) (lanes : BitVec 8) (at_ : BitVec 32), p < 24 → (s.port p).width = none →
      exec (.widthAck p lanes at_) s = .next s ∧ exec (.widthNak p lanes at_) s = .next s) ∧
  (∀ (s : State) (p : Nat) (w : WidthSwitch), p < 24 → s.fld (LNK_STATUS.STATE p) = 6 → (s.port p).width = some w →
      w.agreed = true → countReached w.at_ (s.port p).codewords = true →
      ∃ t, exec (.widthSwitchPoint p) s = .next t ∧ OnlyPort p s t ∧ t.fld (LNK_STATUS.STATE p) = 8 ∧
        t.fld (LNK_STATUS.LANES p) = w.lanes.toNat ∧
        (t.port p).replay = (s.port p).replay ∧ (t.port p).rxNext = (s.port p).rxNext) ∧
  (∀ (s : State) (p lane : Nat), p < 24 → lane < 8 → s.fld (LNK_STATUS.STATE p) = 6 →
      (s.fld (LNK_STATUS.LANES p)).testBit lane = true → 65536 < sget 0 (s.port p).symErrs lane →
      ∃ t, exec (.laneDegrade p lane) s = .next t ∧ OnlyPort p s t ∧ t.flag (LNK_EVT.LANE_DROP p) = true ∧
        t.fld (LNK_STATUS.FAILED p) = s.fld (LNK_STATUS.FAILED p) ||| 2 ^ lane ∧
        (t.port p).passing = BitVec.ofNat 8 ((s.port p).passing.toNat &&& (255 - 2 ^ lane)) ∧
        (if chooseLanes (t.usableLanes p) ≠ 0 ∧ chooseLanes (t.usableLanes p) ≠ s.fld (LNK_STATUS.LANES p) then
          (t.port p).width = some ⟨BitVec.ofNat 8 (chooseLanes (t.usableLanes p)),
            ((s.port p).codewords + 256) % 4294967296, true, false⟩ ∧
          (t.port p).control = (s.port p).control ++
            [ctlWidth 4 (chooseLanes (t.usableLanes p)) (((s.port p).codewords + 256) % 4294967296)]
        else (t.port p).width = (s.port p).width ∧ (t.port p).control = (s.port p).control)) ∧
  (∀ (s : State) (p : Nat), p < 24 → s.fld (LNK_STATUS.STATE p) = 6 →
      ∃ t back, exec (.widen p) s = .next t ∧ OnlyPort p s t ∧ back &&& s.fld (LNK_STATUS.FAILED p) = back ∧
        t.fld (LNK_STATUS.FAILED p) = s.fld (LNK_STATUS.FAILED p) &&& (255 - back) ∧
        (t.port p).passing = BitVec.ofNat 8 ((s.port p).passing.toNat ||| back)) ∧
  (∀ (s : State) (p : Nat), p < 24 → s.fld (LNK_STATUS.STATE p) = 6 → s.flag (LNK_STATUS.COMPAT p) = true →
      1 ≤ (s.port p).ackCount →
      exec (.ackCoalesce p) s = .next (
        let t := if 32 ≤ (s.port p).ackCount then s else { s with now := max s.now ((s.port p).ackPoint + 320) }
        t.setPort p { s.port p with ackSent := (s.port p).rxNext, ackCount := 0, ackPoint := t.now })) ∧
  (∀ (s u : State) (src n : Nat) (m : Message) (e : ReqEntry), src < 65536 → s.fenced 1 = false →
      u.reqOfTag (leAt m.head 2 2) = some (n, e) → leAt m.head 5 1 ≠ stBusy →
      (s.takeMessage src 1 opReadResp = some (m, u) →
        exec (.readResp src) s = .next (u.completeReq n e (leAt m.head 5 1) m.lines)) ∧
      (s.takeMessage src 1 opWriteAck = some (m, u) →
        exec (.writeAck src) s = .next (u.completeReq n e (leAt m.head 5 1) m.lines)) ∧
      (s.takeMessage src 1 opSyncAck = some (m, u) →
        exec (.syncAck src) s = .next (u.completeReq n e (leAt m.head 5 1) m.lines))) ∧
  (∀ (s : State) (k at_ planned : Nat) (e : Ecc) (c : BmeCmd) (rest : List BmeCmd), k < 16 →
      (s.stack k).queue = c :: rest → c.stack = k → c.op = 2 → s.bmeStart c = some (at_, planned) → s.bmeFault c = none →
      ∃ t, exec (.gemv k e) s = .next t ∧ t.now = max s.now at_ ∧ (t.stack k).queue = rest ∧
        (t.stack k).running.length = (s.stack k).running.length + 1)
end

