-- ==== Sys2Proof/Laws/Store.lean ====
section
/-! SUPPORT. What the operations on sparse stores do: a read after a write, and the canonical form each of them keeps. -/
namespace Sys2Proof.Machine

variable {β : Type} [DecidableEq β]

omit [DecidableEq β] in
@[simp] theorem sget_nil (d : β) (k : Nat) : sget d [] k = d := rfl

/-- Every key of a canonical store above a bound is above it. -/
theorem wfFrom_weaken {d : β} {lo hi : Nat} {m : SMap β} (h : SMap.wfFrom d (some hi) m = true) (l : lo ≤ hi) :
    SMap.wfFrom d (some lo) m = true := by
  cases m with
  | nil => rfl
  | cons e r =>
    simp only [SMap.wfFrom, Bool.and_eq_true, decide_eq_true_eq] at h ⊢
    exact ⟨⟨by omega, h.1.2⟩, h.2⟩

theorem wf_of_wfFrom {d : β} {lo : Nat} {m : SMap β} (h : SMap.wfFrom d (some lo) m = true) : SMap.wf d m = true := by
  cases m with
  | nil => rfl
  | cons e r =>
    simp only [SMap.wf, SMap.wfFrom, Bool.and_eq_true, decide_eq_true_eq] at h ⊢
    exact ⟨h.1.2, h.2⟩

theorem wfFrom_filter {d : β} {o : Option Nat} {m : SMap β} (p : Nat × β → Bool) (h : SMap.wfFrom d o m = true) :
    SMap.wfFrom d o (m.filter p) = true := by
  induction m generalizing o with
  | nil => exact h
  | cons e r ih =>
    obtain ⟨a, b⟩ := e
    have hr : SMap.wfFrom d (some a) r = true := by
      cases o <;> simp only [SMap.wfFrom, Bool.and_eq_true] at h <;> exact h.2
    rw [List.filter_cons]
    split
    · cases o <;> simp only [SMap.wfFrom, Bool.and_eq_true, decide_eq_true_eq] at h ⊢
      · exact ⟨h.1, ih h.2⟩
      · exact ⟨h.1, ih h.2⟩
    · cases o with
      | none => exact wf_of_wfFrom (ih hr)
      | some lo =>
        simp only [SMap.wfFrom, Bool.and_eq_true, decide_eq_true_eq] at h
        exact wfFrom_weaken (ih hr) (Nat.le_of_lt h.1.1)

/-- An entry put in the place of its key keeps the canonical form, above a bound below both. -/
theorem wfFrom_sins {d : β} {o : Option Nat} {k : Nat} {v : β} {m : SMap β} (hv : v ≠ d) (hk : ∀ e ∈ m, e.1 ≠ k)
    (l : ∀ lo, o = some lo → lo < k) (h : SMap.wfFrom d o m = true) : SMap.wfFrom d o (sins k v m) = true := by
  induction m generalizing o with
  | nil =>
    cases o with
    | none => simp [sins, SMap.wfFrom, hv]
    | some lo => simp [sins, SMap.wfFrom, hv, l lo rfl]
  | cons e r ih =>
    obtain ⟨a, b⟩ := e
    have hr : SMap.wfFrom d (some a) r = true := by
      cases o <;> simp only [SMap.wfFrom, Bool.and_eq_true] at h <;> exact h.2
    have ha : a ≠ k := hk (a, b) List.mem_cons_self
    simp only [sins]
    split
    · cases o with
      | none =>
        simp only [SMap.wfFrom, Bool.and_eq_true, decide_eq_true_eq] at h ⊢
        exact ⟨hv, ⟨by assumption, h.1⟩, h.2⟩
      | some lo =>
        simp only [SMap.wfFrom, Bool.and_eq_true, decide_eq_true_eq] at h ⊢
        exact ⟨⟨l lo rfl, hv⟩, ⟨by assumption, h.1.2⟩, h.2⟩
    · have ih' := ih (o := some a) (fun e he => hk e (List.mem_cons_of_mem _ he)) (fun x hx => by cases hx; omega) hr
      cases o with
      | none =>
        simp only [SMap.wfFrom, Bool.and_eq_true, decide_eq_true_eq] at h ⊢
        exact ⟨h.1, ih'⟩
      | some lo =>
        simp only [SMap.wfFrom, Bool.and_eq_true, decide_eq_true_eq] at h ⊢
        exact ⟨h.1, ih'⟩

omit [DecidableEq β] in
theorem mem_sdrop {m : SMap β} {k : Nat} {e : Nat × β} : e ∈ sdrop m k ↔ e ∈ m ∧ e.1 ≠ k := by
  simp [sdrop, List.mem_filter]

/-- A write keeps the canonical form. -/
theorem wf_sset {d : β} {m : SMap β} (h : SMap.wf d m = true) (k : Nat) (v : β) : SMap.wf d (sset d m k v) = true := by
  unfold sset
  split
  · exact wfFrom_filter _ h
  · exact wfFrom_sins (by assumption) (fun e he => (mem_sdrop.mp he).2) (fun _ e => nomatch e) (wfFrom_filter _ h)

/-- Dropping entries by their key keeps the canonical form. -/
theorem wf_sfilter {d : β} {m : SMap β} (h : SMap.wf d m = true) (p : Nat → Bool) : SMap.wf d (sfilter m p) = true :=
  wfFrom_filter _ h

/-- Writing consecutive keys keeps the canonical form. -/
theorem wf_swrite {d : β} {m : SMap β} (h : SMap.wf d m = true) (a : Nat) (l : List β) :
    SMap.wf d (swrite d m a l) = true := by
  induction l generalizing m a with
  | nil => exact h
  | cons v r ih => exact ih (wf_sset h a v) (a + 1)

/-- Changing one entry keeps the canonical form. -/
theorem wf_smod {d : β} {m : SMap β} (h : SMap.wf d m = true) (k : Nat) (f : β → β) : SMap.wf d (smod d m k f) = true :=
  wf_sset h k _

theorem wfFrom_smapAllTo {d : β} {o : Option Nat} {m : SMap β} (f : β → β) (h : SMap.wfFrom d o m = true) :
    SMap.wfFrom d o (smapAllTo d m f) = true := by
  induction m generalizing o with
  | nil => exact h
  | cons e r ih =>
    obtain ⟨a, b⟩ := e
    have hr : SMap.wfFrom d (some a) r = true := by
      cases o <;> simp only [SMap.wfFrom, Bool.and_eq_true] at h <;> exact h.2
    have ih' := ih hr
    unfold smapAllTo at ih' ⊢
    rw [List.map_cons, List.filter_cons]
    split
    · rename_i hne
      cases o <;> simp only [SMap.wfFrom, Bool.and_eq_true, decide_eq_true_eq] at h ⊢
      · exact ⟨of_decide_eq_true hne, ih'⟩
      · exact ⟨⟨h.1.1, of_decide_eq_true hne⟩, ih'⟩
    · cases o with
      | none => exact wf_of_wfFrom ih'
      | some lo =>
        simp only [SMap.wfFrom, Bool.and_eq_true, decide_eq_true_eq] at h
        exact wfFrom_weaken ih' (Nat.le_of_lt h.1.1)

/-- Changing every entry keeps the canonical form. -/
theorem wf_smapAllTo {d : β} {m : SMap β} (h : SMap.wf d m = true) (f : β → β) : SMap.wf d (smapAllTo d m f) = true :=
  wfFrom_smapAllTo f h

omit [DecidableEq β] in
theorem sget_sdrop (d : β) (m : SMap β) (k j : Nat) : sget d (sdrop m k) j = if j = k then d else sget d m j := by
  induction m with
  | nil => simp [sdrop]
  | cons e r ih =>
    obtain ⟨a, b⟩ := e
    unfold sdrop at ih ⊢
    rw [List.filter_cons]
    by_cases ha : a = k
    · subst ha
      simp only [bne_self_eq_false, Bool.false_eq_true, if_false, ih, sget]
      by_cases hj : j = a
      · rw [if_pos hj, if_pos hj]
      · rw [if_neg hj, if_neg hj, if_neg (fun e => hj e.symm)]
    · have hb : (a != k) = true := by simp [ha]
      simp only [hb, if_true, sget, ih]
      by_cases hj : a = j
      · subst hj; rw [if_pos rfl, if_neg ha]; simp
      · rw [if_neg hj, if_neg hj]

omit [DecidableEq β] in
theorem sget_sins (d v : β) (k j : Nat) (m : SMap β) (hk : ∀ e ∈ m, e.1 ≠ k) :
    sget d (sins k v m) j = if j = k then v else sget d m j := by
  induction m with
  | nil =>
    simp only [sins, sget]
    by_cases hj : j = k
    · subst hj; simp
    · rw [if_neg hj, if_neg (fun e => hj e.symm)]
  | cons e r ih =>
    obtain ⟨a, b⟩ := e
    have ha : a ≠ k := hk (a, b) List.mem_cons_self
    simp only [sins]
    split
    · simp only [sget]
      by_cases hj : j = k
      · subst hj; simp
      · rw [if_neg (fun e => hj e.symm), if_neg hj]
    · simp only [sget, ih (fun e he => hk e (List.mem_cons_of_mem _ he))]
      by_cases hj : a = j
      · subst hj; rw [if_pos rfl, if_neg ha]; simp
      · rw [if_neg hj, if_neg hj]

/-- A read after a write: the key written reads the value, every other key reads as before. -/
theorem sget_sset (d : β) (m : SMap β) (k j : Nat) (v : β) :
    sget d (sset d m k v) j = if j = k then v else sget d m j := by
  unfold sset
  split
  · rename_i h; subst h; exact sget_sdrop v m k j
  · rw [sget_sins d v k j _ (fun e he => (mem_sdrop.mp he).2), sget_sdrop]
    split <;> rfl

theorem sget_sset_same (d : β) (m : SMap β) (k : Nat) (v : β) : sget d (sset d m k v) k = v := by
  rw [sget_sset, if_pos rfl]

theorem sget_sset_ne (d : β) (m : SMap β) {k j : Nat} (v : β) (h : j ≠ k) : sget d (sset d m k v) j = sget d m j := by
  rw [sget_sset, if_neg h]

/-- R16: a run of keys written reads back. -/
theorem sget_swrite (d : β) (m : SMap β) (a : Nat) (l : List β) (j : Nat) :
    sget d (swrite d m a l) j = if a ≤ j then (l[j - a]?).getD (sget d m j) else sget d m j := by
  induction l generalizing m a with
  | nil => simp [swrite]
  | cons v r ih =>
    rw [swrite, ih, sget_sset]
    by_cases h2 : j = a
    · subst h2
      rw [if_neg (by omega), if_pos rfl, if_pos (Nat.le_refl _), Nat.sub_self]
      rfl
    · rw [if_neg h2]
      by_cases h1 : a + 1 ≤ j
      · have e : j - a = (j - (a + 1)) + 1 := by omega
        rw [if_pos h1, if_pos (by omega), e, List.getElem?_cons_succ]
      · rw [if_neg h1, if_neg (by omega)]

end Sys2Proof.Machine
end

