-- ==== Sys2Proof/Laws/InvBase.lean ====
section
/-! SUPPORT. The invariant of the stores and queues: how it passes through folds and through the stores themselves. -/
namespace Sys2Proof.Machine

theorem foldl_inv {α : Type} {f : State → α → State} {s : State} {l : List α} (hf : ∀ t a, t.Inv → (f t a).Inv)
    (h : s.Inv) : (l.foldl f s).Inv := by
  induction l generalizing s with
  | nil => exact h
  | cons a r ih => exact ih (hf s a h)

/-- A state that differs from one that meets the invariant in other fields meets it. -/
theorem inv_mk {s : State}
    {v0 v1 v2 v3 v4 v5 v6 v7 v8 v9 v10 v11 v12 v13 v14 v15 v16 v17 v18 v19 v20 v21 v22 v23 v24 v25 v26 v27 v28 v29 v30 v31 v32 v33 v34 v35}
    (h : s.Inv)
    (e0 : v3 = s.regs) (e1 : v9 = s.regions) (e2 : v12.mem = s.hbm.mem) (e3 : v12.pchs = s.hbm.pchs) (e4 : v13 = s.cxl)
    (e5 : v15 = s.windows) (e6 : v18 = s.hbmStacks) (e7 : v20 = s.shuttles) (e8 : v22 = s.ports) (e9 : v28.objects = s.sync.objects)
    (e10 : v29.boxes = s.mail.boxes) (e11 : v29.sram = s.mail.sram) (e12 : v21 = s.faultQ) (e13 : v28.failures = s.sync.failures) (e14 : v32.queue = s.mgt.queue)
    (e15 : v34.trace = s.obs.trace) :
    (State.mk v0 v1 v2 v3 v4 v5 v6 v7 v8 v9 v10 v11 v12 v13 v14 v15 v16 v17 v18 v19 v20 v21 v22 v23 v24 v25 v26 v27 v28 v29 v30 v31 v32 v33 v34 v35).Inv where
  regs := by dsimp only; rw [e0]; exact h.regs
  regions := by dsimp only; rw [e1]; exact h.regions
  slices := by dsimp only; rw [e1]; exact h.slices
  hbm := by dsimp only; rw [e2]; exact h.hbm
  pchs := by dsimp only; rw [e3]; exact h.pchs
  cxl := by dsimp only; rw [e4]; exact h.cxl
  windows := by dsimp only; rw [e5]; exact h.windows
  bmes := by dsimp only; rw [e6]; exact h.bmes
  shuttles := by dsimp only; rw [e7]; exact h.shuttles
  ports := by dsimp only; rw [e8]; exact h.ports
  objects := by dsimp only; rw [e9]; exact h.objects
  boxes := by dsimp only; rw [e10]; exact h.boxes
  sram := by dsimp only; rw [e11]; exact h.sram
  faultQ := by dsimp only; rw [e12]; exact h.faultQ
  failures := by dsimp only; rw [e13]; exact h.failures
  log := by dsimp only; rw [e14]; exact h.log
  trace := by dsimp only; rw [e15]; exact h.trace

/-- The same, where a store of units may differ and stays in canonical form. -/
theorem inv_mk_wf {s : State}
    {v0 v1 v2 v3 v4 v5 v6 v7 v8 v9 v10 v11 v12 v13 v14 v15 v16 v17 v18 v19 v20 v21 v22 v23 v24 v25 v26 v27 v28 v29 v30 v31 v32 v33 v34 v35}
    (h : s.Inv)
    (e0 : v3 = s.regs) (e1 : v9 = s.regions) (e2 : v12.mem = s.hbm.mem) (e3 : SMap.wf {} s.hbm.pchs = true → SMap.wf {} v12.pchs = true) (e4 : SMap.wf {} s.cxl = true → SMap.wf {} v13 = true)
    (e5 : SMap.wf {} s.windows = true → SMap.wf {} v15 = true) (e6 : SMap.wf {} s.hbmStacks = true → SMap.wf {} v18 = true) (e7 : SMap.wf {} s.shuttles = true → SMap.wf {} v20 = true) (e8 : SMap.wf {} s.ports = true → SMap.wf {} v22 = true) (e9 : v28.objects = s.sync.objects)
    (e10 : SMap.wf {} s.mail.boxes = true → SMap.wf {} v29.boxes = true) (e11 : v29.sram = s.mail.sram) (e12 : v21 = s.faultQ) (e13 : v28.failures = s.sync.failures) (e14 : v32.queue = s.mgt.queue)
    (e15 : v34.trace = s.obs.trace) :
    (State.mk v0 v1 v2 v3 v4 v5 v6 v7 v8 v9 v10 v11 v12 v13 v14 v15 v16 v17 v18 v19 v20 v21 v22 v23 v24 v25 v26 v27 v28 v29 v30 v31 v32 v33 v34 v35).Inv where
  regs := by dsimp only; rw [e0]; exact h.regs
  regions := by dsimp only; rw [e1]; exact h.regions
  slices := by dsimp only; rw [e1]; exact h.slices
  hbm := by dsimp only; rw [e2]; exact h.hbm
  pchs := e3 h.pchs
  cxl := e4 h.cxl
  windows := e5 h.windows
  bmes := e6 h.bmes
  shuttles := e7 h.shuttles
  ports := e8 h.ports
  objects := by dsimp only; rw [e9]; exact h.objects
  boxes := e10 h.boxes
  sram := by dsimp only; rw [e11]; exact h.sram
  faultQ := by dsimp only; rw [e12]; exact h.faultQ
  failures := by dsimp only; rw [e13]; exact h.failures
  log := by dsimp only; rw [e14]; exact h.log
  trace := by dsimp only; rw [e15]; exact h.trace

theorem canon_mk {r : RegionSt} {v0 v1 v2 v3 v4 v5 v6 v7 v8 v9 v10 v11 v12 v13 v14 v15 v16 v17 v18 v19 v20 v21 v22 v23 v24 v25 v26 v27 v28 v29 v30} (h : r.Canon) (e0 : v11 = r.mem) (e1 : v1 = r.queue) :
    (RegionSt.mk v0 v1 v2 v3 v4 v5 v6 v7 v8 v9 v10 v11 v12 v13 v14 v15 v16 v17 v18 v19 v20 v21 v22 v23 v24 v25 v26 v27 v28 v29 v30 v31).Canon := by
  subst e0; subst e1; exact ⟨h.mem, h.queue⟩

theorem foldl_canon {α : Type} {f : RegionSt → α → RegionSt} {r : RegionSt} {l : List α}
    (hf : ∀ g a, g.Canon → (f g a).Canon) (h : r.Canon) : (l.foldl f r).Canon := by
  induction l generalizing r with
  | nil => exact h
  | cons a l ih => exact ih (hf r a h)

theorem foldl_inv2 {α β : Type} {f : β × State → α → β × State} {p : β × State} {l : List α}
    (hf : ∀ q a, q.2.Inv → (f q a).2.Inv) (h : p.2.Inv) : (l.foldl f p).2.Inv := by
  induction l generalizing p with
  | nil => exact h
  | cons a l ih => exact ih (hf p a h)

theorem foldl_inv1 {α β : Type} {f : State × β → α → State × β} {p : State × β} {l : List α}
    (hf : ∀ q a, q.1.Inv → (f q a).1.Inv) (h : p.1.Inv) : (l.foldl f p).1.Inv := by
  induction l generalizing p with
  | nil => exact h
  | cons a l ih => exact ih (hf p a h)

theorem foldl_inv222 {α β γ δ : Type} {f : β × γ × δ × State → α → β × γ × δ × State} {p : β × γ × δ × State} {l : List α}
    (hf : ∀ q a, q.2.2.2.Inv → (f q a).2.2.2.Inv) (h : p.2.2.2.Inv) : (l.foldl f p).2.2.2.Inv := by
  induction l generalizing p with
  | nil => exact h
  | cons a l ih => exact ih (hf p a h)

theorem mem_sins {β : Type} {v : β} {k : Nat} {m : SMap β} {e : Nat × β} (h : e ∈ sins k v m) : e = (k, v) ∨ e ∈ m := by
  induction m with
  | nil => exact .inl (List.mem_singleton.mp h)
  | cons x r ih =>
    obtain ⟨a, b⟩ := x
    simp only [sins] at h
    split at h
    · exact List.mem_cons.mp h
    · rcases List.mem_cons.mp h with h | h
      · exact .inr (h ▸ List.mem_cons_self)
      · exact (ih h).imp id (List.mem_cons_of_mem _)

/-- An entry of a store after a write is the entry written or an entry of before. -/
theorem mem_sset {β : Type} [DecidableEq β] {d v : β} {k : Nat} {m : SMap β} {e : Nat × β} (h : e ∈ sset d m k v) :
    e = (k, v) ∨ e ∈ m := by
  unfold sset at h
  split at h
  · exact .inr (mem_sdrop.mp h).1
  · exact (mem_sins h).imp id (fun h => (mem_sdrop.mp h).1)

/-- What a key reads is its unlisted value or that of an entry. -/
theorem sget_mem {β : Type} (d : β) (m : SMap β) (k : Nat) : sget d m k = d ∨ (k, sget d m k) ∈ m := by
  induction m with
  | nil => exact .inl rfl
  | cons x r ih =>
    obtain ⟨a, b⟩ := x
    simp only [sget]
    split
    · rename_i h; subst h; exact .inr List.mem_cons_self
    · exact ih.imp id (List.mem_cons_of_mem _)

theorem mem_smapAllTo {β : Type} [DecidableEq β] {d : β} {m : SMap β} {f : β → β} {e : Nat × β}
    (h : e ∈ smapAllTo d m f) : ∃ x, e.2 = f x := by
  unfold smapAllTo at h
  obtain ⟨x, _, rfl⟩ := List.mem_map.mp (List.mem_filter.mp h).1
  exact ⟨x.2, rfl⟩

theorem RegionSt.empty_canon : RegionSt.Canon {} := ⟨rfl, Nat.zero_le _⟩

theorem State.region_inv {s : State} {n : Nat} (h : s.Inv) : (s.region n).Canon := by
  rcases sget_mem ({} : RegionSt) s.regions n with e | e
  · unfold State.region; rw [e]; exact RegionSt.empty_canon
  · exact h.slices _ e

/-- A state that may be absent meets the invariant where it is there. -/
def OptInv (o : Option State) : Prop := ∀ t, o = some t → t.Inv
def OptInv2 {α : Type} (o : Option (α × State)) : Prop := ∀ a t, o = some (a, t) → t.Inv
def OptInv1 {α : Type} (o : Option (State × α)) : Prop := ∀ t a, o = some (t, a) → t.Inv
/-- An outcome meets the invariant where it is a next state. -/
def OutInv (o : Out) : Prop := ∀ t, o = .next t → t.Inv

theorem optInv_none : OptInv none := fun _ e => nomatch e
theorem optInv_some {s : State} (h : s.Inv) : OptInv (some s) := fun _ e => Option.some.inj e ▸ h
theorem optInv_map {o : Option State} {f : State → State} (h : OptInv o) (hf : ∀ t, t.Inv → (f t).Inv) :
    OptInv (o.map f) := by
  intro t e
  cases o with
  | none => cases e
  | some u => cases e; exact hf u (h u rfl)
theorem optInv_mapAny {α : Type} {o : Option α} {f : α → State} (hf : ∀ a, (f a).Inv) : OptInv (o.map f) := by
  intro t e
  cases o with
  | none => cases e
  | some u => cases e; exact hf u
theorem optInv_bind {o : Option State} {f : State → Option State} (h : OptInv o) (hf : ∀ t, t.Inv → OptInv (f t)) :
    OptInv (o.bind f) := by
  intro t e
  cases o with
  | none => cases e
  | some u => exact hf u (h u rfl) t e
theorem optInv_getD {o : Option State} {s : State} (h : OptInv o) (h0 : s.Inv) : (o.getD s).Inv := by
  cases o with
  | none => exact h0
  | some u => exact h u rfl
theorem foldl_optInv {α : Type} {f : Option State → α → Option State} {o : Option State} {l : List α}
    (hf : ∀ t a, OptInv t → OptInv (f t a)) (h : OptInv o) : OptInv (l.foldl f o) := by
  induction l generalizing o with
  | nil => exact h
  | cons a r ih => exact ih (hf o a h)
theorem optInv2_none {α : Type} : OptInv2 (α := α) none := fun _ _ e => nomatch e
theorem optInv2_some {α : Type} {a : α} {s : State} (h : s.Inv) : OptInv2 (some (a, s)) := by
  intro b t e; cases e; exact h
theorem optInv2_some' {α : Type} {p : α × State} (h : p.2.Inv) : OptInv2 (some p) := by
  intro b t e; cases e; exact h
theorem optInv2_map {α : Type} {o : Option α} {s : State} (h : s.Inv) : OptInv2 (o.map (fun u => (u, s))) := by
  intro a t e
  cases o with
  | none => cases e
  | some u => cases e; exact h
theorem optInv1_none {α : Type} : OptInv1 (α := α) none := fun _ _ e => nomatch e
theorem optInv1_some {α : Type} {a : α} {s : State} (h : s.Inv) : OptInv1 (some (s, a)) := by
  intro b t e; cases e; exact h
theorem outInv_next {s : State} (h : s.Inv) : OutInv (.next s) := by
  intro t e; cases e; exact h
theorem outInv_fault {f : Fault} : OutInv (.fault f) := fun _ e => nomatch e
theorem onUnit_inv {c : Bool} {s : State} (h : s.Inv) : OutInv (onUnit c s) := by
  unfold onUnit
  split
  · exact outInv_next h
  · exact outInv_fault
theorem outInv_refused {r : Refusal} : OutInv (.refused r) := fun _ e => nomatch e

end Sys2Proof.Machine
end

