-- ==== Sys2Proof/Laws/InvMemory.lean ====
section
/-! SUPPORT. The invariant through the registers, the queues, the memory, the memory engines and the clocks. -/
namespace Sys2Proof.Machine

theorem State.setReg_inv {s : State} (r : Reg) (v : Reg32) (h0 : s.Inv) :
    (State.setReg s r v).Inv := by
  unfold State.setReg
  exact { h0 with regs := wf_sset h0.regs _ _ }

theorem State.put_inv {s : State} (f : Fld) (v : Nat) (h0 : s.Inv) :
    (State.put s f v).Inv := by
  unfold State.put
  try dsimp only
  repeat' (first | with_reducible assumption | with_reducible apply State.setReg_inv)

theorem State.raise_inv {s : State} (f : Fld) (h0 : s.Inv) :
    (State.raise s f).Inv := by
  unfold State.raise
  try dsimp only
  repeat' (first | with_reducible assumption | with_reducible apply State.put_inv)

theorem State.count_inv {s : State} (f : Fld) (n : Nat) (h0 : s.Inv) :
    (State.count s f n).Inv := by
  unfold State.count
  try dsimp only
  repeat' (first | with_reducible assumption | with_reducible apply State.put_inv)

theorem State.putMax_inv {s : State} (f : Fld) (v : Nat) (h0 : s.Inv) :
    (State.putMax s f v).Inv := by
  unfold State.putMax
  try dsimp only
  repeat' (first | with_reducible assumption | with_reducible apply State.put_inv)

theorem State.at_inv {s : State} (due : Nat) (h0 : s.Inv) :
    (State.at_ s due).Inv := by
  unfold State.at_
  try dsimp only
  repeat' (first
    | with_reducible assumption | with_reducible apply foldl_inv | with_reducible apply foldl_inv2
    | with_reducible apply foldl_inv1 | with_reducible apply foldl_canon | with_reducible apply State.setRegion_inv
    | with_reducible apply State.region_inv | split | exact fun h => h | exact fun h => wf_smapAllTo h _
    | exact fun h => wf_sfilter h _ | exact fun _ => rfl | intro _ _ _ | intro _ _ | intro _ | dsimp only
    | contradiction
    | with_reducible refine inv_mk ?_ rfl rfl rfl rfl rfl rfl rfl rfl rfl rfl rfl rfl rfl rfl rfl rfl)

theorem State.setRegion_inv {s : State} (n : Nat) {r : RegionSt} (h0 : s.Inv) (h1 : r.Canon) :
    (State.setRegion s n r).Inv := by
  refine { h0 with regions := wf_sset h0.regions _ _, slices := ?_ }
  intro e he
  rcases mem_sset he with he | he
  · rw [he]; exact h1
  · exact h0.slices e he

theorem State.setPort_inv {s : State} (p : Nat) (x : PortSt) (h0 : s.Inv) :
    (State.setPort s p x).Inv := by
  unfold State.setPort
  exact { h0 with ports := wf_sset h0.ports _ _ }

theorem State.setStack_inv {s : State} (k : Nat) (x : StackSt) (h0 : s.Inv) :
    (State.setStack s k x).Inv := by
  unfold State.setStack
  exact { h0 with bmes := wf_sset h0.bmes _ _ }

theorem State.setShuttle_inv {s : State} (k : Nat) (x : ShuttleSt) (h0 : s.Inv) :
    (State.setShuttle s k x).Inv := by
  unfold State.setShuttle
  exact { h0 with shuttles := wf_sset h0.shuttles _ _ }

theorem State.setCxl_inv {s : State} (p : Nat) (x : CxlSt) (h0 : s.Inv) :
    (State.setCxl s p x).Inv := by
  unfold State.setCxl
  exact { h0 with cxl := wf_sset h0.cxl _ _ }

theorem State.setPch_inv {s : State} (n : Nat) (x : PchSt) (h0 : s.Inv) :
    (State.setPch s n x).Inv := by
  unfold State.setPch
  exact { h0 with pchs := wf_sset h0.pchs _ _ }

theorem State.setWindow_inv {s : State} (n : Nat) (x : WindowEntry) (h0 : s.Inv) :
    (State.setWindow s n x).Inv := by
  unfold State.setWindow
  exact { h0 with windows := wf_sset h0.windows _ _ }

theorem State.setBox_inv {s : State} (n : Nat) (x : MailboxSt) (h0 : s.Inv) :
    (State.setBox s n x).Inv := by
  unfold State.setBox
  exact { h0 with boxes := wf_sset h0.boxes _ _ }

theorem State.each_inv {s : State} (l : List Nat) {f : Nat → State → State} (h0 : s.Inv)
    (hf1 : ∀ u0 u1, u1.Inv → (f u0 u1).Inv) :
    (State.each s l f).Inv := by
  unfold State.each
  exact foldl_inv (fun t n h => hf1 n t h) h0

theorem State.emit_inv {s : State} (o : Output) (h0 : s.Inv) :
    (State.emit s o).Inv := by
  unfold State.emit
  try dsimp only
  repeat' (first
    | with_reducible assumption | with_reducible apply foldl_inv | with_reducible apply foldl_inv2
    | with_reducible apply foldl_inv1 | with_reducible apply foldl_canon | with_reducible apply State.setRegion_inv
    | with_reducible apply State.region_inv | split | exact fun h => h | exact fun h => wf_smapAllTo h _
    | exact fun h => wf_sfilter h _ | exact fun _ => rfl | intro _ _ _ | intro _ _ | intro _ | dsimp only
    | contradiction
    | with_reducible refine inv_mk ?_ rfl rfl rfl rfl rfl rfl rfl rfl rfl rfl rfl rfl rfl rfl rfl rfl)

theorem State.logRec_inv {s : State} (type : Nat) (source : Nat) (data : List Byte) (h0 : s.Inv) :
    (State.logRec s type source data).Inv := by
  unfold State.logRec
  split
  · exact { h0 with }
  · refine { h0 with log := ?_ }
    simp only [List.length_append, List.length_singleton]; omega

theorem State.trace_inv {s : State} (bit : Nat) (source : Nat) (data : List Byte) (h0 : s.Inv) :
    (State.trace s bit source data).Inv := by
  unfold State.trace
  split
  · split
    · exact State.count_inv _ _ (inv_mk h0 rfl rfl rfl rfl rfl rfl rfl rfl rfl rfl rfl rfl rfl rfl rfl rfl)
    · rename_i hn
      refine { h0 with trace := ?_ }
      simp only [List.length_append, List.length_singleton]; omega
  · exact h0

theorem State.event_inv {s : State} (type : Nat) (source : Nat) (data : List Byte) (h0 : s.Inv) :
    (State.event s type source data).Inv := by
  unfold State.event
  try dsimp only
  repeat' (first
    | with_reducible assumption | with_reducible apply State.logRec_inv | with_reducible apply State.trace_inv
    | with_reducible apply foldl_inv | with_reducible apply foldl_inv2 | with_reducible apply foldl_inv1
    | with_reducible apply foldl_canon | with_reducible apply State.setRegion_inv
    | with_reducible apply State.region_inv | split | exact fun h => h | exact fun h => wf_smapAllTo h _
    | exact fun h => wf_sfilter h _ | exact fun _ => rfl | intro _ _ _ | intro _ _ | intro _ | dsimp only
    | contradiction
    | with_reducible refine inv_mk ?_ rfl rfl rfl rfl rfl rfl rfl rfl rfl rfl rfl rfl rfl rfl rfl rfl)

theorem State.stopSeq_inv {s : State} (why : SeqState) (h0 : s.Inv) :
    (State.stopSeq s why).Inv := by
  unfold State.stopSeq
  try dsimp only
  repeat' (first
    | with_reducible assumption | with_reducible apply foldl_inv | with_reducible apply foldl_inv2
    | with_reducible apply foldl_inv1 | with_reducible apply foldl_canon | with_reducible apply State.setRegion_inv
    | with_reducible apply State.region_inv | split | exact fun h => h | exact fun h => wf_smapAllTo h _
    | exact fun h => wf_sfilter h _ | exact fun _ => rfl | intro _ _ _ | intro _ _ | intro _ | dsimp only
    | contradiction
    | with_reducible refine inv_mk ?_ rfl rfl rfl rfl rfl rfl rfl rfl rfl rfl rfl rfl rfl rfl rfl rfl)

theorem State.slip_inv {s : State} (h0 : s.Inv) :
    (State.slip s).Inv := by
  unfold State.slip
  try dsimp only
  repeat' (first
    | with_reducible assumption | with_reducible apply State.raise_inv | with_reducible apply State.put_inv
    | with_reducible apply State.stopSeq_inv | with_reducible apply State.event_inv | with_reducible apply foldl_inv
    | with_reducible apply foldl_inv2 | with_reducible apply foldl_inv1 | with_reducible apply foldl_canon
    | with_reducible apply State.setRegion_inv | with_reducible apply State.region_inv | split)

theorem State.meter_inv {s : State} (key : Nat) (tiles : Nat) (bme : Nat) (cells : Nat) (h0 : s.Inv) :
    (State.meter s key tiles bme cells).Inv := by
  unfold State.meter
  try dsimp only
  repeat' (first
    | with_reducible assumption | with_reducible apply foldl_inv | with_reducible apply foldl_inv2
    | with_reducible apply foldl_inv1 | with_reducible apply foldl_canon | with_reducible apply State.setRegion_inv
    | with_reducible apply State.region_inv | split | exact fun h => h | exact fun h => wf_smapAllTo h _
    | exact fun h => wf_sfilter h _ | exact fun _ => rfl | intro _ _ _ | intro _ _ | intro _ | dsimp only
    | contradiction
    | with_reducible refine inv_mk ?_ rfl rfl rfl rfl rfl rfl rfl rfl rfl rfl rfl rfl rfl rfl rfl rfl)

theorem State.meterOwn_inv {s : State} (tiles : Nat) (bme : Nat) (h0 : s.Inv) :
    (State.meterOwn s tiles bme).Inv := by
  unfold State.meterOwn
  try dsimp only
  repeat' (first | with_reducible assumption | with_reducible apply State.meter_inv)

theorem State.setPtbCount_inv {s : State} (k : Nat) (v : Nat) (h0 : s.Inv) :
    (State.setPtbCount s k v).Inv := by
  unfold State.setPtbCount
  try dsimp only
  repeat' (first
    | with_reducible assumption | with_reducible apply foldl_inv | with_reducible apply foldl_inv2
    | with_reducible apply foldl_inv1 | with_reducible apply foldl_canon | with_reducible apply State.setRegion_inv
    | with_reducible apply State.region_inv | split | exact fun h => h | exact fun h => wf_smapAllTo h _
    | exact fun h => wf_sfilter h _ | exact fun _ => rfl | intro _ _ _ | intro _ _ | intro _ | dsimp only
    | contradiction
    | with_reducible refine inv_mk ?_ rfl rfl rfl rfl rfl rfl rfl rfl rfl rfl rfl rfl rfl rfl rfl rfl)

theorem State.freeByte_inv {s : State} (h0 : s.Inv) :
    (State.freeByte s).2.Inv := by
  unfold State.freeByte
  try dsimp only
  repeat' (first
    | with_reducible assumption | with_reducible apply foldl_inv | with_reducible apply foldl_inv2
    | with_reducible apply foldl_inv1 | with_reducible apply foldl_canon | with_reducible apply State.setRegion_inv
    | with_reducible apply State.region_inv | split | exact fun h => h | exact fun h => wf_smapAllTo h _
    | exact fun h => wf_sfilter h _ | exact fun _ => rfl | intro _ _ _ | intro _ _ | intro _ | dsimp only
    | contradiction
    | with_reducible refine inv_mk ?_ rfl rfl rfl rfl rfl rfl rfl rfl rfl rfl rfl rfl rfl rfl rfl rfl)
theorem State.freeByte_inv_eq {s : State} {zr} {zt : State} (e0 : (State.freeByte s) = (zr, zt)) (h0 : s.Inv) :
    zt.Inv := by
  have i := State.freeByte_inv h0
  rw [e0] at i
  exact i

theorem State.freeNat_inv {s : State} (n : Nat) (h0 : s.Inv) :
    (State.freeNat s n).2.Inv := by
  unfold State.freeNat
  try dsimp only
  repeat' (first
    | with_reducible assumption | with_reducible apply foldl_inv | with_reducible apply foldl_inv2
    | with_reducible apply foldl_inv1 | with_reducible apply foldl_canon | with_reducible apply State.setRegion_inv
    | with_reducible apply State.region_inv | split | exact fun h => h | exact fun h => wf_smapAllTo h _
    | exact fun h => wf_sfilter h _ | exact fun _ => rfl | intro _ _ _ | intro _ _ | intro _ | dsimp only
    | contradiction
    | with_reducible refine inv_mk ?_ rfl rfl rfl rfl rfl rfl rfl rfl rfl rfl rfl rfl rfl rfl rfl rfl)
theorem State.freeNat_inv_eq {s : State} {n : Nat} {zr} {zt : State} (e0 : (State.freeNat s n) = (zr, zt))
    (h0 : s.Inv) :
    zt.Inv := by
  have i := State.freeNat_inv n h0
  rw [e0] at i
  exact i

theorem RegionSt.put_inv {r : RegionSt} (a : Nat) (b : List Byte) (h0 : r.Canon) :
    (RegionSt.put r a b).Canon := by
  unfold RegionSt.put
  exact { h0 with mem := wf_swrite h0.mem _ _ }

theorem RegionSt.putLine_inv {r : RegionSt} (line : Nat) (off : Nat) (b : List Byte) (h0 : r.Canon) :
    (RegionSt.putLine r line off b).Canon := by
  unfold RegionSt.putLine
  try dsimp only
  repeat' (first
    | with_reducible assumption | with_reducible apply RegionSt.put_inv | with_reducible apply foldl_inv
    | with_reducible apply foldl_inv2 | with_reducible apply foldl_inv1 | with_reducible apply foldl_canon
    | with_reducible apply State.setRegion_inv | with_reducible apply State.region_inv | split | exact fun h => h
    | exact fun h => wf_smapAllTo h _ | exact fun h => wf_sfilter h _ | exact fun _ => rfl | intro _ _ _ | intro _ _
    | intro _ | dsimp only | contradiction
    | with_reducible refine inv_mk ?_ rfl rfl rfl rfl rfl rfl rfl rfl rfl rfl rfl rfl rfl rfl rfl rfl
    | with_reducible refine canon_mk ?_ rfl rfl)

theorem State.spadError_inv {s : State} (rgn : Nat) (line : Nat) (h0 : s.Inv) :
    (State.spadError s rgn line).Inv := by
  unfold State.spadError
  try dsimp only
  repeat' (first
    | with_reducible assumption | with_reducible apply State.put_inv | with_reducible apply State.logRec_inv
    | with_reducible apply State.raise_inv | with_reducible apply foldl_inv | with_reducible apply foldl_inv2
    | with_reducible apply foldl_inv1 | with_reducible apply foldl_canon | with_reducible apply State.setRegion_inv
    | with_reducible apply State.region_inv | split)

theorem State.spadCheck_inv {s : State} (rgn : Nat) (line : Nat) (e : Ecc) (h0 : s.Inv) :
    (State.spadCheck s rgn line e).2.Inv := by
  unfold State.spadCheck
  try dsimp only
  repeat' (first
    | with_reducible assumption | with_reducible apply State.region_inv | with_reducible apply State.setRegion_inv
    | with_reducible apply State.spadError_inv | with_reducible apply State.count_inv
    | with_reducible apply foldl_inv | with_reducible apply foldl_inv2 | with_reducible apply foldl_inv1
    | with_reducible apply foldl_canon | with_reducible apply State.setRegion_inv
    | with_reducible apply State.region_inv | split | exact fun h => h | exact fun h => wf_smapAllTo h _
    | exact fun h => wf_sfilter h _ | exact fun _ => rfl | intro _ _ _ | intro _ _ | intro _ | dsimp only
    | contradiction
    | with_reducible refine inv_mk ?_ rfl rfl rfl rfl rfl rfl rfl rfl rfl rfl rfl rfl rfl rfl rfl rfl
    | with_reducible refine canon_mk ?_ rfl rfl)
theorem State.spadCheck_inv_eq {s : State} {rgn : Nat} {line : Nat} {e : Ecc} {zr} {zt : State}
    (e0 : (State.spadCheck s rgn line e) = (zr, zt)) (h0 : s.Inv) :
    zt.Inv := by
  have i := State.spadCheck_inv rgn line e h0
  rw [e0] at i
  exact i

theorem RegionSt.setTag_inv {r : RegionSt} (line : Nat) (v : Nat) (h0 : r.Canon) :
    (RegionSt.setTag r line v).Canon := by
  unfold RegionSt.setTag
  try dsimp only
  repeat' (first
    | with_reducible assumption | with_reducible apply foldl_inv | with_reducible apply foldl_inv2
    | with_reducible apply foldl_inv1 | with_reducible apply foldl_canon | with_reducible apply State.setRegion_inv
    | with_reducible apply State.region_inv | split | exact fun h => h | exact fun h => wf_smapAllTo h _
    | exact fun h => wf_sfilter h _ | exact fun _ => rfl | intro _ _ _ | intro _ _ | intro _ | dsimp only
    | contradiction
    | with_reducible refine inv_mk ?_ rfl rfl rfl rfl rfl rfl rfl rfl rfl rfl rfl rfl rfl rfl rfl rfl
    | with_reducible refine canon_mk ?_ rfl rfl)

theorem RegionSt.arrive_inv {r : RegionSt} (k : Nat × Nat × Nat) (h0 : r.Canon) :
    (RegionSt.arrive r k).Canon := by
  unfold RegionSt.arrive
  try dsimp only
  repeat' (first
    | with_reducible assumption | with_reducible apply foldl_inv | with_reducible apply foldl_inv2
    | with_reducible apply foldl_inv1 | with_reducible apply foldl_canon | with_reducible apply State.setRegion_inv
    | with_reducible apply State.region_inv | split | exact fun h => h | exact fun h => wf_smapAllTo h _
    | exact fun h => wf_sfilter h _ | exact fun _ => rfl | intro _ _ _ | intro _ _ | intro _ | dsimp only
    | contradiction
    | with_reducible refine inv_mk ?_ rfl rfl rfl rfl rfl rfl rfl rfl rfl rfl rfl rfl rfl rfl rfl rfl
    | with_reducible refine canon_mk ?_ rfl rfl)

theorem RegionSt.took_inv {r : RegionSt} (k : Nat × Nat × Nat) (h0 : r.Canon) :
    (RegionSt.took r k).Canon := by
  unfold RegionSt.took
  try dsimp only
  repeat' (first
    | with_reducible assumption | with_reducible apply foldl_inv | with_reducible apply foldl_inv2
    | with_reducible apply foldl_inv1 | with_reducible apply foldl_canon | with_reducible apply State.setRegion_inv
    | with_reducible apply State.region_inv | split | exact fun h => h | exact fun h => wf_smapAllTo h _
    | exact fun h => wf_sfilter h _ | exact fun _ => rfl | intro _ _ _ | intro _ _ | intro _ | dsimp only
    | contradiction
    | with_reducible refine inv_mk ?_ rfl rfl rfl rfl rfl rfl rfl rfl rfl rfl rfl rfl rfl rfl rfl rfl
    | with_reducible refine canon_mk ?_ rfl rfl)

theorem RegionSt.freeSlot_inv {r : RegionSt} (x : Nat) (h0 : r.Canon) :
    (RegionSt.freeSlot r x).Canon := by
  unfold RegionSt.freeSlot
  try dsimp only
  repeat' (first
    | with_reducible assumption | with_reducible apply foldl_inv | with_reducible apply foldl_inv2
    | with_reducible apply foldl_inv1 | with_reducible apply foldl_canon | with_reducible apply State.setRegion_inv
    | with_reducible apply State.region_inv | split | exact fun h => h | exact fun h => wf_smapAllTo h _
    | exact fun h => wf_sfilter h _ | exact fun _ => rfl | intro _ _ _ | intro _ _ | intro _ | dsimp only
    | contradiction
    | with_reducible refine inv_mk ?_ rfl rfl rfl rfl rfl rfl rfl rfl rfl rfl rfl rfl rfl rfl rfl rfl
    | with_reducible refine canon_mk ?_ rfl rfl)

theorem State.countDelay_inv {s : State} (n : Nat) (h0 : s.Inv) :
    (State.countDelay s n).Inv := by
  unfold State.countDelay
  try dsimp only
  repeat' (first
    | with_reducible assumption | with_reducible apply State.region_inv | with_reducible apply State.count_inv
    | with_reducible apply State.setRegion_inv | with_reducible apply foldl_inv | with_reducible apply foldl_inv2
    | with_reducible apply foldl_inv1 | with_reducible apply foldl_canon | with_reducible apply State.setRegion_inv
    | with_reducible apply State.region_inv | split | exact fun h => h | exact fun h => wf_smapAllTo h _
    | exact fun h => wf_sfilter h _ | exact fun _ => rfl | intro _ _ _ | intro _ _ | intro _ | dsimp only
    | contradiction
    | with_reducible refine inv_mk ?_ rfl rfl rfl rfl rfl rfl rfl rfl rfl rfl rfl rfl rfl rfl rfl rfl
    | with_reducible refine canon_mk ?_ rfl rfl
    | with_reducible refine inv_mk_wf ?_ rfl rfl rfl ?_ ?_ ?_ ?_ ?_ ?_ rfl ?_ rfl rfl rfl rfl rfl
    | refine wf_smapAllTo ?_ _)

theorem State.edge_inv {s : State} (n : Nat) (h0 : s.Inv) :
    (State.edge s n).Inv := by
  unfold State.edge
  try dsimp only
  repeat' (first
    | with_reducible assumption | with_reducible apply State.region_inv | with_reducible apply State.setRegion_inv
    | with_reducible apply foldl_inv | with_reducible apply foldl_inv2 | with_reducible apply foldl_inv1
    | with_reducible apply foldl_canon | with_reducible apply State.setRegion_inv
    | with_reducible apply State.region_inv | split | exact fun h => h | exact fun h => wf_smapAllTo h _
    | exact fun h => wf_sfilter h _ | exact fun _ => rfl | intro _ _ _ | intro _ _ | intro _ | dsimp only
    | contradiction
    | with_reducible refine inv_mk ?_ rfl rfl rfl rfl rfl rfl rfl rfl rfl rfl rfl rfl rfl rfl rfl rfl
    | with_reducible refine canon_mk ?_ rfl rfl)

theorem State.hbmWrite_inv {s : State} (a : Nat) (b : List Byte) (h0 : s.Inv) :
    (State.hbmWrite s a b).Inv := by
  unfold State.hbmWrite
  exact { h0 with hbm := wf_swrite h0.hbm _ _ }

theorem State.hbmCheck_inv {s : State} (a : Nat) (e : Ecc) (h0 : s.Inv) :
    (State.hbmCheck s a e).2.Inv := by
  unfold State.hbmCheck
  try dsimp only
  repeat' (first
    | with_reducible assumption | with_reducible apply State.put_inv | with_reducible apply State.logRec_inv
    | with_reducible apply State.raise_inv | with_reducible apply State.count_inv | with_reducible apply foldl_inv
    | with_reducible apply foldl_inv2 | with_reducible apply foldl_inv1 | with_reducible apply foldl_canon
    | with_reducible apply State.setRegion_inv | with_reducible apply State.region_inv | split | exact fun h => h
    | exact fun h => wf_smapAllTo h _ | exact fun h => wf_sfilter h _ | exact fun _ => rfl | intro _ _ _ | intro _ _
    | intro _ | dsimp only | contradiction
    | with_reducible refine inv_mk ?_ rfl rfl rfl rfl rfl rfl rfl rfl rfl rfl rfl rfl rfl rfl rfl rfl)
theorem State.hbmCheck_inv_eq {s : State} {a : Nat} {e : Ecc} {zr} {zt : State}
    (e0 : (State.hbmCheck s a e) = (zr, zt)) (h0 : s.Inv) :
    zt.Inv := by
  have i := State.hbmCheck_inv a e h0
  rw [e0] at i
  exact i

theorem State.recordFault_inv {s : State} (who : Requester) (va : Nat) (write : Bool) (access : Bool) (h0 : s.Inv) :
    (State.recordFault s who va write access).Inv := by
  unfold State.recordFault
  try dsimp only
  repeat' (first
    | with_reducible assumption | with_reducible apply State.put_inv | with_reducible apply State.raise_inv
    | with_reducible apply foldl_inv | with_reducible apply foldl_inv2 | with_reducible apply foldl_inv1
    | with_reducible apply foldl_canon | with_reducible apply State.setRegion_inv
    | with_reducible apply State.region_inv | split)

theorem State.atPlace_inv {s : State} (who : Requester) (va : Nat) (l : Leaf) (write : Option (List Byte))
    (h0 : s.Inv) :
    (State.atPlace s who va l write).2.Inv := by
  unfold State.atPlace
  try dsimp only
  repeat' (first
    | with_reducible assumption | with_reducible apply State.setPch_inv | with_reducible apply State.emit_inv
    | with_reducible apply State.setCxl_inv | with_reducible apply foldl_inv | with_reducible apply foldl_inv2
    | with_reducible apply foldl_inv1 | with_reducible apply foldl_canon | with_reducible apply State.setRegion_inv
    | with_reducible apply State.region_inv | split | exact fun h => h | exact fun h => wf_smapAllTo h _
    | exact fun h => wf_sfilter h _ | exact fun _ => rfl | intro _ _ _ | intro _ _ | intro _ | dsimp only
    | contradiction
    | with_reducible refine inv_mk ?_ rfl rfl rfl rfl rfl rfl rfl rfl rfl rfl rfl rfl rfl rfl rfl rfl
    | with_reducible refine canon_mk ?_ rfl rfl
    | with_reducible refine inv_mk_wf ?_ rfl rfl rfl ?_ ?_ ?_ ?_ ?_ ?_ rfl ?_ rfl rfl rfl rfl rfl
    | refine wf_smapAllTo ?_ _)
theorem State.atPlace_inv_eq {s : State} {who : Requester} {va : Nat} {l : Leaf} {write : Option (List Byte)} {zr}
    {zt : State} (e0 : (State.atPlace s who va l write) = (zr, zt)) (h0 : s.Inv) :
    zt.Inv := by
  have i := State.atPlace_inv who va l write h0
  rw [e0] at i
  exact i

theorem State.fillCache_inv {s : State} (l : Leaf) (h0 : s.Inv) :
    (State.fillCache s l).Inv := by
  unfold State.fillCache
  try dsimp only
  repeat' (first
    | with_reducible assumption | with_reducible apply foldl_inv | with_reducible apply foldl_inv2
    | with_reducible apply foldl_inv1 | with_reducible apply foldl_canon | with_reducible apply State.setRegion_inv
    | with_reducible apply State.region_inv | split | exact fun h => h | exact fun h => wf_smapAllTo h _
    | exact fun h => wf_sfilter h _ | exact fun _ => rfl | intro _ _ _ | intro _ _ | intro _ | dsimp only
    | contradiction
    | with_reducible refine inv_mk ?_ rfl rfl rfl rfl rfl rfl rfl rfl rfl rfl rfl rfl rfl rfl rfl rfl)

theorem State.hbmStore_inv {s : State} (a : Nat) (b : List Byte) (h0 : s.Inv) :
    (State.hbmStore s a b).Inv := by
  unfold State.hbmStore
  try dsimp only
  repeat' (first
    | with_reducible assumption | with_reducible apply State.setPch_inv | with_reducible apply State.hbmWrite_inv
    | with_reducible apply foldl_inv | with_reducible apply foldl_inv2 | with_reducible apply foldl_inv1
    | with_reducible apply foldl_canon | with_reducible apply State.setRegion_inv
    | with_reducible apply State.region_inv | split)

theorem State.cxlStore_inv {s : State} (port : Nat) (off : Nat) (b : List Byte) (h0 : s.Inv) :
    (State.cxlStore s port off b).Inv := by
  unfold State.cxlStore
  try dsimp only
  repeat' (first
    | with_reducible assumption | with_reducible apply foldl_inv | with_reducible apply foldl_inv2
    | with_reducible apply foldl_inv1 | with_reducible apply foldl_canon | with_reducible apply State.setRegion_inv
    | with_reducible apply State.region_inv | split | exact fun h => h | exact fun h => wf_smapAllTo h _
    | exact fun h => wf_sfilter h _ | exact fun _ => rfl | intro _ _ _ | intro _ _ | intro _ | dsimp only
    | contradiction
    | with_reducible refine inv_mk ?_ rfl rfl rfl rfl rfl rfl rfl rfl rfl rfl rfl rfl rfl rfl rfl rfl)

theorem State.cxlUnknown_inv {s : State} (port : Nat) (off : Nat) (n : Nat) (h0 : s.Inv) :
    (State.cxlUnknown s port off n).Inv := by
  unfold State.cxlUnknown
  try dsimp only
  repeat' (first
    | with_reducible assumption | with_reducible apply State.cxlStore_inv | with_reducible apply foldl_inv
    | with_reducible apply foldl_inv2 | with_reducible apply foldl_inv1 | with_reducible apply foldl_canon
    | with_reducible apply State.setRegion_inv | with_reducible apply State.region_inv | split | exact fun h => h
    | exact fun h => wf_smapAllTo h _ | exact fun h => wf_sfilter h _ | exact fun _ => rfl | intro _ _ _ | intro _ _
    | intro _ | dsimp only | contradiction
    | with_reducible refine inv_mk ?_ rfl rfl rfl rfl rfl rfl rfl rfl rfl rfl rfl rfl rfl rfl rfl rfl)

theorem State.cxlLost_inv {s : State} (port : Nat) (h0 : s.Inv) :
    (State.cxlLost s port).Inv := by
  unfold State.cxlLost
  try dsimp only
  repeat' (first
    | with_reducible assumption | with_reducible apply foldl_inv | with_reducible apply foldl_inv2
    | with_reducible apply foldl_inv1 | with_reducible apply foldl_canon | with_reducible apply State.setRegion_inv
    | with_reducible apply State.region_inv | split | exact fun h => h | exact fun h => wf_smapAllTo h _
    | exact fun h => wf_sfilter h _ | exact fun _ => rfl | intro _ _ _ | intro _ _ | intro _ | dsimp only
    | contradiction
    | with_reducible refine inv_mk ?_ rfl rfl rfl rfl rfl rfl rfl rfl rfl rfl rfl rfl rfl rfl rfl rfl)

theorem State.vaRead_inv {s : State} (va : Nat) (x2 : Nat) (x3 : List Byte) (h0 : s.Inv) :
    (State.vaRead s va x2 x3).2.Inv := by
  induction x2 generalizing s va x3 with
  | zero =>
    unfold State.vaRead
    try dsimp only
    repeat' (first | with_reducible assumption)
  | succ n ih =>
    unfold State.vaRead
    try dsimp only
    repeat' (first
      | with_reducible assumption | with_reducible apply ih | with_reducible apply foldl_inv
      | with_reducible apply foldl_inv2 | with_reducible apply foldl_inv1 | with_reducible apply foldl_canon
      | with_reducible apply State.setRegion_inv | with_reducible apply State.region_inv | split)
theorem State.vaRead_inv_eq {s : State} {va : Nat} {x2 : Nat} {x3 : List Byte} {zr} {zt : State}
    (e0 : (State.vaRead s va x2 x3) = (zr, zt)) (h0 : s.Inv) :
    zt.Inv := by
  have i := State.vaRead_inv va x2 x3 h0
  rw [e0] at i
  exact i

theorem State.fillWalks_inv {s : State} (h0 : s.Inv) :
    (State.fillWalks s).Inv := by
  unfold State.fillWalks
  try dsimp only
  repeat' (first
    | with_reducible assumption | with_reducible apply foldl_inv | with_reducible apply foldl_inv2
    | with_reducible apply foldl_inv1 | with_reducible apply foldl_canon | with_reducible apply State.setRegion_inv
    | with_reducible apply State.region_inv | split | exact fun h => h | exact fun h => wf_smapAllTo h _
    | exact fun h => wf_sfilter h _ | exact fun _ => rfl | intro _ _ _ | intro _ _ | intro _ | dsimp only
    | contradiction
    | with_reducible refine inv_mk ?_ rfl rfl rfl rfl rfl rfl rfl rfl rfl rfl rfl rfl rfl rfl rfl rfl)

theorem State.memAccess_inv {s : State} (who : Requester) (va : Nat) (write : Option (List Byte)) (h0 : s.Inv) :
    (State.memAccess s who va write).2.Inv := by
  unfold State.memAccess
  try dsimp only
  repeat' (first
    | with_reducible assumption | with_reducible apply State.recordFault_inv
    | with_reducible apply State.atPlace_inv | refine State.atPlace_inv_eq (by assumption) ?_
    | with_reducible apply State.fillWalks_inv | with_reducible apply foldl_inv | with_reducible apply foldl_inv2
    | with_reducible apply foldl_inv1 | with_reducible apply foldl_canon | with_reducible apply State.setRegion_inv
    | with_reducible apply State.region_inv | split | exact fun h => h | exact fun h => wf_smapAllTo h _
    | exact fun h => wf_sfilter h _ | exact fun _ => rfl | intro _ _ _ | intro _ _ | intro _ | dsimp only
    | contradiction
    | with_reducible refine inv_mk ?_ rfl rfl rfl rfl rfl rfl rfl rfl rfl rfl rfl rfl rfl rfl rfl rfl
    | with_reducible refine canon_mk ?_ rfl rfl
    | with_reducible refine inv_mk_wf ?_ rfl rfl rfl ?_ ?_ ?_ ?_ ?_ ?_ rfl ?_ rfl rfl rfl rfl rfl
    | refine wf_smapAllTo ?_ _)
theorem State.memAccess_inv_eq {s : State} {who : Requester} {va : Nat} {write : Option (List Byte)} {zr} {zt : State}
    (e0 : (State.memAccess s who va write) = (zr, zt)) (h0 : s.Inv) :
    zt.Inv := by
  have i := State.memAccess_inv who va write h0
  rw [e0] at i
  exact i

theorem State.noteLines_inv {s : State} (va : Nat) (n : Nat) (h0 : s.Inv) :
    (State.noteLines s va n).Inv := by
  unfold State.noteLines
  try dsimp only
  repeat' (first
    | with_reducible assumption | with_reducible apply State.hbmCheck_inv
    | refine State.hbmCheck_inv_eq (by assumption) ?_ | with_reducible apply foldl_inv
    | with_reducible apply foldl_inv2 | with_reducible apply foldl_inv1 | with_reducible apply foldl_canon
    | with_reducible apply State.setRegion_inv | with_reducible apply State.region_inv | split | exact fun h => h
    | exact fun h => wf_smapAllTo h _ | exact fun h => wf_sfilter h _ | exact fun _ => rfl | intro _ _ _)

theorem State.notePage_inv {s : State} (who : Requester) (write : Bool) (test : Bool) (va : Nat) (h0 : s.Inv) :
    (State.notePage s who write test va).Inv := by
  unfold State.notePage
  try dsimp only
  repeat' (first
    | with_reducible assumption | with_reducible apply State.recordFault_inv
    | with_reducible apply State.memAccess_inv | refine State.memAccess_inv_eq (by assumption) ?_
    | with_reducible apply foldl_inv | with_reducible apply foldl_inv2 | with_reducible apply foldl_inv1
    | with_reducible apply foldl_canon | with_reducible apply State.setRegion_inv
    | with_reducible apply State.region_inv | split | exact fun h => h | exact fun h => wf_smapAllTo h _
    | exact fun h => wf_sfilter h _ | exact fun _ => rfl | intro _ _ _ | intro _ _ | intro _ | dsimp only
    | contradiction
    | with_reducible refine inv_mk ?_ rfl rfl rfl rfl rfl rfl rfl rfl rfl rfl rfl rfl rfl rfl rfl rfl
    | with_reducible refine canon_mk ?_ rfl rfl
    | with_reducible refine inv_mk_wf ?_ rfl rfl rfl ?_ ?_ ?_ ?_ ?_ ?_ rfl ?_ rfl rfl rfl rfl rfl
    | refine wf_smapAllTo ?_ _)

theorem State.noteReads_inv {s : State} (who : Requester) (va : Nat) (n : Nat) (h0 : s.Inv) :
    (State.noteReads s who va n).Inv := by
  unfold State.noteReads
  try dsimp only
  repeat' (first
    | with_reducible assumption | with_reducible apply State.memAccess_inv
    | refine State.memAccess_inv_eq (by assumption) ?_ | with_reducible apply foldl_inv
    | with_reducible apply foldl_inv2 | with_reducible apply foldl_inv1 | with_reducible apply foldl_canon
    | with_reducible apply State.setRegion_inv | with_reducible apply State.region_inv | split | exact fun h => h
    | exact fun h => wf_smapAllTo h _ | exact fun h => wf_sfilter h _ | exact fun _ => rfl | intro _ _ _ | intro _ _
    | intro _ | dsimp only | contradiction
    | with_reducible refine inv_mk ?_ rfl rfl rfl rfl rfl rfl rfl rfl rfl rfl rfl rfl rfl rfl rfl rfl
    | with_reducible refine canon_mk ?_ rfl rfl
    | with_reducible refine inv_mk_wf ?_ rfl rfl rfl ?_ ?_ ?_ ?_ ?_ ?_ rfl ?_ rfl rfl rfl rfl rfl
    | refine wf_smapAllTo ?_ _)

theorem State.noteAccess_inv {s : State} (who : Requester) (va : Nat) (n : Nat) (write : Bool) (test : Bool)
    (h0 : s.Inv) :
    (State.noteAccess s who va n write test).Inv := by
  unfold State.noteAccess
  try dsimp only
  repeat' (first
    | with_reducible assumption | with_reducible apply State.recordFault_inv
    | with_reducible apply State.notePage_inv | with_reducible apply State.noteLines_inv
    | with_reducible apply State.noteReads_inv | with_reducible apply foldl_inv | with_reducible apply foldl_inv2
    | with_reducible apply foldl_inv1 | with_reducible apply foldl_canon | with_reducible apply State.setRegion_inv
    | with_reducible apply State.region_inv | split | exact fun h => h | exact fun h => wf_smapAllTo h _
    | exact fun h => wf_sfilter h _ | exact fun _ => rfl | intro _ _ _ | intro _ _ | intro _ | dsimp only
    | contradiction
    | with_reducible refine inv_mk ?_ rfl rfl rfl rfl rfl rfl rfl rfl rfl rfl rfl rfl rfl rfl rfl rfl
    | with_reducible refine canon_mk ?_ rfl rfl
    | with_reducible refine inv_mk_wf ?_ rfl rfl rfl ?_ ?_ ?_ ?_ ?_ ?_ rfl ?_ rfl rfl rfl rfl rfl
    | refine wf_smapAllTo ?_ _)

theorem State.linePut_inv {s : State} (who : Requester) (l : Leaf) (va : Nat) (b : List Byte) (h0 : s.Inv) :
    (State.linePut s who l va b).Inv := by
  unfold State.linePut
  try dsimp only
  repeat' (first
    | with_reducible assumption | with_reducible apply State.hbmStore_inv | with_reducible apply State.atPlace_inv
    | refine State.atPlace_inv_eq (by assumption) ?_ | with_reducible apply foldl_inv
    | with_reducible apply foldl_inv2 | with_reducible apply foldl_inv1 | with_reducible apply foldl_canon
    | with_reducible apply State.setRegion_inv | with_reducible apply State.region_inv | split | exact fun h => h
    | exact fun h => wf_smapAllTo h _ | exact fun h => wf_sfilter h _ | exact fun _ => rfl | intro _ _ _ | intro _ _
    | intro _ | dsimp only | contradiction
    | with_reducible refine inv_mk ?_ rfl rfl rfl rfl rfl rfl rfl rfl rfl rfl rfl rfl rfl rfl rfl rfl
    | with_reducible refine canon_mk ?_ rfl rfl
    | with_reducible refine inv_mk_wf ?_ rfl rfl rfl ?_ ?_ ?_ ?_ ?_ ?_ rfl ?_ rfl rfl rfl rfl rfl
    | refine wf_smapAllTo ?_ _)

theorem State.vaPut_inv {s : State} (who : Requester) (va : Nat) (b : List Byte) (h0 : s.Inv) :
    (State.vaPut s who va b).Inv := by
  unfold State.vaPut
  try dsimp only
  repeat' (first
    | with_reducible assumption | with_reducible apply State.linePut_inv | with_reducible apply State.memAccess_inv
    | refine State.memAccess_inv_eq (by assumption) ?_ | with_reducible apply foldl_inv
    | with_reducible apply foldl_inv2 | with_reducible apply foldl_inv1 | with_reducible apply foldl_canon
    | with_reducible apply State.setRegion_inv | with_reducible apply State.region_inv | split | exact fun h => h
    | exact fun h => wf_smapAllTo h _ | exact fun h => wf_sfilter h _ | exact fun _ => rfl | intro _ _ _ | intro _ _
    | intro _ | dsimp only | contradiction
    | with_reducible refine inv_mk ?_ rfl rfl rfl rfl rfl rfl rfl rfl rfl rfl rfl rfl rfl rfl rfl rfl
    | with_reducible refine canon_mk ?_ rfl rfl
    | with_reducible refine inv_mk_wf ?_ rfl rfl rfl ?_ ?_ ?_ ?_ ?_ ?_ rfl ?_ rfl rfl rfl rfl rfl
    | refine wf_smapAllTo ?_ _)

theorem State.vaStore_inv {s : State} (va : Nat) (b : List Byte) (test : Bool) (h0 : s.Inv) :
    (State.vaStore s va b test).Inv := by
  unfold State.vaStore
  try dsimp only
  repeat' (first
    | with_reducible assumption | with_reducible apply State.noteAccess_inv | with_reducible apply State.vaPut_inv
    | with_reducible apply foldl_inv | with_reducible apply foldl_inv2 | with_reducible apply foldl_inv1
    | with_reducible apply foldl_canon | with_reducible apply State.setRegion_inv
    | with_reducible apply State.region_inv | split)

theorem State.vaWrite_inv {s : State} (va : Nat) (b : List Byte) (test : Bool) (h0 : s.Inv) :
    (State.vaWrite s va b test).2.Inv := by
  unfold State.vaWrite
  try dsimp only
  repeat' (first | with_reducible assumption | with_reducible apply State.vaStore_inv)
theorem State.vaWrite_inv_eq {s : State} {va : Nat} {b : List Byte} {test : Bool} {zr} {zt : State}
    (e0 : (State.vaWrite s va b test) = (zr, zt)) (h0 : s.Inv) :
    zt.Inv := by
  have i := State.vaWrite_inv va b test h0
  rw [e0] at i
  exact i

theorem State.hbmAccess_inv {s : State} (who : Requester) (a : Nat) (write : Option (List Byte)) (h0 : s.Inv) :
    (State.hbmAccess s who a write).Inv := by
  unfold State.hbmAccess
  try dsimp only
  repeat' (first
    | with_reducible assumption | with_reducible apply State.setPch_inv | with_reducible apply foldl_inv
    | with_reducible apply foldl_inv2 | with_reducible apply foldl_inv1 | with_reducible apply foldl_canon
    | with_reducible apply State.setRegion_inv | with_reducible apply State.region_inv | split | exact fun h => h
    | exact fun h => wf_smapAllTo h _ | exact fun h => wf_sfilter h _ | exact fun _ => rfl | intro _ _ _ | intro _ _
    | intro _ | dsimp only | contradiction
    | with_reducible refine inv_mk ?_ rfl rfl rfl rfl rfl rfl rfl rfl rfl rfl rfl rfl rfl rfl rfl rfl
    | with_reducible refine canon_mk ?_ rfl rfl
    | with_reducible refine inv_mk_wf ?_ rfl rfl rfl ?_ ?_ ?_ ?_ ?_ ?_ rfl ?_ rfl rfl rfl rfl rfl
    | refine wf_smapAllTo ?_ _)

theorem State.invalidate_inv {s : State} (all : Bool) (va : Nat) (size : Nat) (h0 : s.Inv) :
    (State.invalidate s all va size).Inv := by
  unfold State.invalidate
  try dsimp only
  repeat' (first
    | with_reducible assumption | with_reducible apply State.raise_inv | with_reducible apply foldl_inv
    | with_reducible apply foldl_inv2 | with_reducible apply foldl_inv1 | with_reducible apply foldl_canon
    | with_reducible apply State.setRegion_inv | with_reducible apply State.region_inv | split | exact fun h => h
    | exact fun h => wf_smapAllTo h _ | exact fun h => wf_sfilter h _ | exact fun _ => rfl | intro _ _ _ | intro _ _
    | intro _ | dsimp only | contradiction
    | with_reducible refine inv_mk ?_ rfl rfl rfl rfl rfl rfl rfl rfl rfl rfl rfl rfl rfl rfl rfl rfl
    | with_reducible refine canon_mk ?_ rfl rfl
    | with_reducible refine inv_mk_wf ?_ rfl rfl rfl ?_ ?_ ?_ ?_ ?_ ?_ rfl ?_ rfl rfl rfl rfl rfl
    | refine wf_smapAllTo ?_ _)

theorem State.holdLine_inv {s : State} (a : Nat) (h0 : s.Inv) :
    OptInv (State.holdLine s a) := by
  unfold State.holdLine
  try dsimp only
  repeat' (first
    | with_reducible assumption | with_reducible apply State.setPch_inv | with_reducible apply State.at_inv
    | with_reducible apply foldl_inv | with_reducible apply foldl_inv2 | with_reducible apply foldl_inv1
    | with_reducible apply foldl_canon | with_reducible apply State.setRegion_inv
    | with_reducible apply State.region_inv | with_reducible apply optInv_none | with_reducible apply optInv_some
    | with_reducible apply optInv2_none | with_reducible apply optInv2_some | with_reducible apply optInv2_some'
    | with_reducible apply optInv1_none | with_reducible apply optInv1_some | split)
theorem State.holdLine_inv_eq {s : State} {a : Nat} {zt : State} (e0 : (State.holdLine s a) = some zt) (h0 : s.Inv) :
    zt.Inv := State.holdLine_inv a h0 _ e0

theorem State.holdLines_inv {s : State} (l : List Nat) (h0 : s.Inv) :
    OptInv (State.holdLines s l) := by
  unfold State.holdLines
  exact foldl_optInv (fun t a h => optInv_bind h (fun u hu => State.holdLine_inv _ hu)) (optInv_some h0)
theorem State.holdLines_inv_eq {s : State} {l : List Nat} {zt : State} (e0 : (State.holdLines s l) = some zt)
    (h0 : s.Inv) :
    zt.Inv := State.holdLines_inv l h0 _ e0

theorem State.holdPort_inv {s : State} (n : Nat) (line : Nat) (h0 : s.Inv) :
    OptInv (State.holdPort s n line) := by
  unfold State.holdPort
  try dsimp only
  repeat' (first
    | with_reducible assumption | with_reducible apply State.region_inv | with_reducible apply State.setRegion_inv
    | with_reducible apply foldl_inv | with_reducible apply foldl_inv2 | with_reducible apply foldl_inv1
    | with_reducible apply foldl_canon | with_reducible apply State.setRegion_inv
    | with_reducible apply State.region_inv | with_reducible apply optInv_none | with_reducible apply optInv_some
    | with_reducible apply optInv2_none | with_reducible apply optInv2_some | with_reducible apply optInv2_some'
    | with_reducible apply optInv1_none | with_reducible apply optInv1_some | with_reducible apply optInv_bind
    | with_reducible apply optInv_map | with_reducible apply foldl_optInv | split | exact fun h => h
    | exact fun h => wf_smapAllTo h _ | exact fun h => wf_sfilter h _ | exact fun _ => rfl | intro _ _ _ | intro _ _
    | intro _ | dsimp only | contradiction
    | with_reducible refine inv_mk ?_ rfl rfl rfl rfl rfl rfl rfl rfl rfl rfl rfl rfl rfl rfl rfl rfl
    | with_reducible refine canon_mk ?_ rfl rfl
    | with_reducible refine inv_mk_wf ?_ rfl rfl rfl ?_ ?_ ?_ ?_ ?_ ?_ rfl ?_ rfl rfl rfl rfl rfl
    | refine wf_smapAllTo ?_ _)
theorem State.holdPort_inv_eq {s : State} {n : Nat} {line : Nat} {zt : State}
    (e0 : (State.holdPort s n line) = some zt) (h0 : s.Inv) :
    zt.Inv := State.holdPort_inv n line h0 _ e0

theorem State.touch_inv {s : State} (x : FwTouch) (h0 : s.Inv) :
    (State.touch s x).2.Inv := by
  cases x with
  | line a =>
    show (match s.holdLine a with | some t => ((none : Option FwTouch), t) | none => (some (.line a), s)).2.Inv
    split
    · rename_i t e; exact State.holdLine_inv_eq e h0
    · exact h0
  | port n l =>
    show (match s.holdPort n l with | some t => ((none : Option FwTouch), t) | none => (some (.port n l), s)).2.Inv
    split
    · rename_i t e; exact State.holdPort_inv_eq e h0
    · exact h0
  | cxl l va => exact State.atPlace_inv .firmware va l none h0
  | await p => exact h0

theorem State.touch_inv_eq {s : State} {x : FwTouch} {zr} {zt : State} (e0 : (State.touch s x) = (zr, zt))
    (h0 : s.Inv) :
    zt.Inv := by
  have i := State.touch_inv x h0
  rw [e0] at i
  exact i

theorem State.touchAll_inv {s : State} (l : List FwTouch) (h0 : s.Inv) :
    (State.touchAll s l).2.Inv := by
  unfold State.touchAll
  try dsimp only
  repeat' (first
    | with_reducible assumption | with_reducible apply State.touch_inv
    | refine State.touch_inv_eq (by assumption) ?_ | with_reducible apply foldl_inv
    | with_reducible apply foldl_inv2 | with_reducible apply foldl_inv1 | with_reducible apply foldl_canon
    | with_reducible apply State.setRegion_inv | with_reducible apply State.region_inv | split | exact fun h => h
    | exact fun h => wf_smapAllTo h _ | exact fun h => wf_sfilter h _ | exact fun _ => rfl | intro _ _ _ | intro _ _
    | intro _ | dsimp only | contradiction
    | with_reducible refine inv_mk ?_ rfl rfl rfl rfl rfl rfl rfl rfl rfl rfl rfl rfl rfl rfl rfl rfl
    | with_reducible refine canon_mk ?_ rfl rfl
    | with_reducible refine inv_mk_wf ?_ rfl rfl rfl ?_ ?_ ?_ ?_ ?_ ?_ rfl ?_ rfl rfl rfl rfl rfl
    | refine wf_smapAllTo ?_ _)
theorem State.touchAll_inv_eq {s : State} {l : List FwTouch} {zr} {zt : State} (e0 : (State.touchAll s l) = (zr, zt))
    (h0 : s.Inv) :
    zt.Inv := by
  have i := State.touchAll_inv l h0
  rw [e0] at i
  exact i

theorem State.recordBmeFault_inv {s : State} (c : BmeCmd) (cause : Nat) (h0 : s.Inv) :
    (State.recordBmeFault s c cause).Inv := by
  unfold State.recordBmeFault
  try dsimp only
  repeat' (first
    | with_reducible assumption | with_reducible apply State.put_inv | with_reducible apply State.raise_inv
    | with_reducible apply foldl_inv | with_reducible apply foldl_inv2 | with_reducible apply foldl_inv1
    | with_reducible apply foldl_canon | with_reducible apply State.setRegion_inv
    | with_reducible apply State.region_inv | split)

theorem State.bmePoison_inv {s : State} (c : BmeCmd) (committed : Nat) (ecc : Ecc) (h0 : s.Inv) :
    (State.bmePoison s c committed ecc).2.Inv := by
  unfold State.bmePoison
  try dsimp only
  repeat' (first
    | with_reducible assumption | with_reducible apply State.hbmCheck_inv
    | refine State.hbmCheck_inv_eq (by assumption) ?_ | with_reducible apply foldl_inv
    | with_reducible apply foldl_inv2 | with_reducible apply foldl_inv1 | with_reducible apply foldl_canon
    | with_reducible apply State.setRegion_inv | with_reducible apply State.region_inv | split | exact fun h => h
    | exact fun h => wf_smapAllTo h _ | exact fun h => wf_sfilter h _ | exact fun _ => rfl | intro _ _ _)
theorem State.bmePoison_inv_eq {s : State} {c : BmeCmd} {committed : Nat} {ecc : Ecc} {zr} {zt : State}
    (e0 : (State.bmePoison s c committed ecc) = (zr, zt)) (h0 : s.Inv) :
    zt.Inv := by
  have i := State.bmePoison_inv c committed ecc h0
  rw [e0] at i
  exact i

theorem State.queueBme_inv {s : State} (c : BmeCmd) (serial : Nat) (line : Nat) (b : Option (List Byte)) (h0 : s.Inv) :
    (State.queueBme s c serial line b).Inv := by
  unfold State.queueBme
  try dsimp only
  repeat' (first
    | with_reducible assumption | with_reducible apply foldl_inv | with_reducible apply foldl_inv2
    | with_reducible apply foldl_inv1 | with_reducible apply foldl_canon | with_reducible apply State.setRegion_inv
    | with_reducible apply State.region_inv | split | exact fun h => h | exact fun h => wf_smapAllTo h _
    | exact fun h => wf_sfilter h _ | exact fun _ => rfl | intro _ _ _ | intro _ _ | intro _ | dsimp only
    | contradiction
    | with_reducible refine inv_mk ?_ rfl rfl rfl rfl rfl rfl rfl rfl rfl rfl rfl rfl rfl rfl rfl rfl)

theorem State.markBme_inv {s : State} (c : BmeCmd) (h0 : s.Inv) :
    (State.markBme s c).Inv := by
  unfold State.markBme
  try dsimp only
  repeat' (first
    | with_reducible assumption | with_reducible apply State.setStack_inv | with_reducible apply State.queueBme_inv
    | with_reducible apply foldl_inv | with_reducible apply foldl_inv2 | with_reducible apply foldl_inv1
    | with_reducible apply foldl_canon | with_reducible apply State.setRegion_inv
    | with_reducible apply State.region_inv | split | exact fun h => h | exact fun h => wf_smapAllTo h _
    | exact fun h => wf_sfilter h _ | exact fun _ => rfl | intro _ _ _)

theorem State.enqueueBme_inv {s : State} (c : BmeCmd) (h0 : s.Inv) :
    (State.enqueueBme s c).Inv := by
  unfold State.enqueueBme
  try dsimp only
  repeat' (first
    | with_reducible assumption | with_reducible apply State.markBme_inv | with_reducible apply State.setStack_inv
    | with_reducible apply foldl_inv | with_reducible apply foldl_inv2 | with_reducible apply foldl_inv1
    | with_reducible apply foldl_canon | with_reducible apply State.setRegion_inv
    | with_reducible apply State.region_inv | split)

theorem State.countLate_inv {s : State} (stack : Nat) (planned : Nat) (h0 : s.Inv) :
    (State.countLate s stack planned).Inv := by
  unfold State.countLate
  try dsimp only
  repeat' (first
    | with_reducible assumption | with_reducible apply State.putMax_inv | with_reducible apply State.count_inv
    | with_reducible apply foldl_inv | with_reducible apply foldl_inv2 | with_reducible apply foldl_inv1
    | with_reducible apply foldl_canon | with_reducible apply State.setRegion_inv
    | with_reducible apply State.region_inv | split)

theorem State.copyOpnd_inv {s : State} (c : BmeCmd) (h0 : s.Inv) :
    (State.copyOpnd s c).Inv := by
  unfold State.copyOpnd
  try dsimp only
  repeat' (first
    | with_reducible assumption | with_reducible apply State.spadCheck_inv
    | refine State.spadCheck_inv_eq (by assumption) ?_ | with_reducible apply State.setStack_inv
    | with_reducible apply State.region_inv | with_reducible apply foldl_inv | with_reducible apply foldl_inv2
    | with_reducible apply foldl_inv1 | with_reducible apply foldl_canon | with_reducible apply State.setRegion_inv
    | with_reducible apply State.region_inv | split | exact fun h => h | exact fun h => wf_smapAllTo h _
    | exact fun h => wf_sfilter h _ | exact fun _ => rfl | intro _ _ _)

theorem State.beginBme_inv {s : State} (c : BmeCmd) (planned : Nat) (ecc : Ecc) (h0 : s.Inv) :
    (State.beginBme s c planned ecc).Inv := by
  unfold State.beginBme
  try dsimp only
  repeat' (first
    | with_reducible assumption | with_reducible apply State.recordBmeFault_inv
    | with_reducible apply State.countLate_inv | with_reducible apply State.markBme_inv
    | with_reducible apply State.bmePoison_inv | refine State.bmePoison_inv_eq (by assumption) ?_
    | with_reducible apply State.meterOwn_inv | with_reducible apply State.copyOpnd_inv
    | with_reducible apply State.setStack_inv | with_reducible apply foldl_inv | with_reducible apply foldl_inv2
    | with_reducible apply foldl_inv1 | with_reducible apply foldl_canon | with_reducible apply State.setRegion_inv
    | with_reducible apply State.region_inv | split | exact fun h => h | exact fun h => wf_smapAllTo h _
    | exact fun h => wf_sfilter h _ | exact fun _ => rfl | intro _ _ _ | intro _ _ | intro _ | dsimp only
    | contradiction
    | with_reducible refine inv_mk ?_ rfl rfl rfl rfl rfl rfl rfl rfl rfl rfl rfl rfl rfl rfl rfl rfl)

theorem State.startBme_inv {s : State} (stack : Nat) (op : Nat) (ecc : Ecc) (h0 : s.Inv) :
    (State.startBme s stack op ecc).Inv := by
  unfold State.startBme
  try dsimp only
  repeat' (first
    | with_reducible assumption | with_reducible apply State.at_inv | with_reducible apply State.setStack_inv
    | with_reducible apply State.beginBme_inv | with_reducible apply State.count_inv
    | with_reducible apply foldl_inv | with_reducible apply foldl_inv2 | with_reducible apply foldl_inv1
    | with_reducible apply foldl_canon | with_reducible apply State.setRegion_inv
    | with_reducible apply State.region_inv | split)

theorem State.setRun_inv {s : State} (stack : Nat) (r : BmeRun) (h0 : s.Inv) :
    (State.setRun s stack r).Inv := by
  unfold State.setRun
  try dsimp only
  repeat' (first | with_reducible assumption | with_reducible apply State.setStack_inv)

theorem State.dropRun_inv {s : State} (stack : Nat) (serial : Nat) (h0 : s.Inv) :
    (State.dropRun s stack serial).Inv := by
  unfold State.dropRun
  try dsimp only
  repeat' (first | with_reducible assumption | with_reducible apply State.setStack_inv)

theorem State.endBme_inv {s : State} (stack : Nat) (r : BmeRun) (h0 : s.Inv) :
    (State.endBme s stack r).Inv := by
  unfold State.endBme
  try dsimp only
  repeat' (first
    | with_reducible assumption | with_reducible apply State.at_inv | with_reducible apply State.countLate_inv
    | with_reducible apply State.trace_inv | with_reducible apply State.dropRun_inv
    | with_reducible apply State.setRun_inv | with_reducible apply State.queueBme_inv
    | with_reducible apply foldl_inv | with_reducible apply foldl_inv2 | with_reducible apply foldl_inv1
    | with_reducible apply foldl_canon | with_reducible apply State.setRegion_inv
    | with_reducible apply State.region_inv | split | exact fun h => h | exact fun h => wf_smapAllTo h _
    | exact fun h => wf_sfilter h _ | exact fun _ => rfl | intro _ _ _)

theorem State.bmeRead_inv {s : State} (stack : Nat) (serial : Nat) (i : Nat) (bad : Bool) (b : List Byte) (h0 : s.Inv) :
    (State.bmeRead s stack serial i bad b).Inv := by
  unfold State.bmeRead
  try dsimp only
  repeat' (first
    | with_reducible assumption | with_reducible apply State.setRun_inv | with_reducible apply State.setStack_inv
    | with_reducible apply foldl_inv | with_reducible apply foldl_inv2 | with_reducible apply foldl_inv1
    | with_reducible apply foldl_canon | with_reducible apply State.setRegion_inv
    | with_reducible apply State.region_inv | split)

theorem State.bmeWritten_inv {s : State} (stack : Nat) (serial : Nat) (line : Nat) (h0 : s.Inv) :
    (State.bmeWritten s stack serial line).Inv := by
  unfold State.bmeWritten
  try dsimp only
  repeat' (first
    | with_reducible assumption | with_reducible apply State.dropRun_inv | with_reducible apply State.setRun_inv
    | with_reducible apply foldl_inv | with_reducible apply foldl_inv2 | with_reducible apply foldl_inv1
    | with_reducible apply foldl_canon | with_reducible apply State.setRegion_inv
    | with_reducible apply State.region_inv | split)

theorem State.fenceBme_inv {s : State} (stack : Nat) (h0 : s.Inv) :
    (State.fenceBme s stack).Inv := by
  unfold State.fenceBme
  try dsimp only
  repeat' (first
    | with_reducible assumption | with_reducible apply State.setStack_inv | with_reducible apply State.countLate_inv
    | with_reducible apply State.markBme_inv | with_reducible apply foldl_inv | with_reducible apply foldl_inv2
    | with_reducible apply foldl_inv1 | with_reducible apply foldl_canon | with_reducible apply State.setRegion_inv
    | with_reducible apply State.region_inv | split | exact fun h => h | exact fun h => wf_smapAllTo h _
    | exact fun h => wf_sfilter h _ | exact fun _ => rfl | intro _ _ _ | intro _ _ | intro _ | dsimp only
    | contradiction
    | with_reducible refine inv_mk ?_ rfl rfl rfl rfl rfl rfl rfl rfl rfl rfl rfl rfl rfl rfl rfl rfl)

theorem State.discardBme_inv {s : State} (stack : Nat) (reset : Bool) (h0 : s.Inv) :
    (State.discardBme s stack reset).Inv := by
  unfold State.discardBme
  try dsimp only
  repeat' (first
    | with_reducible assumption | with_reducible apply State.setStack_inv | with_reducible apply foldl_inv
    | with_reducible apply foldl_inv2 | with_reducible apply foldl_inv1 | with_reducible apply foldl_canon
    | with_reducible apply State.setRegion_inv | with_reducible apply State.region_inv | split | exact fun h => h
    | exact fun h => wf_smapAllTo h _ | exact fun h => wf_sfilter h _ | exact fun _ => rfl | intro _ _ _ | intro _ _
    | intro _ | dsimp only | contradiction
    | with_reducible refine inv_mk ?_ rfl rfl rfl rfl rfl rfl rfl rfl rfl rfl rfl rfl rfl rfl rfl rfl)

theorem doBmeCommandEnqueue_inv (stack : Nat) (region : Nat) {s : State} (h0 : s.Inv) :
    (doBmeCommandEnqueue stack region s).Inv := by
  unfold doBmeCommandEnqueue
  try dsimp only
  repeat' (first
    | with_reducible assumption | with_reducible apply State.enqueueBme_inv | with_reducible apply foldl_inv
    | with_reducible apply foldl_inv2 | with_reducible apply foldl_inv1 | with_reducible apply foldl_canon
    | with_reducible apply State.setRegion_inv | with_reducible apply State.region_inv | split | exact fun h => h
    | exact fun h => wf_smapAllTo h _ | exact fun h => wf_sfilter h _ | exact fun _ => rfl | intro _ _ _ | intro _ _
    | intro _ | dsimp only | contradiction
    | with_reducible refine inv_mk ?_ rfl rfl rfl rfl rfl rfl rfl rfl rfl rfl rfl rfl rfl rfl rfl rfl)

theorem execBmeCommandEnqueue_inv (stack : Nat) (region : Nat) {s : State} (h : s.Inv)
    : OutInv (execBmeCommandEnqueue stack region s) := by
  repeat' (first
    | with_reducible assumption | with_reducible apply doBmeCommandEnqueue_inv | with_reducible apply onUnit_inv
    | with_reducible apply outInv_next | unfold execBmeCommandEnqueue)

theorem execOpnd_inv (stack : Nat) {s : State} (h : s.Inv) : OutInv (execOpnd stack s) := by
  repeat' (first
    | with_reducible assumption | with_reducible apply State.startBme_inv | with_reducible apply onUnit_inv
    | with_reducible apply outInv_next | unfold execOpnd)

theorem execGemv_inv (stack : Nat) (ecc : Ecc) {s : State} (h : s.Inv) : OutInv (execGemv stack ecc s) := by
  repeat' (first
    | with_reducible assumption | with_reducible apply State.startBme_inv | with_reducible apply onUnit_inv
    | with_reducible apply outInv_next | unfold execGemv)

theorem execDeq_inv (stack : Nat) (ecc : Ecc) {s : State} (h : s.Inv) : OutInv (execDeq stack ecc s) := by
  repeat' (first
    | with_reducible assumption | with_reducible apply State.startBme_inv | with_reducible apply onUnit_inv
    | with_reducible apply outInv_next | unfold execDeq)

theorem execAttn_inv (stack : Nat) (ecc : Ecc) {s : State} (h : s.Inv) : OutInv (execAttn stack ecc s) := by
  repeat' (first
    | with_reducible assumption | with_reducible apply State.startBme_inv | with_reducible apply onUnit_inv
    | with_reducible apply outInv_next | unfold execAttn)

theorem doBmeCommandEnd_inv (stack : Nat) (serial : Nat) {s : State} (h0 : s.Inv) :
    (doBmeCommandEnd stack serial s).Inv := by
  unfold doBmeCommandEnd
  try dsimp only
  repeat' (first
    | with_reducible assumption | with_reducible apply State.endBme_inv | with_reducible apply foldl_inv
    | with_reducible apply foldl_inv2 | with_reducible apply foldl_inv1 | with_reducible apply foldl_canon
    | with_reducible apply State.setRegion_inv | with_reducible apply State.region_inv | split)

theorem execBmeCommandEnd_inv (stack : Nat) (serial : Nat) {s : State} (h : s.Inv)
    : OutInv (execBmeCommandEnd stack serial s) := by
  repeat' (first
    | with_reducible assumption | with_reducible apply doBmeCommandEnd_inv | with_reducible apply onUnit_inv
    | with_reducible apply outInv_next | unfold execBmeCommandEnd)

theorem State.setClk_inv {s : State} (n : Nat) (c : RegionClk) (h0 : s.Inv) :
    (State.setClk s n c).Inv := by
  unfold State.setClk
  try dsimp only
  repeat' (first
    | with_reducible assumption | with_reducible apply State.setRegion_inv | with_reducible apply State.region_inv
    | with_reducible apply foldl_inv | with_reducible apply foldl_inv2 | with_reducible apply foldl_inv1
    | with_reducible apply foldl_canon | with_reducible apply State.setRegion_inv
    | with_reducible apply State.region_inv | split | exact fun h => h | exact fun h => wf_smapAllTo h _
    | exact fun h => wf_sfilter h _ | exact fun _ => rfl | intro _ _ _ | intro _ _ | intro _ | dsimp only
    | contradiction
    | with_reducible refine inv_mk ?_ rfl rfl rfl rfl rfl rfl rfl rfl rfl rfl rfl rfl rfl rfl rfl rfl
    | with_reducible refine canon_mk ?_ rfl rfl)

theorem State.accountClk_inv {s : State} (n : Nat) (h0 : s.Inv) :
    (State.accountClk s n).Inv := by
  unfold State.accountClk
  try dsimp only
  repeat' (first
    | with_reducible assumption | with_reducible apply State.region_inv | with_reducible apply State.setReg_inv
    | with_reducible apply State.setClk_inv | with_reducible apply foldl_inv | with_reducible apply foldl_inv2
    | with_reducible apply foldl_inv1 | with_reducible apply foldl_canon | with_reducible apply State.setRegion_inv
    | with_reducible apply State.region_inv | split)

theorem State.startStretch_inv {s : State} (n : Nat) (depth : Nat) (path : Bool) (h0 : s.Inv) :
    (State.startStretch s n depth path).Inv := by
  unfold State.startStretch
  try dsimp only
  repeat' (first
    | with_reducible assumption | with_reducible apply State.accountClk_inv | with_reducible apply State.region_inv
    | with_reducible apply State.setClk_inv | with_reducible apply State.freeNat_inv
    | refine State.freeNat_inv_eq (by assumption) ?_ | with_reducible apply foldl_inv
    | with_reducible apply foldl_inv2 | with_reducible apply foldl_inv1 | with_reducible apply foldl_canon
    | with_reducible apply State.setRegion_inv | with_reducible apply State.region_inv | split)

theorem State.endStretch_inv {s : State} (n : Nat) (path : Bool) (h0 : s.Inv) :
    (State.endStretch s n path).Inv := by
  unfold State.endStretch
  try dsimp only
  repeat' (first
    | with_reducible assumption | with_reducible apply State.accountClk_inv | with_reducible apply State.region_inv
    | with_reducible apply State.setClk_inv)

theorem State.startSlotStretch_inv {s : State} (n : Nat) (h0 : s.Inv) :
    (State.startSlotStretch s n).Inv := by
  unfold State.startSlotStretch
  try dsimp only
  repeat' (first
    | with_reducible assumption | with_reducible apply State.accountClk_inv | with_reducible apply State.region_inv
    | with_reducible apply State.setClk_inv | with_reducible apply foldl_inv | with_reducible apply foldl_inv2
    | with_reducible apply foldl_inv1 | with_reducible apply foldl_canon | with_reducible apply State.setRegion_inv
    | with_reducible apply State.region_inv | split)

theorem State.showCap_inv {s : State} (n : Nat) (h0 : s.Inv) :
    (State.showCap s n).Inv := by
  unfold State.showCap
  try dsimp only
  repeat' (first
    | with_reducible assumption | with_reducible apply State.region_inv | with_reducible apply State.put_inv)

theorem State.govern_inv {s : State} (power : Nat) (h0 : s.Inv) :
    (State.govern s power).Inv := by
  unfold State.govern
  try dsimp only
  repeat' (first
    | with_reducible assumption | with_reducible apply State.each_inv | with_reducible apply State.setClk_inv
    | with_reducible apply State.region_inv | with_reducible apply foldl_inv | with_reducible apply foldl_inv2
    | with_reducible apply foldl_inv1 | with_reducible apply foldl_canon | with_reducible apply State.setRegion_inv
    | with_reducible apply State.region_inv | split | exact fun h => h | exact fun h => wf_smapAllTo h _
    | exact fun h => wf_sfilter h _ | exact fun _ => rfl | intro _ _ _ | intro _ _ | intro _ | dsimp only
    | contradiction
    | with_reducible refine inv_mk ?_ rfl rfl rfl rfl rfl rfl rfl rfl rfl rfl rfl rfl rfl rfl rfl rfl)

theorem State.averageInputs_inv {s : State} (h0 : s.Inv) :
    (State.averageInputs s).Inv := by
  unfold State.averageInputs
  try dsimp only
  repeat' (first
    | with_reducible assumption | with_reducible apply foldl_inv | with_reducible apply foldl_inv2
    | with_reducible apply foldl_inv1 | with_reducible apply foldl_canon | with_reducible apply State.setRegion_inv
    | with_reducible apply State.region_inv | split | exact fun h => h | exact fun h => wf_smapAllTo h _
    | exact fun h => wf_sfilter h _ | exact fun _ => rfl | intro _ _ _ | intro _ _ | intro _ | dsimp only
    | contradiction
    | with_reducible refine inv_mk ?_ rfl rfl rfl rfl rfl rfl rfl rfl rfl rfl rfl rfl rfl rfl rfl rfl
    | with_reducible refine canon_mk ?_ rfl rfl
    | with_reducible refine inv_mk_wf ?_ rfl rfl rfl ?_ ?_ ?_ ?_ ?_ ?_ rfl ?_ rfl rfl rfl rfl rfl
    | refine wf_smapAllTo ?_ _)

theorem State.regionCaps_inv {s : State} (n : Nat) (h0 : s.Inv) :
    (State.regionCaps s n).Inv := by
  unfold State.regionCaps
  try dsimp only
  repeat' (first
    | with_reducible assumption | with_reducible apply State.region_inv | with_reducible apply State.showCap_inv
    | with_reducible apply State.setClk_inv | with_reducible apply State.logRec_inv | with_reducible apply foldl_inv
    | with_reducible apply foldl_inv2 | with_reducible apply foldl_inv1 | with_reducible apply foldl_canon
    | with_reducible apply State.setRegion_inv | with_reducible apply State.region_inv | split | exact fun h => h
    | exact fun h => wf_smapAllTo h _ | exact fun h => wf_sfilter h _ | exact fun _ => rfl | intro _ _ _ | intro _ _
    | intro _ | dsimp only | contradiction
    | with_reducible refine inv_mk ?_ rfl rfl rfl rfl rfl rfl rfl rfl rfl rfl rfl rfl rfl rfl rfl rfl
    | with_reducible refine canon_mk ?_ rfl rfl
    | with_reducible refine inv_mk_wf ?_ rfl rfl rfl ?_ ?_ ?_ ?_ ?_ ?_ rfl ?_ rfl rfl rfl rfl rfl
    | refine wf_smapAllTo ?_ _)

theorem State.stackCaps_inv {s : State} (h0 : s.Inv) :
    (State.stackCaps s).Inv := by
  unfold State.stackCaps
  try dsimp only
  repeat' (first
    | with_reducible assumption | with_reducible apply State.logRec_inv | with_reducible apply foldl_inv
    | with_reducible apply foldl_inv2 | with_reducible apply foldl_inv1 | with_reducible apply foldl_canon
    | with_reducible apply State.setRegion_inv | with_reducible apply State.region_inv | split | exact fun h => h
    | exact fun h => wf_smapAllTo h _ | exact fun h => wf_sfilter h _ | exact fun _ => rfl | intro _ _ _ | intro _ _
    | intro _ | dsimp only | contradiction
    | with_reducible refine inv_mk ?_ rfl rfl rfl rfl rfl rfl rfl rfl rfl rfl rfl rfl rfl rfl rfl rfl)

theorem State.windowCaps_inv {s : State} (power : Nat) (h0 : s.Inv) :
    (State.windowCaps s power).Inv := by
  unfold State.windowCaps
  try dsimp only
  repeat' (first
    | with_reducible assumption | with_reducible apply State.stackCaps_inv | with_reducible apply State.govern_inv
    | with_reducible apply State.averageInputs_inv | with_reducible apply State.each_inv
    | with_reducible apply State.regionCaps_inv | with_reducible apply foldl_inv | with_reducible apply foldl_inv2
    | with_reducible apply foldl_inv1 | with_reducible apply foldl_canon | with_reducible apply State.setRegion_inv
    | with_reducible apply State.region_inv | split | exact fun h => h | exact fun h => wf_smapAllTo h _
    | exact fun h => wf_sfilter h _ | exact fun _ => rfl | intro _ _ _ | intro _ _ | intro _ | dsimp only
    | contradiction
    | with_reducible refine inv_mk ?_ rfl rfl rfl rfl rfl rfl rfl rfl rfl rfl rfl rfl rfl rfl rfl rfl
    | with_reducible refine canon_mk ?_ rfl rfl
    | with_reducible refine inv_mk_wf ?_ rfl rfl rfl ?_ ?_ ?_ ?_ ?_ ?_ rfl ?_ rfl rfl rfl rfl rfl
    | refine wf_smapAllTo ?_ _)

theorem State.dropUnadmitted_inv {s : State} (p : Nat) (c : Cell) (h0 : s.Inv) :
    (State.dropUnadmitted s p c).Inv := by
  unfold State.dropUnadmitted
  try dsimp only
  repeat' (first
    | with_reducible assumption | with_reducible apply State.count_inv | with_reducible apply foldl_inv
    | with_reducible apply foldl_inv2 | with_reducible apply foldl_inv1 | with_reducible apply foldl_canon
    | with_reducible apply State.setRegion_inv | with_reducible apply State.region_inv | split)

end Sys2Proof.Machine
end

