-- ==== Sys2Proof/Laws/InvLinks.lean ====
section
/-! SUPPORT. The invariant through the links and the router. -/
namespace Sys2Proof.Machine

theorem State.slotCount_inv {s : State} (n : Nat) (h0 : s.Inv) :
    (State.slotCount s n).2.Inv := by
  unfold State.slotCount
  try dsimp only
  repeat' (first
    | with_reducible assumption | with_reducible apply foldl_inv | with_reducible apply foldl_inv2
    | with_reducible apply foldl_inv1 | with_reducible apply foldl_canon | with_reducible apply State.setRegion_inv
    | with_reducible apply State.region_inv | split | exact fun h => h | exact fun h => wf_smapAllTo h _
    | exact fun h => wf_sfilter h _ | exact fun _ => rfl | intro _ _ _ | intro _ _ | intro _ | dsimp only
    | contradiction
    | with_reducible refine inv_mk ?_ rfl rfl rfl rfl rfl rfl rfl rfl rfl rfl rfl rfl rfl rfl rfl rfl)
theorem State.slotCount_inv_eq {s : State} {n : Nat} {zr} {zt : State} (e0 : (State.slotCount s n) = (zr, zt))
    (h0 : s.Inv) :
    zt.Inv := by
  have i := State.slotCount_inv n h0
  rw [e0] at i
  exact i

theorem State.noteBacklog_inv {s : State} (p : Nat) (h0 : s.Inv) :
    (State.noteBacklog s p).Inv := by
  unfold State.noteBacklog
  try dsimp only
  repeat' (first
    | with_reducible assumption | with_reducible apply State.put_inv | with_reducible apply State.raise_inv
    | with_reducible apply State.event_inv | with_reducible apply foldl_inv | with_reducible apply foldl_inv2
    | with_reducible apply foldl_inv1 | with_reducible apply foldl_canon | with_reducible apply State.setRegion_inv
    | with_reducible apply State.region_inv | split)

theorem State.spillAccess_inv {s : State} (p : Nat) (slot : Nat) (line : Nat) (write : Option (List Byte))
    (h0 : s.Inv) :
    (State.spillAccess s p slot line write).Inv := by
  unfold State.spillAccess
  try dsimp only
  repeat' (first | with_reducible assumption | with_reducible apply State.setPch_inv)

theorem State.writeSlot_inv {s : State} (p : Nat) (slot : Nat) (c : Cell) (n : Nat) (h0 : s.Inv) :
    (State.writeSlot s p slot c n).Inv := by
  unfold State.writeSlot
  try dsimp only
  repeat' (first | with_reducible assumption | with_reducible apply State.spillAccess_inv)

theorem State.readSlot_inv {s : State} (p : Nat) (slot : Nat) (h0 : s.Inv) :
    (State.readSlot s p slot).Inv := by
  unfold State.readSlot
  try dsimp only
  repeat' (first | with_reducible assumption | with_reducible apply State.spillAccess_inv)

theorem State.appendEgress_inv {s : State} (p : Nat) (e : EgressCell) (h0 : s.Inv) :
    (State.appendEgress s p e).Inv := by
  unfold State.appendEgress
  try dsimp only
  repeat' (first
    | with_reducible assumption | with_reducible apply State.noteBacklog_inv
    | with_reducible apply State.setPort_inv | with_reducible apply State.writeSlot_inv
    | with_reducible apply State.raise_inv | with_reducible apply State.count_inv | with_reducible apply foldl_inv
    | with_reducible apply foldl_inv2 | with_reducible apply foldl_inv1 | with_reducible apply foldl_canon
    | with_reducible apply State.setRegion_inv | with_reducible apply State.region_inv | split)

theorem State.cellDelay_inv {s : State} (p : Nat) (cls : EgressClass) (h0 : s.Inv) :
    (State.cellDelay s p cls).2.Inv := by
  unfold State.cellDelay
  try dsimp only
  repeat' (first
    | with_reducible assumption | with_reducible apply State.slotCount_inv
    | refine State.slotCount_inv_eq (by assumption) ?_ | with_reducible apply foldl_inv
    | with_reducible apply foldl_inv2 | with_reducible apply foldl_inv1 | with_reducible apply foldl_canon
    | with_reducible apply State.setRegion_inv | with_reducible apply State.region_inv | split)
theorem State.cellDelay_inv_eq {s : State} {p : Nat} {cls : EgressClass} {zr} {zt : State}
    (e0 : (State.cellDelay s p cls) = (zr, zt)) (h0 : s.Inv) :
    zt.Inv := by
  have i := State.cellDelay_inv p cls h0
  rw [e0] at i
  exact i

theorem State.ripenPort_inv {s : State} (p : Nat) (h0 : s.Inv) :
    (State.ripenPort s p).Inv := by
  unfold State.ripenPort
  try dsimp only
  repeat' (first | with_reducible assumption | with_reducible apply State.setPort_inv)

theorem State.egress_inv {s : State} (p : Nat) (c : Cell) (ready : Nat) (own : Option Nat) (h0 : s.Inv) :
    (State.egress s p c ready own).Inv := by
  unfold State.egress
  try dsimp only
  repeat' (first
    | with_reducible assumption | with_reducible apply State.cellDelay_inv
    | refine State.cellDelay_inv_eq (by assumption) ?_ | with_reducible apply State.appendEgress_inv
    | with_reducible apply foldl_inv | with_reducible apply foldl_inv2 | with_reducible apply foldl_inv1
    | with_reducible apply foldl_canon | with_reducible apply State.setRegion_inv
    | with_reducible apply State.region_inv | split)

theorem State.refillEgress_inv {s : State} (p : Nat) (h0 : s.Inv) :
    (State.refillEgress s p).Inv := by
  unfold State.refillEgress
  try dsimp only
  repeat' (first
    | with_reducible assumption | with_reducible apply State.setPort_inv | with_reducible apply State.readSlot_inv
    | with_reducible apply foldl_inv | with_reducible apply foldl_inv2 | with_reducible apply foldl_inv1
    | with_reducible apply foldl_canon | with_reducible apply State.setRegion_inv
    | with_reducible apply State.region_inv | split | exact fun h => h | exact fun h => wf_smapAllTo h _
    | exact fun h => wf_sfilter h _ | exact fun _ => rfl | intro _ _ _)

theorem State.spillRead_inv {s : State} (p : Nat) (slot : Nat) (line : Nat) (d : Option (List Byte)) (h0 : s.Inv) :
    (State.spillRead s p slot line d).Inv := by
  unfold State.spillRead
  try dsimp only
  repeat' (first
    | with_reducible assumption | with_reducible apply State.setPort_inv
    | with_reducible apply State.noteBacklog_inv | with_reducible apply foldl_inv | with_reducible apply foldl_inv2
    | with_reducible apply foldl_inv1 | with_reducible apply foldl_canon | with_reducible apply State.setRegion_inv
    | with_reducible apply State.region_inv | split)

theorem State.takeAck_inv {s : State} (p : Nat) (a : Nat) (h0 : s.Inv) :
    (State.takeAck s p a).Inv := by
  unfold State.takeAck
  try dsimp only
  repeat' (first
    | with_reducible assumption | with_reducible apply State.setPort_inv | with_reducible apply State.count_inv
    | with_reducible apply foldl_inv | with_reducible apply foldl_inv2 | with_reducible apply foldl_inv1
    | with_reducible apply foldl_canon | with_reducible apply State.setRegion_inv
    | with_reducible apply State.region_inv | split)

theorem State.queueReplay_inv {s : State} (p : Nat) (first : Nat) (last : Option Nat) (h0 : s.Inv) :
    (State.queueReplay s p first last).Inv := by
  unfold State.queueReplay
  try dsimp only
  repeat' (first | with_reducible assumption | with_reducible apply State.setPort_inv)

theorem State.takeReplayReq_inv {s : State} (p : Nat) (first : Nat) (last : Nat) (all : Bool) (h0 : s.Inv) :
    (State.takeReplayReq s p first last all).Inv := by
  unfold State.takeReplayReq
  try dsimp only
  repeat' (first
    | with_reducible assumption | with_reducible apply State.count_inv | with_reducible apply State.queueReplay_inv
    | with_reducible apply foldl_inv | with_reducible apply foldl_inv2 | with_reducible apply foldl_inv1
    | with_reducible apply foldl_canon | with_reducible apply State.setRegion_inv
    | with_reducible apply State.region_inv | split)

theorem State.goBack_inv {s : State} (p : Nat) (h0 : s.Inv) :
    (State.goBack s p).Inv := by
  unfold State.goBack
  try dsimp only
  repeat' (first
    | with_reducible assumption | with_reducible apply State.count_inv | with_reducible apply State.queueReplay_inv
    | with_reducible apply State.setPort_inv | with_reducible apply foldl_inv | with_reducible apply foldl_inv2
    | with_reducible apply foldl_inv1 | with_reducible apply foldl_canon | with_reducible apply State.setRegion_inv
    | with_reducible apply State.region_inv | split)

theorem State.sendControl_inv {s : State} (p : Nat) (payload : List Byte) (h0 : s.Inv) :
    (State.sendControl s p payload).Inv := by
  unfold State.sendControl
  try dsimp only
  repeat' (first | with_reducible assumption | with_reducible apply State.setPort_inv)

theorem State.resetSequence_inv {s : State} (p : Nat) (h0 : s.Inv) :
    (State.resetSequence s p).Inv := by
  unfold State.resetSequence
  try dsimp only
  repeat' (first
    | with_reducible assumption | with_reducible apply State.raise_inv | with_reducible apply State.count_inv
    | with_reducible apply State.setPort_inv)

theorem State.sendState_inv {s : State} (p : Nat) (st : Nat) (h0 : s.Inv) :
    (State.sendState s p st).Inv := by
  unfold State.sendState
  try dsimp only
  repeat' (first
    | with_reducible assumption | with_reducible apply State.emit_inv | with_reducible apply foldl_inv
    | with_reducible apply foldl_inv2 | with_reducible apply foldl_inv1 | with_reducible apply foldl_canon
    | with_reducible apply State.setRegion_inv | with_reducible apply State.region_inv | split)

theorem State.enterLnk_inv {s : State} (p : Nat) (st : Nat) (h0 : s.Inv) :
    (State.enterLnk s p st).Inv := by
  unfold State.enterLnk
  try dsimp only
  repeat' (first
    | with_reducible assumption | with_reducible apply State.put_inv | with_reducible apply State.setPort_inv
    | with_reducible apply State.sendState_inv | with_reducible apply State.resetSequence_inv
    | with_reducible apply foldl_inv | with_reducible apply foldl_inv2 | with_reducible apply foldl_inv1
    | with_reducible apply foldl_canon | with_reducible apply State.setRegion_inv
    | with_reducible apply State.region_inv | split)

theorem State.lnkToDown_inv {s : State} (p : Nat) (h0 : s.Inv) :
    (State.lnkToDown s p).Inv := by
  unfold State.lnkToDown
  try dsimp only
  repeat' (first
    | with_reducible assumption | with_reducible apply State.raise_inv | with_reducible apply State.enterLnk_inv
    | with_reducible apply State.setPort_inv)

theorem State.delefDelay_inv {s : State} (p : Nat) (h0 : s.Inv) :
    (State.delefDelay s p).Inv := by
  unfold State.delefDelay
  try dsimp only
  repeat' (first
    | with_reducible assumption | with_reducible apply State.freeNat_inv
    | refine State.freeNat_inv_eq (by assumption) ?_ | with_reducible apply State.put_inv)

theorem State.startMeasure_inv {s : State} (p : Nat) (h0 : s.Inv) :
    (State.startMeasure s p).Inv := by
  unfold State.startMeasure
  try dsimp only
  repeat' (first
    | with_reducible assumption | with_reducible apply State.delefDelay_inv | with_reducible apply State.setPort_inv
    | with_reducible apply foldl_inv | with_reducible apply foldl_inv2 | with_reducible apply foldl_inv1
    | with_reducible apply foldl_canon | with_reducible apply State.setRegion_inv
    | with_reducible apply State.region_inv | split)

theorem State.syncScramblers_inv {s : State} (p : Nat) (h0 : s.Inv) :
    (State.syncScramblers s p).Inv := by
  unfold State.syncScramblers
  try dsimp only
  repeat' (first
    | with_reducible assumption | with_reducible apply State.freeNat_inv
    | refine State.freeNat_inv_eq (by assumption) ?_ | with_reducible apply State.setPort_inv)

theorem State.recordLanes_inv {s : State} (p : Nat) (passing : Nat) (fast : Bool) (h0 : s.Inv) :
    (State.recordLanes s p passing fast).Inv := by
  unfold State.recordLanes
  try dsimp only
  repeat' (first
    | with_reducible assumption | with_reducible apply State.setPort_inv | with_reducible apply State.raise_inv
    | with_reducible apply State.put_inv | with_reducible apply foldl_inv | with_reducible apply foldl_inv2
    | with_reducible apply foldl_inv1 | with_reducible apply foldl_canon | with_reducible apply State.setRegion_inv
    | with_reducible apply State.region_inv | split)

theorem State.useLanes_inv {s : State} (p : Nat) (lanes : Nat) (h0 : s.Inv) :
    (State.useLanes s p lanes).Inv := by
  unfold State.useLanes
  try dsimp only
  repeat' (first | with_reducible assumption | with_reducible apply State.put_inv)

theorem State.fastRetrain_inv {s : State} (p : Nat) (lead : Bool) (h0 : s.Inv) :
    (State.fastRetrain s p lead).Inv := by
  unfold State.fastRetrain
  try dsimp only
  repeat' (first
    | with_reducible assumption | with_reducible apply State.raise_inv | with_reducible apply State.setPort_inv
    | with_reducible apply State.enterLnk_inv | with_reducible apply State.put_inv
    | with_reducible apply State.event_inv | with_reducible apply foldl_inv | with_reducible apply foldl_inv2
    | with_reducible apply foldl_inv1 | with_reducible apply foldl_canon | with_reducible apply State.setRegion_inv
    | with_reducible apply State.region_inv | split)

theorem State.fullRetrainPort_inv {s : State} (p : Nat) (h0 : s.Inv) :
    (State.fullRetrainPort s p).Inv := by
  unfold State.fullRetrainPort
  try dsimp only
  repeat' (first
    | with_reducible assumption | with_reducible apply State.enterLnk_inv | with_reducible apply State.setPort_inv)

theorem State.requestWidth_inv {s : State} (p : Nat) (lanes : Nat) (h0 : s.Inv) :
    (State.requestWidth s p lanes).Inv := by
  unfold State.requestWidth
  try dsimp only
  repeat' (first
    | with_reducible assumption | with_reducible apply State.sendControl_inv
    | with_reducible apply State.setPort_inv | with_reducible apply foldl_inv | with_reducible apply foldl_inv2
    | with_reducible apply foldl_inv1 | with_reducible apply foldl_canon | with_reducible apply State.setRegion_inv
    | with_reducible apply State.region_inv | split)

theorem State.takeWidthReq_inv {s : State} (p : Nat) (lanes : Nat) (at_ : Nat) (h0 : s.Inv) :
    (State.takeWidthReq s p lanes at_).Inv := by
  unfold State.takeWidthReq
  try dsimp only
  repeat' (first
    | with_reducible assumption | with_reducible apply State.raise_inv | with_reducible apply State.sendControl_inv
    | with_reducible apply State.setPort_inv | with_reducible apply foldl_inv | with_reducible apply foldl_inv2
    | with_reducible apply foldl_inv1 | with_reducible apply foldl_canon | with_reducible apply State.setRegion_inv
    | with_reducible apply State.region_inv | split)

theorem State.takeWidthAck_inv {s : State} (p : Nat) (lanes : Nat) (at_ : Nat) (h0 : s.Inv) :
    (State.takeWidthAck s p lanes at_).Inv := by
  unfold State.takeWidthAck
  try dsimp only
  repeat' (first
    | with_reducible assumption | with_reducible apply State.setPort_inv | with_reducible apply foldl_inv
    | with_reducible apply foldl_inv2 | with_reducible apply foldl_inv1 | with_reducible apply foldl_canon
    | with_reducible apply State.setRegion_inv | with_reducible apply State.region_inv | split)

theorem State.takeWidthNak_inv {s : State} (p : Nat) (lanes : Nat) (at_ : Nat) (h0 : s.Inv) :
    (State.takeWidthNak s p lanes at_).Inv := by
  unfold State.takeWidthNak
  try dsimp only
  repeat' (first
    | with_reducible assumption | with_reducible apply State.setPort_inv | with_reducible apply foldl_inv
    | with_reducible apply foldl_inv2 | with_reducible apply foldl_inv1 | with_reducible apply foldl_canon
    | with_reducible apply State.setRegion_inv | with_reducible apply State.region_inv | split)

theorem State.takeMeasure_inv {s : State} (p : Nat) (index : Nat) (stamp : Nat) (hold : Nat) (h0 : s.Inv) :
    (State.takeMeasure s p index stamp hold).Inv := by
  unfold State.takeMeasure
  try dsimp only
  repeat' (first
    | with_reducible assumption | with_reducible apply State.count_inv | with_reducible apply State.sendControl_inv
    | with_reducible apply foldl_inv | with_reducible apply foldl_inv2 | with_reducible apply foldl_inv1
    | with_reducible apply foldl_canon | with_reducible apply State.setRegion_inv
    | with_reducible apply State.region_inv | split)

theorem State.takeEcho_inv {s : State} (p : Nat) (stamp : Nat) (hold : Nat) (h0 : s.Inv) :
    (State.takeEcho s p stamp hold).Inv := by
  unfold State.takeEcho
  try dsimp only
  repeat' (first
    | with_reducible assumption | with_reducible apply State.count_inv | with_reducible apply State.setPort_inv
    | with_reducible apply State.put_inv | with_reducible apply foldl_inv | with_reducible apply foldl_inv2
    | with_reducible apply foldl_inv1 | with_reducible apply foldl_canon | with_reducible apply State.setRegion_inv
    | with_reducible apply State.region_inv | split)

theorem State.takeControl_inv {s : State} (p : Nat) (b : List Byte) (h0 : s.Inv) :
    (State.takeControl s p b).Inv := by
  unfold State.takeControl
  try dsimp only
  repeat' (first
    | with_reducible assumption | with_reducible apply State.takeReplayReq_inv
    | with_reducible apply State.takeMeasure_inv | with_reducible apply State.takeEcho_inv
    | with_reducible apply State.takeWidthReq_inv | with_reducible apply State.takeWidthAck_inv
    | with_reducible apply State.takeWidthNak_inv | with_reducible apply State.count_inv
    | with_reducible apply foldl_inv | with_reducible apply foldl_inv2 | with_reducible apply foldl_inv1
    | with_reducible apply foldl_canon | with_reducible apply State.setRegion_inv
    | with_reducible apply State.region_inv | split)

theorem State.noteSent_inv {s : State} (p : Nat) (n : Nat) (missingTo : Nat) (h0 : s.Inv) :
    (State.noteSent s p n missingTo).Inv := by
  unfold State.noteSent
  try dsimp only
  repeat' (first
    | with_reducible assumption | with_reducible apply State.setPort_inv
    | with_reducible apply State.sendControl_inv | with_reducible apply foldl_inv | with_reducible apply foldl_inv2
    | with_reducible apply foldl_inv1 | with_reducible apply foldl_canon | with_reducible apply State.setRegion_inv
    | with_reducible apply State.region_inv | split)

theorem State.receiveCell_inv {s : State} (p : Nat) (b : List Byte) (h0 : s.Inv) :
    (State.receiveCell s p b).Inv := by
  unfold State.receiveCell
  try dsimp only
  repeat' (first
    | with_reducible assumption | with_reducible apply State.count_inv | with_reducible apply State.setPort_inv
    | with_reducible apply State.takeControl_inv | with_reducible apply State.noteSent_inv
    | with_reducible apply State.takeAck_inv | with_reducible apply foldl_inv | with_reducible apply foldl_inv2
    | with_reducible apply foldl_inv1 | with_reducible apply foldl_canon | with_reducible apply State.setRegion_inv
    | with_reducible apply State.region_inv | split)

theorem State.replaySlot_inv {s : State} (p : Nat) (h0 : s.Inv) :
    (State.replaySlot s p).2.Inv := by
  unfold State.replaySlot
  try dsimp only
  repeat' (first
    | with_reducible assumption | with_reducible apply State.slotCount_inv
    | refine State.slotCount_inv_eq (by assumption) ?_ | with_reducible apply foldl_inv
    | with_reducible apply foldl_inv2 | with_reducible apply foldl_inv1 | with_reducible apply foldl_canon
    | with_reducible apply State.setRegion_inv | with_reducible apply State.region_inv | split)
theorem State.replaySlot_inv_eq {s : State} {p : Nat} {zr} {zt : State} (e0 : (State.replaySlot s p) = (zr, zt))
    (h0 : s.Inv) :
    zt.Inv := by
  have i := State.replaySlot_inv p h0
  rw [e0] at i
  exact i

theorem State.noteSymbols_inv {s : State} (p : Nat) (got : List Byte) (sent : List Byte) (h0 : s.Inv) :
    (State.noteSymbols s p got sent).Inv := by
  unfold State.noteSymbols
  try dsimp only
  repeat' (first | with_reducible assumption | with_reducible apply State.setPort_inv)

theorem State.takeLanes_inv {s : State} (p : Nat) (got : List (List Pam4)) (h0 : s.Inv) :
    (State.takeLanes s p got).2.Inv := by
  unfold State.takeLanes
  try dsimp only
  repeat' (first | with_reducible assumption | with_reducible apply State.setPort_inv)
theorem State.takeLanes_inv_eq {s : State} {p : Nat} {got : List (List Pam4)} {zr} {zt : State}
    (e0 : (State.takeLanes s p got) = (zr, zt)) (h0 : s.Inv) :
    zt.Inv := by
  have i := State.takeLanes_inv p got h0
  rw [e0] at i
  exact i

theorem State.decodeCodeword_inv {s : State} (p : Nat) (bytes : List Byte) (h0 : s.Inv) :
    (State.decodeCodeword s p bytes).Inv := by
  unfold State.decodeCodeword
  try dsimp only
  repeat' (first
    | with_reducible assumption | with_reducible apply State.replaySlot_inv
    | refine State.replaySlot_inv_eq (by assumption) ?_ | with_reducible apply State.freeNat_inv
    | refine State.freeNat_inv_eq (by assumption) ?_ | with_reducible apply State.setPort_inv
    | with_reducible apply State.count_inv | with_reducible apply State.fastRetrain_inv
    | with_reducible apply State.noteSymbols_inv | with_reducible apply State.receiveCell_inv
    | with_reducible apply foldl_inv | with_reducible apply foldl_inv2 | with_reducible apply foldl_inv1
    | with_reducible apply foldl_canon | with_reducible apply State.setRegion_inv
    | with_reducible apply State.region_inv | split | exact fun h => h | exact fun h => wf_smapAllTo h _
    | exact fun h => wf_sfilter h _ | exact fun _ => rfl | intro _ _ _)

theorem State.receiveCodeword_inv {s : State} (p : Nat) (got : List (List Pam4)) (h0 : s.Inv) :
    (State.receiveCodeword s p got).Inv := by
  unfold State.receiveCodeword
  try dsimp only
  repeat' (first
    | with_reducible assumption | with_reducible apply State.takeLanes_inv
    | refine State.takeLanes_inv_eq (by assumption) ?_ | with_reducible apply State.decodeCodeword_inv)

theorem State.dropUnsent_inv {s : State} (p : Nat) (c : Cell) (h0 : s.Inv) :
    (State.dropUnsent s p c).Inv := by
  unfold State.dropUnsent
  try dsimp only
  repeat' (first
    | with_reducible assumption | with_reducible apply State.count_inv
    | with_reducible apply State.dropUnadmitted_inv | with_reducible apply foldl_inv
    | with_reducible apply foldl_inv2 | with_reducible apply foldl_inv1 | with_reducible apply foldl_canon
    | with_reducible apply State.setRegion_inv | with_reducible apply State.region_inv | split | exact fun h => h
    | exact fun h => wf_smapAllTo h _ | exact fun h => wf_sfilter h _ | exact fun _ => rfl | intro _ _ _ | intro _ _
    | intro _ | dsimp only | contradiction
    | with_reducible refine inv_mk ?_ rfl rfl rfl rfl rfl rfl rfl rfl rfl rfl rfl rfl rfl rfl rfl rfl
    | with_reducible refine canon_mk ?_ rfl rfl
    | with_reducible refine inv_mk_wf ?_ rfl rfl rfl ?_ ?_ ?_ ?_ ?_ ?_ rfl ?_ rfl rfl rfl rfl rfl
    | refine wf_smapAllTo ?_ _)

theorem State.takeEgress_inv {s : State} (p : Nat) (byReady : Bool) (want : EgressCell → Bool) (h0 : s.Inv) :
    (State.takeEgress s p byReady want).2.Inv := by
  unfold State.takeEgress
  try dsimp only
  repeat' (first
    | with_reducible assumption | with_reducible apply State.dropUnsent_inv | with_reducible apply State.setPort_inv
    | with_reducible apply State.noteBacklog_inv | with_reducible apply foldl_inv | with_reducible apply foldl_inv2
    | with_reducible apply foldl_inv1 | with_reducible apply foldl_canon | with_reducible apply State.setRegion_inv
    | with_reducible apply State.region_inv | split | exact fun h => h | exact fun h => wf_smapAllTo h _
    | exact fun h => wf_sfilter h _ | exact fun _ => rfl | intro _ _ _ | intro _ _ | intro _ | dsimp only
    | contradiction
    | with_reducible refine inv_mk ?_ rfl rfl rfl rfl rfl rfl rfl rfl rfl rfl rfl rfl rfl rfl rfl rfl
    | with_reducible refine canon_mk ?_ rfl rfl
    | with_reducible refine inv_mk_wf ?_ rfl rfl rfl ?_ ?_ ?_ ?_ ?_ ?_ rfl ?_ rfl rfl rfl rfl rfl
    | refine wf_smapAllTo ?_ _)
theorem State.takeEgress_inv_eq {s : State} {p : Nat} {byReady : Bool} {want : EgressCell → Bool} {zr} {zt : State}
    (e0 : (State.takeEgress s p byReady want) = (zr, zt)) (h0 : s.Inv) :
    zt.Inv := by
  have i := State.takeEgress_inv p byReady want h0
  rw [e0] at i
  exact i

theorem State.takeFree_inv {s : State} (p : Nat) (x2 : List EgressClass) (h0 : s.Inv) :
    (State.takeFree s p x2).2.Inv := by
  induction x2 generalizing s with
  | nil =>
    unfold State.takeFree
    try dsimp only
    repeat' (first
      | with_reducible assumption | with_reducible apply State.takeEgress_inv
      | refine State.takeEgress_inv_eq (by assumption) ?_ | with_reducible apply foldl_inv
      | with_reducible apply foldl_inv2 | with_reducible apply foldl_inv1 | with_reducible apply foldl_canon
      | with_reducible apply State.setRegion_inv | with_reducible apply State.region_inv | split | exact fun h => h
      | exact fun h => wf_smapAllTo h _ | exact fun h => wf_sfilter h _ | exact fun _ => rfl | intro _ _ _
      | intro _ _ | intro _ | dsimp only | contradiction
      | with_reducible refine inv_mk ?_ rfl rfl rfl rfl rfl rfl rfl rfl rfl rfl rfl rfl rfl rfl rfl rfl
      | with_reducible refine canon_mk ?_ rfl rfl
      | with_reducible refine inv_mk_wf ?_ rfl rfl rfl ?_ ?_ ?_ ?_ ?_ ?_ rfl ?_ rfl rfl rfl rfl rfl
      | refine wf_smapAllTo ?_ _)
  | cons e r ih =>
    unfold State.takeFree
    try dsimp only
    repeat' (first
      | with_reducible assumption | with_reducible apply ih | with_reducible apply State.takeEgress_inv
      | refine State.takeEgress_inv_eq (by assumption) ?_ | with_reducible apply foldl_inv
      | with_reducible apply foldl_inv2 | with_reducible apply foldl_inv1 | with_reducible apply foldl_canon
      | with_reducible apply State.setRegion_inv | with_reducible apply State.region_inv | split | exact fun h => h
      | exact fun h => wf_smapAllTo h _ | exact fun h => wf_sfilter h _ | exact fun _ => rfl | intro _ _ _
      | intro _ _ | intro _ | dsimp only | contradiction
      | with_reducible refine inv_mk ?_ rfl rfl rfl rfl rfl rfl rfl rfl rfl rfl rfl rfl rfl rfl rfl rfl
      | with_reducible refine canon_mk ?_ rfl rfl
      | with_reducible refine inv_mk_wf ?_ rfl rfl rfl ?_ ?_ ?_ ?_ ?_ ?_ rfl ?_ rfl rfl rfl rfl rfl
      | refine wf_smapAllTo ?_ _)

theorem State.takeFree_inv_eq {s : State} {p : Nat} {x2 : List EgressClass} {zr} {zt : State}
    (e0 : (State.takeFree s p x2) = (zr, zt)) (h0 : s.Inv) :
    zt.Inv := by
  have i := State.takeFree_inv p x2 h0
  rw [e0] at i
  exact i

theorem State.sendSequenced_inv {s : State} (p : Nat) (c : Cell) (h0 : s.Inv) :
    (State.sendSequenced s p c).2.Inv := by
  unfold State.sendSequenced
  try dsimp only
  repeat' (first
    | with_reducible assumption | with_reducible apply State.meter_inv | with_reducible apply State.setPort_inv
    | with_reducible apply State.writeSlot_inv | with_reducible apply foldl_inv | with_reducible apply foldl_inv2
    | with_reducible apply foldl_inv1 | with_reducible apply foldl_canon | with_reducible apply State.setRegion_inv
    | with_reducible apply State.region_inv | split)
theorem State.sendSequenced_inv_eq {s : State} {p : Nat} {c : Cell} {zr} {zt : State}
    (e0 : (State.sendSequenced s p c) = (zr, zt)) (h0 : s.Inv) :
    zt.Inv := by
  have i := State.sendSequenced_inv p c h0
  rw [e0] at i
  exact i

theorem State.fetchReplay_inv {s : State} (p : Nat) (n : Nat) (h0 : s.Inv) :
    (State.fetchReplay s p n).Inv := by
  unfold State.fetchReplay
  try dsimp only
  repeat' (first
    | with_reducible assumption | with_reducible apply State.readSlot_inv | with_reducible apply State.setPort_inv
    | with_reducible apply foldl_inv | with_reducible apply foldl_inv2 | with_reducible apply foldl_inv1
    | with_reducible apply foldl_canon | with_reducible apply State.setRegion_inv
    | with_reducible apply State.region_inv | split)

theorem State.newCell_inv {s : State} (p : Nat) (h0 : s.Inv) :
    (State.newCell s p).2.Inv := by
  unfold State.newCell
  try dsimp only
  repeat' (first
    | with_reducible assumption | with_reducible apply State.takeFree_inv
    | refine State.takeFree_inv_eq (by assumption) ?_ | with_reducible apply State.sendSequenced_inv
    | refine State.sendSequenced_inv_eq (by assumption) ?_ | with_reducible apply foldl_inv
    | with_reducible apply foldl_inv2 | with_reducible apply foldl_inv1 | with_reducible apply foldl_canon
    | with_reducible apply State.setRegion_inv | with_reducible apply State.region_inv | split)
theorem State.newCell_inv_eq {s : State} {p : Nat} {zr} {zt : State} (e0 : (State.newCell s p) = (zr, zt))
    (h0 : s.Inv) :
    zt.Inv := by
  have i := State.newCell_inv p h0
  rw [e0] at i
  exact i

theorem State.nextCell_inv {s : State} (p : Nat) (h0 : s.Inv) :
    (State.nextCell s p).2.Inv := by
  unfold State.nextCell
  try dsimp only
  repeat' (first
    | with_reducible assumption | with_reducible apply State.setPort_inv | with_reducible apply State.takeEgress_inv
    | refine State.takeEgress_inv_eq (by assumption) ?_ | with_reducible apply State.sendSequenced_inv
    | refine State.sendSequenced_inv_eq (by assumption) ?_ | with_reducible apply State.count_inv
    | with_reducible apply State.newCell_inv | refine State.newCell_inv_eq (by assumption) ?_
    | with_reducible apply State.fetchReplay_inv | with_reducible apply foldl_inv | with_reducible apply foldl_inv2
    | with_reducible apply foldl_inv1 | with_reducible apply foldl_canon | with_reducible apply State.setRegion_inv
    | with_reducible apply State.region_inv | split | exact fun h => h | exact fun h => wf_smapAllTo h _
    | exact fun h => wf_sfilter h _ | exact fun _ => rfl | intro _ _ _ | intro _ _ | intro _ | dsimp only
    | contradiction
    | with_reducible refine inv_mk ?_ rfl rfl rfl rfl rfl rfl rfl rfl rfl rfl rfl rfl rfl rfl rfl rfl
    | with_reducible refine canon_mk ?_ rfl rfl
    | with_reducible refine inv_mk_wf ?_ rfl rfl rfl ?_ ?_ ?_ ?_ ?_ ?_ rfl ?_ rfl rfl rfl rfl rfl
    | refine wf_smapAllTo ?_ _)
theorem State.nextCell_inv_eq {s : State} {p : Nat} {zr} {zt : State} (e0 : (State.nextCell s p) = (zr, zt))
    (h0 : s.Inv) :
    zt.Inv := by
  have i := State.nextCell_inv p h0
  rw [e0] at i
  exact i

theorem State.checkTick_inv {s : State} (p : Nat) (h0 : s.Inv) :
    (State.checkTick s p).Inv := by
  unfold State.checkTick
  try dsimp only
  repeat' (first
    | with_reducible assumption | with_reducible apply State.dropUnsent_inv | with_reducible apply State.setPort_inv
    | with_reducible apply foldl_inv | with_reducible apply foldl_inv2 | with_reducible apply foldl_inv1
    | with_reducible apply foldl_canon | with_reducible apply State.setRegion_inv
    | with_reducible apply State.region_inv | split | exact fun h => h | exact fun h => wf_smapAllTo h _
    | exact fun h => wf_sfilter h _ | exact fun _ => rfl | intro _ _ _ | intro _ _ | intro _ | dsimp only
    | contradiction
    | with_reducible refine inv_mk ?_ rfl rfl rfl rfl rfl rfl rfl rfl rfl rfl rfl rfl rfl rfl rfl rfl
    | with_reducible refine canon_mk ?_ rfl rfl
    | with_reducible refine inv_mk_wf ?_ rfl rfl rfl ?_ ?_ ?_ ?_ ?_ ?_ rfl ?_ rfl rfl rfl rfl rfl
    | refine wf_smapAllTo ?_ _)

theorem State.sendCell_inv {s : State} (p : Nat) (h0 : s.Inv) :
    (State.sendCell s p).2.Inv := by
  unfold State.sendCell
  try dsimp only
  repeat' (first
    | with_reducible assumption | with_reducible apply State.nextCell_inv
    | refine State.nextCell_inv_eq (by assumption) ?_ | with_reducible apply State.checkTick_inv
    | with_reducible apply State.ripenPort_inv | with_reducible apply State.setPort_inv
    | with_reducible apply foldl_inv | with_reducible apply foldl_inv2 | with_reducible apply foldl_inv1
    | with_reducible apply foldl_canon | with_reducible apply State.setRegion_inv
    | with_reducible apply State.region_inv | split | exact fun h => h | exact fun h => wf_smapAllTo h _
    | exact fun h => wf_sfilter h _ | exact fun _ => rfl | intro _ _ _ | intro _ _ | intro _ | dsimp only
    | contradiction
    | with_reducible refine inv_mk ?_ rfl rfl rfl rfl rfl rfl rfl rfl rfl rfl rfl rfl rfl rfl rfl rfl
    | with_reducible refine canon_mk ?_ rfl rfl
    | with_reducible refine inv_mk_wf ?_ rfl rfl rfl ?_ ?_ ?_ ?_ ?_ ?_ rfl ?_ rfl rfl rfl rfl rfl
    | refine wf_smapAllTo ?_ _)
theorem State.sendCell_inv_eq {s : State} {p : Nat} {zr} {zt : State} (e0 : (State.sendCell s p) = (zr, zt))
    (h0 : s.Inv) :
    zt.Inv := by
  have i := State.sendCell_inv p h0
  rw [e0] at i
  exact i

theorem State.putLanes_inv {s : State} (p : Nat) (bytes : List Byte) (h0 : s.Inv) :
    (State.putLanes s p bytes).Inv := by
  unfold State.putLanes
  try dsimp only
  repeat' (first
    | with_reducible assumption | with_reducible apply State.emit_inv | with_reducible apply State.setPort_inv)

theorem State.reachSlot_inv {s : State} (p : Nat) (h0 : s.Inv) :
    (State.reachSlot s p).Inv := by
  unfold State.reachSlot
  try dsimp only
  repeat' (first
    | with_reducible assumption | with_reducible apply State.setPort_inv | with_reducible apply State.at_inv
    | with_reducible apply foldl_inv | with_reducible apply foldl_inv2 | with_reducible apply foldl_inv1
    | with_reducible apply foldl_canon | with_reducible apply State.setRegion_inv
    | with_reducible apply State.region_inv | split | exact fun h => h | exact fun h => wf_smapAllTo h _
    | exact fun h => wf_sfilter h _ | exact fun _ => rfl | intro _ _ _ | intro _ _ | intro _ | dsimp only
    | contradiction
    | with_reducible refine inv_mk ?_ rfl rfl rfl rfl rfl rfl rfl rfl rfl rfl rfl rfl rfl rfl rfl rfl
    | with_reducible refine canon_mk ?_ rfl rfl
    | with_reducible refine inv_mk_wf ?_ rfl rfl rfl ?_ ?_ ?_ ?_ ?_ ?_ rfl ?_ rfl rfl rfl rfl rfl
    | refine wf_smapAllTo ?_ _)

theorem State.sendCodeword_inv {s : State} (p : Nat) (h0 : s.Inv) :
    (State.sendCodeword s p).Inv := by
  unfold State.sendCodeword
  try dsimp only
  repeat' (first
    | with_reducible assumption | with_reducible apply State.reachSlot_inv | with_reducible apply State.sendCell_inv
    | refine State.sendCell_inv_eq (by assumption) ?_ | with_reducible apply State.refillEgress_inv
    | with_reducible apply State.putLanes_inv | with_reducible apply foldl_inv | with_reducible apply foldl_inv2
    | with_reducible apply foldl_inv1 | with_reducible apply foldl_canon | with_reducible apply State.setRegion_inv
    | with_reducible apply State.region_inv | split | exact fun h => h | exact fun h => wf_smapAllTo h _
    | exact fun h => wf_sfilter h _ | exact fun _ => rfl | intro _ _ _ | intro _ _ | intro _ | dsimp only
    | contradiction
    | with_reducible refine inv_mk ?_ rfl rfl rfl rfl rfl rfl rfl rfl rfl rfl rfl rfl rfl rfl rfl rfl
    | with_reducible refine canon_mk ?_ rfl rfl
    | with_reducible refine inv_mk_wf ?_ rfl rfl rfl ?_ ?_ ?_ ?_ ?_ ?_ rfl ?_ rfl rfl rfl rfl rfl
    | refine wf_smapAllTo ?_ _)

theorem State.choosePort_inv {s : State} (c : Cell) (h0 : s.Inv) :
    (State.choosePort s c).2.Inv := by
  unfold State.choosePort
  try dsimp only
  repeat' (first
    | with_reducible assumption | with_reducible apply foldl_inv | with_reducible apply foldl_inv2
    | with_reducible apply foldl_inv1 | with_reducible apply foldl_canon | with_reducible apply State.setRegion_inv
    | with_reducible apply State.region_inv | split | exact fun h => h | exact fun h => wf_smapAllTo h _
    | exact fun h => wf_sfilter h _ | exact fun _ => rfl | intro _ _ _ | intro _ _ | intro _ | dsimp only
    | contradiction
    | with_reducible refine inv_mk ?_ rfl rfl rfl rfl rfl rfl rfl rfl rfl rfl rfl rfl rfl rfl rfl rfl)
theorem State.choosePort_inv_eq {s : State} {c : Cell} {zr} {zt : State} (e0 : (State.choosePort s c) = (zr, zt))
    (h0 : s.Inv) :
    zt.Inv := by
  have i := State.choosePort_inv c h0
  rw [e0] at i
  exact i

theorem State.forward_inv {s : State} (c : Cell) (from_ : Nat) (h0 : s.Inv) :
    (State.forward s c from_).Inv := by
  unfold State.forward
  try dsimp only
  repeat' (first
    | with_reducible assumption | with_reducible apply State.setPort_inv | with_reducible apply State.choosePort_inv
    | refine State.choosePort_inv_eq (by assumption) ?_ | with_reducible apply State.egress_inv
    | with_reducible apply State.count_inv | with_reducible apply foldl_inv | with_reducible apply foldl_inv2
    | with_reducible apply foldl_inv1 | with_reducible apply foldl_canon | with_reducible apply State.setRegion_inv
    | with_reducible apply State.region_inv | split)

theorem State.sendOwn_inv {s : State} (c : Cell) (h0 : s.Inv) :
    (State.sendOwn s c).Inv := by
  unfold State.sendOwn
  try dsimp only
  repeat' (first | with_reducible assumption | with_reducible apply State.forward_inv)

theorem State.replicate_inv {s : State} (c : Cell) (w : Nat) (ready : Nat → Nat) (own : Option Nat) (h0 : s.Inv) :
    (State.replicate s c w ready own).Inv := by
  unfold State.replicate
  try dsimp only
  repeat' (first
    | with_reducible assumption | with_reducible apply State.count_inv | with_reducible apply State.egress_inv
    | with_reducible apply foldl_inv | with_reducible apply foldl_inv2 | with_reducible apply foldl_inv1
    | with_reducible apply foldl_canon | with_reducible apply State.setRegion_inv
    | with_reducible apply State.region_inv | split | exact fun h => h | exact fun h => wf_smapAllTo h _
    | exact fun h => wf_sfilter h _ | exact fun _ => rfl | intro _ _ _)

theorem State.launchCell_inv {s : State} (p : Nat) (c : Cell) (seg : Nat) (h0 : s.Inv) :
    (State.launchCell s p c seg).Inv := by
  unfold State.launchCell
  try dsimp only
  repeat' (first
    | with_reducible assumption | with_reducible apply State.replicate_inv | with_reducible apply State.count_inv
    | with_reducible apply foldl_inv | with_reducible apply foldl_inv2 | with_reducible apply foldl_inv1
    | with_reducible apply foldl_canon | with_reducible apply State.setRegion_inv
    | with_reducible apply State.region_inv | split)

theorem State.setSendFlow_inv {s : State} (dst : Nat) (cls : Nat) (f : SendFlow) (h0 : s.Inv) :
    (State.setSendFlow s dst cls f).Inv := by
  unfold State.setSendFlow
  try dsimp only
  repeat' (first
    | with_reducible assumption | with_reducible apply foldl_inv | with_reducible apply foldl_inv2
    | with_reducible apply foldl_inv1 | with_reducible apply foldl_canon | with_reducible apply State.setRegion_inv
    | with_reducible apply State.region_inv | split | exact fun h => h | exact fun h => wf_smapAllTo h _
    | exact fun h => wf_sfilter h _ | exact fun _ => rfl | intro _ _ _ | intro _ _ | intro _ | dsimp only
    | contradiction
    | with_reducible refine inv_mk ?_ rfl rfl rfl rfl rfl rfl rfl rfl rfl rfl rfl rfl rfl rfl rfl rfl)

theorem State.pumpFlow_inv {x0 : State} (x1 : Nat) (x2 : Nat) (x3 : List Cell) (h0 : x0.Inv) :
    (State.pumpFlow x0 x1 x2 x3).Inv := by
  induction x3 generalizing x0 with
  | nil => exact State.setSendFlow_inv _ _ _ h0
  | cons c r ih =>
    rw [State.pumpFlow]
    extract_lets f
    split
    · exact ih (State.sendOwn_inv _ (State.setSendFlow_inv _ _ _ h0))
    · exact State.setSendFlow_inv _ _ _ h0

theorem State.askGrant_inv {s : State} (dst : Nat) (cls : Nat) (key : Nat) (h0 : s.Inv) :
    (State.askGrant s dst cls key).Inv := by
  unfold State.askGrant
  try dsimp only
  repeat' (first
    | with_reducible assumption | with_reducible apply State.sendOwn_inv
    | with_reducible apply State.setSendFlow_inv)

theorem State.sendCells_inv {s : State} (dst : Nat) (cls : Nat) (l : List Cell) (h0 : s.Inv) :
    (State.sendCells s dst cls l).Inv := by
  unfold State.sendCells
  try dsimp only
  repeat' (first
    | with_reducible assumption | with_reducible apply State.pumpFlow_inv | with_reducible apply State.askGrant_inv
    | with_reducible apply foldl_inv | with_reducible apply foldl_inv2 | with_reducible apply foldl_inv1
    | with_reducible apply foldl_canon | with_reducible apply State.setRegion_inv
    | with_reducible apply State.region_inv | split)

theorem State.sendMessage_inv {s : State} (dst : Nat) (cls : Nat) (key : Nat) (head : List Byte)
    (lines : List (Bool × List Byte)) (h0 : s.Inv) :
    (State.sendMessage s dst cls key head lines).Inv := by
  unfold State.sendMessage
  try dsimp only
  repeat' (first | with_reducible assumption | with_reducible apply State.sendCells_inv)

theorem State.sendAddressed_inv {s : State} (svc : Bool) (dst : Nat) (op : Nat) (tag : Nat) (addr : Nat)
    (data : List Byte) (h0 : s.Inv) :
    (State.sendAddressed s svc dst op tag addr data).Inv := by
  unfold State.sendAddressed
  try dsimp only
  repeat' (first
    | with_reducible assumption | with_reducible apply State.sendOwn_inv | with_reducible apply State.sendCells_inv
    | with_reducible apply foldl_inv | with_reducible apply foldl_inv2 | with_reducible apply foldl_inv1
    | with_reducible apply foldl_canon | with_reducible apply State.setRegion_inv
    | with_reducible apply State.region_inv | split)

theorem State.putFlow_inv {s : State} (f : Flow) (h0 : s.Inv) :
    (State.putFlow s f).Inv := by
  unfold State.putFlow
  try dsimp only
  repeat' (first
    | with_reducible assumption | with_reducible apply foldl_inv | with_reducible apply foldl_inv2
    | with_reducible apply foldl_inv1 | with_reducible apply foldl_canon | with_reducible apply State.setRegion_inv
    | with_reducible apply State.region_inv | split | exact fun h => h | exact fun h => wf_smapAllTo h _
    | exact fun h => wf_sfilter h _ | exact fun _ => rfl | intro _ _ _ | intro _ _ | intro _ | dsimp only
    | contradiction
    | with_reducible refine inv_mk ?_ rfl rfl rfl rfl rfl rfl rfl rfl rfl rfl rfl rfl rfl rfl rfl rfl)

theorem State.sendGrant_inv {s : State} (f : Flow) (h0 : s.Inv) :
    (State.sendGrant s f).Inv := by
  unfold State.sendGrant
  try dsimp only
  repeat' (first
    | with_reducible assumption | with_reducible apply State.sendOwn_inv | with_reducible apply State.putFlow_inv)

theorem State.advanceGrant_inv {s : State} (src : Nat) (cls : Nat) (h0 : s.Inv) :
    (State.advanceGrant s src cls).Inv := by
  unfold State.advanceGrant
  try dsimp only
  repeat' (first
    | with_reducible assumption | with_reducible apply State.putFlow_inv | with_reducible apply State.sendGrant_inv
    | with_reducible apply foldl_inv | with_reducible apply foldl_inv2 | with_reducible apply foldl_inv1
    | with_reducible apply foldl_canon | with_reducible apply State.setRegion_inv
    | with_reducible apply State.region_inv | split)

theorem State.deliverFlow_inv (x0 : Nat) {x1 : State} (x2 : Nat) (x3 : Nat) (x4 : List Cell) (h0 : x1.Inv) :
    (State.deliverFlow x0 x1 x2 x3 x4).1.Inv := by
  induction x0 generalizing x1 x4 with
  | zero =>
    unfold State.deliverFlow
    try dsimp only
    repeat' (first | with_reducible assumption)
  | succ n ih =>
    unfold State.deliverFlow
    try dsimp only
    repeat' (first
      | with_reducible assumption | with_reducible apply ih | with_reducible apply State.putFlow_inv
      | with_reducible apply State.count_inv | with_reducible apply foldl_inv | with_reducible apply foldl_inv2
      | with_reducible apply foldl_inv1 | with_reducible apply foldl_canon
      | with_reducible apply State.setRegion_inv | with_reducible apply State.region_inv | split)
theorem State.deliverFlow_inv_eq {x0 : Nat} {x1 : State} {x2 : Nat} {x3 : Nat} {x4 : List Cell} {zr} {zt : State}
    (e0 : (State.deliverFlow x0 x1 x2 x3 x4) = (zt, zr)) (h0 : x1.Inv) :
    zt.Inv := by
  have i := State.deliverFlow_inv x0 x2 x3 x4 h0
  rw [e0] at i
  exact i

theorem State.pumpReed_inv {s : State} (src : Nat) (cls : Nat) (h0 : s.Inv) :
    (State.pumpReed s src cls).1.Inv := by
  unfold State.pumpReed
  try dsimp only
  repeat' (first
    | with_reducible assumption | with_reducible apply State.deliverFlow_inv
    | refine State.deliverFlow_inv_eq (by assumption) ?_ | with_reducible apply State.advanceGrant_inv
    | with_reducible apply foldl_inv | with_reducible apply foldl_inv2 | with_reducible apply foldl_inv1
    | with_reducible apply foldl_canon | with_reducible apply State.setRegion_inv
    | with_reducible apply State.region_inv | split)
theorem State.pumpReed_inv_eq {s : State} {src : Nat} {cls : Nat} {zr} {zt : State}
    (e0 : (State.pumpReed s src cls) = (zt, zr)) (h0 : s.Inv) :
    zt.Inv := by
  have i := State.pumpReed_inv src cls h0
  rw [e0] at i
  exact i

theorem State.reedTake_inv {s : State} (c : Cell) (cls : Nat) (h0 : s.Inv) :
    (State.reedTake s c cls).1.Inv := by
  unfold State.reedTake
  try dsimp only
  repeat' (first
    | with_reducible assumption | with_reducible apply State.count_inv | with_reducible apply State.pumpReed_inv
    | refine State.pumpReed_inv_eq (by assumption) ?_ | with_reducible apply State.putFlow_inv
    | with_reducible apply foldl_inv | with_reducible apply foldl_inv2 | with_reducible apply foldl_inv1
    | with_reducible apply foldl_canon | with_reducible apply State.setRegion_inv
    | with_reducible apply State.region_inv | split)
theorem State.reedTake_inv_eq {s : State} {c : Cell} {cls : Nat} {zr} {zt : State}
    (e0 : (State.reedTake s c cls) = (zt, zr)) (h0 : s.Inv) :
    zt.Inv := by
  have i := State.reedTake_inv c cls h0
  rw [e0] at i
  exact i

theorem State.takeGrantRequest_inv {s : State} (src : Nat) (cls : Nat) (key : Nat) (count : Nat) (h0 : s.Inv) :
    (State.takeGrantRequest s src cls key count).Inv := by
  unfold State.takeGrantRequest
  try dsimp only
  repeat' (first
    | with_reducible assumption | with_reducible apply State.sendGrant_inv | with_reducible apply State.putFlow_inv
    | with_reducible apply State.count_inv | with_reducible apply foldl_inv | with_reducible apply foldl_inv2
    | with_reducible apply foldl_inv1 | with_reducible apply foldl_canon | with_reducible apply State.setRegion_inv
    | with_reducible apply State.region_inv | split | exact fun h => h | exact fun h => wf_smapAllTo h _
    | exact fun h => wf_sfilter h _ | exact fun _ => rfl | intro _ _ _ | intro _ _ | intro _ | dsimp only
    | contradiction
    | with_reducible refine inv_mk ?_ rfl rfl rfl rfl rfl rfl rfl rfl rfl rfl rfl rfl rfl rfl rfl rfl)

theorem State.takeGrant_inv {s : State} (dst : Nat) (cls : Nat) (count : Nat) (h0 : s.Inv) :
    (State.takeGrant s dst cls count).Inv := by
  unfold State.takeGrant
  extract_lets f t
  split
  · exact State.sendCells_inv _ _ _ (State.setSendFlow_inv _ _ _ h0)
  · exact h0

theorem State.takeGrantCell_inv {s : State} (c : Cell) (h0 : s.Inv) :
    (State.takeGrantCell s c).Inv := by
  unfold State.takeGrantCell
  try dsimp only
  repeat' (first
    | with_reducible assumption | with_reducible apply State.takeGrantRequest_inv
    | with_reducible apply State.takeGrant_inv | with_reducible apply foldl_inv | with_reducible apply foldl_inv2
    | with_reducible apply foldl_inv1 | with_reducible apply foldl_canon | with_reducible apply State.setRegion_inv
    | with_reducible apply State.region_inv | split | exact fun h => h | exact fun h => wf_smapAllTo h _
    | exact fun h => wf_sfilter h _ | exact fun _ => rfl | intro _ _ _)

end Sys2Proof.Machine
end

