-- ==== Sys2Proof/Laws/InvRequests.lean ====
section
/-! SUPPORT. The invariant through the remote requests, the mailboxes and the shuttles. -/
namespace Sys2Proof.Machine

theorem State.setObj_inv {s : State} (n : Nat) (o : SyncObj) (h0 : s.Inv) :
    (State.setObj s n o).Inv := by
  unfold State.setObj
  dsimp only
  exact { h0 with objects := wf_sset h0.objects _ _ }

theorem State.putCycle_inv {s : State} (e : ObjCycle) (h0 : s.Inv) :
    (State.putCycle s e).Inv := by
  unfold State.putCycle
  try dsimp only
  repeat' (first
    | with_reducible assumption | with_reducible apply foldl_inv | with_reducible apply foldl_inv2
    | with_reducible apply foldl_inv1 | with_reducible apply foldl_canon | with_reducible apply State.setRegion_inv
    | with_reducible apply State.region_inv | split | exact fun h => h | exact fun h => wf_smapAllTo h _
    | exact fun h => wf_sfilter h _ | exact fun _ => rfl | intro _ _ _ | intro _ _ | intro _ | dsimp only
    | contradiction
    | with_reducible refine inv_mk ?_ rfl rfl rfl rfl rfl rfl rfl rfl rfl rfl rfl rfl rfl rfl rfl rfl
    | with_reducible refine canon_mk ?_ rfl rfl
    | with_reducible refine inv_mk_wf ?_ rfl rfl rfl ?_ ?_ ?_ ?_ ?_ ?_ rfl ?_ rfl rfl rfl rfl rfl
    | refine wf_smapAllTo ?_ _)

theorem State.typeError_inv {s : State} (h0 : s.Inv) :
    (State.typeError s).Inv := by
  unfold State.typeError
  try dsimp only
  repeat' (first
    | with_reducible assumption | with_reducible apply State.count_inv | with_reducible apply State.raise_inv
    | with_reducible apply foldl_inv | with_reducible apply foldl_inv2 | with_reducible apply foldl_inv1
    | with_reducible apply foldl_canon | with_reducible apply State.setRegion_inv
    | with_reducible apply State.region_inv | split | exact fun h => h | exact fun h => wf_smapAllTo h _
    | exact fun h => wf_sfilter h _ | exact fun _ => rfl | intro _ _ _ | intro _ _ | intro _ | dsimp only
    | contradiction
    | with_reducible refine inv_mk ?_ rfl rfl rfl rfl rfl rfl rfl rfl rfl rfl rfl rfl rfl rfl rfl rfl
    | with_reducible refine canon_mk ?_ rfl rfl
    | with_reducible refine inv_mk_wf ?_ rfl rfl rfl ?_ ?_ ?_ ?_ ?_ ?_ rfl ?_ rfl rfl rfl rfl rfl
    | refine wf_smapAllTo ?_ _)

theorem State.changeObjX_inv {s : State} (op : Nat) (n : Nat) (x : BitVec 64) (imm : Nat) (h0 : s.Inv) :
    (State.changeObjX s op n x imm).1.Inv := by
  unfold State.changeObjX
  try dsimp only
  repeat' (first
    | with_reducible assumption | with_reducible apply State.putCycle_inv | with_reducible apply State.setObj_inv
    | with_reducible apply State.count_inv | with_reducible apply State.typeError_inv
    | with_reducible apply foldl_inv | with_reducible apply foldl_inv2 | with_reducible apply foldl_inv1
    | with_reducible apply foldl_canon | with_reducible apply State.setRegion_inv
    | with_reducible apply State.region_inv | split | exact fun h => h | exact fun h => wf_smapAllTo h _
    | exact fun h => wf_sfilter h _ | exact fun _ => rfl | intro _ _ _ | intro _ _ | intro _ | dsimp only
    | contradiction
    | with_reducible refine inv_mk ?_ rfl rfl rfl rfl rfl rfl rfl rfl rfl rfl rfl rfl rfl rfl rfl rfl
    | with_reducible refine canon_mk ?_ rfl rfl
    | with_reducible refine inv_mk_wf ?_ rfl rfl rfl ?_ ?_ ?_ ?_ ?_ ?_ rfl ?_ rfl rfl rfl rfl rfl
    | refine wf_smapAllTo ?_ _)
theorem State.changeObjX_inv_eq {s : State} {op : Nat} {n : Nat} {x : BitVec 64} {imm : Nat} {zr} {zt : State}
    (e0 : (State.changeObjX s op n x imm) = (zt, zr)) (h0 : s.Inv) :
    zt.Inv := by
  have i := State.changeObjX_inv op n x imm h0
  rw [e0] at i
  exact i

theorem State.changeObj_inv {s : State} (op : Nat) (n : Nat) (x : BitVec 64) (imm : Nat) (h0 : s.Inv) :
    (State.changeObj s op n x imm).Inv := by
  unfold State.changeObj
  try dsimp only
  repeat' (first | with_reducible assumption | with_reducible apply State.changeObjX_inv)

theorem State.addObj_inv {s : State} (n : Nat) (v : Nat) (h0 : s.Inv) :
    (State.addObj s n v).Inv := by
  unfold State.addObj
  try dsimp only
  repeat' (first | with_reducible assumption | with_reducible apply State.changeObj_inv)

theorem State.remoteDone_inv {s : State} (opid : Nat) (dst : Nat) (obj : Nat) (op : Nat) (status : Nat)
    (segment : Nat) (h0 : s.Inv) :
    (State.remoteDone s opid dst obj op status segment).Inv := by
  unfold State.remoteDone
  split
  · exact h0
  · have h1 : (s.raise SYN_EVT.REMOTE_FAIL).Inv := State.raise_inv _ h0
    dsimp only
    generalize s.raise SYN_EVT.REMOTE_FAIL = a at h1 ⊢
    have h2 : (if a.flag SYN_CTRL.FAIL_EN = true then a.addObj (a.fld SYN_CTRL.FAIL_OBJ) 1 else a).Inv := by
      split
      · exact State.addObj_inv _ _ h1
      · exact h1
    generalize (if a.flag SYN_CTRL.FAIL_EN = true then a.addObj (a.fld SYN_CTRL.FAIL_OBJ) 1 else a) = b at h2 ⊢
    split
    · exact State.raise_inv _ (State.count_inv _ _ h2)
    · refine { h2 with failures := ?_ }
      simp only [List.length_append, List.length_singleton]; omega

theorem State.takeOpid_inv {s : State} (h0 : s.Inv) :
    (State.takeOpid s).2.Inv := by
  unfold State.takeOpid
  try dsimp only
  repeat' (first
    | with_reducible assumption | with_reducible apply foldl_inv | with_reducible apply foldl_inv2
    | with_reducible apply foldl_inv1 | with_reducible apply foldl_canon | with_reducible apply State.setRegion_inv
    | with_reducible apply State.region_inv | split | exact fun h => h | exact fun h => wf_smapAllTo h _
    | exact fun h => wf_sfilter h _ | exact fun _ => rfl | intro _ _ _ | intro _ _ | intro _ | dsimp only
    | contradiction
    | with_reducible refine inv_mk ?_ rfl rfl rfl rfl rfl rfl rfl rfl rfl rfl rfl rfl rfl rfl rfl rfl)
theorem State.takeOpid_inv_eq {s : State} {zr} {zt : State} (e0 : (State.takeOpid s) = (zr, zt)) (h0 : s.Inv) :
    zt.Inv := by
  have i := State.takeOpid_inv h0
  rw [e0] at i
  exact i

theorem State.filterCheck_inv {s : State} (src : Nat) (opid : Nat) (h0 : s.Inv) :
    (State.filterCheck s src opid).2.Inv := by
  unfold State.filterCheck
  try dsimp only
  repeat' (first
    | with_reducible assumption | with_reducible apply State.count_inv | with_reducible apply foldl_inv
    | with_reducible apply foldl_inv2 | with_reducible apply foldl_inv1 | with_reducible apply foldl_canon
    | with_reducible apply State.setRegion_inv | with_reducible apply State.region_inv | split | exact fun h => h
    | exact fun h => wf_smapAllTo h _ | exact fun h => wf_sfilter h _ | exact fun _ => rfl | intro _ _ _ | intro _ _
    | intro _ | dsimp only | contradiction
    | with_reducible refine inv_mk ?_ rfl rfl rfl rfl rfl rfl rfl rfl rfl rfl rfl rfl rfl rfl rfl rfl)
theorem State.filterCheck_inv_eq {s : State} {src : Nat} {opid : Nat} {zr} {zt : State}
    (e0 : (State.filterCheck s src opid) = (zr, zt)) (h0 : s.Inv) :
    zt.Inv := by
  have i := State.filterCheck_inv src opid h0
  rw [e0] at i
  exact i

theorem State.filterRecord_inv {s : State} (src : Nat) (opid : Nat) (status : Nat) (h0 : s.Inv) :
    (State.filterRecord s src opid status).Inv := by
  unfold State.filterRecord
  try dsimp only
  repeat' (first
    | with_reducible assumption | with_reducible apply foldl_inv | with_reducible apply foldl_inv2
    | with_reducible apply foldl_inv1 | with_reducible apply foldl_canon | with_reducible apply State.setRegion_inv
    | with_reducible apply State.region_inv | split | exact fun h => h | exact fun h => wf_smapAllTo h _
    | exact fun h => wf_sfilter h _ | exact fun _ => rfl | intro _ _ _ | intro _ _ | intro _ | dsimp only
    | contradiction
    | with_reducible refine inv_mk ?_ rfl rfl rfl rfl rfl rfl rfl rfl rfl rfl rfl rfl rfl rfl rfl rfl)

theorem State.sendRequest_inv {s : State} (lo : Nat) (n : Nat) (who : ReqWho) (dst : Nat) (op : Nat) (lines : Nat)
    (addr : Nat) (operands : List Byte) (data : List (Bool × List Byte)) (h0 : s.Inv) :
    OptInv (State.sendRequest s lo n who dst op lines addr operands data) := by
  unfold State.sendRequest
  try dsimp only
  repeat' (first
    | with_reducible assumption | with_reducible apply State.takeOpid_inv
    | refine State.takeOpid_inv_eq (by assumption) ?_ | with_reducible apply State.sendMessage_inv
    | with_reducible apply foldl_inv | with_reducible apply foldl_inv2 | with_reducible apply foldl_inv1
    | with_reducible apply foldl_canon | with_reducible apply State.setRegion_inv
    | with_reducible apply State.region_inv | with_reducible apply optInv_none | with_reducible apply optInv_some
    | with_reducible apply optInv2_none | with_reducible apply optInv2_some | with_reducible apply optInv2_some'
    | with_reducible apply optInv1_none | with_reducible apply optInv1_some | split | exact fun h => h
    | exact fun h => wf_smapAllTo h _ | exact fun h => wf_sfilter h _ | exact fun _ => rfl | intro _ _ _ | intro _ _
    | intro _ | dsimp only | contradiction
    | with_reducible refine inv_mk ?_ rfl rfl rfl rfl rfl rfl rfl rfl rfl rfl rfl rfl rfl rfl rfl rfl)
theorem State.sendRequest_inv_eq {s : State} {lo : Nat} {n : Nat} {who : ReqWho} {dst : Nat} {op : Nat} {lines : Nat}
    {addr : Nat} {operands : List Byte} {data : List (Bool × List Byte)} {zt : State}
    (e0 : (State.sendRequest s lo n who dst op lines addr operands data) = some zt) (h0 : s.Inv) :
    zt.Inv := State.sendRequest_inv lo n who dst op lines addr operands data h0 _ e0

theorem State.resend_inv {s : State} (n : Nat) (h0 : s.Inv) :
    (State.resend s n).Inv := by
  unfold State.resend
  try dsimp only
  repeat' (first
    | with_reducible assumption | with_reducible apply State.sendMessage_inv | with_reducible apply foldl_inv
    | with_reducible apply foldl_inv2 | with_reducible apply foldl_inv1 | with_reducible apply foldl_canon
    | with_reducible apply State.setRegion_inv | with_reducible apply State.region_inv | split | exact fun h => h
    | exact fun h => wf_smapAllTo h _ | exact fun h => wf_sfilter h _ | exact fun _ => rfl | intro _ _ _ | intro _ _
    | intro _ | dsimp only | contradiction
    | with_reducible refine inv_mk ?_ rfl rfl rfl rfl rfl rfl rfl rfl rfl rfl rfl rfl rfl rfl rfl rfl)

theorem State.restartReq_inv {s : State} (n : Nat) (h0 : s.Inv) :
    (State.restartReq s n).Inv := by
  unfold State.restartReq
  try dsimp only
  repeat' (first
    | with_reducible assumption | with_reducible apply foldl_inv | with_reducible apply foldl_inv2
    | with_reducible apply foldl_inv1 | with_reducible apply foldl_canon | with_reducible apply State.setRegion_inv
    | with_reducible apply State.region_inv | split | exact fun h => h | exact fun h => wf_smapAllTo h _
    | exact fun h => wf_sfilter h _ | exact fun _ => rfl | intro _ _ _ | intro _ _ | intro _ | dsimp only
    | contradiction
    | with_reducible refine inv_mk ?_ rfl rfl rfl rfl rfl rfl rfl rfl rfl rfl rfl rfl rfl rfl rfl rfl)

theorem State.closeReq_inv {s : State} (n : Nat) (h0 : s.Inv) :
    (State.closeReq s n).Inv := by
  unfold State.closeReq
  try dsimp only
  repeat' (first
    | with_reducible assumption | with_reducible apply foldl_inv | with_reducible apply foldl_inv2
    | with_reducible apply foldl_inv1 | with_reducible apply foldl_canon | with_reducible apply State.setRegion_inv
    | with_reducible apply State.region_inv | split | exact fun h => h | exact fun h => wf_smapAllTo h _
    | exact fun h => wf_sfilter h _ | exact fun _ => rfl | intro _ _ _ | intro _ _ | intro _ | dsimp only
    | contradiction
    | with_reducible refine inv_mk ?_ rfl rfl rfl rfl rfl rfl rfl rfl rfl rfl rfl rfl rfl rfl rfl rfl)

theorem State.sendSync_inv {s : State} (dst : Nat) (op : Nat) (obj : Nat) (x : BitVec 64) (imm : Nat) (segment : Nat)
    (h0 : s.Inv) :
    (State.sendSync s dst op obj x imm segment).Inv := by
  unfold State.sendSync
  try dsimp only
  repeat' (first
    | with_reducible assumption | with_reducible apply State.remoteDone_inv
    | with_reducible apply State.sendRequest_inv | refine State.sendRequest_inv_eq (by assumption) ?_
    | with_reducible apply foldl_inv | with_reducible apply foldl_inv2 | with_reducible apply foldl_inv1
    | with_reducible apply foldl_canon | with_reducible apply State.setRegion_inv
    | with_reducible apply State.region_inv | split)

theorem State.sramPut_inv {s : State} (a : Nat) (b : List Byte) (h0 : s.Inv) :
    (State.sramPut s a b).Inv := by
  unfold State.sramPut
  exact { h0 with sram := wf_swrite h0.sram _ _ }

theorem State.ringDoorbell_inv {s : State} (mb : Nat) (src : Nat) (seq : Nat) (h0 : s.Inv) :
    (State.ringDoorbell s mb src seq).2.Inv := by
  unfold State.ringDoorbell
  try dsimp only
  repeat' (first
    | with_reducible assumption | with_reducible apply State.setBox_inv | with_reducible apply foldl_inv
    | with_reducible apply foldl_inv2 | with_reducible apply foldl_inv1 | with_reducible apply foldl_canon
    | with_reducible apply State.setRegion_inv | with_reducible apply State.region_inv | split | exact fun h => h
    | exact fun h => wf_smapAllTo h _ | exact fun h => wf_sfilter h _ | exact fun _ => rfl | intro _ _ _ | intro _ _
    | intro _ | dsimp only | contradiction
    | with_reducible refine inv_mk ?_ rfl rfl rfl rfl rfl rfl rfl rfl rfl rfl rfl rfl rfl rfl rfl rfl)
theorem State.ringDoorbell_inv_eq {s : State} {mb : Nat} {src : Nat} {seq : Nat} {zr} {zt : State}
    (e0 : (State.ringDoorbell s mb src seq) = (zr, zt)) (h0 : s.Inv) :
    zt.Inv := by
  have i := State.ringDoorbell_inv mb src seq h0
  rw [e0] at i
  exact i

theorem State.finish_inv {s : State} (mb : Nat) (status : Nat) (detail : Nat) (body : List Byte) (h0 : s.Inv) :
    (State.finish s mb status detail body).Inv := by
  unfold State.finish
  try dsimp only
  repeat' (first
    | with_reducible assumption | with_reducible apply State.sramPut_inv | with_reducible apply State.setBox_inv
    | with_reducible apply State.sendAddressed_inv | with_reducible apply State.emit_inv
    | with_reducible apply foldl_inv | with_reducible apply foldl_inv2 | with_reducible apply foldl_inv1
    | with_reducible apply foldl_canon | with_reducible apply State.setRegion_inv
    | with_reducible apply State.region_inv | split | exact fun h => h | exact fun h => wf_smapAllTo h _
    | exact fun h => wf_sfilter h _ | exact fun _ => rfl | intro _ _ _ | intro _ _ | intro _ | dsimp only
    | contradiction
    | with_reducible refine inv_mk ?_ rfl rfl rfl rfl rfl rfl rfl rfl rfl rfl rfl rfl rfl rfl rfl rfl)

theorem State.answer_inv {s : State} (mb : Nat) (status : Nat) (body : List Byte) (detail : Nat) (h0 : s.Inv) :
    (State.answer s mb status body detail).Inv := by
  unfold State.answer
  try dsimp only
  repeat' (first
    | with_reducible assumption | with_reducible apply State.finish_inv | with_reducible apply State.emit_inv
    | with_reducible apply foldl_inv | with_reducible apply foldl_inv2 | with_reducible apply foldl_inv1
    | with_reducible apply foldl_canon | with_reducible apply State.setRegion_inv
    | with_reducible apply State.region_inv | split)

theorem State.endRehearsal_inv {s : State} (r : Rehearsal) (status : Nat) (h0 : s.Inv) :
    (State.endRehearsal s r status).Inv := by
  unfold State.endRehearsal
  try dsimp only
  repeat' (first
    | with_reducible assumption | with_reducible apply State.answer_inv | with_reducible apply State.put_inv
    | with_reducible apply foldl_inv | with_reducible apply foldl_inv2 | with_reducible apply foldl_inv1
    | with_reducible apply foldl_canon | with_reducible apply State.setRegion_inv
    | with_reducible apply State.region_inv | split | exact fun h => h | exact fun h => wf_smapAllTo h _
    | exact fun h => wf_sfilter h _ | exact fun _ => rfl | intro _ _ _ | intro _ _ | intro _ | dsimp only
    | contradiction
    | with_reducible refine inv_mk ?_ rfl rfl rfl rfl rfl rfl rfl rfl rfl rfl rfl rfl rfl rfl rfl rfl)

theorem State.rehearsalUp_inv {s : State} (p : Nat) (h0 : s.Inv) :
    (State.rehearsalUp s p).Inv := by
  unfold State.rehearsalUp
  try dsimp only
  repeat' (first
    | with_reducible assumption | with_reducible apply State.endRehearsal_inv | with_reducible apply foldl_inv
    | with_reducible apply foldl_inv2 | with_reducible apply foldl_inv1 | with_reducible apply foldl_canon
    | with_reducible apply State.setRegion_inv | with_reducible apply State.region_inv | split)

theorem State.withMail_inv {s : State} (mb : Nat) (code : Nat) {f : List Byte → State → State} (h0 : s.Inv)
    (hf1 : ∀ u0 u1, u1.Inv → (f u0 u1).Inv) :
    (State.withMail s mb code f).Inv := by
  unfold State.withMail
  try dsimp only
  repeat' (first
    | with_reducible assumption | with_reducible apply State.finish_inv | with_reducible apply State.setBox_inv
    | with_reducible apply foldl_inv | with_reducible apply foldl_inv2 | with_reducible apply foldl_inv1
    | with_reducible apply foldl_canon | with_reducible apply State.setRegion_inv
    | with_reducible apply State.region_inv | with_reducible apply hf1 | split)

theorem State.takeMail_inv {s : State} (h0 : s.Inv) :
    (State.takeMail s).Inv := by
  unfold State.takeMail
  try dsimp only
  repeat' (first
    | with_reducible assumption | with_reducible apply State.setBox_inv | with_reducible apply State.sramPut_inv
    | with_reducible apply State.finish_inv | with_reducible apply foldl_inv | with_reducible apply foldl_inv2
    | with_reducible apply foldl_inv1 | with_reducible apply foldl_canon | with_reducible apply State.setRegion_inv
    | with_reducible apply State.region_inv | split)

theorem State.weightRegs_inv {s : State} (h0 : s.Inv) :
    (State.weightRegs s).Inv := by
  unfold State.weightRegs
  try dsimp only
  repeat' (first | with_reducible assumption | with_reducible apply State.put_inv)

theorem State.recoverWeights_inv {s : State} (h0 : s.Inv) :
    (State.recoverWeights s).Inv := by
  unfold State.recoverWeights
  try dsimp only
  repeat' (first
    | with_reducible assumption | with_reducible apply State.weightRegs_inv | with_reducible apply State.put_inv
    | with_reducible apply foldl_inv | with_reducible apply foldl_inv2 | with_reducible apply foldl_inv1
    | with_reducible apply foldl_canon | with_reducible apply State.setRegion_inv
    | with_reducible apply State.region_inv | split | exact fun h => h | exact fun h => wf_smapAllTo h _
    | exact fun h => wf_sfilter h _ | exact fun _ => rfl | intro _ _ _ | intro _ _ | intro _ | dsimp only
    | contradiction
    | with_reducible refine inv_mk ?_ rfl rfl rfl rfl rfl rfl rfl rfl rfl rfl rfl rfl rfl rfl rfl rfl
    | with_reducible refine canon_mk ?_ rfl rfl
    | with_reducible refine inv_mk_wf ?_ rfl rfl rfl ?_ ?_ ?_ ?_ ?_ ?_ rfl ?_ rfl rfl rfl rfl rfl
    | refine wf_smapAllTo ?_ _)

theorem State.setWeightOp_inv {s : State} (o : Option WeightOp) (h0 : s.Inv) :
    (State.setWeightOp s o).Inv := by
  unfold State.setWeightOp
  try dsimp only
  repeat' (first
    | with_reducible assumption | with_reducible apply State.weightRegs_inv | with_reducible apply foldl_inv
    | with_reducible apply foldl_inv2 | with_reducible apply foldl_inv1 | with_reducible apply foldl_canon
    | with_reducible apply State.setRegion_inv | with_reducible apply State.region_inv | split | exact fun h => h
    | exact fun h => wf_smapAllTo h _ | exact fun h => wf_sfilter h _ | exact fun _ => rfl | intro _ _ _ | intro _ _
    | intro _ | dsimp only | contradiction
    | with_reducible refine inv_mk ?_ rfl rfl rfl rfl rfl rfl rfl rfl rfl rfl rfl rfl rfl rfl rfl rfl)

theorem State.issueWeight_inv {s : State} (h0 : s.Inv) :
    OptInv (State.issueWeight s) := by
  unfold State.issueWeight
  split
  · exact optInv_none
  · split
    · exact optInv_none
    · split
      · exact optInv_none
      · split
        · exact optInv_none
        · extract_lets m
          split
          · exact optInv_none
          · rename_i t e
            extract_lets q
            have i := State.sendRequest_inv_eq e h0
            exact optInv_some { i with }
theorem State.issueWeight_inv_eq {s : State} {zt : State} (e0 : (State.issueWeight s) = some zt) (h0 : s.Inv) :
    zt.Inv := State.issueWeight_inv h0 _ e0

theorem State.pumpWeights_inv (x0 : Nat) {x1 : State} (h0 : x1.Inv) :
    (State.pumpWeights x0 x1).Inv := by
  induction x0 generalizing x1 with
  | zero =>
    unfold State.pumpWeights
    try dsimp only
    repeat' (first | with_reducible assumption)
  | succ n ih =>
    unfold State.pumpWeights
    try dsimp only
    repeat' (first
      | with_reducible assumption | with_reducible apply ih | with_reducible apply State.issueWeight_inv
      | refine State.issueWeight_inv_eq (by assumption) ?_ | with_reducible apply foldl_inv
      | with_reducible apply foldl_inv2 | with_reducible apply foldl_inv1 | with_reducible apply foldl_canon
      | with_reducible apply State.setRegion_inv | with_reducible apply State.region_inv | split)

theorem State.feedWeights_inv {s : State} (h0 : s.Inv) :
    (State.feedWeights s).Inv := by
  unfold State.feedWeights
  try dsimp only
  repeat' (first | with_reducible assumption | with_reducible apply State.pumpWeights_inv)

theorem State.weightLine_inv {s : State} (i : Nat) (n : Nat) (d : Option (List Byte)) (h0 : s.Inv) :
    (State.weightLine s i n d).Inv := by
  unfold State.weightLine
  try dsimp only
  repeat' (first
    | with_reducible assumption | with_reducible apply State.vaWrite_inv
    | refine State.vaWrite_inv_eq (by assumption) ?_ | with_reducible apply State.count_inv
    | with_reducible apply State.recordFault_inv | with_reducible apply foldl_inv | with_reducible apply foldl_inv2
    | with_reducible apply foldl_inv1 | with_reducible apply foldl_canon | with_reducible apply State.setRegion_inv
    | with_reducible apply State.region_inv | split | exact fun h => h | exact fun h => wf_smapAllTo h _
    | exact fun h => wf_sfilter h _ | exact fun _ => rfl | intro _ _ _ | intro _ _ | intro _ | dsimp only
    | contradiction
    | with_reducible refine inv_mk ?_ rfl rfl rfl rfl rfl rfl rfl rfl rfl rfl rfl rfl rfl rfl rfl rfl)

theorem State.weightLines_inv {s : State} (i : Nat) (n : Nat) (count : Nat) (lines : Option (List (Bool × List Byte)))
    (h0 : s.Inv) :
    (State.weightLines s i n count lines).Inv := by
  unfold State.weightLines
  try dsimp only
  repeat' (first
    | with_reducible assumption | with_reducible apply State.weightLine_inv | with_reducible apply foldl_inv
    | with_reducible apply foldl_inv2 | with_reducible apply foldl_inv1 | with_reducible apply foldl_canon
    | with_reducible apply State.setRegion_inv | with_reducible apply State.region_inv | split | exact fun h => h
    | exact fun h => wf_smapAllTo h _ | exact fun h => wf_sfilter h _ | exact fun _ => rfl | intro _ _ _)

theorem State.dropWeightEntries_inv {s : State} (h0 : s.Inv) :
    (State.dropWeightEntries s).Inv := by
  unfold State.dropWeightEntries
  try dsimp only
  repeat' (first
    | with_reducible assumption | with_reducible apply foldl_inv | with_reducible apply foldl_inv2
    | with_reducible apply foldl_inv1 | with_reducible apply foldl_canon | with_reducible apply State.setRegion_inv
    | with_reducible apply State.region_inv | split | exact fun h => h | exact fun h => wf_smapAllTo h _
    | exact fun h => wf_sfilter h _ | exact fun _ => rfl | intro _ _ _ | intro _ _ | intro _ | dsimp only
    | contradiction
    | with_reducible refine inv_mk ?_ rfl rfl rfl rfl rfl rfl rfl rfl rfl rfl rfl rfl rfl rfl rfl rfl)

theorem State.endWeights_inv {s : State} (status : Nat) (record : Nat) (h0 : s.Inv) :
    (State.endWeights s status record).Inv := by
  unfold State.endWeights
  try dsimp only
  repeat' (first
    | with_reducible assumption | with_reducible apply State.setWeightOp_inv
    | with_reducible apply State.dropWeightEntries_inv | with_reducible apply State.answer_inv
    | with_reducible apply foldl_inv | with_reducible apply foldl_inv2 | with_reducible apply foldl_inv1
    | with_reducible apply foldl_canon | with_reducible apply State.setRegion_inv
    | with_reducible apply State.region_inv | split)

theorem State.recordVersions_inv {s : State} (layers : List Nat) (v : Nat) (h0 : s.Inv) :
    (State.recordVersions s layers v).Inv := by
  unfold State.recordVersions
  try dsimp only
  repeat' (first
    | with_reducible assumption | with_reducible apply foldl_inv | with_reducible apply foldl_inv2
    | with_reducible apply foldl_inv1 | with_reducible apply foldl_canon | with_reducible apply State.setRegion_inv
    | with_reducible apply State.region_inv | split | exact fun h => h | exact fun h => wf_smapAllTo h _
    | exact fun h => wf_sfilter h _ | exact fun _ => rfl | intro _ _ _ | intro _ _ | intro _ | dsimp only
    | contradiction
    | with_reducible refine inv_mk ?_ rfl rfl rfl rfl rfl rfl rfl rfl rfl rfl rfl rfl rfl rfl rfl rfl)

theorem State.fetchDone_inv {s : State} (o : WeightOp) (h0 : s.Inv) :
    (State.fetchDone s o).Inv := by
  unfold State.fetchDone
  try dsimp only
  repeat' (first
    | with_reducible assumption | with_reducible apply State.endWeights_inv
    | with_reducible apply State.recordVersions_inv | with_reducible apply State.put_inv
    | with_reducible apply foldl_inv | with_reducible apply foldl_inv2 | with_reducible apply foldl_inv1
    | with_reducible apply foldl_canon | with_reducible apply State.setRegion_inv
    | with_reducible apply State.region_inv | split | exact fun h => h | exact fun h => wf_smapAllTo h _
    | exact fun h => wf_sfilter h _ | exact fun _ => rfl | intro _ _ _ | intro _ _ | intro _ | dsimp only
    | contradiction
    | with_reducible refine inv_mk ?_ rfl rfl rfl rfl rfl rfl rfl rfl rfl rfl rfl rfl rfl rfl rfl rfl)

theorem State.chunkFailed_inv {s : State} (o : WeightOp) (i : Nat) (h0 : s.Inv) :
    (State.chunkFailed s o i).Inv := by
  unfold State.chunkFailed
  try dsimp only
  repeat' (first
    | with_reducible assumption | with_reducible apply State.endWeights_inv
    | with_reducible apply State.recordVersions_inv | with_reducible apply State.feedWeights_inv
    | with_reducible apply State.count_inv | with_reducible apply foldl_inv | with_reducible apply foldl_inv2
    | with_reducible apply foldl_inv1 | with_reducible apply foldl_canon | with_reducible apply State.setRegion_inv
    | with_reducible apply State.region_inv | split | exact fun h => h | exact fun h => wf_smapAllTo h _
    | exact fun h => wf_sfilter h _ | exact fun _ => rfl | intro _ _ _ | intro _ _ | intro _ | dsimp only
    | contradiction
    | with_reducible refine inv_mk ?_ rfl rfl rfl rfl rfl rfl rfl rfl rfl rfl rfl rfl rfl rfl rfl rfl)

theorem State.readStage_inv {s : State} (o : WeightOp) (l : Nat) (h0 : s.Inv) :
    (State.readStage s o l).Inv := by
  unfold State.readStage
  try dsimp only
  repeat' (first
    | with_reducible assumption | with_reducible apply State.noteReads_inv | with_reducible apply foldl_inv
    | with_reducible apply foldl_inv2 | with_reducible apply foldl_inv1 | with_reducible apply foldl_canon
    | with_reducible apply State.setRegion_inv | with_reducible apply State.region_inv | split | exact fun h => h
    | exact fun h => wf_smapAllTo h _ | exact fun h => wf_sfilter h _ | exact fun _ => rfl | intro _ _ _ | intro _ _
    | intro _ | dsimp only | contradiction
    | with_reducible refine inv_mk ?_ rfl rfl rfl rfl rfl rfl rfl rfl rfl rfl rfl rfl rfl rfl rfl rfl
    | with_reducible refine canon_mk ?_ rfl rfl
    | with_reducible refine inv_mk_wf ?_ rfl rfl rfl ?_ ?_ ?_ ?_ ?_ ?_ rfl ?_ rfl rfl rfl rfl rfl
    | refine wf_smapAllTo ?_ _)

theorem State.stageFailed_inv {s : State} (r : MemReq) (h0 : s.Inv) :
    (State.stageFailed s r).Inv := by
  unfold State.stageFailed
  try dsimp only
  repeat' (first
    | with_reducible assumption | with_reducible apply foldl_inv | with_reducible apply foldl_inv2
    | with_reducible apply foldl_inv1 | with_reducible apply foldl_canon | with_reducible apply State.setRegion_inv
    | with_reducible apply State.region_inv | split | exact fun h => h | exact fun h => wf_smapAllTo h _
    | exact fun h => wf_sfilter h _ | exact fun _ => rfl | intro _ _ _ | intro _ _ | intro _ | dsimp only
    | contradiction
    | with_reducible refine inv_mk ?_ rfl rfl rfl rfl rfl rfl rfl rfl rfl rfl rfl rfl rfl rfl rfl rfl
    | with_reducible refine canon_mk ?_ rfl rfl
    | with_reducible refine inv_mk_wf ?_ rfl rfl rfl ?_ ?_ ?_ ?_ ?_ ?_ rfl ?_ rfl rfl rfl rfl rfl
    | refine wf_smapAllTo ?_ _)

theorem State.setValue_inv {s : State} (n : Nat) (v : Nat) (h0 : s.Inv) :
    (State.setValue s n v).Inv := by
  unfold State.setValue
  try dsimp only
  repeat' (first
    | with_reducible assumption | with_reducible apply State.putCycle_inv | with_reducible apply State.setObj_inv
    | with_reducible apply foldl_inv | with_reducible apply foldl_inv2 | with_reducible apply foldl_inv1
    | with_reducible apply foldl_canon | with_reducible apply State.setRegion_inv
    | with_reducible apply State.region_inv | split | exact fun h => h | exact fun h => wf_smapAllTo h _
    | exact fun h => wf_sfilter h _ | exact fun _ => rfl | intro _ _ _ | intro _ _ | intro _ | dsimp only
    | contradiction
    | with_reducible refine inv_mk ?_ rfl rfl rfl rfl rfl rfl rfl rfl rfl rfl rfl rfl rfl rfl rfl rfl
    | with_reducible refine canon_mk ?_ rfl rfl
    | with_reducible refine inv_mk_wf ?_ rfl rfl rfl ?_ ?_ ?_ ?_ ?_ ?_ rfl ?_ rfl rfl rfl rfl rfl
    | refine wf_smapAllTo ?_ _)

theorem State.gatePassed_inv {s : State} (n : Nat) (segment : Nat) (h0 : s.Inv) :
    (State.gatePassed s n segment).Inv := by
  unfold State.gatePassed
  try dsimp only
  repeat' (first
    | with_reducible assumption | with_reducible apply State.setValue_inv | with_reducible apply foldl_inv
    | with_reducible apply foldl_inv2 | with_reducible apply foldl_inv1 | with_reducible apply foldl_canon
    | with_reducible apply State.setRegion_inv | with_reducible apply State.region_inv | split | exact fun h => h
    | exact fun h => wf_smapAllTo h _ | exact fun h => wf_sfilter h _ | exact fun _ => rfl | intro _ _ _ | intro _ _
    | intro _ | dsimp only | contradiction
    | with_reducible refine inv_mk ?_ rfl rfl rfl rfl rfl rfl rfl rfl rfl rfl rfl rfl rfl rfl rfl rfl)

theorem State.copyChunk_inv {s : State} (o : WeightOp) (c : Chunk) (h0 : s.Inv) :
    (State.copyChunk s o c).2.Inv := by
  unfold State.copyChunk
  try dsimp only
  repeat' (first
    | with_reducible assumption | with_reducible apply State.vaRead_inv
    | refine State.vaRead_inv_eq (by assumption) ?_ | with_reducible apply State.recordFault_inv
    | with_reducible apply State.noteAccess_inv | with_reducible apply State.count_inv
    | with_reducible apply State.vaWrite_inv | refine State.vaWrite_inv_eq (by assumption) ?_
    | with_reducible apply foldl_inv | with_reducible apply foldl_inv2 | with_reducible apply foldl_inv1
    | with_reducible apply foldl_canon | with_reducible apply State.setRegion_inv
    | with_reducible apply State.region_inv | split)
theorem State.copyChunk_inv_eq {s : State} {o : WeightOp} {c : Chunk} {zr} {zt : State}
    (e0 : (State.copyChunk s o c) = (zr, zt)) (h0 : s.Inv) :
    zt.Inv := by
  have i := State.copyChunk_inv o c h0
  rw [e0] at i
  exact i

theorem State.swapDone_inv {s : State} (o : WeightOp) (h0 : s.Inv) :
    (State.swapDone s o).Inv := by
  unfold State.swapDone
  try dsimp only
  repeat' (first
    | with_reducible assumption | with_reducible apply State.endWeights_inv | with_reducible apply State.put_inv
    | with_reducible apply foldl_inv | with_reducible apply foldl_inv2 | with_reducible apply foldl_inv1
    | with_reducible apply foldl_canon | with_reducible apply State.setRegion_inv
    | with_reducible apply State.region_inv | split | exact fun h => h | exact fun h => wf_smapAllTo h _
    | exact fun h => wf_sfilter h _ | exact fun _ => rfl | intro _ _ _ | intro _ _ | intro _ | dsimp only
    | contradiction
    | with_reducible refine inv_mk ?_ rfl rfl rfl rfl rfl rfl rfl rfl rfl rfl rfl rfl rfl rfl rfl rfl)

theorem State.layerDone_inv {s : State} (o : WeightOp) (h0 : s.Inv) :
    (State.layerDone s o).Inv := by
  unfold State.layerDone
  try dsimp only
  repeat' (first
    | with_reducible assumption | with_reducible apply State.recordVersions_inv
    | with_reducible apply State.raise_inv | with_reducible apply State.setValue_inv
    | with_reducible apply State.swapDone_inv | with_reducible apply State.setWeightOp_inv
    | with_reducible apply foldl_inv | with_reducible apply foldl_inv2 | with_reducible apply foldl_inv1
    | with_reducible apply foldl_canon | with_reducible apply State.setRegion_inv
    | with_reducible apply State.region_inv | split | exact fun h => h | exact fun h => wf_smapAllTo h _
    | exact fun h => wf_sfilter h _ | exact fun _ => rfl | intro _ _ _ | intro _ _ | intro _ | dsimp only
    | contradiction
    | with_reducible refine inv_mk ?_ rfl rfl rfl rfl rfl rfl rfl rfl rfl rfl rfl rfl rfl rfl rfl rfl)

theorem State.fenceWeights_inv {s : State} (h0 : s.Inv) :
    (State.fenceWeights s).Inv := by
  unfold State.fenceWeights
  try dsimp only
  repeat' (first | with_reducible assumption | with_reducible apply State.endWeights_inv)

theorem State.pushFault_inv {s : State} (r : List Reg32) (h0 : s.Inv) :
    (State.pushFault s r).Inv := by
  unfold State.pushFault
  split
  · exact State.raise_inv _ (State.count_inv _ _ h0)
  · refine { h0 with faultQ := ?_ }
    simp only [List.length_append, List.length_singleton]; omega

theorem State.setTransfer_inv {s : State} (k : Nat) (t : Transfer) (h0 : s.Inv) :
    (State.setTransfer s k t).Inv := by
  unfold State.setTransfer
  try dsimp only
  repeat' (first | with_reducible assumption | with_reducible apply State.setShuttle_inv)

theorem State.queueSpad_inv {s : State} (k : Nat) (t : Transfer) (rgn : Nat) (line : Nat) (who : Requester)
    (kind : UnschedKind) (h0 : s.Inv) :
    (State.queueSpad s k t rgn line who kind).Inv := by
  unfold State.queueSpad
  try dsimp only
  repeat' (first
    | with_reducible assumption | with_reducible apply foldl_inv | with_reducible apply foldl_inv2
    | with_reducible apply foldl_inv1 | with_reducible apply foldl_canon | with_reducible apply State.setRegion_inv
    | with_reducible apply State.region_inv | split | exact fun h => h | exact fun h => wf_smapAllTo h _
    | exact fun h => wf_sfilter h _ | exact fun _ => rfl | intro _ _ _ | intro _ _ | intro _ | dsimp only
    | contradiction
    | with_reducible refine inv_mk ?_ rfl rfl rfl rfl rfl rfl rfl rfl rfl rfl rfl rfl rfl rfl rfl rfl)

theorem State.dropAccesses_inv {s : State} (k : Nat) (serial : Nat) (h0 : s.Inv) :
    (State.dropAccesses s k serial).Inv := by
  unfold State.dropAccesses
  try dsimp only
  repeat' (first
    | with_reducible assumption | with_reducible apply foldl_inv | with_reducible apply foldl_inv2
    | with_reducible apply foldl_inv1 | with_reducible apply foldl_canon | with_reducible apply State.setRegion_inv
    | with_reducible apply State.region_inv | split | exact fun h => h | exact fun h => wf_smapAllTo h _
    | exact fun h => wf_sfilter h _ | exact fun _ => rfl | intro _ _ _ | intro _ _ | intro _ | dsimp only
    | contradiction
    | with_reducible refine inv_mk ?_ rfl rfl rfl rfl rfl rfl rfl rfl rfl rfl rfl rfl rfl rfl rfl rfl
    | with_reducible refine canon_mk ?_ rfl rfl
    | with_reducible refine inv_mk_wf ?_ rfl rfl rfl ?_ ?_ ?_ ?_ ?_ ?_ rfl ?_ rfl rfl rfl rfl rfl
    | refine wf_smapAllTo ?_ _)

theorem State.tookPort_inv {s : State} (rgn bank : Nat) (write own : Bool) (h0 : s.Inv) :
    (State.tookPort s rgn bank write own).Inv := by
  unfold State.tookPort
  exact State.setRegion_inv _ h0 (canon_mk (State.region_inv h0) rfl rfl)

theorem State.readIndex_inv {s : State} (k : Nat) (t : Transfer) (d : Desc) (last : Option (Nat × Nat)) (i : Nat)
    (h0 : s.Inv) : (State.readIndex s k t d last i).2.Inv := by
  unfold State.readIndex
  dsimp only
  split
  · exact h0
  · exact State.spadCheck_inv _ _ _ (State.tookPort_inv _ _ _ _ h0)

theorem State.endTransfer_inv {s : State} (k : Nat) (t : Transfer) (aborted : Bool) (h0 : s.Inv) :
    (State.endTransfer s k t aborted).Inv := by
  unfold State.endTransfer
  try dsimp only
  repeat' (first
    | with_reducible assumption | with_reducible apply State.dropAccesses_inv
    | with_reducible apply State.setTransfer_inv | with_reducible apply State.queueSpad_inv
    | with_reducible apply foldl_inv | with_reducible apply foldl_inv2 | with_reducible apply foldl_inv1
    | with_reducible apply foldl_canon | with_reducible apply State.setRegion_inv
    | with_reducible apply State.region_inv | split | exact fun h => h | exact fun h => wf_smapAllTo h _
    | exact fun h => wf_sfilter h _ | exact fun _ => rfl | intro _ _ _)

theorem State.recordAbort_inv {s : State} (r : List Reg32) (h0 : s.Inv) :
    (State.recordAbort s r).Inv := by
  unfold State.recordAbort
  try dsimp only
  repeat' (first
    | with_reducible assumption | with_reducible apply State.raise_inv | with_reducible apply State.pushFault_inv
    | with_reducible apply foldl_inv | with_reducible apply foldl_inv2 | with_reducible apply foldl_inv1
    | with_reducible apply foldl_canon | with_reducible apply State.setRegion_inv
    | with_reducible apply State.region_inv | split | exact fun h => h | exact fun h => wf_smapAllTo h _
    | exact fun h => wf_sfilter h _ | exact fun _ => rfl | intro _ _ _ | intro _ _ | intro _ | dsimp only
    | contradiction
    | with_reducible refine inv_mk ?_ rfl rfl rfl rfl rfl rfl rfl rfl rfl rfl rfl rfl rfl rfl rfl rfl)

theorem State.abort_inv {s : State} (k : Nat) (t : Transfer) (addr : Nat) (element : Nat) (index : Nat) (cause : Nat)
    (status : Nat) (dest : Bool) (h0 : s.Inv) :
    (State.abort s k t addr element index cause status dest).Inv := by
  unfold State.abort
  try dsimp only
  repeat' (first
    | with_reducible assumption | with_reducible apply State.endTransfer_inv
    | with_reducible apply State.recordAbort_inv)

theorem State.recordOnce_inv {s : State} (k : Nat) (t : Transfer) (addr : Nat) (element : Nat) (index : Nat)
    (cause : Nat) (status : Nat) (dest : Bool) (h0 : s.Inv) :
    (State.recordOnce s k t addr element index cause status dest).2.Inv := by
  unfold State.recordOnce
  try dsimp only
  repeat' (first
    | with_reducible assumption | with_reducible apply State.pushFault_inv | with_reducible apply foldl_inv
    | with_reducible apply foldl_inv2 | with_reducible apply foldl_inv1 | with_reducible apply foldl_canon
    | with_reducible apply State.setRegion_inv | with_reducible apply State.region_inv | split)
theorem State.recordOnce_inv_eq {s : State} {k : Nat} {t : Transfer} {addr : Nat} {element : Nat} {index : Nat}
    {cause : Nat} {status : Nat} {dest : Bool} {zr} {zt : State}
    (e0 : (State.recordOnce s k t addr element index cause status dest) = (zr, zt)) (h0 : s.Inv) :
    zt.Inv := by
  have i := State.recordOnce_inv k t addr element index cause status dest h0
  rw [e0] at i
  exact i

theorem State.destFault_inv {s : State} (k : Nat) (serial : Nat) (n : Nat) (cause : Nat) (status : Nat) (h0 : s.Inv) :
    (State.destFault s k serial n cause status).Inv := by
  unfold State.destFault
  try dsimp only
  repeat' (first
    | with_reducible assumption | with_reducible apply State.recordOnce_inv
    | refine State.recordOnce_inv_eq (by assumption) ?_ | with_reducible apply State.setTransfer_inv
    | with_reducible apply State.abort_inv | with_reducible apply foldl_inv | with_reducible apply foldl_inv2
    | with_reducible apply foldl_inv1 | with_reducible apply foldl_canon | with_reducible apply State.setRegion_inv
    | with_reducible apply State.region_inv | split)

theorem State.lineArrives_inv {s : State} (k : Nat) (serial : Nat) (n : Nat) (d : LineData) (h0 : s.Inv) :
    (State.lineArrives s k serial n d).Inv := by
  unfold State.lineArrives
  try dsimp only
  repeat' (first
    | with_reducible assumption | with_reducible apply State.setShuttle_inv | with_reducible apply State.raise_inv
    | with_reducible apply State.setTransfer_inv | with_reducible apply foldl_inv | with_reducible apply foldl_inv2
    | with_reducible apply foldl_inv1 | with_reducible apply foldl_canon | with_reducible apply State.setRegion_inv
    | with_reducible apply State.region_inv | split)

theorem State.lineWritten_inv {s : State} (k : Nat) (serial : Nat) (n : Nat) (written : Bool) (h0 : s.Inv) :
    (State.lineWritten s k serial n written).Inv := by
  unfold State.lineWritten
  try dsimp only
  repeat' (first
    | with_reducible assumption | with_reducible apply State.setTransfer_inv | with_reducible apply foldl_inv
    | with_reducible apply foldl_inv2 | with_reducible apply foldl_inv1 | with_reducible apply foldl_canon
    | with_reducible apply State.setRegion_inv | with_reducible apply State.region_inv | split)

theorem State.remoteLines_inv {s : State} (k : Nat) (t : Transfer) (m : Nat) (h0 : s.Inv) :
    (State.remoteLines s k t m).2.2.Inv := by
  unfold State.remoteLines
  dsimp only
  refine foldl_inv222 (fun q a h => ?_) h0
  obtain ⟨b, l, u, x⟩ := q
  dsimp only
  repeat' (first | exact h | exact State.readIndex_inv _ _ _ _ _ h | split)
theorem State.remoteLines_inv_eq {s : State} {k : Nat} {t : Transfer} {m : Nat} {za zb} {zt : State}
    (e0 : (State.remoteLines s k t m) = (za, zb, zt)) (h0 : s.Inv) :
    zt.Inv := by
  have i := State.remoteLines_inv k t m h0
  rw [e0] at i
  exact i

theorem State.delayEntries_inv {s : State} (t : Transfer) (h0 : s.Inv) : (State.delayEntries s t).Inv := by
  unfold State.delayEntries
  split
  · exact State.countDelay_inv _ h0
  · exact h0

theorem State.issueRead_inv {s : State} (k : Nat) (t : Transfer) (room : Nat) (si : Nat) (di : Nat) (h0 : s.Inv) :
    OptInv2 (State.issueRead s k t room si di) := by
  rw [State.issueRead]
  extract_lets
  split
  · split
    · exact optInv2_some (State.recordOnce_inv _ _ _ _ _ _ _ _ h0)
    · exact optInv2_map (State.abort_inv _ _ _ _ _ _ _ _ h0)
  · split
    · exact optInv2_map (State.abort_inv _ _ _ _ _ _ _ _ h0)
    · split
      · exact optInv2_some h0
      · split
        · exact optInv2_some h0
        · split
          · exact optInv2_map (State.abort_inv _ _ _ _ _ _ _ _ h0)
          · split
            · exact optInv2_some (State.queueSpad_inv _ _ _ _ _ _ h0)
            · split
              · exact optInv2_some (State.memAccess_inv _ _ _ h0)
              · exact optInv2_some (State.memAccess_inv _ _ _ h0)
            · split
              · exact optInv2_none
              · rename_i e
                exact optInv2_some (State.sendRequest_inv_eq e (State.remoteLines_inv _ _ _ h0))
            · exact optInv2_some h0
theorem State.issueRead_inv_eq {s : State} {k : Nat} {t : Transfer} {room : Nat} {si : Nat} {di : Nat} {zr}
    {zt : State} (e0 : (State.issueRead s k t room si di) = some (zr, zt)) (h0 : s.Inv) :
    zt.Inv := State.issueRead_inv k t room si di h0 _ _ e0

theorem State.issueLine_inv {s : State} (k : Nat) (t : Transfer) (room : Nat) (h0 : s.Inv) :
    OptInv2 (State.issueLine s k t room) := by
  unfold State.issueLine
  split
  · exact optInv2_none
  · rename_i si di u x e
    refine State.issueRead_inv _ _ _ _ _ ?_
    unfold State.readEntries at e
    dsimp only at e
    split at e
    · cases e
    · cases e
      exact State.readIndex_inv _ _ _ _ _ (State.readIndex_inv _ _ _ _ _ h0)
theorem State.issueLine_inv_eq {s : State} {k : Nat} {t : Transfer} {room : Nat} {zr} {zt : State}
    (e0 : (State.issueLine s k t room) = some (zr, zt)) (h0 : s.Inv) :
    zt.Inv := State.issueLine_inv k t room h0 _ _ e0

theorem State.pumpTransfer_inv (x0 : Nat) {x1 : State} (x2 : Nat) (x3 : Nat) (h0 : x1.Inv) :
    (State.pumpTransfer x0 x1 x2 x3).Inv := by
  induction x0 generalizing x1 with
  | zero =>
    unfold State.pumpTransfer
    try dsimp only
    repeat' (first | with_reducible assumption)
  | succ n ih =>
    unfold State.pumpTransfer
    try dsimp only
    repeat' (first
      | with_reducible assumption | with_reducible apply ih | with_reducible apply State.delayEntries_inv
      | refine State.issueLine_inv_eq (by assumption) ?_ | with_reducible apply State.setTransfer_inv
      | with_reducible apply foldl_inv | with_reducible apply foldl_inv2 | with_reducible apply foldl_inv1
      | with_reducible apply foldl_canon | with_reducible apply State.setRegion_inv
      | with_reducible apply State.region_inv | split)

theorem State.pumpShuttle_inv {s : State} (k : Nat) (h0 : s.Inv) :
    (State.pumpShuttle s k).Inv := by
  unfold State.pumpShuttle
  try dsimp only
  repeat' (first
    | with_reducible assumption | with_reducible apply State.pumpTransfer_inv | with_reducible apply foldl_inv
    | with_reducible apply foldl_inv2 | with_reducible apply foldl_inv1 | with_reducible apply foldl_canon
    | with_reducible apply State.setRegion_inv | with_reducible apply State.region_inv | split | exact fun h => h
    | exact fun h => wf_smapAllTo h _ | exact fun h => wf_sfilter h _ | exact fun _ => rfl | intro _ _ _)

theorem State.setWarpNext_inv {s : State} (k : Nat) (c : Option (Nat × Bool)) (n : Nat) (h0 : s.Inv) :
    (State.setWarpNext s k c n).Inv := by
  unfold State.setWarpNext
  split
  · exact inv_mk h0 rfl rfl rfl rfl rfl rfl rfl rfl rfl rfl rfl rfl rfl rfl rfl rfl
  · exact inv_mk h0 rfl rfl rfl rfl rfl rfl rfl rfl rfl rfl rfl rfl rfl rfl rfl rfl
  · exact h0

theorem State.dropLaunch_inv {s : State} (k : Nat) (t : Transfer) (h0 : s.Inv) : (State.dropLaunch s k t).Inv := by
  unfold State.dropLaunch
  exact State.setTransfer_inv _ _ (State.recordAbort_inv _ (State.raise_inv _ (State.freeNat_inv _ h0)))

theorem State.launch_inv {s : State} (k : Nat) (rgn : Nat) (segment : Nat) (tagv : Bool) (tag : BitVec 12)
    (srcLine : Nat) (dstLine : Nat) (src : List Byte) (dst : List Byte) (word : Nat) (ahead : Option Nat) (h0 : s.Inv)
    :
    (State.launch s k rgn segment tagv tag srcLine dstLine src dst word ahead).Inv := by
  unfold State.launch
  extract_lets x a b ok last dropped circuit xfer t e t1 s1 f s2 g t2 s3
  have h1 : s1.Inv := State.setShuttle_inv _ _ h0
  have h2 : s3.Inv := by
    unfold s3
    split
    · exact State.dropLaunch_inv _ _ h1
    · split
      · exact State.abort_inv _ _ _ _ _ _ _ _ (State.setTransfer_inv _ _ (State.raise_inv _ (State.freeNat_inv _ h1)))
      · exact State.setWarpNext_inv _ _ _ h1
  split
  · exact h2
  · exact State.dropLaunch_inv _ _ (State.setWarpNext_inv _ _ _ h2)

theorem State.sendLine_inv {s : State} (k : Nat) (t : Transfer) (n : Nat) (a : Nat) (data : Option (List Byte))
    (h0 : s.Inv) :
    OptInv (State.sendLine s k t n a data) := by
  unfold State.sendLine
  try dsimp only
  repeat' (first
    | with_reducible assumption | with_reducible apply State.sendRequest_inv
    | refine State.sendRequest_inv_eq (by assumption) ?_ | with_reducible apply State.launchCell_inv
    | with_reducible apply foldl_inv | with_reducible apply foldl_inv2 | with_reducible apply foldl_inv1
    | with_reducible apply foldl_canon | with_reducible apply State.setRegion_inv
    | with_reducible apply State.region_inv | with_reducible apply optInv_none | with_reducible apply optInv_some
    | with_reducible apply optInv2_none | with_reducible apply optInv2_some | with_reducible apply optInv2_some'
    | with_reducible apply optInv1_none | with_reducible apply optInv1_some | split)
theorem State.sendLine_inv_eq {s : State} {k : Nat} {t : Transfer} {n : Nat} {a : Nat} {data : Option (List Byte)}
    {zt : State} (e0 : (State.sendLine s k t n a data) = some zt) (h0 : s.Inv) :
    zt.Inv := State.sendLine_inv k t n a data h0 _ e0

theorem State.placeLine_inv {s : State} (k : Nat) (t : Transfer) (n : Nat) (l : LineInfo) (data : LineData)
    (h0 : s.Inv) :
    (State.placeLine s k t n l data).Inv := by
  unfold State.placeLine
  try dsimp only
  repeat' (first
    | with_reducible assumption | with_reducible apply State.setTransfer_inv
    | with_reducible apply State.sendLine_inv | refine State.sendLine_inv_eq (by assumption) ?_
    | with_reducible apply State.queueSpad_inv | with_reducible apply State.memAccess_inv
    | refine State.memAccess_inv_eq (by assumption) ?_ | with_reducible apply State.destFault_inv
    | with_reducible apply State.abort_inv | with_reducible apply State.recordOnce_inv
    | refine State.recordOnce_inv_eq (by assumption) ?_ | with_reducible apply foldl_inv
    | with_reducible apply foldl_inv2 | with_reducible apply foldl_inv1 | with_reducible apply foldl_canon
    | with_reducible apply State.setRegion_inv | with_reducible apply State.region_inv | split)

theorem State.fenceShuttle_inv {s : State} (k : Nat) (h0 : s.Inv) :
    (State.fenceShuttle s k).Inv := by
  unfold State.fenceShuttle
  try dsimp only
  repeat' (first
    | with_reducible assumption | with_reducible apply State.pushFault_inv
    | with_reducible apply State.endTransfer_inv | with_reducible apply foldl_inv | with_reducible apply foldl_inv2
    | with_reducible apply foldl_inv1 | with_reducible apply foldl_canon | with_reducible apply State.setRegion_inv
    | with_reducible apply State.region_inv | split | exact fun h => h | exact fun h => wf_smapAllTo h _
    | exact fun h => wf_sfilter h _ | exact fun _ => rfl | intro _ _ _)

theorem State.deliverWarp_inv {s : State} (p : Nat) (c : Cell) (h0 : s.Inv) :
    (State.deliverWarp s p c).Inv := by
  unfold State.deliverWarp
  try dsimp only
  repeat' (first
    | with_reducible assumption | with_reducible apply State.lineArrives_inv | with_reducible apply State.count_inv
    | with_reducible apply State.setPort_inv | with_reducible apply foldl_inv | with_reducible apply foldl_inv2
    | with_reducible apply foldl_inv1 | with_reducible apply foldl_canon | with_reducible apply State.setRegion_inv
    | with_reducible apply State.region_inv | split)

theorem State.feedRequesters_inv {s : State} (h0 : s.Inv) :
    (State.feedRequesters s).Inv := by
  unfold State.feedRequesters
  try dsimp only
  repeat' (first
    | with_reducible assumption | with_reducible apply State.feedWeights_inv
    | with_reducible apply State.pumpShuttle_inv | with_reducible apply foldl_inv | with_reducible apply foldl_inv2
    | with_reducible apply foldl_inv1 | with_reducible apply foldl_canon | with_reducible apply State.setRegion_inv
    | with_reducible apply State.region_inv | split | exact fun h => h | exact fun h => wf_smapAllTo h _
    | exact fun h => wf_sfilter h _ | exact fun _ => rfl | intro _ _ _)

theorem State.completeReq_inv {s : State} (n : Nat) (e : ReqEntry) (status : Nat) (lines : List (Bool × List Byte))
    (h0 : s.Inv) :
    (State.completeReq s n e status lines).Inv := by
  unfold State.completeReq
  try dsimp only
  repeat' (first
    | with_reducible assumption | with_reducible apply State.closeReq_inv
    | with_reducible apply State.lineArrives_inv | with_reducible apply State.lineWritten_inv
    | with_reducible apply State.destFault_inv | with_reducible apply State.remoteDone_inv
    | with_reducible apply State.weightLines_inv | with_reducible apply State.feedRequesters_inv
    | with_reducible apply foldl_inv | with_reducible apply foldl_inv2 | with_reducible apply foldl_inv1
    | with_reducible apply foldl_canon | with_reducible apply State.setRegion_inv
    | with_reducible apply State.region_inv | split | exact fun h => h | exact fun h => wf_smapAllTo h _
    | exact fun h => wf_sfilter h _ | exact fun _ => rfl | intro _ _ _)

theorem State.endReq_inv {s : State} (n : Nat) (h0 : s.Inv) :
    (State.endReq s n).Inv := by
  unfold State.endReq
  try dsimp only
  repeat' (first
    | with_reducible assumption | with_reducible apply State.completeReq_inv | with_reducible apply State.count_inv
    | with_reducible apply foldl_inv | with_reducible apply foldl_inv2 | with_reducible apply foldl_inv1
    | with_reducible apply foldl_canon | with_reducible apply State.setRegion_inv
    | with_reducible apply State.region_inv | split)

theorem State.dropWait_inv {s : State} (op : Nat) (h0 : s.Inv) :
    (State.dropWait s op).Inv := by
  unfold State.dropWait
  try dsimp only
  repeat' (first
    | with_reducible assumption | with_reducible apply foldl_inv | with_reducible apply foldl_inv2
    | with_reducible apply foldl_inv1 | with_reducible apply foldl_canon | with_reducible apply State.setRegion_inv
    | with_reducible apply State.region_inv | split | exact fun h => h | exact fun h => wf_smapAllTo h _
    | exact fun h => wf_sfilter h _ | exact fun _ => rfl | intro _ _ _ | intro _ _ | intro _ | dsimp only
    | contradiction
    | with_reducible refine inv_mk ?_ rfl rfl rfl rfl rfl rfl rfl rfl rfl rfl rfl rfl rfl rfl rfl rfl)

theorem State.sendStartAck_inv {s : State} (w : StartWait) (h0 : s.Inv) :
    (State.sendStartAck s w).Inv := by
  unfold State.sendStartAck
  try dsimp only
  repeat' (first
    | with_reducible assumption | with_reducible apply State.put_inv | with_reducible apply State.answer_inv
    | with_reducible apply State.sendAddressed_inv | with_reducible apply foldl_inv
    | with_reducible apply foldl_inv2 | with_reducible apply foldl_inv1 | with_reducible apply foldl_canon
    | with_reducible apply State.setRegion_inv | with_reducible apply State.region_inv | split)

theorem State.endStartWait_inv {s : State} (w : StartWait) (h0 : s.Inv) :
    (State.endStartWait s w).Inv := by
  unfold State.endStartWait
  try dsimp only
  repeat' (first
    | with_reducible assumption | with_reducible apply State.sendStartAck_inv
    | with_reducible apply State.dropWait_inv)

theorem State.crossWait_inv {s : State} (n : StartWait) (h0 : s.Inv) :
    (State.crossWait s n).Inv := by
  unfold State.crossWait
  try dsimp only
  repeat' (first
    | with_reducible assumption | with_reducible apply State.sendStartAck_inv
    | with_reducible apply State.dropWait_inv | with_reducible apply State.endStartWait_inv
    | with_reducible apply foldl_inv | with_reducible apply foldl_inv2 | with_reducible apply foldl_inv1
    | with_reducible apply foldl_canon | with_reducible apply State.setRegion_inv
    | with_reducible apply State.region_inv | split)

theorem State.relayStart_inv {s : State} (w : StartWait) (rec1 : List Byte) (h0 : s.Inv) :
    (State.relayStart s w rec1).Inv := by
  unfold State.relayStart
  try dsimp only
  repeat' (first
    | with_reducible assumption | with_reducible apply State.crossWait_inv
    | with_reducible apply State.sendAddressed_inv | with_reducible apply State.sendStartAck_inv
    | with_reducible apply foldl_inv | with_reducible apply foldl_inv2 | with_reducible apply foldl_inv1
    | with_reducible apply foldl_canon | with_reducible apply State.setRegion_inv
    | with_reducible apply State.region_inv | split | exact fun h => h | exact fun h => wf_smapAllTo h _
    | exact fun h => wf_sfilter h _ | exact fun _ => rfl | intro _ _ _ | intro _ _ | intro _ | dsimp only
    | contradiction
    | with_reducible refine inv_mk ?_ rfl rfl rfl rfl rfl rfl rfl rfl rfl rfl rfl rfl rfl rfl rfl rfl)

theorem State.takeArm_inv {s : State} (w : StartWait) (rec1 : List Byte) (h0 : s.Inv) :
    (State.takeArm s w rec1).Inv := by
  unfold State.takeArm
  try dsimp only
  repeat' (first
    | with_reducible assumption | with_reducible apply State.sendStartAck_inv
    | with_reducible apply State.relayStart_inv | with_reducible apply State.setReg_inv
    | with_reducible apply State.put_inv | with_reducible apply foldl_inv | with_reducible apply foldl_inv2
    | with_reducible apply foldl_inv1 | with_reducible apply foldl_canon | with_reducible apply State.setRegion_inv
    | with_reducible apply State.region_inv | split | exact fun h => h | exact fun h => wf_smapAllTo h _
    | exact fun h => wf_sfilter h _ | exact fun _ => rfl | intro _ _ _ | intro _ _ | intro _ | dsimp only
    | contradiction
    | with_reducible refine inv_mk ?_ rfl rfl rfl rfl rfl rfl rfl rfl rfl rfl rfl rfl rfl rfl rfl rfl)

theorem State.takeCommit_inv {s : State} (w : StartWait) (rec1 : List Byte) (h0 : s.Inv) :
    (State.takeCommit s w rec1).Inv := by
  unfold State.takeCommit
  try dsimp only
  repeat' (first
    | with_reducible assumption | with_reducible apply State.sendStartAck_inv | with_reducible apply State.put_inv
    | with_reducible apply State.relayStart_inv | with_reducible apply foldl_inv | with_reducible apply foldl_inv2
    | with_reducible apply foldl_inv1 | with_reducible apply foldl_canon | with_reducible apply State.setRegion_inv
    | with_reducible apply State.region_inv | split | exact fun h => h | exact fun h => wf_smapAllTo h _
    | exact fun h => wf_sfilter h _ | exact fun _ => rfl | intro _ _ _ | intro _ _ | intro _ | dsimp only
    | contradiction
    | with_reducible refine inv_mk ?_ rfl rfl rfl rfl rfl rfl rfl rfl rfl rfl rfl rfl rfl rfl rfl rfl)

theorem State.takeStart_inv {s : State} (rec1 : List Byte) (parent : Option Nat) (mailbox : Nat) (h0 : s.Inv) :
    (State.takeStart s rec1 parent mailbox).Inv := by
  unfold State.takeStart
  try dsimp only
  repeat' (first
    | with_reducible assumption | with_reducible apply State.takeArm_inv | with_reducible apply State.takeCommit_inv
    | with_reducible apply foldl_inv | with_reducible apply foldl_inv2 | with_reducible apply foldl_inv1
    | with_reducible apply foldl_canon | with_reducible apply State.setRegion_inv
    | with_reducible apply State.region_inv | split)

theorem State.takeStartAck_inv {s : State} (p : Nat) (b : List Byte) (h0 : s.Inv) :
    (State.takeStartAck s p b).Inv := by
  unfold State.takeStartAck
  try dsimp only
  repeat' (first
    | with_reducible assumption | with_reducible apply State.sendStartAck_inv
    | with_reducible apply State.dropWait_inv | with_reducible apply foldl_inv | with_reducible apply foldl_inv2
    | with_reducible apply foldl_inv1 | with_reducible apply foldl_canon | with_reducible apply State.setRegion_inv
    | with_reducible apply State.region_inv | split | exact fun h => h | exact fun h => wf_smapAllTo h _
    | exact fun h => wf_sfilter h _ | exact fun _ => rfl | intro _ _ _ | intro _ _ | intro _ | dsimp only
    | contradiction
    | with_reducible refine inv_mk ?_ rfl rfl rfl rfl rfl rfl rfl rfl rfl rfl rfl rfl rfl rfl rfl rfl)

theorem State.startTimeout_inv {s : State} (h0 : s.Inv) :
    (State.startTimeout s).Inv := by
  unfold State.startTimeout
  try dsimp only
  repeat' (first
    | with_reducible assumption | with_reducible apply State.endStartWait_inv | with_reducible apply State.at_inv
    | with_reducible apply foldl_inv | with_reducible apply foldl_inv2 | with_reducible apply foldl_inv1
    | with_reducible apply foldl_canon | with_reducible apply State.setRegion_inv
    | with_reducible apply State.region_inv | split)

theorem State.winCheck_inv {s : State} (r : WinReq) (h0 : s.Inv) :
    (State.winCheck s r).2.Inv := by
  unfold State.winCheck
  try dsimp only
  repeat' (first
    | with_reducible assumption | with_reducible apply State.recordFault_inv | with_reducible apply foldl_inv
    | with_reducible apply foldl_inv2 | with_reducible apply foldl_inv1 | with_reducible apply foldl_canon
    | with_reducible apply State.setRegion_inv | with_reducible apply State.region_inv | split)
theorem State.winCheck_inv_eq {s : State} {r : WinReq} {zr} {zt : State} (e0 : (State.winCheck s r) = (zr, zt))
    (h0 : s.Inv) :
    zt.Inv := by
  have i := State.winCheck_inv r h0
  rw [e0] at i
  exact i

theorem State.refused_inv {s : State} (h0 : s.Inv) :
    (State.refused s).Inv := by
  unfold State.refused
  try dsimp only
  repeat' (first | with_reducible assumption | with_reducible apply State.count_inv)

theorem State.sendStatus_inv {s : State} (svc : Bool) (dst : Nat) (tag : Nat) (addr : Nat) (status : Nat) (h0 : s.Inv) :
    (State.sendStatus s svc dst tag addr status).Inv := by
  unfold State.sendStatus
  try dsimp only
  repeat' (first | with_reducible assumption | with_reducible apply State.sendAddressed_inv)

theorem State.answerInbound_inv {s : State} (b : Inbound) (h0 : s.Inv) :
    (State.answerInbound s b).Inv := by
  unfold State.answerInbound
  try dsimp only
  repeat' (first
    | with_reducible assumption | with_reducible apply State.sendStatus_inv
    | with_reducible apply State.sendAddressed_inv | with_reducible apply State.sendMessage_inv
    | with_reducible apply State.filterRecord_inv | with_reducible apply foldl_inv | with_reducible apply foldl_inv2
    | with_reducible apply foldl_inv1 | with_reducible apply foldl_canon | with_reducible apply State.setRegion_inv
    | with_reducible apply State.region_inv | split)

theorem State.windowDrained_inv {s : State} (w : Nat) (h0 : s.Inv) :
    (State.windowDrained s w).Inv := by
  unfold State.windowDrained
  try dsimp only
  repeat' (first
    | with_reducible assumption | with_reducible apply State.answer_inv | with_reducible apply State.setWindow_inv
    | with_reducible apply foldl_inv | with_reducible apply foldl_inv2 | with_reducible apply foldl_inv1
    | with_reducible apply foldl_canon | with_reducible apply State.setRegion_inv
    | with_reducible apply State.region_inv | split)

theorem State.finishInbound_inv {s : State} (b : Inbound) (h0 : s.Inv) :
    (State.finishInbound s b).Inv := by
  unfold State.finishInbound
  try dsimp only
  repeat' (first
    | with_reducible assumption | with_reducible apply State.answerInbound_inv
    | with_reducible apply State.pumpReed_inv | refine State.pumpReed_inv_eq (by assumption) ?_
    | with_reducible apply State.windowDrained_inv | with_reducible apply foldl_inv
    | with_reducible apply foldl_inv2 | with_reducible apply foldl_inv1 | with_reducible apply foldl_canon
    | with_reducible apply State.setRegion_inv | with_reducible apply State.region_inv | split | exact fun h => h
    | exact fun h => wf_smapAllTo h _ | exact fun h => wf_sfilter h _ | exact fun _ => rfl | intro _ _ _ | intro _ _
    | intro _ | dsimp only | contradiction
    | with_reducible refine inv_mk ?_ rfl rfl rfl rfl rfl rfl rfl rfl rfl rfl rfl rfl rfl rfl rfl rfl)

theorem State.putInbound_inv {s : State} (b : Inbound) (h0 : s.Inv) :
    (State.putInbound s b).Inv := by
  unfold State.putInbound
  try dsimp only
  repeat' (first
    | with_reducible assumption | with_reducible apply State.finishInbound_inv | with_reducible apply foldl_inv
    | with_reducible apply foldl_inv2 | with_reducible apply foldl_inv1 | with_reducible apply foldl_canon
    | with_reducible apply State.setRegion_inv | with_reducible apply State.region_inv | split | exact fun h => h
    | exact fun h => wf_smapAllTo h _ | exact fun h => wf_sfilter h _ | exact fun _ => rfl | intro _ _ _ | intro _ _
    | intro _ | dsimp only | contradiction
    | with_reducible refine inv_mk ?_ rfl rfl rfl rfl rfl rfl rfl rfl rfl rfl rfl rfl rfl rfl rfl rfl)

theorem State.windowRead_inv {s : State} (token : Nat) (i : Nat) (d : LineData) (h0 : s.Inv) :
    (State.windowRead s token i d).Inv := by
  unfold State.windowRead
  try dsimp only
  repeat' (first
    | with_reducible assumption | with_reducible apply State.putInbound_inv | with_reducible apply foldl_inv
    | with_reducible apply foldl_inv2 | with_reducible apply foldl_inv1 | with_reducible apply foldl_canon
    | with_reducible apply State.setRegion_inv | with_reducible apply State.region_inv | split)

theorem State.windowWritten_inv {s : State} (token : Nat) (i : Nat) (ok : Bool) (h0 : s.Inv) :
    (State.windowWritten s token i ok).Inv := by
  unfold State.windowWritten
  try dsimp only
  repeat' (first
    | with_reducible assumption | with_reducible apply State.putInbound_inv | with_reducible apply foldl_inv
    | with_reducible apply foldl_inv2 | with_reducible apply foldl_inv1 | with_reducible apply foldl_canon
    | with_reducible apply State.setRegion_inv | with_reducible apply State.region_inv | split)

theorem State.endInbound_inv {s : State} (b : Inbound) (status : Nat) (h0 : s.Inv) :
    (State.endInbound s b status).Inv := by
  unfold State.endInbound
  try dsimp only
  repeat' (first
    | with_reducible assumption | with_reducible apply State.finishInbound_inv | with_reducible apply foldl_inv
    | with_reducible apply foldl_inv2 | with_reducible apply foldl_inv1 | with_reducible apply foldl_canon
    | with_reducible apply State.setRegion_inv | with_reducible apply State.region_inv | split | exact fun h => h
    | exact fun h => wf_smapAllTo h _ | exact fun h => wf_sfilter h _ | exact fun _ => rfl | intro _ _ _ | intro _ _
    | intro _ | dsimp only | contradiction
    | with_reducible refine inv_mk ?_ rfl rfl rfl rfl rfl rfl rfl rfl rfl rfl rfl rfl rfl rfl rfl rfl
    | with_reducible refine canon_mk ?_ rfl rfl
    | with_reducible refine inv_mk_wf ?_ rfl rfl rfl ?_ ?_ ?_ ?_ ?_ ?_ rfl ?_ rfl rfl rfl rfl rfl
    | refine wf_smapAllTo ?_ _)

theorem State.startLine_inv {s : State} (w : Nat) (e : WindowEntry) (token : Nat) (i : Nat) (a : Nat)
    (data : Option (Bool × List Byte)) (h0 : s.Inv) :
    (State.startLine s w e token i a data).Inv := by
  unfold State.startLine
  try dsimp only
  repeat' (first
    | with_reducible assumption | with_reducible apply State.memAccess_inv
    | refine State.memAccess_inv_eq (by assumption) ?_ | with_reducible apply State.windowRead_inv
    | with_reducible apply State.windowWritten_inv | with_reducible apply foldl_inv
    | with_reducible apply foldl_inv2 | with_reducible apply foldl_inv1 | with_reducible apply foldl_canon
    | with_reducible apply State.setRegion_inv | with_reducible apply State.region_inv | split | exact fun h => h
    | exact fun h => wf_smapAllTo h _ | exact fun h => wf_sfilter h _ | exact fun _ => rfl | intro _ _ _ | intro _ _
    | intro _ | dsimp only | contradiction
    | with_reducible refine inv_mk ?_ rfl rfl rfl rfl rfl rfl rfl rfl rfl rfl rfl rfl rfl rfl rfl rfl)

theorem State.openInbound_inv {s : State} (b : Inbound) (h0 : s.Inv) :
    (State.openInbound s b).Inv := by
  unfold State.openInbound
  try dsimp only
  repeat' (first
    | with_reducible assumption | with_reducible apply foldl_inv | with_reducible apply foldl_inv2
    | with_reducible apply foldl_inv1 | with_reducible apply foldl_canon | with_reducible apply State.setRegion_inv
    | with_reducible apply State.region_inv | split | exact fun h => h | exact fun h => wf_smapAllTo h _
    | exact fun h => wf_sfilter h _ | exact fun _ => rfl | intro _ _ _ | intro _ _ | intro _ | dsimp only
    | contradiction
    | with_reducible refine inv_mk ?_ rfl rfl rfl rfl rfl rfl rfl rfl rfl rfl rfl rfl rfl rfl rfl rfl)

theorem State.fixedRead_inv {s : State} (addr : Nat) (len : Nat) (svc : Bool) (key : Nat) (h0 : s.Inv) :
    (State.fixedRead s addr len svc key).2.2.Inv := by
  unfold State.fixedRead
  try dsimp only
  repeat' (first
    | with_reducible assumption | with_reducible apply State.freeByte_inv
    | refine State.freeByte_inv_eq (by assumption) ?_ | with_reducible apply foldl_inv
    | with_reducible apply foldl_inv2 | with_reducible apply foldl_inv1 | with_reducible apply foldl_canon
    | with_reducible apply State.setRegion_inv | with_reducible apply State.region_inv | split | exact fun h => h
    | exact fun h => wf_smapAllTo h _ | exact fun h => wf_sfilter h _ | exact fun _ => rfl | intro _ _ _)
theorem State.fixedRead_inv_eq {s : State} {addr : Nat} {len : Nat} {svc : Bool} {key : Nat} {za zb} {zt : State}
    (e0 : (State.fixedRead s addr len svc key) = (za, zb, zt)) (h0 : s.Inv) :
    zt.Inv := by
  have i := State.fixedRead_inv addr len svc key h0
  rw [e0] at i
  exact i

theorem State.startWrite_inv {s : State} (off : Nat) (b : List Byte) (svc : Bool) (key : Nat) (src : Nat) (h0 : s.Inv) :
    (State.startWrite s off b svc key src).2.Inv := by
  unfold State.startWrite
  try dsimp only
  repeat' (first
    | with_reducible assumption | with_reducible apply State.takeStart_inv | with_reducible apply State.sramPut_inv
    | with_reducible apply State.takeStartAck_inv | with_reducible apply foldl_inv | with_reducible apply foldl_inv2
    | with_reducible apply foldl_inv1 | with_reducible apply foldl_canon | with_reducible apply State.setRegion_inv
    | with_reducible apply State.region_inv | split)
theorem State.startWrite_inv_eq {s : State} {off : Nat} {b : List Byte} {svc : Bool} {key : Nat} {src : Nat} {zr}
    {zt : State} (e0 : (State.startWrite s off b svc key src) = (zr, zt)) (h0 : s.Inv) :
    zt.Inv := by
  have i := State.startWrite_inv off b svc key src h0
  rw [e0] at i
  exact i

theorem State.fixedWrite_inv {s : State} (addr : Nat) (b : List Byte) (svc : Bool) (addressed : Bool) (key : Nat)
    (src : Nat) (h0 : s.Inv) :
    (State.fixedWrite s addr b svc addressed key src).2.Inv := by
  unfold State.fixedWrite
  try dsimp only
  repeat' (first
    | with_reducible assumption | with_reducible apply State.sramPut_inv | with_reducible apply State.startWrite_inv
    | refine State.startWrite_inv_eq (by assumption) ?_ | with_reducible apply State.ringDoorbell_inv
    | refine State.ringDoorbell_inv_eq (by assumption) ?_ | with_reducible apply foldl_inv
    | with_reducible apply foldl_inv2 | with_reducible apply foldl_inv1 | with_reducible apply foldl_canon
    | with_reducible apply State.setRegion_inv | with_reducible apply State.region_inv | split)
theorem State.fixedWrite_inv_eq {s : State} {addr : Nat} {b : List Byte} {svc : Bool} {addressed : Bool} {key : Nat}
    {src : Nat} {zr} {zt : State} (e0 : (State.fixedWrite s addr b svc addressed key src) = (zr, zt)) (h0 : s.Inv) :
    zt.Inv := by
  have i := State.fixedWrite_inv addr b svc addressed key src h0
  rw [e0] at i
  exact i

theorem State.addressedWrite_inv {s : State} (c : Cell) (h0 : s.Inv) :
    (State.addressedWrite s c).Inv := by
  unfold State.addressedWrite
  try dsimp only
  repeat' (first
    | with_reducible assumption | with_reducible apply State.sendStatus_inv
    | with_reducible apply State.fixedWrite_inv | refine State.fixedWrite_inv_eq (by assumption) ?_
    | with_reducible apply State.refused_inv | with_reducible apply State.winCheck_inv
    | refine State.winCheck_inv_eq (by assumption) ?_ | with_reducible apply State.openInbound_inv
    | with_reducible apply State.startLine_inv | with_reducible apply foldl_inv | with_reducible apply foldl_inv2
    | with_reducible apply foldl_inv1 | with_reducible apply foldl_canon | with_reducible apply State.setRegion_inv
    | with_reducible apply State.region_inv | split | exact fun h => h | exact fun h => wf_smapAllTo h _
    | exact fun h => wf_sfilter h _ | exact fun _ => rfl | intro _ _ _)

theorem State.addressedRead_inv {s : State} (c : Cell) (h0 : s.Inv) :
    (State.addressedRead s c).Inv := by
  unfold State.addressedRead
  try dsimp only
  repeat' (first
    | with_reducible assumption | with_reducible apply State.sendStatus_inv
    | with_reducible apply State.fixedRead_inv | refine State.fixedRead_inv_eq (by assumption) ?_
    | with_reducible apply State.sendAddressed_inv | with_reducible apply State.refused_inv
    | with_reducible apply State.winCheck_inv | refine State.winCheck_inv_eq (by assumption) ?_
    | with_reducible apply State.openInbound_inv | with_reducible apply State.startLine_inv
    | with_reducible apply foldl_inv | with_reducible apply foldl_inv2 | with_reducible apply foldl_inv1
    | with_reducible apply foldl_canon | with_reducible apply State.setRegion_inv
    | with_reducible apply State.region_inv | split | exact fun h => h | exact fun h => wf_smapAllTo h _
    | exact fun h => wf_sfilter h _ | exact fun _ => rfl | intro _ _ _)

theorem State.carryOut_inv {s : State} (c : Cell) (h0 : s.Inv) :
    (State.carryOut s c).Inv := by
  unfold State.carryOut
  try dsimp only
  repeat' (first
    | with_reducible assumption | with_reducible apply State.addressedWrite_inv
    | with_reducible apply State.addressedRead_inv | with_reducible apply foldl_inv
    | with_reducible apply foldl_inv2 | with_reducible apply foldl_inv1 | with_reducible apply foldl_canon
    | with_reducible apply State.setRegion_inv | with_reducible apply State.region_inv | split)

theorem State.takeMessage_inv {s : State} (src : Nat) (cls : Nat) (op : Nat) (h0 : s.Inv) :
    OptInv2 (State.takeMessage s src cls op) := by
  unfold State.takeMessage
  try dsimp only
  repeat' (first
    | with_reducible assumption | with_reducible apply State.putFlow_inv
    | with_reducible apply State.advanceGrant_inv | with_reducible apply foldl_inv | with_reducible apply foldl_inv2
    | with_reducible apply foldl_inv1 | with_reducible apply foldl_canon | with_reducible apply State.setRegion_inv
    | with_reducible apply State.region_inv | with_reducible apply optInv_none | with_reducible apply optInv_some
    | with_reducible apply optInv2_none | with_reducible apply optInv2_some | with_reducible apply optInv2_some'
    | with_reducible apply optInv1_none | with_reducible apply optInv1_some | with_reducible apply optInv_bind
    | with_reducible apply optInv_map | with_reducible apply foldl_optInv | split | exact fun h => h
    | exact fun h => wf_smapAllTo h _ | exact fun h => wf_sfilter h _ | exact fun _ => rfl | intro _ _ _ | intro _ _
    | intro _ | dsimp only | contradiction
    | with_reducible refine inv_mk ?_ rfl rfl rfl rfl rfl rfl rfl rfl rfl rfl rfl rfl rfl rfl rfl rfl
    | with_reducible refine canon_mk ?_ rfl rfl
    | with_reducible refine inv_mk_wf ?_ rfl rfl rfl ?_ ?_ ?_ ?_ ?_ ?_ rfl ?_ rfl rfl rfl rfl rfl
    | refine wf_smapAllTo ?_ _)
theorem State.takeMessage_inv_eq {s : State} {src : Nat} {cls : Nat} {op : Nat} {zr} {zt : State}
    (e0 : (State.takeMessage s src cls op) = some (zr, zt)) (h0 : s.Inv) :
    zt.Inv := State.takeMessage_inv src cls op h0 _ _ e0

theorem State.takeRead_inv {s : State} (m : Message) (h0 : s.Inv) :
    (State.takeRead s m).Inv := by
  unfold State.takeRead
  try dsimp only
  repeat' (first
    | with_reducible assumption | with_reducible apply State.sendMessage_inv
    | with_reducible apply State.fixedRead_inv | refine State.fixedRead_inv_eq (by assumption) ?_
    | with_reducible apply State.refused_inv | with_reducible apply State.winCheck_inv
    | refine State.winCheck_inv_eq (by assumption) ?_ | with_reducible apply State.openInbound_inv
    | with_reducible apply State.startLine_inv | with_reducible apply foldl_inv | with_reducible apply foldl_inv2
    | with_reducible apply foldl_inv1 | with_reducible apply foldl_canon | with_reducible apply State.setRegion_inv
    | with_reducible apply State.region_inv | split | exact fun h => h | exact fun h => wf_smapAllTo h _
    | exact fun h => wf_sfilter h _ | exact fun _ => rfl | intro _ _ _)

theorem State.fixedMessage_inv {s : State} (m : Message) (h0 : s.Inv) :
    (State.fixedMessage s m).2.Inv := by
  unfold State.fixedMessage
  try dsimp only
  repeat' (first
    | with_reducible assumption | with_reducible apply State.fixedWrite_inv
    | refine State.fixedWrite_inv_eq (by assumption) ?_ | with_reducible apply State.sramPut_inv
    | with_reducible apply foldl_inv | with_reducible apply foldl_inv2 | with_reducible apply foldl_inv1
    | with_reducible apply foldl_canon | with_reducible apply State.setRegion_inv
    | with_reducible apply State.region_inv | split | exact fun h => h | exact fun h => wf_smapAllTo h _
    | exact fun h => wf_sfilter h _ | exact fun _ => rfl | intro _ _ _)
theorem State.fixedMessage_inv_eq {s : State} {m : Message} {zr} {zt : State}
    (e0 : (State.fixedMessage s m) = (zr, zt)) (h0 : s.Inv) :
    zt.Inv := by
  have i := State.fixedMessage_inv m h0
  rw [e0] at i
  exact i

theorem State.takeWrite_inv {s : State} (m : Message) (h0 : s.Inv) :
    (State.takeWrite s m).Inv := by
  unfold State.takeWrite
  try dsimp only
  repeat' (first
    | with_reducible assumption | with_reducible apply State.sendMessage_inv
    | with_reducible apply State.advanceGrant_inv | with_reducible apply State.filterRecord_inv
    | with_reducible apply State.refused_inv | with_reducible apply State.filterCheck_inv
    | refine State.filterCheck_inv_eq (by assumption) ?_ | with_reducible apply State.fixedMessage_inv
    | refine State.fixedMessage_inv_eq (by assumption) ?_ | with_reducible apply State.winCheck_inv
    | refine State.winCheck_inv_eq (by assumption) ?_ | with_reducible apply State.openInbound_inv
    | with_reducible apply State.startLine_inv | with_reducible apply foldl_inv | with_reducible apply foldl_inv2
    | with_reducible apply foldl_inv1 | with_reducible apply foldl_canon | with_reducible apply State.setRegion_inv
    | with_reducible apply State.region_inv | split | exact fun h => h | exact fun h => wf_smapAllTo h _
    | exact fun h => wf_sfilter h _ | exact fun _ => rfl | intro _ _ _ | intro _ _ | intro _ | dsimp only
    | contradiction
    | with_reducible refine inv_mk ?_ rfl rfl rfl rfl rfl rfl rfl rfl rfl rfl rfl rfl rfl rfl rfl rfl
    | with_reducible refine canon_mk ?_ rfl rfl
    | with_reducible refine inv_mk_wf ?_ rfl rfl rfl ?_ ?_ ?_ ?_ ?_ ?_ rfl ?_ rfl rfl rfl rfl rfl
    | refine wf_smapAllTo ?_ _)

theorem State.takeSync_inv {s : State} (m : Message) (h0 : s.Inv) :
    (State.takeSync s m).Inv := by
  unfold State.takeSync
  try dsimp only
  repeat' (first
    | with_reducible assumption | with_reducible apply State.sendMessage_inv
    | with_reducible apply State.filterRecord_inv | with_reducible apply State.filterCheck_inv
    | refine State.filterCheck_inv_eq (by assumption) ?_ | with_reducible apply State.typeError_inv
    | with_reducible apply State.changeObjX_inv | refine State.changeObjX_inv_eq (by assumption) ?_
    | with_reducible apply State.count_inv | with_reducible apply foldl_inv | with_reducible apply foldl_inv2
    | with_reducible apply foldl_inv1 | with_reducible apply foldl_canon | with_reducible apply State.setRegion_inv
    | with_reducible apply State.region_inv | split)

theorem State.closeWindow_inv {s : State} (w : Nat) (h0 : s.Inv) :
    (State.closeWindow s w).2.Inv := by
  unfold State.closeWindow
  try dsimp only
  repeat' (first
    | with_reducible assumption | with_reducible apply State.setWindow_inv
    | with_reducible apply State.endInbound_inv | with_reducible apply State.count_inv
    | with_reducible apply foldl_inv | with_reducible apply foldl_inv2 | with_reducible apply foldl_inv1
    | with_reducible apply foldl_canon | with_reducible apply State.setRegion_inv
    | with_reducible apply State.region_inv | split | exact fun h => h | exact fun h => wf_smapAllTo h _
    | exact fun h => wf_sfilter h _ | exact fun _ => rfl | intro _ _ _)
theorem State.closeWindow_inv_eq {s : State} {w : Nat} {zr} {zt : State} (e0 : (State.closeWindow s w) = (zr, zt))
    (h0 : s.Inv) :
    zt.Inv := by
  have i := State.closeWindow_inv w h0
  rw [e0] at i
  exact i

theorem State.closeWindows_inv {s : State} (h0 : s.Inv) :
    (State.closeWindows s).Inv := by
  unfold State.closeWindows
  try dsimp only
  repeat' (first
    | with_reducible assumption | with_reducible apply State.closeWindow_inv
    | refine State.closeWindow_inv_eq (by assumption) ?_ | with_reducible apply foldl_inv
    | with_reducible apply foldl_inv2 | with_reducible apply foldl_inv1 | with_reducible apply foldl_canon
    | with_reducible apply State.setRegion_inv | with_reducible apply State.region_inv | split | exact fun h => h
    | exact fun h => wf_smapAllTo h _ | exact fun h => wf_sfilter h _ | exact fun _ => rfl | intro _ _ _)

end Sys2Proof.Machine
end

