-- ==== Sys2Proof/Laws/InvEngine.lean ====
section
/-! SUPPORT. The invariant through the regions and the sequencer. -/
namespace Sys2Proof.Machine

theorem RegionSt.setReg_inv {r : RegionSt} (n : Nat) (lanes : List (Nat × BitVec 32)) (h0 : r.Canon) :
    (RegionSt.setReg r n lanes).Canon := by
  unfold RegionSt.setReg
  try dsimp only
  repeat' (first
    | with_reducible assumption | with_reducible apply foldl_inv | with_reducible apply foldl_inv2
    | with_reducible apply foldl_inv1 | with_reducible apply foldl_canon | with_reducible apply State.setRegion_inv
    | with_reducible apply State.region_inv | split | exact fun h => h | exact fun h => wf_smapAllTo h _
    | exact fun h => wf_sfilter h _ | exact fun _ => rfl | intro _ _ _ | intro _ _ | intro _ | dsimp only
    | contradiction
    | with_reducible refine inv_mk ?_ rfl rfl rfl rfl rfl rfl rfl rfl rfl rfl rfl rfl rfl rfl rfl rfl
    | with_reducible refine canon_mk ?_ rfl rfl)

theorem RegionSt.setPred_inv {r : RegionSt} (n : Nat) (v : BitVec 64) (h0 : r.Canon) :
    (RegionSt.setPred r n v).Canon := by
  unfold RegionSt.setPred
  try dsimp only
  repeat' (first
    | with_reducible assumption | with_reducible apply foldl_inv | with_reducible apply foldl_inv2
    | with_reducible apply foldl_inv1 | with_reducible apply foldl_canon | with_reducible apply State.setRegion_inv
    | with_reducible apply State.region_inv | split | exact fun h => h | exact fun h => wf_smapAllTo h _
    | exact fun h => wf_sfilter h _ | exact fun _ => rfl | intro _ _ _ | intro _ _ | intro _ | dsimp only
    | contradiction
    | with_reducible refine inv_mk ?_ rfl rfl rfl rfl rfl rfl rfl rfl rfl rfl rfl rfl rfl rfl rfl rfl
    | with_reducible refine canon_mk ?_ rfl rfl)

theorem RegionSt.setAcc_inv {r : RegionSt} (row : Nat) (col : Nat) (v : BitVec 32) (h0 : r.Canon) :
    (RegionSt.setAcc r row col v).Canon := by
  unfold RegionSt.setAcc
  try dsimp only
  repeat' (first
    | with_reducible assumption | with_reducible apply foldl_inv | with_reducible apply foldl_inv2
    | with_reducible apply foldl_inv1 | with_reducible apply foldl_canon | with_reducible apply State.setRegion_inv
    | with_reducible apply State.region_inv | split | exact fun h => h | exact fun h => wf_smapAllTo h _
    | exact fun h => wf_sfilter h _ | exact fun _ => rfl | intro _ _ _ | intro _ _ | intro _ | dsimp only
    | contradiction
    | with_reducible refine inv_mk ?_ rfl rfl rfl rfl rfl rfl rfl rfl rfl rfl rfl rfl rfl rfl rfl rfl
    | with_reducible refine canon_mk ?_ rfl rfl)

theorem State.atRegion_inv {s : State} (r : Nat) (c : Nat) {f : RegionSt → RegionSt} (h0 : s.Inv)
    (hf1 : ∀ u, u.Canon → (f u).Canon) :
    (State.atRegion s r c f).Inv := by
  unfold State.atRegion
  try dsimp only
  repeat' (first
    | with_reducible assumption | with_reducible apply State.setRegion_inv | with_reducible apply State.region_inv
    | with_reducible apply foldl_inv | with_reducible apply foldl_inv2 | with_reducible apply foldl_inv1
    | with_reducible apply foldl_canon | with_reducible apply State.setRegion_inv
    | with_reducible apply State.region_inv | with_reducible apply hf1 | split)

theorem State.enterArray_inv {s : State} (t : Nat) (slot : Option Slot) (h0 : s.Inv) :
    (State.enterArray s t slot).Inv := by
  unfold State.enterArray
  try dsimp only
  repeat' (first
    | with_reducible assumption | with_reducible apply State.each_inv | with_reducible apply State.raise_inv
    | with_reducible apply foldl_inv | with_reducible apply foldl_inv2 | with_reducible apply foldl_inv1
    | with_reducible apply foldl_canon | with_reducible apply State.setRegion_inv
    | with_reducible apply State.region_inv | split | exact fun h => h | exact fun h => wf_smapAllTo h _
    | exact fun h => wf_sfilter h _ | exact fun _ => rfl | intro _ _ _ | intro _ _ | intro _ | dsimp only
    | contradiction
    | with_reducible refine inv_mk ?_ rfl rfl rfl rfl rfl rfl rfl rfl rfl rfl rfl rfl rfl rfl rfl rfl)

theorem State.pruneArray_inv {s : State} (h0 : s.Inv) :
    (State.pruneArray s).Inv := by
  unfold State.pruneArray
  try dsimp only
  repeat' (first
    | with_reducible assumption | with_reducible apply foldl_inv | with_reducible apply foldl_inv2
    | with_reducible apply foldl_inv1 | with_reducible apply foldl_canon | with_reducible apply State.setRegion_inv
    | with_reducible apply State.region_inv | split | exact fun h => h | exact fun h => wf_smapAllTo h _
    | exact fun h => wf_sfilter h _ | exact fun _ => rfl | intro _ _ _ | intro _ _ | intro _ | dsimp only
    | contradiction
    | with_reducible refine inv_mk ?_ rfl rfl rfl rfl rfl rfl rfl rfl rfl rfl rfl rfl rfl rfl rfl rfl)

theorem RegionSt.writeLoads_inv {r : RegionSt} (t : Nat) (h0 : r.Canon) :
    (RegionSt.writeLoads r t).Canon := by
  unfold RegionSt.writeLoads
  try dsimp only
  repeat' (first
    | with_reducible assumption | with_reducible apply foldl_inv | with_reducible apply foldl_inv2
    | with_reducible apply foldl_inv1 | with_reducible apply foldl_canon | with_reducible apply State.setRegion_inv
    | with_reducible apply State.region_inv | split | exact fun h => h | exact fun h => wf_smapAllTo h _
    | exact fun h => wf_sfilter h _ | exact fun _ => rfl | intro _ _ _ | intro _ _ | intro _ | dsimp only
    | contradiction
    | with_reducible refine inv_mk ?_ rfl rfl rfl rfl rfl rfl rfl rfl rfl rfl rfl rfl rfl rfl rfl rfl
    | with_reducible refine canon_mk ?_ rfl rfl)

theorem State.flipTile_inv {s : State} (n : Nat) (r : Nat) (c : Nat) (t : Nat) (h0 : s.Inv) :
    (State.flipTile s n r c t).Inv := by
  unfold State.flipTile
  try dsimp only
  repeat' (first
    | with_reducible assumption | with_reducible apply State.setRegion_inv | with_reducible apply State.region_inv
    | with_reducible apply State.raise_inv | with_reducible apply foldl_inv | with_reducible apply foldl_inv2
    | with_reducible apply foldl_inv1 | with_reducible apply foldl_canon | with_reducible apply State.setRegion_inv
    | with_reducible apply State.region_inv | split | exact fun h => h | exact fun h => wf_smapAllTo h _
    | exact fun h => wf_sfilter h _ | exact fun _ => rfl | intro _ _ _ | intro _ _ | intro _ | dsimp only
    | contradiction
    | with_reducible refine inv_mk ?_ rfl rfl rfl rfl rfl rfl rfl rfl rfl rfl rfl rfl rfl rfl rfl rfl
    | with_reducible refine canon_mk ?_ rfl rfl)

theorem State.freeSums_inv {s : State} (h0 : s.Inv) :
    (State.freeSums s).2.Inv := by
  unfold State.freeSums
  try dsimp only
  repeat' (first
    | with_reducible assumption | with_reducible apply foldl_inv | with_reducible apply foldl_inv2
    | with_reducible apply foldl_inv1 | with_reducible apply foldl_canon | with_reducible apply State.setRegion_inv
    | with_reducible apply State.region_inv | split | exact fun h => h | exact fun h => wf_smapAllTo h _
    | exact fun h => wf_sfilter h _ | exact fun _ => rfl | intro _ _ _ | intro _ _ | intro _ | dsimp only
    | contradiction
    | with_reducible refine inv_mk ?_ rfl rfl rfl rfl rfl rfl rfl rfl rfl rfl rfl rfl rfl rfl rfl rfl)
theorem State.freeSums_inv_eq {s : State} {zr} {zt : State} (e0 : (State.freeSums s) = (zr, zt)) (h0 : s.Inv) :
    zt.Inv := by
  have i := State.freeSums_inv h0
  rw [e0] at i
  exact i

theorem State.multiplyRows_inv {s : State} (n : Nat) (r : Nat) (c : Nat) (t : Nat) (h0 : s.Inv) :
    (State.multiplyRows s n r c t).Inv := by
  unfold State.multiplyRows
  try dsimp only
  repeat' (first
    | with_reducible assumption | with_reducible apply State.region_inv | with_reducible apply State.freeSums_inv
    | refine State.freeSums_inv_eq (by assumption) ?_ | with_reducible apply State.atRegion_inv
    | with_reducible apply RegionSt.took_inv | with_reducible apply RegionSt.freeSlot_inv
    | with_reducible apply RegionSt.arrive_inv | with_reducible apply foldl_inv | with_reducible apply foldl_inv2
    | with_reducible apply foldl_inv1 | with_reducible apply foldl_canon | with_reducible apply State.setRegion_inv
    | with_reducible apply State.region_inv | split | exact fun h => h | exact fun h => wf_smapAllTo h _
    | exact fun h => wf_sfilter h _ | exact fun _ => rfl | intro _ _ _ | intro _ _ | intro _ | dsimp only
    | contradiction
    | with_reducible refine inv_mk ?_ rfl rfl rfl rfl rfl rfl rfl rfl rfl rfl rfl rfl rfl rfl rfl rfl)

theorem State.roundRows_inv {s : State} (n : Nat) (r : Nat) (c : Nat) (t : Nat) (h0 : s.Inv) :
    (State.roundRows s n r c t).Inv := by
  unfold State.roundRows
  try dsimp only
  repeat' (first
    | with_reducible assumption | with_reducible apply State.atRegion_inv | with_reducible apply RegionSt.took_inv
    | with_reducible apply RegionSt.freeSlot_inv | with_reducible apply State.count_inv
    | with_reducible apply foldl_inv | with_reducible apply foldl_inv2 | with_reducible apply foldl_inv1
    | with_reducible apply foldl_canon | with_reducible apply State.setRegion_inv
    | with_reducible apply State.region_inv | split | exact fun h => h | exact fun h => wf_smapAllTo h _
    | exact fun h => wf_sfilter h _ | exact fun _ => rfl | intro _ _ _ | intro _ _ | intro _ | dsimp only
    | contradiction
    | with_reducible refine inv_mk ?_ rfl rfl rfl rfl rfl rfl rfl rfl rfl rfl rfl rfl rfl rfl rfl rfl)

theorem State.addRows_inv {s : State} (r : Nat) (c : Nat) (t : Nat) (h0 : s.Inv) :
    (State.addRows s r c t).Inv := by
  unfold State.addRows
  try dsimp only
  repeat' (first
    | with_reducible assumption | with_reducible apply State.atRegion_inv | with_reducible apply RegionSt.arrive_inv
    | with_reducible apply foldl_inv | with_reducible apply foldl_inv2 | with_reducible apply foldl_inv1
    | with_reducible apply foldl_canon | with_reducible apply State.setRegion_inv
    | with_reducible apply State.region_inv | split | exact fun h => h | exact fun h => wf_smapAllTo h _
    | exact fun h => wf_sfilter h _ | exact fun _ => rfl | intro _ _ _ | intro _ _ | intro _ | dsimp only
    | contradiction
    | with_reducible refine inv_mk ?_ rfl rfl rfl rfl rfl rfl rfl rfl rfl rfl rfl rfl rfl rfl rfl rfl)

theorem State.writeSums_inv {s : State} (n : Nat) (r : Nat) (c : Nat) (t : Nat) (rows : List Nat) (h0 : s.Inv) :
    (State.writeSums s n r c t rows).Inv := by
  unfold State.writeSums
  try dsimp only
  repeat' (first
    | with_reducible assumption | with_reducible apply State.region_inv | with_reducible apply RegionSt.setAcc_inv
    | with_reducible apply State.setRegion_inv | with_reducible apply RegionSt.took_inv
    | with_reducible apply State.atRegion_inv | with_reducible apply RegionSt.freeSlot_inv
    | with_reducible apply State.raise_inv | with_reducible apply foldl_inv | with_reducible apply foldl_inv2
    | with_reducible apply foldl_inv1 | with_reducible apply foldl_canon | with_reducible apply State.setRegion_inv
    | with_reducible apply State.region_inv | split | exact fun h => h | exact fun h => wf_smapAllTo h _
    | exact fun h => wf_sfilter h _ | exact fun _ => rfl | intro _ _ _ | intro _ _ | intro _ | dsimp only
    | contradiction
    | with_reducible refine inv_mk ?_ rfl rfl rfl rfl rfl rfl rfl rfl rfl rfl rfl rfl rfl rfl rfl rfl)

theorem State.takeReads_inv {s : State} (n : Nat) (r : Nat) (c : Nat) (t : Nat) (got : List (ArrayRead × List Byte))
    (h0 : s.Inv) :
    (State.takeReads s n r c t got).Inv := by
  unfold State.takeReads
  try dsimp only
  repeat' (first
    | with_reducible assumption | with_reducible apply State.region_inv | with_reducible apply State.setRegion_inv
    | with_reducible apply foldl_inv | with_reducible apply foldl_inv2 | with_reducible apply foldl_inv1
    | with_reducible apply foldl_canon | with_reducible apply State.setRegion_inv
    | with_reducible apply State.region_inv | split | exact fun h => h | exact fun h => wf_smapAllTo h _
    | exact fun h => wf_sfilter h _ | exact fun _ => rfl | intro _ _ _ | intro _ _ | intro _ | dsimp only
    | contradiction
    | with_reducible refine inv_mk ?_ rfl rfl rfl rfl rfl rfl rfl rfl rfl rfl rfl rfl rfl rfl rfl rfl
    | with_reducible refine canon_mk ?_ rfl rfl)

theorem State.classTile_inv {s : State} (n : Nat) (r : Nat) (c : Nat) (t : Nat) (loads : List LoadGroup) (h0 : s.Inv) :
    (State.classTile s n r c t loads).Inv := by
  unfold State.classTile
  try dsimp only
  repeat' (first
    | with_reducible assumption | with_reducible apply State.region_inv | with_reducible apply State.setRegion_inv
    | with_reducible apply foldl_inv | with_reducible apply foldl_inv2 | with_reducible apply foldl_inv1
    | with_reducible apply foldl_canon | with_reducible apply State.setRegion_inv
    | with_reducible apply State.region_inv | split | exact fun h => h | exact fun h => wf_smapAllTo h _
    | exact fun h => wf_sfilter h _ | exact fun _ => rfl | intro _ _ _ | intro _ _ | intro _ | dsimp only
    | contradiction
    | with_reducible refine inv_mk ?_ rfl rfl rfl rfl rfl rfl rfl rfl rfl rfl rfl rfl rfl rfl rfl rfl
    | with_reducible refine canon_mk ?_ rfl rfl)

theorem State.readDone_inv {s : State} (who : Requester) (d : LineData) (h0 : s.Inv) :
    (State.readDone s who d).Inv := by
  unfold State.readDone
  try dsimp only
  repeat' (first
    | with_reducible assumption | with_reducible apply State.lineArrives_inv
    | with_reducible apply State.windowRead_inv | with_reducible apply State.bmeRead_inv
    | with_reducible apply State.spillRead_inv | with_reducible apply foldl_inv | with_reducible apply foldl_inv2
    | with_reducible apply foldl_inv1 | with_reducible apply foldl_canon | with_reducible apply State.setRegion_inv
    | with_reducible apply State.region_inv | split)

theorem State.writeDone_inv {s : State} (who : Requester) (written : Bool) (h0 : s.Inv) :
    (State.writeDone s who written).Inv := by
  unfold State.writeDone
  try dsimp only
  repeat' (first
    | with_reducible assumption | with_reducible apply State.lineWritten_inv
    | with_reducible apply State.windowWritten_inv | with_reducible apply State.bmeWritten_inv
    | with_reducible apply foldl_inv | with_reducible apply foldl_inv2 | with_reducible apply foldl_inv1
    | with_reducible apply foldl_canon | with_reducible apply State.setRegion_inv
    | with_reducible apply State.region_inv | split)

theorem State.writeFailed_inv {s : State} (who : Requester) (cause : Nat) (h0 : s.Inv) :
    (State.writeFailed s who cause).Inv := by
  unfold State.writeFailed
  try dsimp only
  repeat' (first
    | with_reducible assumption | with_reducible apply State.destFault_inv
    | with_reducible apply State.windowWritten_inv | with_reducible apply foldl_inv
    | with_reducible apply foldl_inv2 | with_reducible apply foldl_inv1 | with_reducible apply foldl_canon
    | with_reducible apply State.setRegion_inv | with_reducible apply State.region_inv | split)

theorem State.accessFailed_inv {s : State} (who : Requester) (write : Bool) (cause : Nat) (h0 : s.Inv) :
    (State.accessFailed s who write cause).Inv := by
  unfold State.accessFailed
  try dsimp only
  repeat' (first
    | with_reducible assumption | with_reducible apply State.writeFailed_inv
    | with_reducible apply State.readDone_inv | with_reducible apply foldl_inv | with_reducible apply foldl_inv2
    | with_reducible apply foldl_inv1 | with_reducible apply foldl_canon | with_reducible apply State.setRegion_inv
    | with_reducible apply State.region_inv | split)

theorem State.keepBefore_inv {s : State} (n : Nat) (line : Nat) (h0 : s.Inv) :
    (State.keepBefore s n line).Inv := by
  unfold State.keepBefore
  try dsimp only
  repeat' (first
    | with_reducible assumption | with_reducible apply State.region_inv | with_reducible apply State.setRegion_inv
    | with_reducible apply foldl_inv | with_reducible apply foldl_inv2 | with_reducible apply foldl_inv1
    | with_reducible apply foldl_canon | with_reducible apply State.setRegion_inv
    | with_reducible apply State.region_inv | split | exact fun h => h | exact fun h => wf_smapAllTo h _
    | exact fun h => wf_sfilter h _ | exact fun _ => rfl | intro _ _ _ | intro _ _ | intro _ | dsimp only
    | contradiction
    | with_reducible refine inv_mk ?_ rfl rfl rfl rfl rfl rfl rfl rfl rfl rfl rfl rfl rfl rfl rfl rfl
    | with_reducible refine canon_mk ?_ rfl rfl)

theorem State.makeUnsched_inv {s : State} (u : Unsched) (ecc : Ecc) (h0 : s.Inv) :
    (State.makeUnsched s u ecc).Inv := by
  unfold State.makeUnsched
  try dsimp only
  repeat' (first
    | with_reducible assumption | with_reducible apply State.spadCheck_inv
    | refine State.spadCheck_inv_eq (by assumption) ?_ | with_reducible apply State.region_inv
    | with_reducible apply State.setRegion_inv | with_reducible apply RegionSt.setTag_inv
    | with_reducible apply State.readDone_inv | with_reducible apply State.keepBefore_inv
    | with_reducible apply RegionSt.putLine_inv | with_reducible apply State.writeDone_inv
    | with_reducible apply foldl_inv | with_reducible apply foldl_inv2 | with_reducible apply foldl_inv1
    | with_reducible apply foldl_canon | with_reducible apply State.setRegion_inv
    | with_reducible apply State.region_inv | split)

theorem State.portTaken_inv {s : State} (u : Unsched) (bank : Nat) (write : Bool) (h0 : s.Inv) :
    (State.portTaken s u bank write).Inv := by
  unfold State.portTaken
  split
  · exact h0
  · exact State.tookPort_inv _ _ _ _ h0

theorem State.makeHbm_inv {s : State} (r : MemReq) (ecc : Ecc) (h0 : s.Inv) :
    (State.makeHbm s r ecc).Inv := by
  unfold State.makeHbm
  try dsimp only
  repeat' (first
    | with_reducible assumption | with_reducible apply State.writeDone_inv | with_reducible apply State.hbmWrite_inv
    | with_reducible apply State.hbmCheck_inv | refine State.hbmCheck_inv_eq (by assumption) ?_
    | with_reducible apply State.readDone_inv | with_reducible apply foldl_inv | with_reducible apply foldl_inv2
    | with_reducible apply foldl_inv1 | with_reducible apply foldl_canon | with_reducible apply State.setRegion_inv
    | with_reducible apply State.region_inv | split)

theorem State.takeCxl_inv {s : State} (port : Nat) (index : Nat) (write : Bool) (h0 : s.Inv) :
    (State.takeCxl s port index write).Inv := by
  unfold State.takeCxl
  try dsimp only
  repeat' (first
    | with_reducible assumption | with_reducible apply State.setCxl_inv | with_reducible apply State.emit_inv
    | with_reducible apply foldl_inv | with_reducible apply foldl_inv2 | with_reducible apply foldl_inv1
    | with_reducible apply foldl_canon | with_reducible apply State.setRegion_inv
    | with_reducible apply State.region_inv | split)

theorem State.failCxl_inv {s : State} (port : Nat) (h0 : s.Inv) :
    (State.failCxl s port).Inv := by
  unfold State.failCxl
  try dsimp only
  repeat' (first
    | with_reducible assumption | with_reducible apply State.setCxl_inv
    | with_reducible apply State.accessFailed_inv | with_reducible apply State.stageFailed_inv
    | with_reducible apply State.cxlUnknown_inv | with_reducible apply foldl_inv | with_reducible apply foldl_inv2
    | with_reducible apply foldl_inv1 | with_reducible apply foldl_canon | with_reducible apply State.setRegion_inv
    | with_reducible apply State.region_inv | split | exact fun h => h | exact fun h => wf_smapAllTo h _
    | exact fun h => wf_sfilter h _ | exact fun _ => rfl | intro _ _ _ | intro _ _ | intro _ | dsimp only
    | contradiction
    | with_reducible refine inv_mk ?_ rfl rfl rfl rfl rfl rfl rfl rfl rfl rfl rfl rfl rfl rfl rfl rfl
    | with_reducible refine canon_mk ?_ rfl rfl
    | with_reducible refine inv_mk_wf ?_ rfl rfl rfl ?_ ?_ ?_ ?_ ?_ ?_ rfl ?_ rfl rfl rfl rfl rfl
    | refine wf_smapAllTo ?_ _)

theorem RegionSt.land_inv {r : RegionSt} (l : List Pending) (p : Pending) (h0 : r.Canon) :
    (RegionSt.land r l p).Canon := by
  unfold RegionSt.land
  try dsimp only
  repeat' (first
    | with_reducible assumption | with_reducible apply RegionSt.setReg_inv
    | with_reducible apply RegionSt.setPred_inv | with_reducible apply RegionSt.setAcc_inv
    | with_reducible apply foldl_inv | with_reducible apply foldl_inv2 | with_reducible apply foldl_inv1
    | with_reducible apply foldl_canon | with_reducible apply State.setRegion_inv
    | with_reducible apply State.region_inv | split | exact fun h => h | exact fun h => wf_smapAllTo h _
    | exact fun h => wf_sfilter h _ | exact fun _ => rfl | intro _ _ _ | intro _ _ | intro _ | dsimp only
    | contradiction
    | with_reducible refine inv_mk ?_ rfl rfl rfl rfl rfl rfl rfl rfl rfl rfl rfl rfl rfl rfl rfl rfl
    | with_reducible refine canon_mk ?_ rfl rfl)

theorem State.landSet_inv {s : State} (n : Nat) (l : List Pending) (track : Bool) (h0 : s.Inv) :
    (State.landSet s n l track).Inv := by
  unfold State.landSet
  try dsimp only
  repeat' (first
    | with_reducible assumption | with_reducible apply State.region_inv | with_reducible apply RegionSt.land_inv
    | with_reducible apply State.count_inv | with_reducible apply State.setRegion_inv
    | with_reducible apply foldl_inv | with_reducible apply foldl_inv2 | with_reducible apply foldl_inv1
    | with_reducible apply foldl_canon | with_reducible apply State.setRegion_inv
    | with_reducible apply State.region_inv | split | exact fun h => h | exact fun h => wf_smapAllTo h _
    | exact fun h => wf_sfilter h _ | exact fun _ => rfl | intro _ _ _ | intro _ _ | intro _ | dsimp only
    | contradiction
    | with_reducible refine inv_mk ?_ rfl rfl rfl rfl rfl rfl rfl rfl rfl rfl rfl rfl rfl rfl rfl rfl
    | with_reducible refine canon_mk ?_ rfl rfl)

theorem State.landRegs_inv {s : State} (n : Nat) (t : Nat) (h0 : s.Inv) :
    (State.landRegs s n t).Inv := by
  unfold State.landRegs
  try dsimp only
  repeat' (first | with_reducible assumption | with_reducible apply State.landSet_inv)

theorem State.landAcc_inv {s : State} (n : Nat) (t : Nat) (h0 : s.Inv) :
    (State.landAcc s n t).Inv := by
  unfold State.landAcc
  try dsimp only
  repeat' (first
    | with_reducible assumption | with_reducible apply State.region_inv | with_reducible apply State.writeSums_inv
    | with_reducible apply State.landSet_inv | with_reducible apply State.setRegion_inv
    | with_reducible apply foldl_inv | with_reducible apply foldl_inv2 | with_reducible apply foldl_inv1
    | with_reducible apply foldl_canon | with_reducible apply State.setRegion_inv
    | with_reducible apply State.region_inv | split | exact fun h => h | exact fun h => wf_smapAllTo h _
    | exact fun h => wf_sfilter h _ | exact fun _ => rfl | intro _ _ _ | intro _ _ | intro _ | dsimp only
    | contradiction
    | with_reducible refine inv_mk ?_ rfl rfl rfl rfl rfl rfl rfl rfl rfl rfl rfl rfl rfl rfl rfl rfl
    | with_reducible refine canon_mk ?_ rfl rfl)

theorem RegionSt.release_inv {r : RegionSt} (t : Nat) (h0 : r.Canon) :
    (RegionSt.release r t).Canon := by
  unfold RegionSt.release
  try dsimp only
  repeat' (first
    | with_reducible assumption | with_reducible apply RegionSt.setTag_inv | with_reducible apply foldl_inv
    | with_reducible apply foldl_inv2 | with_reducible apply foldl_inv1 | with_reducible apply foldl_canon
    | with_reducible apply State.setRegion_inv | with_reducible apply State.region_inv | split | exact fun h => h
    | exact fun h => wf_smapAllTo h _ | exact fun h => wf_sfilter h _ | exact fun _ => rfl | intro _ _ _ | intro _ _
    | intro _ | dsimp only | contradiction
    | with_reducible refine inv_mk ?_ rfl rfl rfl rfl rfl rfl rfl rfl rfl rfl rfl rfl rfl rfl rfl rfl
    | with_reducible refine canon_mk ?_ rfl rfl)

theorem State.countWaits_inv {s : State} (n : Nat) (w : Waits) (h0 : s.Inv) :
    (State.countWaits s n w).Inv := by
  unfold State.countWaits
  try dsimp only
  repeat' (first
    | with_reducible assumption | with_reducible apply State.count_inv | with_reducible apply foldl_inv
    | with_reducible apply foldl_inv2 | with_reducible apply foldl_inv1 | with_reducible apply foldl_canon
    | with_reducible apply State.setRegion_inv | with_reducible apply State.region_inv | split)

theorem State.tagwait_inv {s : State} (n : Nat) (tagged : Bool) (h0 : s.Inv) :
    (State.tagwait s n tagged).2.Inv := by
  unfold State.tagwait
  try dsimp only
  repeat' (first
    | with_reducible assumption | with_reducible apply State.setPtbCount_inv | with_reducible apply foldl_inv
    | with_reducible apply foldl_inv2 | with_reducible apply foldl_inv1 | with_reducible apply foldl_canon
    | with_reducible apply State.setRegion_inv | with_reducible apply State.region_inv | split)
theorem State.tagwait_inv_eq {s : State} {n : Nat} {tagged : Bool} {zr} {zt : State}
    (e0 : (State.tagwait s n tagged) = (zr, zt)) (h0 : s.Inv) :
    zt.Inv := by
  have i := State.tagwait_inv n tagged h0
  rw [e0] at i
  exact i

theorem State.stopTrap_inv {s : State} (region : Nat) (cause : Nat) (slot : Nat) (tagv : Bool) (tag : BitVec 12)
    (h0 : s.Inv) :
    (State.stopTrap s region cause slot tagv tag).Inv := by
  unfold State.stopTrap
  try dsimp only
  repeat' (first
    | with_reducible assumption | with_reducible apply State.put_inv | with_reducible apply State.stopSeq_inv
    | with_reducible apply foldl_inv | with_reducible apply foldl_inv2 | with_reducible apply foldl_inv1
    | with_reducible apply foldl_canon | with_reducible apply State.setRegion_inv
    | with_reducible apply State.region_inv | split)

theorem State.limitExec_inv {s : State} (w : Nat) (h0 : s.Inv) :
    (State.limitExec s w).Inv := by
  unfold State.limitExec
  try dsimp only
  repeat' (first
    | with_reducible assumption | with_reducible apply foldl_inv | with_reducible apply foldl_inv2
    | with_reducible apply foldl_inv1 | with_reducible apply foldl_canon | with_reducible apply State.setRegion_inv
    | with_reducible apply State.region_inv | split | exact fun h => h | exact fun h => wf_smapAllTo h _
    | exact fun h => wf_sfilter h _ | exact fun _ => rfl | intro _ _ _ | intro _ _ | intro _ | dsimp only
    | contradiction
    | with_reducible refine inv_mk ?_ rfl rfl rfl rfl rfl rfl rfl rfl rfl rfl rfl rfl rfl rfl rfl rfl)

theorem State.spadRead_inv {s : State} (n : Nat) (line : Nat) (upsets : List (Nat × Bool)) (h0 : s.Inv) :
    (State.spadRead s n line upsets).2.2.Inv := by
  unfold State.spadRead
  try dsimp only
  repeat' (first
    | with_reducible assumption | with_reducible apply State.region_inv | with_reducible apply State.spadError_inv
    | with_reducible apply State.spadCheck_inv | refine State.spadCheck_inv_eq (by assumption) ?_
    | with_reducible apply foldl_inv | with_reducible apply foldl_inv2 | with_reducible apply foldl_inv1
    | with_reducible apply foldl_canon | with_reducible apply State.setRegion_inv
    | with_reducible apply State.region_inv | split)
theorem State.spadRead_inv_eq {s : State} {n : Nat} {line : Nat} {upsets : List (Nat × Bool)} {za zb} {zt : State}
    (e0 : (State.spadRead s n line upsets) = (za, zb, zt)) (h0 : s.Inv) :
    zt.Inv := by
  have i := State.spadRead_inv n line upsets h0
  rw [e0] at i
  exact i

theorem State.portRead_inv {s : State} (n : Nat) (array : List ArrayRead) (accs : List Access) (t : Nat) (q : PortReq)
    (upsets : List (Nat × Bool)) (h0 : s.Inv) :
    (State.portRead s n array accs t q upsets).2.2.2.Inv := by
  unfold State.portRead
  try dsimp only
  repeat' (first
    | with_reducible assumption | with_reducible apply State.count_inv | with_reducible apply State.spadRead_inv
    | refine State.spadRead_inv_eq (by assumption) ?_ | with_reducible apply foldl_inv
    | with_reducible apply foldl_inv2 | with_reducible apply foldl_inv1 | with_reducible apply foldl_canon
    | with_reducible apply State.setRegion_inv | with_reducible apply State.region_inv | split)
theorem State.portRead_inv_eq {s : State} {n : Nat} {array : List ArrayRead} {accs : List Access} {t : Nat}
    {q : PortReq} {upsets : List (Nat × Bool)} {za zb zc} {zt : State}
    (e0 : (State.portRead s n array accs t q upsets) = (za, zb, zc, zt)) (h0 : s.Inv) :
    zt.Inv := by
  have i := State.portRead_inv n array accs t q upsets h0
  rw [e0] at i
  exact i

theorem State.addPending_inv {s : State} (n : Nat) (l : List Pending) (h0 : s.Inv) :
    (State.addPending s n l).Inv := by
  unfold State.addPending
  try dsimp only
  repeat' (first
    | with_reducible assumption | with_reducible apply State.setRegion_inv | with_reducible apply State.region_inv
    | with_reducible apply foldl_inv | with_reducible apply foldl_inv2 | with_reducible apply foldl_inv1
    | with_reducible apply foldl_canon | with_reducible apply State.setRegion_inv
    | with_reducible apply State.region_inv | split | exact fun h => h | exact fun h => wf_smapAllTo h _
    | exact fun h => wf_sfilter h _ | exact fun _ => rfl | intro _ _ _ | intro _ _ | intro _ | dsimp only
    | contradiction
    | with_reducible refine inv_mk ?_ rfl rfl rfl rfl rfl rfl rfl rfl rfl rfl rfl rfl rfl rfl rfl rfl
    | with_reducible refine canon_mk ?_ rfl rfl)

theorem State.accessReads_inv {s : State} (n : Nat) (t : Nat) (array : List ArrayRead) (accs : List Access)
    (upsets : List (Nat × Bool)) (a : Access) (h0 : s.Inv) :
    (State.accessReads s n t array accs upsets a).Inv := by
  unfold State.accessReads
  try dsimp only
  repeat' (first
    | with_reducible assumption | with_reducible apply State.portRead_inv
    | refine State.portRead_inv_eq (by assumption) ?_ | with_reducible apply State.addPending_inv
    | with_reducible apply State.count_inv | with_reducible apply State.region_inv
    | with_reducible apply State.setRegion_inv | with_reducible apply State.launch_inv
    | with_reducible apply foldl_inv | with_reducible apply foldl_inv2 | with_reducible apply foldl_inv1
    | with_reducible apply foldl_canon | with_reducible apply State.setRegion_inv
    | with_reducible apply State.region_inv | split | exact fun h => h | exact fun h => wf_smapAllTo h _
    | exact fun h => wf_sfilter h _ | exact fun _ => rfl | intro _ _ _ | intro _ _ | intro _ | dsimp only
    | contradiction
    | with_reducible refine inv_mk ?_ rfl rfl rfl rfl rfl rfl rfl rfl rfl rfl rfl rfl rfl rfl rfl rfl
    | with_reducible refine canon_mk ?_ rfl rfl)

theorem RegionSt.putWords_inv {r : RegionSt} (line : Nat) (ws : List (Nat × BitVec 32)) (h0 : r.Canon) :
    (RegionSt.putWords r line ws).Canon := by
  unfold RegionSt.putWords
  try dsimp only
  repeat' (first
    | with_reducible assumption | with_reducible apply RegionSt.putLine_inv | with_reducible apply RegionSt.put_inv
    | with_reducible apply foldl_inv | with_reducible apply foldl_inv2 | with_reducible apply foldl_inv1
    | with_reducible apply foldl_canon | with_reducible apply State.setRegion_inv
    | with_reducible apply State.region_inv | split | exact fun h => h | exact fun h => wf_smapAllTo h _
    | exact fun h => wf_sfilter h _ | exact fun _ => rfl | intro _ _ _)

theorem State.accessWrites_inv {s : State} (n : Nat) (t : Nat) (array : List ArrayRead) (accs : List Access)
    (a : Access) (h0 : s.Inv) :
    (State.accessWrites s n t array accs a).Inv := by
  unfold State.accessWrites
  try dsimp only
  repeat' (first
    | with_reducible assumption | with_reducible apply State.count_inv | with_reducible apply State.setRegion_inv
    | with_reducible apply RegionSt.putWords_inv | with_reducible apply State.region_inv
    | with_reducible apply foldl_inv | with_reducible apply foldl_inv2 | with_reducible apply foldl_inv1
    | with_reducible apply foldl_canon | with_reducible apply State.setRegion_inv
    | with_reducible apply State.region_inv | split | exact fun h => h | exact fun h => wf_smapAllTo h _
    | exact fun h => wf_sfilter h _ | exact fun _ => rfl | intro _ _ _)

theorem State.portCycle_inv {s : State} (n : Nat) (t : Nat) (upsets : List (Nat × Bool)) (h0 : s.Inv) :
    (State.portCycle s n t upsets).Inv := by
  unfold State.portCycle
  try dsimp only
  repeat' (first
    | with_reducible assumption | with_reducible apply State.region_inv | with_reducible apply State.spadRead_inv
    | refine State.spadRead_inv_eq (by assumption) ?_ | with_reducible apply State.accessReads_inv
    | with_reducible apply State.accessWrites_inv | with_reducible apply State.takeReads_inv
    | with_reducible apply State.setRegion_inv | with_reducible apply foldl_inv | with_reducible apply foldl_inv2
    | with_reducible apply foldl_inv1 | with_reducible apply foldl_canon | with_reducible apply State.setRegion_inv
    | with_reducible apply State.region_inv | split | exact fun h => h | exact fun h => wf_smapAllTo h _
    | exact fun h => wf_sfilter h _ | exact fun _ => rfl | intro _ _ _ | intro _ _ | intro _ | dsimp only
    | contradiction
    | with_reducible refine inv_mk ?_ rfl rfl rfl rfl rfl rfl rfl rfl rfl rfl rfl rfl rfl rfl rfl rfl
    | with_reducible refine canon_mk ?_ rfl rfl)

theorem State.addAccess_inv {s : State} (n : Nat) (a : Access) (h0 : s.Inv) :
    (State.addAccess s n a).Inv := by
  unfold State.addAccess
  try dsimp only
  repeat' (first
    | with_reducible assumption | with_reducible apply State.setRegion_inv | with_reducible apply State.region_inv
    | with_reducible apply foldl_inv | with_reducible apply foldl_inv2 | with_reducible apply foldl_inv1
    | with_reducible apply foldl_canon | with_reducible apply State.setRegion_inv
    | with_reducible apply State.region_inv | split | exact fun h => h | exact fun h => wf_smapAllTo h _
    | exact fun h => wf_sfilter h _ | exact fun _ => rfl | intro _ _ _ | intro _ _ | intro _ | dsimp only
    | contradiction
    | with_reducible refine inv_mk ?_ rfl rfl rfl rfl rfl rfl rfl rfl rfl rfl rfl rfl rfl rfl rfl rfl
    | with_reducible refine canon_mk ?_ rfl rfl)

theorem State.sendTo_inv {s : State} (reader : Nat) (kind : Nat) (from_ : Nat) (start : Nat) (h0 : s.Inv) :
    (State.sendTo s reader kind from_ start).Inv := by
  unfold State.sendTo
  try dsimp only
  repeat' (first
    | with_reducible assumption | with_reducible apply State.setRegion_inv
    | with_reducible apply RegionSt.arrive_inv | with_reducible apply State.region_inv)

theorem State.readFrom_inv {s : State} (reader : Nat) (kind : Nat) (from_ : Nat) (start : Nat) (h0 : s.Inv) :
    (State.readFrom s reader kind from_ start).Inv := by
  unfold State.readFrom
  try dsimp only
  repeat' (first
    | with_reducible assumption | with_reducible apply State.setRegion_inv | with_reducible apply RegionSt.took_inv
    | with_reducible apply State.region_inv | with_reducible apply RegionSt.freeSlot_inv)

theorem State.startV_inv {s : State} (n : Nat) (t : Nat) (q : QWord) (w : BitVec 64) (h0 : s.Inv) :
    (State.startV s n t q w).Inv := by
  unfold State.startV
  try dsimp only
  repeat' (first
    | with_reducible assumption | with_reducible apply State.region_inv | with_reducible apply State.count_inv
    | with_reducible apply State.addAccess_inv | with_reducible apply State.addPending_inv
    | with_reducible apply State.sendTo_inv | with_reducible apply State.setRegion_inv
    | with_reducible apply foldl_inv | with_reducible apply foldl_inv2 | with_reducible apply foldl_inv1
    | with_reducible apply foldl_canon | with_reducible apply State.setRegion_inv
    | with_reducible apply State.region_inv | split | exact fun h => h | exact fun h => wf_smapAllTo h _
    | exact fun h => wf_sfilter h _ | exact fun _ => rfl | intro _ _ _ | intro _ _ | intro _ | dsimp only
    | contradiction
    | with_reducible refine inv_mk ?_ rfl rfl rfl rfl rfl rfl rfl rfl rfl rfl rfl rfl rfl rfl rfl rfl
    | with_reducible refine canon_mk ?_ rfl rfl)

theorem State.crossCycle_inv {s : State} (n : Nat) (t : Nat) (h0 : s.Inv) :
    (State.crossCycle s n t).Inv := by
  unfold State.crossCycle
  try dsimp only
  repeat' (first
    | with_reducible assumption | with_reducible apply State.region_inv | with_reducible apply State.setRegion_inv
    | with_reducible apply State.sendTo_inv | with_reducible apply State.addPending_inv
    | with_reducible apply State.readFrom_inv | with_reducible apply foldl_inv | with_reducible apply foldl_inv2
    | with_reducible apply foldl_inv1 | with_reducible apply foldl_canon | with_reducible apply State.setRegion_inv
    | with_reducible apply State.region_inv | split | exact fun h => h | exact fun h => wf_smapAllTo h _
    | exact fun h => wf_sfilter h _ | exact fun _ => rfl | intro _ _ _ | intro _ _ | intro _ | dsimp only
    | contradiction
    | with_reducible refine inv_mk ?_ rfl rfl rfl rfl rfl rfl rfl rfl rfl rfl rfl rfl rfl rfl rfl rfl
    | with_reducible refine canon_mk ?_ rfl rfl)

theorem State.rowMask_inv {s : State} (n : Nat) (f : LsSlot) (addr : Nat) (h0 : s.Inv) :
    (State.rowMask s n f addr).2.Inv := by
  unfold State.rowMask
  try dsimp only
  repeat' (first
    | with_reducible assumption | with_reducible apply State.count_inv | with_reducible apply State.region_inv
    | with_reducible apply foldl_inv | with_reducible apply foldl_inv2 | with_reducible apply foldl_inv1
    | with_reducible apply foldl_canon | with_reducible apply State.setRegion_inv
    | with_reducible apply State.region_inv | split)
theorem State.rowMask_inv_eq {s : State} {n : Nat} {f : LsSlot} {addr : Nat} {zr} {zt : State}
    (e0 : (State.rowMask s n f addr) = (zr, zt)) (h0 : s.Inv) :
    zt.Inv := by
  have i := State.rowMask_inv n f addr h0
  rw [e0] at i
  exact i

theorem State.startLs_inv {s : State} (n : Nat) (t : Nat) (q : QWord) (w : Slot) (load : Bool) (h0 : s.Inv) :
    (State.startLs s n t q w load).Inv := by
  unfold State.startLs
  try dsimp only
  repeat' (first
    | with_reducible assumption | with_reducible apply State.region_inv | with_reducible apply State.addPending_inv
    | with_reducible apply State.setRegion_inv | with_reducible apply RegionSt.setTag_inv
    | with_reducible apply State.addAccess_inv | with_reducible apply State.rowMask_inv
    | refine State.rowMask_inv_eq (by assumption) ?_ | with_reducible apply foldl_inv
    | with_reducible apply foldl_inv2 | with_reducible apply foldl_inv1 | with_reducible apply foldl_canon
    | with_reducible apply State.setRegion_inv | with_reducible apply State.region_inv | split | exact fun h => h
    | exact fun h => wf_smapAllTo h _ | exact fun h => wf_sfilter h _ | exact fun _ => rfl | intro _ _ _ | intro _ _
    | intro _ | dsimp only | contradiction
    | with_reducible refine inv_mk ?_ rfl rfl rfl rfl rfl rfl rfl rfl rfl rfl rfl rfl rfl rfl rfl rfl
    | with_reducible refine canon_mk ?_ rfl rfl)

theorem State.allRetired_inv {s : State} (q : QWord) (h0 : s.Inv) :
    (State.allRetired s q).Inv := by
  unfold State.allRetired
  try dsimp only
  repeat' (first
    | with_reducible assumption | with_reducible apply State.trace_inv | with_reducible apply foldl_inv
    | with_reducible apply foldl_inv2 | with_reducible apply foldl_inv1 | with_reducible apply foldl_canon
    | with_reducible apply State.setRegion_inv | with_reducible apply State.region_inv | split | exact fun h => h
    | exact fun h => wf_smapAllTo h _ | exact fun h => wf_sfilter h _ | exact fun _ => rfl | intro _ _ _ | intro _ _
    | intro _ | dsimp only | contradiction
    | with_reducible refine inv_mk ?_ rfl rfl rfl rfl rfl rfl rfl rfl rfl rfl rfl rfl rfl rfl rfl rfl)

theorem State.landCycle_inv {s : State} (n : Nat) (t : Nat) (h0 : s.Inv) :
    (State.landCycle s n t).Inv := by
  unfold State.landCycle
  try dsimp only
  repeat' (first
    | with_reducible assumption | with_reducible apply State.setRegion_inv
    | with_reducible apply RegionSt.release_inv | with_reducible apply State.region_inv
    | with_reducible apply State.landAcc_inv | with_reducible apply State.landRegs_inv
    | with_reducible apply RegionSt.writeLoads_inv)

theorem State.tileCycle_inv {s : State} (n : Nat) (r : Nat) (c : Nat) (t : Nat) (h0 : s.Inv) :
    (State.tileCycle s n r c t).Inv := by
  unfold State.tileCycle
  try dsimp only
  repeat' (first
    | with_reducible assumption | with_reducible apply State.addRows_inv | with_reducible apply State.roundRows_inv
    | with_reducible apply State.multiplyRows_inv)

theorem State.slotsCycle_inv {s : State} (n : Nat) (t : Nat) (q : QWord) (upsets : List (Nat × Bool)) (h0 : s.Inv) :
    (State.slotsCycle s n t q upsets).Inv := by
  unfold State.slotsCycle
  try dsimp only
  repeat' (first
    | with_reducible assumption | with_reducible apply State.crossCycle_inv | with_reducible apply State.startV_inv
    | with_reducible apply State.startLs_inv | with_reducible apply State.portCycle_inv
    | with_reducible apply foldl_inv | with_reducible apply foldl_inv2 | with_reducible apply foldl_inv1
    | with_reducible apply foldl_canon | with_reducible apply State.setRegion_inv
    | with_reducible apply State.region_inv | split)

theorem RegionSt.ranWord_inv {x : RegionSt} (q : QWord) (rest : List QWord) (t : Nat) (tick : Nat)
    (hq : rest.length ≤ 64) (h0 : x.Canon) :
    (RegionSt.ranWord x q rest t tick).Canon := by
  unfold RegionSt.ranWord
  exact { h0 with queue := hq }

theorem State.runWord_inv {s : State} (n : Nat) (q : QWord) (rest : List QWord) (upsets : List (Nat × Bool))
    (hq : rest.length ≤ 64) (h0 : s.Inv) :
    (State.runWord s n q rest upsets).Inv := by
  unfold State.runWord
  try dsimp only
  repeat' (first
    | with_reducible assumption | with_reducible apply State.region_inv | with_reducible apply State.flipTile_inv
    | with_reducible apply State.enterArray_inv | with_reducible apply State.landCycle_inv
    | with_reducible apply State.classTile_inv | with_reducible apply State.slotsCycle_inv
    | with_reducible apply State.tileCycle_inv | with_reducible apply State.setRegion_inv
    | with_reducible apply RegionSt.ranWord_inv _ _ _ _ hq | with_reducible apply State.meterOwn_inv
    | with_reducible apply State.allRetired_inv | with_reducible apply State.pruneArray_inv
    | with_reducible apply foldl_inv | with_reducible apply foldl_inv2 | with_reducible apply foldl_inv1
    | with_reducible apply foldl_canon | with_reducible apply State.setRegion_inv
    | with_reducible apply State.region_inv | split)

theorem State.ownHold_inv {s : State} (n : Nat) (t : Nat) (q : QWord) (h0 : s.Inv) :
    (State.ownHold s n t q).Inv := by
  unfold State.ownHold
  try dsimp only
  repeat' (first
    | with_reducible assumption | with_reducible apply State.region_inv | with_reducible apply State.setRegion_inv
    | with_reducible apply foldl_inv | with_reducible apply foldl_inv2 | with_reducible apply foldl_inv1
    | with_reducible apply foldl_canon | with_reducible apply State.setRegion_inv
    | with_reducible apply State.region_inv | split | exact fun h => h | exact fun h => wf_smapAllTo h _
    | exact fun h => wf_sfilter h _ | exact fun _ => rfl | intro _ _ _ | intro _ _ | intro _ | dsimp only
    | contradiction
    | with_reducible refine inv_mk ?_ rfl rfl rfl rfl rfl rfl rfl rfl rfl rfl rfl rfl rfl rfl rfl rfl
    | with_reducible refine canon_mk ?_ rfl rfl)

theorem State.waitWord_inv {s : State} (n : Nat) (w : Waits) (h0 : s.Inv) :
    (State.waitWord s n w).Inv := by
  unfold State.waitWord
  try dsimp only
  repeat' (first
    | with_reducible assumption | with_reducible apply State.countWaits_inv
    | with_reducible apply State.setRegion_inv | with_reducible apply State.region_inv
    | with_reducible apply foldl_inv | with_reducible apply foldl_inv2 | with_reducible apply foldl_inv1
    | with_reducible apply foldl_canon | with_reducible apply State.setRegion_inv
    | with_reducible apply State.region_inv | split | exact fun h => h | exact fun h => wf_smapAllTo h _
    | exact fun h => wf_sfilter h _ | exact fun _ => rfl | intro _ _ _ | intro _ _ | intro _ | dsimp only
    | contradiction
    | with_reducible refine inv_mk ?_ rfl rfl rfl rfl rfl rfl rfl rfl rfl rfl rfl rfl rfl rfl rfl rfl
    | with_reducible refine canon_mk ?_ rfl rfl)

theorem State.tryWord_inv {s : State} (n : Nat) (upsets : List (Nat × Bool)) (again : Bool) (h0 : s.Inv) :
    (State.tryWord s n upsets again).Inv := by
  unfold State.tryWord
  have he : (s.edge n).Inv := State.edge_inv _ h0
  dsimp only
  generalize s.edge n = e at he ⊢
  split
  · split
    · exact h0
    · exact he
  · rename_i q rest eq
    have hq : rest.length ≤ 64 := by
      have := (State.region_inv (n := n) h0).queue
      rw [eq] at this
      exact Nat.le_trans (Nat.le_succ _) this
    split
    · split
      · exact h0
      · exact he
    · split
      · split
        · exact h0
        · exact State.waitWord_inv _ _ (State.ownHold_inv _ _ _ he)
      · generalize ((match q.ld with | some x => e.laneTagged n x true | none => false)
          || (match q.st with | some x => e.laneTagged n x false | none => false)) = b
        have hh : (e.tagwait n b).2.Inv := State.tagwait_inv _ _ he
        generalize e.tagwait n b = w at hh ⊢
        split
        · exact State.waitWord_inv _ _ hh
        · split
          · exact State.limitExec_inv _ (State.stopTrap_inv _ _ _ _ _ hh)
          · exact State.runWord_inv _ _ _ _ hq hh

theorem State.setX_inv {s : State} (r : Nat) (v : BitVec 64) (h0 : s.Inv) :
    (State.setX s r v).Inv := by
  unfold State.setX
  try dsimp only
  repeat' (first
    | with_reducible assumption | with_reducible apply foldl_inv | with_reducible apply foldl_inv2
    | with_reducible apply foldl_inv1 | with_reducible apply foldl_canon | with_reducible apply State.setRegion_inv
    | with_reducible apply State.region_inv | split | exact fun h => h | exact fun h => wf_smapAllTo h _
    | exact fun h => wf_sfilter h _ | exact fun _ => rfl | intro _ _ _ | intro _ _ | intro _ | dsimp only
    | contradiction
    | with_reducible refine inv_mk ?_ rfl rfl rfl rfl rfl rfl rfl rfl rfl rfl rfl rfl rfl rfl rfl rfl)

theorem State.landX_inv {s : State} (n : Nat) (h0 : s.Inv) :
    (State.landX s n).Inv := by
  unfold State.landX
  try dsimp only
  repeat' (first
    | with_reducible assumption | with_reducible apply State.setX_inv | with_reducible apply foldl_inv
    | with_reducible apply foldl_inv2 | with_reducible apply foldl_inv1 | with_reducible apply foldl_canon
    | with_reducible apply State.setRegion_inv | with_reducible apply State.region_inv | split | exact fun h => h
    | exact fun h => wf_smapAllTo h _ | exact fun h => wf_sfilter h _ | exact fun _ => rfl | intro _ _ _ | intro _ _
    | intro _ | dsimp only | contradiction
    | with_reducible refine inv_mk ?_ rfl rfl rfl rfl rfl rfl rfl rfl rfl rfl rfl rfl rfl rfl rfl rfl)

theorem State.waitIssue_inv {s : State} (obj : Option Nat) (h0 : s.Inv) :
    (State.waitIssue s obj).Inv := by
  unfold State.waitIssue
  try dsimp only
  repeat' (first
    | with_reducible assumption | with_reducible apply foldl_inv | with_reducible apply foldl_inv2
    | with_reducible apply foldl_inv1 | with_reducible apply foldl_canon | with_reducible apply State.setRegion_inv
    | with_reducible apply State.region_inv | split | exact fun h => h | exact fun h => wf_smapAllTo h _
    | exact fun h => wf_sfilter h _ | exact fun _ => rfl | intro _ _ _ | intro _ _ | intro _ | dsimp only
    | contradiction
    | with_reducible refine inv_mk ?_ rfl rfl rfl rfl rfl rfl rfl rfl rfl rfl rfl rfl rfl rfl rfl rfl)

theorem State.endSegment_inv {s : State} (yieldPoint : Bool) (h0 : s.Inv) :
    (State.endSegment s yieldPoint).Inv := by
  unfold State.endSegment
  try dsimp only
  repeat' (first
    | with_reducible assumption | with_reducible apply foldl_inv | with_reducible apply foldl_inv2
    | with_reducible apply foldl_inv1 | with_reducible apply foldl_canon | with_reducible apply State.setRegion_inv
    | with_reducible apply State.region_inv | split | exact fun h => h | exact fun h => wf_smapAllTo h _
    | exact fun h => wf_sfilter h _ | exact fun _ => rfl | intro _ _ _ | intro _ _ | intro _ | dsimp only
    | contradiction
    | with_reducible refine inv_mk ?_ rfl rfl rfl rfl rfl rfl rfl rfl rfl rfl rfl rfl rfl rfl rfl rfl)

theorem State.issueY_inv {s : State} (n : Nat) (y : BitVec 32) (x : BitVec 64) (ext : BitVec 32) (h0 : s.Inv) :
    (State.issueY s n y x ext).Inv := by
  unfold State.issueY
  try dsimp only
  repeat' (first
    | with_reducible assumption | with_reducible apply State.changeObj_inv
    | with_reducible apply State.typeError_inv | with_reducible apply State.endSegment_inv
    | with_reducible apply foldl_inv | with_reducible apply foldl_inv2 | with_reducible apply foldl_inv1
    | with_reducible apply foldl_canon | with_reducible apply State.setRegion_inv
    | with_reducible apply State.region_inv | split | exact fun h => h | exact fun h => wf_smapAllTo h _
    | exact fun h => wf_sfilter h _ | exact fun _ => rfl | intro _ _ _ | intro _ _ | intro _ | dsimp only
    | contradiction
    | with_reducible refine inv_mk ?_ rfl rfl rfl rfl rfl rfl rfl rfl rfl rfl rfl rfl rfl rfl rfl rfl)

theorem State.issueSummary_inv {s : State} (n : Nat) (v : BitVec 64) (h0 : s.Inv) :
    (State.issueSummary s n v).Inv := by
  unfold State.issueSummary
  try dsimp only
  repeat' (first
    | with_reducible assumption | with_reducible apply foldl_inv | with_reducible apply foldl_inv2
    | with_reducible apply foldl_inv1 | with_reducible apply foldl_canon | with_reducible apply State.setRegion_inv
    | with_reducible apply State.region_inv | split | exact fun h => h | exact fun h => wf_smapAllTo h _
    | exact fun h => wf_sfilter h _ | exact fun _ => rfl | intro _ _ _ | intro _ _ | intro _ | dsimp only
    | contradiction
    | with_reducible refine inv_mk ?_ rfl rfl rfl rfl rfl rfl rfl rfl rfl rfl rfl rfl rfl rfl rfl rfl)

theorem RegionSt.pushWord_inv {r : RegionSt} (q : QWord) (h0 : r.Canon) :
    (RegionSt.pushWord r q).Canon := by
  unfold RegionSt.pushWord
  split
  · rename_i hn
    refine { h0 with queue := ?_ }
    simp only [List.length_append, List.length_singleton]; omega
  · exact h0

theorem State.issueSlots_inv {s : State} (w : InsnWord) (n : Nat) (h0 : s.Inv) :
    (State.issueSlots s w n).Inv := by
  unfold State.issueSlots
  try dsimp only
  repeat' (first
    | with_reducible assumption | with_reducible apply State.issueY_inv
    | with_reducible apply State.issueSummary_inv | with_reducible apply foldl_inv | with_reducible apply foldl_inv2
    | with_reducible apply foldl_inv1 | with_reducible apply foldl_canon | with_reducible apply State.setRegion_inv
    | with_reducible apply State.region_inv | split)

theorem State.markIssued_inv {s : State} (n : Nat) (next : BitVec 22 × Option Branch) (recs : BufRec × BufRec)
    (result : Option (Nat × Nat × BitVec 64)) (h0 : s.Inv) :
    (State.markIssued s n next recs result).Inv := by
  unfold State.markIssued
  try dsimp only
  repeat' (first
    | with_reducible assumption | with_reducible apply foldl_inv | with_reducible apply foldl_inv2
    | with_reducible apply foldl_inv1 | with_reducible apply foldl_canon | with_reducible apply State.setRegion_inv
    | with_reducible apply State.region_inv | split | exact fun h => h | exact fun h => wf_smapAllTo h _
    | exact fun h => wf_sfilter h _ | exact fun _ => rfl | intro _ _ _ | intro _ _ | intro _ | dsimp only
    | contradiction
    | with_reducible refine inv_mk ?_ rfl rfl rfl rfl rfl rfl rfl rfl rfl rfl rfl rfl rfl rfl rfl rfl)

theorem State.pushWords_inv {s : State} (q : QWord) (h0 : s.Inv) :
    (State.pushWords s q).Inv := by
  unfold State.pushWords
  try dsimp only
  repeat' (first
    | with_reducible assumption | with_reducible apply State.each_inv | with_reducible apply State.setRegion_inv
    | with_reducible apply RegionSt.pushWord_inv | with_reducible apply State.region_inv
    | with_reducible apply foldl_inv | with_reducible apply foldl_inv2 | with_reducible apply foldl_inv1
    | with_reducible apply foldl_canon | with_reducible apply State.setRegion_inv
    | with_reducible apply State.region_inv | split | exact fun h => h | exact fun h => wf_smapAllTo h _
    | exact fun h => wf_sfilter h _ | exact fun _ => rfl | intro _ _ _)

theorem State.countBreak_inv {s : State} (n : Nat) (h0 : s.Inv) :
    (State.countBreak s n).Inv := by
  unfold State.countBreak
  try dsimp only
  repeat' (first
    | with_reducible assumption | with_reducible apply foldl_inv | with_reducible apply foldl_inv2
    | with_reducible apply foldl_inv1 | with_reducible apply foldl_canon | with_reducible apply State.setRegion_inv
    | with_reducible apply State.region_inv | split | exact fun h => h | exact fun h => wf_smapAllTo h _
    | exact fun h => wf_sfilter h _ | exact fun _ => rfl | intro _ _ _ | intro _ _ | intro _ | dsimp only
    | contradiction
    | with_reducible refine inv_mk ?_ rfl rfl rfl rfl rfl rfl rfl rfl rfl rfl rfl rfl rfl rfl rfl rfl)

theorem State.issueWord_inv {s : State} (w : InsnWord) (h0 : s.Inv) :
    (State.issueWord s w).Inv := by
  unfold State.issueWord
  try dsimp only
  repeat' (first
    | with_reducible assumption | with_reducible apply State.countBreak_inv
    | with_reducible apply State.pushWords_inv | with_reducible apply State.markIssued_inv
    | with_reducible apply State.issueSlots_inv)

theorem State.fetchWord_inv {s : State} (pc : Nat) (e : Ecc) (h0 : s.Inv) :
    (State.fetchWord s pc e).Inv := by
  unfold State.fetchWord
  try dsimp only
  repeat' (first
    | with_reducible assumption | with_reducible apply foldl_inv | with_reducible apply foldl_inv2
    | with_reducible apply foldl_inv1 | with_reducible apply foldl_canon | with_reducible apply State.setRegion_inv
    | with_reducible apply State.region_inv | split | exact fun h => h | exact fun h => wf_smapAllTo h _
    | exact fun h => wf_sfilter h _ | exact fun _ => rfl | intro _ _ _ | intro _ _ | intro _ | dsimp only
    | contradiction
    | with_reducible refine inv_mk ?_ rfl rfl rfl rfl rfl rfl rfl rfl rfl rfl rfl rfl rfl rfl rfl rfl)

theorem State.tryIssue_inv {s : State} (e : Ecc) (h0 : s.Inv) :
    (State.tryIssue s e).Inv := by
  unfold State.tryIssue
  try dsimp only
  repeat' (first
    | with_reducible assumption
    | with_reducible apply State.fetchWord_inv | with_reducible apply State.logRec_inv
    | with_reducible apply State.stopTrap_inv | with_reducible apply State.landX_inv
    | with_reducible apply State.waitIssue_inv | with_reducible apply State.issueWord_inv
    | with_reducible apply State.at_inv | with_reducible apply foldl_inv | with_reducible apply foldl_inv2
    | with_reducible apply foldl_inv1 | with_reducible apply foldl_canon | with_reducible apply State.setRegion_inv
    | with_reducible apply State.region_inv | split | exact fun h => h | exact fun h => wf_smapAllTo h _
    | exact fun h => wf_sfilter h _ | exact fun _ => rfl | intro _ _ _ | intro _ _ | intro _ | dsimp only
    | contradiction
    | with_reducible refine inv_mk ?_ rfl rfl rfl rfl rfl rfl rfl rfl rfl rfl rfl rfl rfl rfl rfl rfl)

theorem State.resumeSeq_inv {s : State} (h0 : s.Inv) :
    (State.resumeSeq s).Inv := by
  unfold State.resumeSeq
  try dsimp only
  repeat' (first
    | with_reducible assumption | with_reducible apply foldl_inv | with_reducible apply foldl_inv2
    | with_reducible apply foldl_inv1 | with_reducible apply foldl_canon | with_reducible apply State.setRegion_inv
    | with_reducible apply State.region_inv | split | exact fun h => h | exact fun h => wf_smapAllTo h _
    | exact fun h => wf_sfilter h _ | exact fun _ => rfl | intro _ _ _ | intro _ _ | intro _ | dsimp only
    | contradiction
    | with_reducible refine inv_mk ?_ rfl rfl rfl rfl rfl rfl rfl rfl rfl rfl rfl rfl rfl rfl rfl rfl)

theorem State.landSummary_inv {s : State} (h0 : s.Inv) :
    (State.landSummary s).Inv := by
  unfold State.landSummary
  try dsimp only
  repeat' (first
    | with_reducible assumption | with_reducible apply State.setX_inv | with_reducible apply State.landX_inv
    | with_reducible apply State.at_inv | with_reducible apply foldl_inv | with_reducible apply foldl_inv2
    | with_reducible apply foldl_inv1 | with_reducible apply foldl_canon | with_reducible apply State.setRegion_inv
    | with_reducible apply State.region_inv | split | exact fun h => h | exact fun h => wf_smapAllTo h _
    | exact fun h => wf_sfilter h _ | exact fun _ => rfl | intro _ _ _ | intro _ _ | intro _ | dsimp only
    | contradiction
    | with_reducible refine inv_mk ?_ rfl rfl rfl rfl rfl rfl rfl rfl rfl rfl rfl rfl rfl rfl rfl rfl)

theorem State.openSegment_inv {s : State} (h0 : s.Inv) :
    (State.openSegment s).Inv := by
  unfold State.openSegment
  try dsimp only
  repeat' (first
    | with_reducible assumption | with_reducible apply foldl_inv | with_reducible apply foldl_inv2
    | with_reducible apply foldl_inv1 | with_reducible apply foldl_canon | with_reducible apply State.setRegion_inv
    | with_reducible apply State.region_inv | split | exact fun h => h | exact fun h => wf_smapAllTo h _
    | exact fun h => wf_sfilter h _ | exact fun _ => rfl | intro _ _ _ | intro _ _ | intro _ | dsimp only
    | contradiction
    | with_reducible refine inv_mk ?_ rfl rfl rfl rfl rfl rfl rfl rfl rfl rfl rfl rfl rfl rfl rfl rfl)

end Sys2Proof.Machine
end

