-- ==== Sys2Proof/Laws/InvImages.lean ====
section
/-! SUPPORT. The invariant through the firmware: serving, yielding, loading and partitions. -/
namespace Sys2Proof.Machine

theorem State.setEntryBits_inv {s : State} (a : Nat) (e : BitVec 64) (h0 : s.Inv) :
    (State.setEntryBits s a e).Inv := by
  unfold State.setEntryBits
  try dsimp only
  repeat' (first | with_reducible assumption | with_reducible apply State.hbmWrite_inv)

theorem State.clearFrame_inv {s : State} (l : Leaf) (h0 : s.Inv) :
    (State.clearFrame s l).Inv := by
  unfold State.clearFrame
  refine { h0 with hbm := ?_ }
  dsimp only
  exact wf_sfilter h0.hbm _

theorem State.putFrame_inv {s : State} (l : Leaf) (bytes : List (Nat × Byte)) (h0 : s.Inv) :
    (State.putFrame s l bytes).Inv := by
  unfold State.putFrame
  try dsimp only
  repeat' (first
    | with_reducible assumption | with_reducible apply State.linePut_inv | with_reducible apply State.hbmWrite_inv
    | with_reducible apply foldl_inv | with_reducible apply foldl_inv2 | with_reducible apply foldl_inv1
    | with_reducible apply foldl_canon | with_reducible apply State.setRegion_inv
    | with_reducible apply State.region_inv | split | exact fun h => h | exact fun h => wf_smapAllTo h _
    | exact fun h => wf_sfilter h _ | exact fun _ => rfl | intro _ _ _)

theorem State.frameBytes_inv {s : State} (l : Leaf) (h0 : s.Inv) :
    (State.frameBytes s l).2.Inv := by
  unfold State.frameBytes
  try dsimp only
  repeat' (first
    | with_reducible assumption | with_reducible apply State.hbmCheck_inv
    | refine State.hbmCheck_inv_eq (by assumption) ?_ | with_reducible apply foldl_inv
    | with_reducible apply foldl_inv2 | with_reducible apply foldl_inv1 | with_reducible apply foldl_canon
    | with_reducible apply State.setRegion_inv | with_reducible apply State.region_inv | split | exact fun h => h
    | exact fun h => wf_smapAllTo h _ | exact fun h => wf_sfilter h _ | exact fun _ => rfl | intro _ _ _)
theorem State.frameBytes_inv_eq {s : State} {l : Leaf} {zr} {zt : State} (e0 : (State.frameBytes s l) = (zr, zt))
    (h0 : s.Inv) :
    zt.Inv := by
  have i := State.frameBytes_inv l h0
  rw [e0] at i
  exact i

theorem State.askPage_inv {s : State} (va : Nat) (h0 : s.Inv) :
    (State.askPage s va).Inv := by
  unfold State.askPage
  try dsimp only
  repeat' (first
    | with_reducible assumption | with_reducible apply State.emit_inv | with_reducible apply foldl_inv
    | with_reducible apply foldl_inv2 | with_reducible apply foldl_inv1 | with_reducible apply foldl_canon
    | with_reducible apply State.setRegion_inv | with_reducible apply State.region_inv | split | exact fun h => h
    | exact fun h => wf_smapAllTo h _ | exact fun h => wf_sfilter h _ | exact fun _ => rfl | intro _ _ _ | intro _ _
    | intro _ | dsimp only | contradiction
    | with_reducible refine inv_mk ?_ rfl rfl rfl rfl rfl rfl rfl rfl rfl rfl rfl rfl rfl rfl rfl rfl)

theorem State.pageIn_inv {s : State} (va : Nat) (entry : BitVec 64) (bytes : List (Nat × Byte)) (h0 : s.Inv) :
    (State.pageIn s va entry bytes).Inv := by
  unfold State.pageIn
  try dsimp only
  repeat' (first
    | with_reducible assumption | with_reducible apply State.putFrame_inv
    | with_reducible apply State.clearFrame_inv | with_reducible apply State.setEntryBits_inv
    | with_reducible apply foldl_inv | with_reducible apply foldl_inv2 | with_reducible apply foldl_inv1
    | with_reducible apply foldl_canon | with_reducible apply State.setRegion_inv
    | with_reducible apply State.region_inv | split | exact fun h => h | exact fun h => wf_smapAllTo h _
    | exact fun h => wf_sfilter h _ | exact fun _ => rfl | intro _ _ _ | intro _ _ | intro _ | dsimp only
    | contradiction
    | with_reducible refine inv_mk ?_ rfl rfl rfl rfl rfl rfl rfl rfl rfl rfl rfl rfl rfl rfl rfl rfl)

theorem State.holdPage_inv {s : State} (va : Nat) (all : Bool) (h0 : s.Inv) :
    (State.holdPage s va all).Inv := by
  unfold State.holdPage
  try dsimp only
  repeat' (first
    | with_reducible assumption | with_reducible apply State.setEntryBits_inv
    | with_reducible apply State.invalidate_inv | with_reducible apply foldl_inv | with_reducible apply foldl_inv2
    | with_reducible apply foldl_inv1 | with_reducible apply foldl_canon | with_reducible apply State.setRegion_inv
    | with_reducible apply State.region_inv | split | exact fun h => h | exact fun h => wf_smapAllTo h _
    | exact fun h => wf_sfilter h _ | exact fun _ => rfl | intro _ _ _ | intro _ _ | intro _ | dsimp only
    | contradiction
    | with_reducible refine inv_mk ?_ rfl rfl rfl rfl rfl rfl rfl rfl rfl rfl rfl rfl rfl rfl rfl rfl)

theorem State.migrateBegin_inv {s : State} (va : Nat) (h0 : s.Inv) :
    (State.migrateBegin s va).Inv := by
  unfold State.migrateBegin
  try dsimp only
  repeat' (first
    | with_reducible assumption | with_reducible apply State.holdPage_inv | with_reducible apply foldl_inv
    | with_reducible apply foldl_inv2 | with_reducible apply foldl_inv1 | with_reducible apply foldl_canon
    | with_reducible apply State.setRegion_inv | with_reducible apply State.region_inv | split)

theorem State.dropMigrating_inv {s : State} (a : Nat) (h0 : s.Inv) :
    (State.dropMigrating s a).Inv := by
  unfold State.dropMigrating
  try dsimp only
  repeat' (first
    | with_reducible assumption | with_reducible apply foldl_inv | with_reducible apply foldl_inv2
    | with_reducible apply foldl_inv1 | with_reducible apply foldl_canon | with_reducible apply State.setRegion_inv
    | with_reducible apply State.region_inv | split | exact fun h => h | exact fun h => wf_smapAllTo h _
    | exact fun h => wf_sfilter h _ | exact fun _ => rfl | intro _ _ _ | intro _ _ | intro _ | dsimp only
    | contradiction
    | with_reducible refine inv_mk ?_ rfl rfl rfl rfl rfl rfl rfl rfl rfl rfl rfl rfl rfl rfl rfl rfl)

theorem State.migrateEnd_inv {s : State} (va : Nat) (entry : BitVec 64) (h0 : s.Inv) :
    (State.migrateEnd s va entry).Inv := by
  unfold State.migrateEnd
  try dsimp only
  repeat' (first
    | with_reducible assumption | with_reducible apply State.frameBytes_inv
    | refine State.frameBytes_inv_eq (by assumption) ?_ | with_reducible apply State.putFrame_inv
    | with_reducible apply State.clearFrame_inv | with_reducible apply State.dropMigrating_inv
    | with_reducible apply State.setEntryBits_inv | with_reducible apply foldl_inv | with_reducible apply foldl_inv2
    | with_reducible apply foldl_inv1 | with_reducible apply foldl_canon | with_reducible apply State.setRegion_inv
    | with_reducible apply State.region_inv | split)

theorem State.evict_inv {s : State} (va : Nat) (h0 : s.Inv) :
    (State.evict s va).Inv := by
  unfold State.evict
  try dsimp only
  repeat' (first
    | with_reducible assumption | with_reducible apply State.dropMigrating_inv
    | with_reducible apply State.setEntryBits_inv | with_reducible apply foldl_inv | with_reducible apply foldl_inv2
    | with_reducible apply foldl_inv1 | with_reducible apply foldl_canon | with_reducible apply State.setRegion_inv
    | with_reducible apply State.region_inv | split)

theorem State.losePage_inv {s : State} (va : Nat) (a : Nat) (h0 : s.Inv) :
    (State.losePage s va a).Inv := by
  unfold State.losePage
  try dsimp only
  repeat' (first
    | with_reducible assumption | with_reducible apply State.holdPage_inv
    | with_reducible apply State.setEntryBits_inv | with_reducible apply foldl_inv | with_reducible apply foldl_inv2
    | with_reducible apply foldl_inv1 | with_reducible apply foldl_canon | with_reducible apply State.setRegion_inv
    | with_reducible apply State.region_inv | split | exact fun h => h | exact fun h => wf_smapAllTo h _
    | exact fun h => wf_sfilter h _ | exact fun _ => rfl | intro _ _ _ | intro _ _ | intro _ | dsimp only
    | contradiction
    | with_reducible refine inv_mk ?_ rfl rfl rfl rfl rfl rfl rfl rfl rfl rfl rfl rfl rfl rfl rfl rfl
    | with_reducible refine canon_mk ?_ rfl rfl
    | with_reducible refine inv_mk_wf ?_ rfl rfl rfl ?_ ?_ ?_ ?_ ?_ ?_ rfl ?_ rfl rfl rfl rfl rfl
    | refine wf_smapAllTo ?_ _)

theorem State.portAbsent_inv {s : State} (port : Nat) (h0 : s.Inv) :
    OptInv (State.portAbsent s port) := by
  unfold State.portAbsent
  try dsimp only
  repeat' (first
    | with_reducible assumption | with_reducible apply State.holdLine_inv
    | refine State.holdLine_inv_eq (by assumption) ?_ | with_reducible apply State.losePage_inv
    | with_reducible apply State.invalidate_inv | with_reducible apply foldl_inv | with_reducible apply foldl_inv2
    | with_reducible apply foldl_inv1 | with_reducible apply foldl_canon | with_reducible apply State.setRegion_inv
    | with_reducible apply State.region_inv | with_reducible apply optInv_none | with_reducible apply optInv_some
    | with_reducible apply optInv2_none | with_reducible apply optInv2_some | with_reducible apply optInv2_some'
    | with_reducible apply optInv1_none | with_reducible apply optInv1_some | with_reducible apply optInv_bind
    | with_reducible apply optInv_map | with_reducible apply foldl_optInv | split | exact fun h => h
    | exact fun h => wf_smapAllTo h _ | exact fun h => wf_sfilter h _ | exact fun _ => rfl | intro _ _ _ | intro _ _
    | intro _ | dsimp only | contradiction
    | with_reducible refine inv_mk ?_ rfl rfl rfl rfl rfl rfl rfl rfl rfl rfl rfl rfl rfl rfl rfl rfl
    | with_reducible refine canon_mk ?_ rfl rfl
    | with_reducible refine inv_mk_wf ?_ rfl rfl rfl ?_ ?_ ?_ ?_ ?_ ?_ rfl ?_ rfl rfl rfl rfl rfl
    | refine wf_smapAllTo ?_ _)
theorem State.portAbsent_inv_eq {s : State} {port : Nat} {zt : State} (e0 : (State.portAbsent s port) = some zt)
    (h0 : s.Inv) :
    zt.Inv := State.portAbsent_inv port h0 _ e0

theorem State.putSlice_inv {s : State} (rgn : Nat) (a : Nat) (b : List Byte) (h0 : s.Inv) :
    (State.putSlice s rgn a b).Inv := by
  unfold State.putSlice
  try dsimp only
  repeat' (first
    | with_reducible assumption | with_reducible apply State.region_inv | with_reducible apply State.setRegion_inv
    | with_reducible apply RegionSt.putLine_inv | with_reducible apply foldl_inv | with_reducible apply foldl_inv2
    | with_reducible apply foldl_inv1 | with_reducible apply foldl_canon | with_reducible apply State.setRegion_inv
    | with_reducible apply State.region_inv | split | exact fun h => h | exact fun h => wf_smapAllTo h _
    | exact fun h => wf_sfilter h _ | exact fun _ => rfl | intro _ _ _)

theorem State.checkLines_inv {s : State} (rgn : Nat) (line : Nat) (n : Nat) (h0 : s.Inv) :
    (State.checkLines s rgn line n).Inv := by
  unfold State.checkLines
  try dsimp only
  repeat' (first
    | with_reducible assumption | with_reducible apply State.region_inv | with_reducible apply State.spadError_inv
    | with_reducible apply foldl_inv | with_reducible apply foldl_inv2 | with_reducible apply foldl_inv1
    | with_reducible apply foldl_canon | with_reducible apply State.setRegion_inv
    | with_reducible apply State.region_inv | split | exact fun h => h | exact fun h => wf_smapAllTo h _
    | exact fun h => wf_sfilter h _ | exact fun _ => rfl | intro _ _ _)

theorem State.setCtx_inv {s : State} (n : Nat) (b : List Byte) (h0 : s.Inv) :
    (State.setCtx s n b).Inv := by
  unfold State.setCtx
  try dsimp only
  repeat' (first | with_reducible assumption | with_reducible apply State.vaStore_inv)

theorem State.completion_inv {s : State} (b : List Byte) (st : Nat) (h0 : s.Inv) :
    (State.completion s b st).Inv := by
  unfold State.completion
  try dsimp only
  repeat' (first
    | with_reducible assumption | with_reducible apply State.vaStore_inv | with_reducible apply foldl_inv
    | with_reducible apply foldl_inv2 | with_reducible apply foldl_inv1 | with_reducible apply foldl_canon
    | with_reducible apply State.setRegion_inv | with_reducible apply State.region_inv | split)

theorem State.endContext_inv {s : State} (n : Nat) (st : Nat) (h0 : s.Inv) :
    (State.endContext s n st).Inv := by
  unfold State.endContext
  try dsimp only
  repeat' (first
    | with_reducible assumption | with_reducible apply State.completion_inv | with_reducible apply State.setCtx_inv
    | with_reducible apply foldl_inv | with_reducible apply foldl_inv2 | with_reducible apply foldl_inv1
    | with_reducible apply foldl_canon | with_reducible apply State.setRegion_inv
    | with_reducible apply State.region_inv | split | exact fun h => h | exact fun h => wf_smapAllTo h _
    | exact fun h => wf_sfilter h _ | exact fun _ => rfl | intro _ _ _ | intro _ _ | intro _ | dsimp only
    | contradiction
    | with_reducible refine inv_mk ?_ rfl rfl rfl rfl rfl rfl rfl rfl rfl rfl rfl rfl rfl rfl rfl rfl)

theorem State.setRow_inv {s : State} (r : Nat) (x : StepRow) (h0 : s.Inv) :
    (State.setRow s r x).Inv := by
  unfold State.setRow
  try dsimp only
  repeat' (first
    | with_reducible assumption | with_reducible apply foldl_inv | with_reducible apply foldl_inv2
    | with_reducible apply foldl_inv1 | with_reducible apply foldl_canon | with_reducible apply State.setRegion_inv
    | with_reducible apply State.region_inv | split | exact fun h => h | exact fun h => wf_smapAllTo h _
    | exact fun h => wf_sfilter h _ | exact fun _ => rfl | intro _ _ _ | intro _ _ | intro _ | dsimp only
    | contradiction
    | with_reducible refine inv_mk ?_ rfl rfl rfl rfl rfl rfl rfl rfl rfl rfl rfl rfl rfl rfl rfl rfl)

theorem State.maskRow_inv {s : State} (r : Nat) (cause : Nat) (h0 : s.Inv) :
    (State.maskRow s r cause).Inv := by
  unfold State.maskRow
  try dsimp only
  repeat' (first
    | with_reducible assumption | with_reducible apply State.setRow_inv | with_reducible apply foldl_inv
    | with_reducible apply foldl_inv2 | with_reducible apply foldl_inv1 | with_reducible apply foldl_canon
    | with_reducible apply State.setRegion_inv | with_reducible apply State.region_inv | split)

theorem State.applyMask_inv {s : State} (c : MaskChange) (h0 : s.Inv) :
    (State.applyMask s c).Inv := by
  unfold State.applyMask
  try dsimp only
  repeat' (first
    | with_reducible assumption | with_reducible apply State.each_inv | with_reducible apply State.region_inv
    | with_reducible apply State.setRegion_inv | with_reducible apply foldl_inv | with_reducible apply foldl_inv2
    | with_reducible apply foldl_inv1 | with_reducible apply foldl_canon | with_reducible apply State.setRegion_inv
    | with_reducible apply State.region_inv | split | exact fun h => h | exact fun h => wf_smapAllTo h _
    | exact fun h => wf_sfilter h _ | exact fun _ => rfl | intro _ _ _ | intro _ _ | intro _ | dsimp only
    | contradiction
    | with_reducible refine inv_mk ?_ rfl rfl rfl rfl rfl rfl rfl rfl rfl rfl rfl rfl rfl rfl rfl rfl
    | with_reducible refine canon_mk ?_ rfl rfl)

theorem State.landMask_inv {s : State} (h0 : s.Inv) :
    (State.landMask s).Inv := by
  unfold State.landMask
  try dsimp only
  repeat' (first
    | with_reducible assumption | with_reducible apply State.applyMask_inv | with_reducible apply State.at_inv
    | with_reducible apply foldl_inv | with_reducible apply foldl_inv2 | with_reducible apply foldl_inv1
    | with_reducible apply foldl_canon | with_reducible apply State.setRegion_inv
    | with_reducible apply State.region_inv | split | exact fun h => h | exact fun h => wf_smapAllTo h _
    | exact fun h => wf_sfilter h _ | exact fun _ => rfl | intro _ _ _ | intro _ _ | intro _ | dsimp only
    | contradiction
    | with_reducible refine inv_mk ?_ rfl rfl rfl rfl rfl rfl rfl rfl rfl rfl rfl rfl rfl rfl rfl rfl)

theorem State.landMasks_inv {s : State} (l : List MaskChange) (h0 : s.Inv) :
    (State.landMasks s l).Inv := by
  unfold State.landMasks
  try dsimp only
  repeat' (first
    | with_reducible assumption | with_reducible apply State.applyMask_inv | with_reducible apply foldl_inv
    | with_reducible apply foldl_inv2 | with_reducible apply foldl_inv1 | with_reducible apply foldl_canon
    | with_reducible apply State.setRegion_inv | with_reducible apply State.region_inv | split | exact fun h => h
    | exact fun h => wf_smapAllTo h _ | exact fun h => wf_sfilter h _ | exact fun _ => rfl | intro _ _ _ | intro _ _
    | intro _ | dsimp only | contradiction
    | with_reducible refine inv_mk ?_ rfl rfl rfl rfl rfl rfl rfl rfl rfl rfl rfl rfl rfl rfl rfl rfl)

theorem State.putMaskByte_inv {s : State} (r : Nat) (cause : Nat) (h0 : s.Inv) :
    (State.putMaskByte s r cause).Inv := by
  unfold State.putMaskByte
  try dsimp only
  repeat' (first
    | with_reducible assumption | with_reducible apply State.putSlice_inv | with_reducible apply foldl_inv
    | with_reducible apply foldl_inv2 | with_reducible apply foldl_inv1 | with_reducible apply foldl_canon
    | with_reducible apply State.setRegion_inv | with_reducible apply State.region_inv | split)

theorem State.fwMask_inv {s : State} (r : Nat) (cause : Nat) (h0 : s.Inv) :
    (State.fwMask s r cause).Inv := by
  unfold State.fwMask
  try dsimp only
  repeat' (first
    | with_reducible assumption | with_reducible apply State.putMaskByte_inv
    | with_reducible apply State.maskRow_inv | with_reducible apply foldl_inv | with_reducible apply foldl_inv2
    | with_reducible apply foldl_inv1 | with_reducible apply foldl_canon | with_reducible apply State.setRegion_inv
    | with_reducible apply State.region_inv | split)

theorem State.deadlineCheck_inv {s : State} (h0 : s.Inv) :
    (State.deadlineCheck s).Inv := by
  unfold State.deadlineCheck
  try dsimp only
  repeat' (first
    | with_reducible assumption | with_reducible apply State.count_inv | with_reducible apply State.maskRow_inv
    | with_reducible apply foldl_inv | with_reducible apply foldl_inv2 | with_reducible apply foldl_inv1
    | with_reducible apply foldl_canon | with_reducible apply State.setRegion_inv
    | with_reducible apply State.region_inv | split | exact fun h => h | exact fun h => wf_smapAllTo h _
    | exact fun h => wf_sfilter h _ | exact fun _ => rfl | intro _ _ _)

theorem State.putRowLine_inv {s : State} (r : Nat) (line : List Byte) (h0 : s.Inv) :
    (State.putRowLine s r line).Inv := by
  unfold State.putRowLine
  try dsimp only
  repeat' (first
    | with_reducible assumption | with_reducible apply State.putSlice_inv | with_reducible apply foldl_inv
    | with_reducible apply foldl_inv2 | with_reducible apply foldl_inv1 | with_reducible apply foldl_canon
    | with_reducible apply State.setRegion_inv | with_reducible apply State.region_inv | split)

theorem State.clearRowBlock_inv {s : State} (h0 : s.Inv) :
    (State.clearRowBlock s).Inv := by
  unfold State.clearRowBlock
  try dsimp only
  repeat' (first
    | with_reducible assumption | with_reducible apply State.putSlice_inv | with_reducible apply foldl_inv
    | with_reducible apply foldl_inv2 | with_reducible apply foldl_inv1 | with_reducible apply foldl_canon
    | with_reducible apply State.setRegion_inv | with_reducible apply State.region_inv | split | exact fun h => h
    | exact fun h => wf_smapAllTo h _ | exact fun h => wf_sfilter h _ | exact fun _ => rfl | intro _ _ _)

theorem State.noteMap_inv {s : State} (b : List Byte) (h0 : s.Inv) :
    (State.noteMap s b).Inv := by
  unfold State.noteMap
  try dsimp only
  repeat' (first
    | with_reducible assumption | with_reducible apply State.noteAccess_inv | with_reducible apply foldl_inv
    | with_reducible apply foldl_inv2 | with_reducible apply foldl_inv1 | with_reducible apply foldl_canon
    | with_reducible apply State.setRegion_inv | with_reducible apply State.region_inv | split | exact fun h => h
    | exact fun h => wf_smapAllTo h _ | exact fun h => wf_sfilter h _ | exact fun _ => rfl | intro _ _ _ | intro _ _
    | intro _ | dsimp only | contradiction
    | with_reducible refine inv_mk ?_ rfl rfl rfl rfl rfl rfl rfl rfl rfl rfl rfl rfl rfl rfl rfl rfl
    | with_reducible refine canon_mk ?_ rfl rfl
    | with_reducible refine inv_mk_wf ?_ rfl rfl rfl ?_ ?_ ?_ ?_ ?_ ?_ rfl ?_ rfl rfl rfl rfl rfl
    | refine wf_smapAllTo ?_ _)

theorem State.park_inv {s : State} (n : Nat) (h0 : s.Inv) :
    (State.park s n).Inv := by
  unfold State.park
  try dsimp only
  repeat' (first
    | with_reducible assumption | with_reducible apply State.noteMap_inv | with_reducible apply State.setCtx_inv
    | with_reducible apply foldl_inv | with_reducible apply foldl_inv2 | with_reducible apply foldl_inv1
    | with_reducible apply foldl_canon | with_reducible apply State.setRegion_inv
    | with_reducible apply State.region_inv | split | exact fun h => h | exact fun h => wf_smapAllTo h _
    | exact fun h => wf_sfilter h _ | exact fun _ => rfl | intro _ _ _ | intro _ _ | intro _ | dsimp only
    | contradiction
    | with_reducible refine inv_mk ?_ rfl rfl rfl rfl rfl rfl rfl rfl rfl rfl rfl rfl rfl rfl rfl rfl
    | with_reducible refine canon_mk ?_ rfl rfl
    | with_reducible refine inv_mk_wf ?_ rfl rfl rfl ?_ ?_ ?_ ?_ ?_ ?_ rfl ?_ rfl rfl rfl rfl rfl
    | refine wf_smapAllTo ?_ _)

theorem State.unpark_inv {s : State} (n : Nat) (h0 : s.Inv) :
    (State.unpark s n).Inv := by
  unfold State.unpark
  extract_lets b m fr t u
  split
  · exact h0
  · refine State.setCtx_inv _ _ ?_
    have h1 : t.Inv := foldl_inv (fun v f h => foldl_inv (fun w e h => State.hbmWrite_inv _ _ h)
      { h with hbm := by dsimp only; exact wf_sfilter h.hbm _ }) (State.noteMap_inv _ h0)
    exact { h1 with }

theorem State.unloadRows_inv {s : State} (h0 : s.Inv) :
    (State.unloadRows s).Inv := by
  unfold State.unloadRows
  try dsimp only
  repeat' (first
    | with_reducible assumption | with_reducible apply State.setRow_inv | with_reducible apply foldl_inv
    | with_reducible apply foldl_inv2 | with_reducible apply foldl_inv1 | with_reducible apply foldl_canon
    | with_reducible apply State.setRegion_inv | with_reducible apply State.region_inv | split | exact fun h => h
    | exact fun h => wf_smapAllTo h _ | exact fun h => wf_sfilter h _ | exact fun _ => rfl | intro _ _ _)

theorem State.listCommitFaults_inv {s : State} (h0 : s.Inv) :
    (State.listCommitFaults s).Inv := by
  unfold State.listCommitFaults
  try dsimp only
  repeat' (first
    | with_reducible assumption | with_reducible apply State.endContext_inv | with_reducible apply State.setCtx_inv
    | with_reducible apply foldl_inv | with_reducible apply foldl_inv2 | with_reducible apply foldl_inv1
    | with_reducible apply foldl_canon | with_reducible apply State.setRegion_inv
    | with_reducible apply State.region_inv | split | exact fun h => h | exact fun h => wf_smapAllTo h _
    | exact fun h => wf_sfilter h _ | exact fun _ => rfl | intro _ _ _)

theorem State.listRerun_inv {s : State} (pages : List Nat) (faults : List Nat) (n : Nat) (h0 : s.Inv) :
    (State.listRerun s pages faults n).Inv := by
  unfold State.listRerun
  try dsimp only
  repeat' (first
    | with_reducible assumption | with_reducible apply State.endContext_inv | with_reducible apply State.setCtx_inv
    | with_reducible apply foldl_inv | with_reducible apply foldl_inv2 | with_reducible apply foldl_inv1
    | with_reducible apply foldl_canon | with_reducible apply State.setRegion_inv
    | with_reducible apply State.region_inv | split | exact fun h => h | exact fun h => wf_smapAllTo h _
    | exact fun h => wf_sfilter h _ | exact fun _ => rfl | intro _ _ _ | intro _ _ | intro _ | dsimp only
    | contradiction
    | with_reducible refine inv_mk ?_ rfl rfl rfl rfl rfl rfl rfl rfl rfl rfl rfl rfl rfl rfl rfl rfl)

theorem State.listReruns_inv {s : State} (h0 : s.Inv) :
    (State.listReruns s).Inv := by
  unfold State.listReruns
  try dsimp only
  repeat' (first
    | with_reducible assumption | with_reducible apply State.listCommitFaults_inv
    | with_reducible apply State.listRerun_inv | with_reducible apply foldl_inv | with_reducible apply foldl_inv2
    | with_reducible apply foldl_inv1 | with_reducible apply foldl_canon | with_reducible apply State.setRegion_inv
    | with_reducible apply State.region_inv | split | exact fun h => h | exact fun h => wf_smapAllTo h _
    | exact fun h => wf_sfilter h _ | exact fun _ => rfl | intro _ _ _ | intro _ _ | intro _ | dsimp only
    | contradiction
    | with_reducible refine inv_mk ?_ rfl rfl rfl rfl rfl rfl rfl rfl rfl rfl rfl rfl rfl rfl rfl rfl)

theorem State.placeRow_inv {s : State} (r : Nat) (n : Nat) (b : List Byte) (h0 : s.Inv) :
    (State.placeRow s r n b).Inv := by
  unfold State.placeRow
  try dsimp only
  repeat' (first
    | with_reducible assumption | with_reducible apply State.setCtx_inv | with_reducible apply State.setRow_inv
    | with_reducible apply foldl_inv | with_reducible apply foldl_inv2 | with_reducible apply foldl_inv1
    | with_reducible apply foldl_canon | with_reducible apply State.setRegion_inv
    | with_reducible apply State.region_inv | split | exact fun h => h | exact fun h => wf_smapAllTo h _
    | exact fun h => wf_sfilter h _ | exact fun _ => rfl | intro _ _ _ | intro _ _ | intro _ | dsimp only
    | contradiction
    | with_reducible refine inv_mk ?_ rfl rfl rfl rfl rfl rfl rfl rfl rfl rfl rfl rfl rfl rfl rfl rfl)

theorem State.fillRows_inv {s : State} (h0 : s.Inv) :
    (State.fillRows s).Inv := by
  unfold State.fillRows
  try dsimp only
  repeat' (first
    | with_reducible assumption | with_reducible apply State.endContext_inv
    | with_reducible apply State.placeRow_inv | with_reducible apply foldl_inv | with_reducible apply foldl_inv2
    | with_reducible apply foldl_inv1 | with_reducible apply foldl_canon | with_reducible apply State.setRegion_inv
    | with_reducible apply State.region_inv | split | exact fun h => h | exact fun h => wf_smapAllTo h _
    | exact fun h => wf_sfilter h _ | exact fun _ => rfl | intro _ _ _)

theorem State.endExhausted_inv {s : State} (h0 : s.Inv) :
    (State.endExhausted s).Inv := by
  unfold State.endExhausted
  try dsimp only
  repeat' (first
    | with_reducible assumption | with_reducible apply State.endContext_inv | with_reducible apply foldl_inv
    | with_reducible apply foldl_inv2 | with_reducible apply foldl_inv1 | with_reducible apply foldl_canon
    | with_reducible apply State.setRegion_inv | with_reducible apply State.region_inv | split | exact fun h => h
    | exact fun h => wf_smapAllTo h _ | exact fun h => wf_sfilter h _ | exact fun _ => rfl | intro _ _ _ | intro _ _
    | intro _ | dsimp only | contradiction
    | with_reducible refine inv_mk ?_ rfl rfl rfl rfl rfl rfl rfl rfl rfl rfl rfl rfl rfl rfl rfl rfl
    | with_reducible refine canon_mk ?_ rfl rfl
    | with_reducible refine inv_mk_wf ?_ rfl rfl rfl ?_ ?_ ?_ ?_ ?_ ?_ rfl ?_ rfl rfl rfl rfl rfl
    | refine wf_smapAllTo ?_ _)

theorem State.readyAll_inv {s : State} (h0 : s.Inv) :
    (State.readyAll s).Inv := by
  unfold State.readyAll
  try dsimp only
  repeat' (first
    | with_reducible assumption | with_reducible apply State.setCtx_inv | with_reducible apply foldl_inv
    | with_reducible apply foldl_inv2 | with_reducible apply foldl_inv1 | with_reducible apply foldl_canon
    | with_reducible apply State.setRegion_inv | with_reducible apply State.region_inv | split | exact fun h => h
    | exact fun h => wf_smapAllTo h _ | exact fun h => wf_sfilter h _ | exact fun _ => rfl | intro _ _ _)

theorem State.recoverRows_inv {s : State} (h0 : s.Inv) :
    (State.recoverRows s).Inv := by
  unfold State.recoverRows
  try dsimp only
  repeat' (first
    | with_reducible assumption | with_reducible apply State.readyAll_inv | with_reducible apply foldl_inv
    | with_reducible apply foldl_inv2 | with_reducible apply foldl_inv1 | with_reducible apply foldl_canon
    | with_reducible apply State.setRegion_inv | with_reducible apply State.region_inv | split | exact fun h => h
    | exact fun h => wf_smapAllTo h _ | exact fun h => wf_sfilter h _ | exact fun _ => rfl | intro _ _ _ | intro _ _
    | intro _ | dsimp only | contradiction
    | with_reducible refine inv_mk ?_ rfl rfl rfl rfl rfl rfl rfl rfl rfl rfl rfl rfl rfl rfl rfl rfl
    | with_reducible refine canon_mk ?_ rfl rfl
    | with_reducible refine inv_mk_wf ?_ rfl rfl rfl ?_ ?_ ?_ ?_ ?_ ?_ rfl ?_ rfl rfl rfl rfl rfl
    | refine wf_smapAllTo ?_ _)

theorem State.noteEntries_inv {s : State} (h0 : s.Inv) :
    (State.noteEntries s).Inv := by
  unfold State.noteEntries
  try dsimp only
  repeat' (first
    | with_reducible assumption | with_reducible apply State.noteAccess_inv | with_reducible apply foldl_inv
    | with_reducible apply foldl_inv2 | with_reducible apply foldl_inv1 | with_reducible apply foldl_canon
    | with_reducible apply State.setRegion_inv | with_reducible apply State.region_inv | split | exact fun h => h
    | exact fun h => wf_smapAllTo h _ | exact fun h => wf_sfilter h _ | exact fun _ => rfl | intro _ _ _ | intro _ _
    | intro _ | dsimp only | contradiction
    | with_reducible refine inv_mk ?_ rfl rfl rfl rfl rfl rfl rfl rfl rfl rfl rfl rfl rfl rfl rfl rfl
    | with_reducible refine canon_mk ?_ rfl rfl
    | with_reducible refine inv_mk_wf ?_ rfl rfl rfl ?_ ?_ ?_ ?_ ?_ ?_ rfl ?_ rfl rfl rfl rfl rfl
    | refine wf_smapAllTo ?_ _)

theorem State.rowLoad_inv {s : State} (h0 : s.Inv) :
    (State.rowLoad s).Inv := by
  unfold State.rowLoad
  try dsimp only
  repeat' (first
    | with_reducible assumption | with_reducible apply State.noteEntries_inv
    | with_reducible apply State.recoverRows_inv | with_reducible apply State.fillRows_inv
    | with_reducible apply State.unloadRows_inv | with_reducible apply State.endExhausted_inv
    | with_reducible apply State.listReruns_inv | with_reducible apply State.putRowLine_inv
    | with_reducible apply State.putMaskByte_inv | with_reducible apply State.addObj_inv
    | with_reducible apply foldl_inv | with_reducible apply foldl_inv2 | with_reducible apply foldl_inv1
    | with_reducible apply foldl_canon | with_reducible apply State.setRegion_inv
    | with_reducible apply State.region_inv | split | exact fun h => h | exact fun h => wf_smapAllTo h _
    | exact fun h => wf_sfilter h _ | exact fun _ => rfl | intro _ _ _ | intro _ _ | intro _ | dsimp only
    | contradiction
    | with_reducible refine inv_mk ?_ rfl rfl rfl rfl rfl rfl rfl rfl rfl rfl rfl rfl rfl rfl rfl rfl
    | with_reducible refine canon_mk ?_ rfl rfl
    | with_reducible refine inv_mk_wf ?_ rfl rfl rfl ?_ ?_ ?_ ?_ ?_ ?_ rfl ?_ rfl rfl rfl rfl rfl
    | refine wf_smapAllTo ?_ _)

theorem State.noteFrame_inv {s : State} (map : Nat) (m : KvMap) (i : Nat) (page : Nat) (h0 : s.Inv) :
    (State.noteFrame s map m i page).Inv := by
  unfold State.noteFrame
  try dsimp only
  repeat' (first
    | with_reducible assumption | with_reducible apply State.noteAccess_inv | with_reducible apply foldl_inv
    | with_reducible apply foldl_inv2 | with_reducible apply foldl_inv1 | with_reducible apply foldl_canon
    | with_reducible apply State.setRegion_inv | with_reducible apply State.region_inv | split | exact fun h => h
    | exact fun h => wf_smapAllTo h _ | exact fun h => wf_sfilter h _ | exact fun _ => rfl | intro _ _ _ | intro _ _
    | intro _ | dsimp only | contradiction
    | with_reducible refine inv_mk ?_ rfl rfl rfl rfl rfl rfl rfl rfl rfl rfl rfl rfl rfl rfl rfl rfl
    | with_reducible refine canon_mk ?_ rfl rfl
    | with_reducible refine inv_mk_wf ?_ rfl rfl rfl ?_ ?_ ?_ ?_ ?_ ?_ rfl ?_ rfl rfl rfl rfl rfl
    | refine wf_smapAllTo ?_ _)

theorem State.moveKv_inv {s : State} (map : Nat) (m : KvMap) (i : Nat) (src : Nat) (dst : Nat) (h0 : s.Inv) :
    (State.moveKv s map m i src dst).2.Inv := by
  unfold State.moveKv
  try dsimp only
  repeat' (first
    | with_reducible assumption | with_reducible apply State.noteFrame_inv
    | with_reducible apply State.hbmAccess_inv | with_reducible apply foldl_inv | with_reducible apply foldl_inv2
    | with_reducible apply foldl_inv1 | with_reducible apply foldl_canon | with_reducible apply State.setRegion_inv
    | with_reducible apply State.region_inv | split | exact fun h => h | exact fun h => wf_smapAllTo h _
    | exact fun h => wf_sfilter h _ | exact fun _ => rfl | intro _ _ _ | intro _ _ | intro _ | dsimp only
    | contradiction
    | with_reducible refine inv_mk ?_ rfl rfl rfl rfl rfl rfl rfl rfl rfl rfl rfl rfl rfl rfl rfl rfl
    | with_reducible refine canon_mk ?_ rfl rfl
    | with_reducible refine inv_mk_wf ?_ rfl rfl rfl ?_ ?_ ?_ ?_ ?_ ?_ rfl ?_ rfl rfl rfl rfl rfl
    | refine wf_smapAllTo ?_ _)
theorem State.moveKv_inv_eq {s : State} {map : Nat} {m : KvMap} {i : Nat} {src : Nat} {dst : Nat} {zr} {zt : State}
    (e0 : (State.moveKv s map m i src dst) = (zr, zt)) (h0 : s.Inv) :
    zt.Inv := by
  have i := State.moveKv_inv map m i src dst h0
  rw [e0] at i
  exact i

theorem State.commitPath_inv {s : State} (b : List Byte) (moves : List (Nat × Nat)) (h0 : s.Inv) :
    (State.commitPath s b moves).2.Inv := by
  unfold State.commitPath
  try dsimp only
  repeat' (first
    | with_reducible assumption | with_reducible apply State.noteAccess_inv | with_reducible apply State.moveKv_inv
    | refine State.moveKv_inv_eq (by assumption) ?_ | with_reducible apply foldl_inv
    | with_reducible apply foldl_inv2 | with_reducible apply foldl_inv1 | with_reducible apply foldl_canon
    | with_reducible apply State.setRegion_inv | with_reducible apply State.region_inv | split | exact fun h => h
    | exact fun h => wf_smapAllTo h _ | exact fun h => wf_sfilter h _ | exact fun _ => rfl | intro _ _ _ | intro _ _
    | intro _ | dsimp only | contradiction
    | with_reducible refine inv_mk ?_ rfl rfl rfl rfl rfl rfl rfl rfl rfl rfl rfl rfl rfl rfl rfl rfl
    | with_reducible refine canon_mk ?_ rfl rfl
    | with_reducible refine inv_mk_wf ?_ rfl rfl rfl ?_ ?_ ?_ ?_ ?_ ?_ rfl ?_ rfl rfl rfl rfl rfl
    | refine wf_smapAllTo ?_ _)
theorem State.commitPath_inv_eq {s : State} {b : List Byte} {moves : List (Nat × Nat)} {zr} {zt : State}
    (e0 : (State.commitPath s b moves) = (zr, zt)) (h0 : s.Inv) :
    zt.Inv := by
  have i := State.commitPath_inv b moves h0
  rw [e0] at i
  exact i

theorem State.commitTokens_inv {s : State} (b : List Byte) (rcd : List Byte) (first : Nat) (h0 : s.Inv) :
    (State.commitTokens s b rcd first).2.Inv := by
  unfold State.commitTokens
  try dsimp only
  repeat' (first
    | with_reducible assumption | with_reducible apply State.vaWrite_inv
    | refine State.vaWrite_inv_eq (by assumption) ?_ | with_reducible apply foldl_inv
    | with_reducible apply foldl_inv2 | with_reducible apply foldl_inv1 | with_reducible apply foldl_canon
    | with_reducible apply State.setRegion_inv | with_reducible apply State.region_inv | split | exact fun h => h
    | exact fun h => wf_smapAllTo h _ | exact fun h => wf_sfilter h _ | exact fun _ => rfl | intro _ _ _)
theorem State.commitTokens_inv_eq {s : State} {b : List Byte} {rcd : List Byte} {first : Nat} {zr} {zt : State}
    (e0 : (State.commitTokens s b rcd first) = (zr, zt)) (h0 : s.Inv) :
    zt.Inv := by
  have i := State.commitTokens_inv b rcd first h0
  rw [e0] at i
  exact i

theorem State.commitFault_inv {s : State} (r : Nat) (n : Nat) (va : Nat) (write : Bool) (h0 : s.Inv) :
    (State.commitFault s r n va write).Inv := by
  unfold State.commitFault
  try dsimp only
  repeat' (first
    | with_reducible assumption | with_reducible apply State.recordFault_inv
    | with_reducible apply State.maskRow_inv | with_reducible apply State.askPage_inv
    | with_reducible apply foldl_inv | with_reducible apply foldl_inv2 | with_reducible apply foldl_inv1
    | with_reducible apply foldl_canon | with_reducible apply State.setRegion_inv
    | with_reducible apply State.region_inv | split | exact fun h => h | exact fun h => wf_smapAllTo h _
    | exact fun h => wf_sfilter h _ | exact fun _ => rfl | intro _ _ _ | intro _ _ | intro _ | dsimp only
    | contradiction
    | with_reducible refine inv_mk ?_ rfl rfl rfl rfl rfl rfl rfl rfl rfl rfl rfl rfl rfl rfl rfl rfl)

theorem State.endCommit_inv {s : State} (r : Nat) (n : Nat) (b : List Byte) (st : Option Nat) (live : Bool)
    (h0 : s.Inv) :
    (State.endCommit s r n b st live).Inv := by
  unfold State.endCommit
  try dsimp only
  repeat' (first
    | with_reducible assumption | with_reducible apply State.count_inv | with_reducible apply State.vaWrite_inv
    | refine State.vaWrite_inv_eq (by assumption) ?_ | with_reducible apply State.commitFault_inv
    | with_reducible apply State.completion_inv | with_reducible apply State.putRowLine_inv
    | with_reducible apply State.setRow_inv | with_reducible apply foldl_inv | with_reducible apply foldl_inv2
    | with_reducible apply foldl_inv1 | with_reducible apply foldl_canon | with_reducible apply State.setRegion_inv
    | with_reducible apply State.region_inv | split)

theorem State.checkRecord_inv {s : State} (r : Nat) (h0 : s.Inv) :
    (State.checkRecord s r).Inv := by
  unfold State.checkRecord
  try dsimp only
  repeat' (first
    | with_reducible assumption | with_reducible apply State.checkLines_inv | with_reducible apply foldl_inv
    | with_reducible apply foldl_inv2 | with_reducible apply foldl_inv1 | with_reducible apply foldl_canon
    | with_reducible apply State.setRegion_inv | with_reducible apply State.region_inv | split)

theorem State.commitRow_inv {s : State} (step : Nat) (r : Nat) (cause : Nat) (h0 : s.Inv) :
    (State.commitRow s step r cause).Inv := by
  unfold State.commitRow
  try dsimp only
  repeat' (first
    | with_reducible assumption | with_reducible apply State.noteAccess_inv
    | with_reducible apply State.checkRecord_inv | with_reducible apply State.commitPath_inv
    | refine State.commitPath_inv_eq (by assumption) ?_ | with_reducible apply State.commitFault_inv
    | with_reducible apply State.commitTokens_inv | refine State.commitTokens_inv_eq (by assumption) ?_
    | with_reducible apply State.count_inv | with_reducible apply State.endCommit_inv
    | with_reducible apply State.maskRow_inv | with_reducible apply foldl_inv | with_reducible apply foldl_inv2
    | with_reducible apply foldl_inv1 | with_reducible apply foldl_canon | with_reducible apply State.setRegion_inv
    | with_reducible apply State.region_inv | split)

theorem State.blockDone_inv {s : State} (step : Nat) (h0 : s.Inv) :
    (State.blockDone s step).Inv := by
  unfold State.blockDone
  try dsimp only
  repeat' (first
    | with_reducible assumption | with_reducible apply State.addObj_inv | with_reducible apply foldl_inv
    | with_reducible apply foldl_inv2 | with_reducible apply foldl_inv1 | with_reducible apply foldl_canon
    | with_reducible apply State.setRegion_inv | with_reducible apply State.region_inv | split | exact fun h => h
    | exact fun h => wf_smapAllTo h _ | exact fun h => wf_sfilter h _ | exact fun _ => rfl | intro _ _ _ | intro _ _
    | intro _ | dsimp only | contradiction
    | with_reducible refine inv_mk ?_ rfl rfl rfl rfl rfl rfl rfl rfl rfl rfl rfl rfl rfl rfl rfl rfl)

theorem State.startBlock_inv {s : State} (h0 : s.Inv) :
    (State.startBlock s).Inv := by
  unfold State.startBlock
  try dsimp only
  repeat' (first
    | with_reducible assumption | with_reducible apply State.checkLines_inv
    | with_reducible apply State.blockDone_inv | with_reducible apply foldl_inv | with_reducible apply foldl_inv2
    | with_reducible apply foldl_inv1 | with_reducible apply foldl_canon | with_reducible apply State.setRegion_inv
    | with_reducible apply State.region_inv | split | exact fun h => h | exact fun h => wf_smapAllTo h _
    | exact fun h => wf_sfilter h _ | exact fun _ => rfl | intro _ _ _ | intro _ _ | intro _ | dsimp only
    | contradiction
    | with_reducible refine inv_mk ?_ rfl rfl rfl rfl rfl rfl rfl rfl rfl rfl rfl rfl rfl rfl rfl rfl)

theorem State.nextRow_inv {s : State} (h0 : s.Inv) :
    (State.nextRow s).Inv := by
  unfold State.nextRow
  try dsimp only
  repeat' (first
    | with_reducible assumption | with_reducible apply State.commitRow_inv
    | with_reducible apply State.blockDone_inv | with_reducible apply foldl_inv | with_reducible apply foldl_inv2
    | with_reducible apply foldl_inv1 | with_reducible apply foldl_canon | with_reducible apply State.setRegion_inv
    | with_reducible apply State.region_inv | split | exact fun h => h | exact fun h => wf_smapAllTo h _
    | exact fun h => wf_sfilter h _ | exact fun _ => rfl | intro _ _ _ | intro _ _ | intro _ | dsimp only
    | contradiction
    | with_reducible refine inv_mk ?_ rfl rfl rfl rfl rfl rfl rfl rfl rfl rfl rfl rfl rfl rfl rfl rfl)

theorem State.beginRow_inv {s : State} (h0 : s.Inv) :
    (State.beginRow s).Inv := by
  unfold State.beginRow
  try dsimp only
  repeat' (first
    | with_reducible assumption | with_reducible apply foldl_inv | with_reducible apply foldl_inv2
    | with_reducible apply foldl_inv1 | with_reducible apply foldl_canon | with_reducible apply State.setRegion_inv
    | with_reducible apply State.region_inv | split | exact fun h => h | exact fun h => wf_smapAllTo h _
    | exact fun h => wf_sfilter h _ | exact fun _ => rfl | intro _ _ _ | intro _ _ | intro _ | dsimp only
    | contradiction
    | with_reducible refine inv_mk ?_ rfl rfl rfl rfl rfl rfl rfl rfl rfl rfl rfl rfl rfl rfl rfl rfl)

theorem State.countClaim_inv {s : State} (h0 : s.Inv) :
    (State.countClaim s).Inv := by
  unfold State.countClaim
  try dsimp only
  repeat' (first
    | with_reducible assumption | with_reducible apply State.countDelay_inv | with_reducible apply foldl_inv
    | with_reducible apply foldl_inv2 | with_reducible apply foldl_inv1 | with_reducible apply foldl_canon
    | with_reducible apply State.setRegion_inv | with_reducible apply State.region_inv | split | exact fun h => h
    | exact fun h => wf_smapAllTo h _ | exact fun h => wf_sfilter h _ | exact fun _ => rfl | intro _ _ _ | intro _ _
    | intro _ | dsimp only | contradiction
    | with_reducible refine inv_mk ?_ rfl rfl rfl rfl rfl rfl rfl rfl rfl rfl rfl rfl rfl rfl rfl rfl
    | with_reducible refine canon_mk ?_ rfl rfl
    | with_reducible refine inv_mk_wf ?_ rfl rfl rfl ?_ ?_ ?_ ?_ ?_ ?_ rfl ?_ rfl rfl rfl rfl rfl
    | refine wf_smapAllTo ?_ _)

theorem State.commitRows_inv {s : State} (x1 : Nat) (h0 : s.Inv) :
    (State.commitRows s x1).Inv := by
  unfold State.commitRows
  try dsimp only
  repeat' (first
    | with_reducible assumption | with_reducible apply State.nextRow_inv | with_reducible apply State.countClaim_inv
    | with_reducible apply foldl_inv | with_reducible apply foldl_inv2 | with_reducible apply foldl_inv1
    | with_reducible apply foldl_canon | with_reducible apply State.setRegion_inv
    | with_reducible apply State.region_inv | split | exact fun h => h | exact fun h => wf_smapAllTo h _
    | exact fun h => wf_sfilter h _ | exact fun _ => rfl | intro _ _ _ | intro _ _ | intro _ | dsimp only
    | contradiction
    | with_reducible refine inv_mk ?_ rfl rfl rfl rfl rfl rfl rfl rfl rfl rfl rfl rfl rfl rfl rfl rfl
    | with_reducible refine canon_mk ?_ rfl rfl
    | with_reducible refine inv_mk_wf ?_ rfl rfl rfl ?_ ?_ ?_ ?_ ?_ ?_ rfl ?_ rfl rfl rfl rfl rfl
    | refine wf_smapAllTo ?_ _)

theorem State.commitBlock_inv {s : State} (rows : Nat) (begun : Bool) (h0 : s.Inv) :
    (State.commitBlock s rows begun).Inv := by
  unfold State.commitBlock
  try dsimp only
  repeat' (first
    | with_reducible assumption | with_reducible apply State.startBlock_inv
    | with_reducible apply State.countClaim_inv | with_reducible apply State.commitRows_inv
    | with_reducible apply State.beginRow_inv | with_reducible apply foldl_inv | with_reducible apply foldl_inv2
    | with_reducible apply foldl_inv1 | with_reducible apply foldl_canon | with_reducible apply State.setRegion_inv
    | with_reducible apply State.region_inv | split | exact fun h => h | exact fun h => wf_smapAllTo h _
    | exact fun h => wf_sfilter h _ | exact fun _ => rfl | intro _ _ _ | intro _ _ | intro _ | dsimp only
    | contradiction
    | with_reducible refine inv_mk ?_ rfl rfl rfl rfl rfl rfl rfl rfl rfl rfl rfl rfl rfl rfl rfl rfl
    | with_reducible refine canon_mk ?_ rfl rfl
    | with_reducible refine inv_mk_wf ?_ rfl rfl rfl ?_ ?_ ?_ ?_ ?_ ?_ rfl ?_ rfl rfl rfl rfl rfl
    | refine wf_smapAllTo ?_ _)

theorem State.clearRows_inv {s : State} (h0 : s.Inv) :
    (State.clearRows s).Inv := by
  unfold State.clearRows
  try dsimp only
  repeat' (first
    | with_reducible assumption | with_reducible apply State.each_inv | with_reducible apply State.setRegion_inv
    | with_reducible apply State.region_inv | with_reducible apply foldl_inv | with_reducible apply foldl_inv2
    | with_reducible apply foldl_inv1 | with_reducible apply foldl_canon | with_reducible apply State.setRegion_inv
    | with_reducible apply State.region_inv | split | exact fun h => h | exact fun h => wf_smapAllTo h _
    | exact fun h => wf_sfilter h _ | exact fun _ => rfl | intro _ _ _ | intro _ _ | intro _ | dsimp only
    | contradiction
    | with_reducible refine inv_mk ?_ rfl rfl rfl rfl rfl rfl rfl rfl rfl rfl rfl rfl rfl rfl rfl rfl
    | with_reducible refine canon_mk ?_ rfl rfl
    | with_reducible refine inv_mk_wf ?_ rfl rfl rfl ?_ ?_ ?_ ?_ ?_ ?_ rfl ?_ rfl rfl rfl rfl rfl
    | refine wf_smapAllTo ?_ _)

theorem State.writeSave_inv {s : State} (va : Nat) (seg : Nat) (h0 : s.Inv) :
    (State.writeSave s va seg).2.Inv := by
  unfold State.writeSave
  try dsimp only
  repeat' (first
    | with_reducible assumption | with_reducible apply State.checkLines_inv | with_reducible apply State.vaWrite_inv
    | refine State.vaWrite_inv_eq (by assumption) ?_ | with_reducible apply foldl_inv
    | with_reducible apply foldl_inv2 | with_reducible apply foldl_inv1 | with_reducible apply foldl_canon
    | with_reducible apply State.setRegion_inv | with_reducible apply State.region_inv | split | exact fun h => h
    | exact fun h => wf_smapAllTo h _ | exact fun h => wf_sfilter h _ | exact fun _ => rfl | intro _ _ _)
theorem State.writeSave_inv_eq {s : State} {va : Nat} {seg : Nat} {zr} {zt : State}
    (e0 : (State.writeSave s va seg) = (zr, zt)) (h0 : s.Inv) :
    zt.Inv := by
  have i := State.writeSave_inv va seg h0
  rw [e0] at i
  exact i

theorem State.answerYield_inv {s : State} (st : Nat) (body : List Byte) (h0 : s.Inv) :
    (State.answerYield s st body).Inv := by
  unfold State.answerYield
  try dsimp only
  repeat' (first
    | with_reducible assumption | with_reducible apply State.answer_inv | with_reducible apply foldl_inv
    | with_reducible apply foldl_inv2 | with_reducible apply foldl_inv1 | with_reducible apply foldl_canon
    | with_reducible apply State.setRegion_inv | with_reducible apply State.region_inv | split | exact fun h => h
    | exact fun h => wf_smapAllTo h _ | exact fun h => wf_sfilter h _ | exact fun _ => rfl | intro _ _ _ | intro _ _
    | intro _ | dsimp only | contradiction
    | with_reducible refine inv_mk ?_ rfl rfl rfl rfl rfl rfl rfl rfl rfl rfl rfl rfl rfl rfl rfl rfl)

theorem State.enterYield_inv {s : State} (h0 : s.Inv) :
    (State.enterYield s).Inv := by
  unfold State.enterYield
  try dsimp only
  repeat' (first
    | with_reducible assumption | with_reducible apply State.readyAll_inv | with_reducible apply State.clearRows_inv
    | with_reducible apply State.each_inv | with_reducible apply State.setRegion_inv
    | with_reducible apply State.region_inv | with_reducible apply foldl_inv | with_reducible apply foldl_inv2
    | with_reducible apply foldl_inv1 | with_reducible apply foldl_canon | with_reducible apply State.setRegion_inv
    | with_reducible apply State.region_inv | split | exact fun h => h | exact fun h => wf_smapAllTo h _
    | exact fun h => wf_sfilter h _ | exact fun _ => rfl | intro _ _ _ | intro _ _ | intro _ | dsimp only
    | contradiction
    | with_reducible refine inv_mk ?_ rfl rfl rfl rfl rfl rfl rfl rfl rfl rfl rfl rfl rfl rfl rfl rfl
    | with_reducible refine canon_mk ?_ rfl rfl)

theorem State.endSave_inv {s : State} (h0 : s.Inv) :
    (State.endSave s).Inv := by
  unfold State.endSave
  try dsimp only
  repeat' (first
    | with_reducible assumption | with_reducible apply State.closeWindows_inv | with_reducible apply State.landX_inv
    | with_reducible apply State.writeSave_inv | refine State.writeSave_inv_eq (by assumption) ?_
    | with_reducible apply State.answerYield_inv | with_reducible apply foldl_inv | with_reducible apply foldl_inv2
    | with_reducible apply foldl_inv1 | with_reducible apply foldl_canon | with_reducible apply State.setRegion_inv
    | with_reducible apply State.region_inv | split | exact fun h => h | exact fun h => wf_smapAllTo h _
    | exact fun h => wf_sfilter h _ | exact fun _ => rfl | intro _ _ _ | intro _ _ | intro _ | dsimp only
    | contradiction
    | with_reducible refine inv_mk ?_ rfl rfl rfl rfl rfl rfl rfl rfl rfl rfl rfl rfl rfl rfl rfl rfl)

theorem State.restoreRange_inv {s : State} (vreg : Nat) (base : Nat) (len : Nat) (data : List Byte) (tags : List Byte)
    (h0 : s.Inv) :
    (State.restoreRange s vreg base len data tags).Inv := by
  unfold State.restoreRange
  try dsimp only
  repeat' (first
    | with_reducible assumption | with_reducible apply State.putSlice_inv | with_reducible apply State.region_inv
    | with_reducible apply RegionSt.setTag_inv | with_reducible apply State.setRegion_inv
    | with_reducible apply foldl_inv | with_reducible apply foldl_inv2 | with_reducible apply foldl_inv1
    | with_reducible apply foldl_canon | with_reducible apply State.setRegion_inv
    | with_reducible apply State.region_inv | split | exact fun h => h | exact fun h => wf_smapAllTo h _
    | exact fun h => wf_sfilter h _ | exact fun _ => rfl | intro _ _ _)

theorem State.restore_inv {s : State} (va : Nat) (h0 : s.Inv) :
    (State.restore s va).2.Inv := by
  unfold State.restore
  try dsimp only
  repeat' (first
    | with_reducible assumption | with_reducible apply State.vaRead_inv
    | refine State.vaRead_inv_eq (by assumption) ?_ | with_reducible apply State.setX_inv
    | with_reducible apply State.setObj_inv | with_reducible apply State.noteAccess_inv
    | with_reducible apply State.restoreRange_inv | with_reducible apply foldl_inv | with_reducible apply foldl_inv2
    | with_reducible apply foldl_inv1 | with_reducible apply foldl_canon | with_reducible apply State.setRegion_inv
    | with_reducible apply State.region_inv | split | exact fun h => h | exact fun h => wf_smapAllTo h _
    | exact fun h => wf_sfilter h _ | exact fun _ => rfl | intro _ _ _ | intro _ _ | intro _ | dsimp only
    | contradiction
    | with_reducible refine inv_mk ?_ rfl rfl rfl rfl rfl rfl rfl rfl rfl rfl rfl rfl rfl rfl rfl rfl)
theorem State.restore_inv_eq {s : State} {va : Nat} {zr} {zt : State} (e0 : (State.restore s va) = (zr, zt))
    (h0 : s.Inv) :
    zt.Inv := by
  have i := State.restore_inv va h0
  rw [e0] at i
  exact i

theorem State.putUnits_inv {s : State} (a : Nat) (b : List Byte) (h0 : s.Inv) :
    (State.putUnits s a b).Inv := by
  unfold State.putUnits
  try dsimp only
  repeat' (first
    | with_reducible assumption | with_reducible apply foldl_inv | with_reducible apply foldl_inv2
    | with_reducible apply foldl_inv1 | with_reducible apply foldl_canon | with_reducible apply State.setRegion_inv
    | with_reducible apply State.region_inv | split | exact fun h => h | exact fun h => wf_smapAllTo h _
    | exact fun h => wf_sfilter h _ | exact fun _ => rfl | intro _ _ _ | intro _ _ | intro _ | dsimp only
    | contradiction
    | with_reducible refine inv_mk ?_ rfl rfl rfl rfl rfl rfl rfl rfl rfl rfl rfl rfl rfl rfl rfl rfl)

theorem State.noteTarget_inv {s : State} (t : Nat) (h0 : s.Inv) :
    (State.noteTarget s t).Inv := by
  unfold State.noteTarget
  try dsimp only
  repeat' (first
    | with_reducible assumption | with_reducible apply State.noteAccess_inv
    | with_reducible apply State.checkLines_inv | with_reducible apply foldl_inv | with_reducible apply foldl_inv2
    | with_reducible apply foldl_inv1 | with_reducible apply foldl_canon | with_reducible apply State.setRegion_inv
    | with_reducible apply State.region_inv | split)

theorem State.putTarget_inv {s : State} (t : Nat) (b : List Byte) (h0 : s.Inv) :
    (State.putTarget s t b).Inv := by
  unfold State.putTarget
  try dsimp only
  repeat' (first
    | with_reducible assumption | with_reducible apply State.putUnits_inv | with_reducible apply State.vaStore_inv
    | with_reducible apply State.putSlice_inv | with_reducible apply foldl_inv | with_reducible apply foldl_inv2
    | with_reducible apply foldl_inv1 | with_reducible apply foldl_canon | with_reducible apply State.setRegion_inv
    | with_reducible apply State.region_inv | split)

theorem State.applyReloc_inv {s : State} (syms : List Nat) (resident : List (Nat × Nat)) (r : Reloc) (h0 : s.Inv) :
    (State.applyReloc s syms resident r).2.Inv := by
  unfold State.applyReloc
  try dsimp only
  repeat' (first
    | with_reducible assumption | with_reducible apply State.noteTarget_inv
    | with_reducible apply State.putTarget_inv | with_reducible apply foldl_inv | with_reducible apply foldl_inv2
    | with_reducible apply foldl_inv1 | with_reducible apply foldl_canon | with_reducible apply State.setRegion_inv
    | with_reducible apply State.region_inv | split | exact fun h => h | exact fun h => wf_smapAllTo h _
    | exact fun h => wf_sfilter h _ | exact fun _ => rfl | intro _ _ _ | intro _ _ | intro _ | dsimp only
    | contradiction
    | with_reducible refine inv_mk ?_ rfl rfl rfl rfl rfl rfl rfl rfl rfl rfl rfl rfl rfl rfl rfl rfl
    | with_reducible refine canon_mk ?_ rfl rfl
    | with_reducible refine inv_mk_wf ?_ rfl rfl rfl ?_ ?_ ?_ ?_ ?_ ?_ rfl ?_ rfl rfl rfl rfl rfl
    | refine wf_smapAllTo ?_ _)
theorem State.applyReloc_inv_eq {s : State} {syms : List Nat} {resident : List (Nat × Nat)} {r : Reloc} {zr}
    {zt : State} (e0 : (State.applyReloc s syms resident r) = (zr, zt)) (h0 : s.Inv) :
    zt.Inv := by
  have i := State.applyReloc_inv syms resident r h0
  rw [e0] at i
  exact i

theorem State.applyRelocs_inv {s : State} (syms : List Nat) (resident : List (Nat × Nat)) (x3 : List (Option Reloc))
    (x4 : Nat) (h0 : s.Inv) :
    (State.applyRelocs s syms resident x3 x4).2.2.Inv := by
  induction x3 generalizing s x4 with
  | nil => exact h0
  | cons e r ih =>
    cases e with
    | none => exact h0
    | some q =>
      unfold State.applyRelocs
      split
      · rename_i e; exact State.applyReloc_inv_eq e h0
      · rename_i e; exact ih _ (State.applyReloc_inv_eq e h0)

theorem State.applyRelocs_inv_eq {s : State} {syms : List Nat} {resident : List (Nat × Nat)}
    {x3 : List (Option Reloc)} {x4 : Nat} {za zb} {zt : State}
    (e0 : (State.applyRelocs s syms resident x3 x4) = (za, zb, zt)) (h0 : s.Inv) :
    zt.Inv := by
  have i := State.applyRelocs_inv syms resident x3 x4 h0
  rw [e0] at i
  exact i

theorem State.writeSections_inv {s : State} (x1 : List Section) (x2 : Nat) (h0 : s.Inv) :
    (State.writeSections s x1 x2).2.Inv := by
  induction x1 generalizing s x2 with
  | nil => exact h0
  | cons e r ih =>
    unfold State.writeSections
    split
    · exact ih _ (State.putUnits_inv _ _ h0)
    · dsimp only
      split
      · exact ih _ (State.vaWrite_inv _ _ _ h0)
      · exact State.vaWrite_inv _ _ _ h0
    · split
      · exact ih _ (State.putSlice_inv _ _ _ h0)
      · exact ih _ h0
    · exact ih _ h0

theorem State.writeSections_inv_eq {s : State} {x1 : List Section} {x2 : Nat} {zr} {zt : State}
    (e0 : (State.writeSections s x1 x2) = (zr, zt)) (h0 : s.Inv) :
    zt.Inv := by
  have i := State.writeSections_inv x1 x2 h0
  rw [e0] at i
  exact i

theorem State.writeRanges_inv {s : State} (l : List Section) (h0 : s.Inv) :
    (State.writeRanges s l).Inv := by
  unfold State.writeRanges
  try dsimp only
  repeat' (first
    | with_reducible assumption | with_reducible apply State.setReg_inv | with_reducible apply foldl_inv
    | with_reducible apply foldl_inv2 | with_reducible apply foldl_inv1 | with_reducible apply foldl_canon
    | with_reducible apply State.setRegion_inv | with_reducible apply State.region_inv | split | exact fun h => h
    | exact fun h => wf_smapAllTo h _ | exact fun h => wf_sfilter h _ | exact fun _ => rfl | intro _ _ _)

theorem State.writeServing_inv {s : State} (l : List Section) (h0 : s.Inv) :
    (State.writeServing s l).Inv := by
  unfold State.writeServing
  try dsimp only
  repeat' (first
    | with_reducible assumption | with_reducible apply State.clearRows_inv | with_reducible apply State.put_inv
    | with_reducible apply State.setReg_inv | with_reducible apply State.clearRowBlock_inv
    | with_reducible apply foldl_inv | with_reducible apply foldl_inv2 | with_reducible apply foldl_inv1
    | with_reducible apply foldl_canon | with_reducible apply State.setRegion_inv
    | with_reducible apply State.region_inv | split | exact fun h => h | exact fun h => wf_smapAllTo h _
    | exact fun h => wf_sfilter h _ | exact fun _ => rfl | intro _ _ _ | intro _ _ | intro _ | dsimp only
    | contradiction
    | with_reducible refine inv_mk ?_ rfl rfl rfl rfl rfl rfl rfl rfl rfl rfl rfl rfl rfl rfl rfl rfl)

theorem State.loadObjects_inv {s : State} (l : List Section) (h0 : s.Inv) :
    (State.loadObjects s l).Inv := by
  unfold State.loadObjects
  refine foldl_inv (fun t b h => State.setObj_inv _ _ h) ?_
  exact { h0 with objects := rfl }

theorem State.loadGate_inv {s : State} (w : Nat) (i : Nat) (h0 : s.Inv) :
    (State.loadGate s w i).Inv := by
  unfold State.loadGate
  try dsimp only
  repeat' (first | with_reducible assumption | with_reducible apply State.setObj_inv)

theorem State.writeObjects_inv {s : State} (l : List Section) (h0 : s.Inv) :
    (State.writeObjects s l).Inv := by
  unfold State.writeObjects
  try dsimp only
  repeat' (first
    | with_reducible assumption | with_reducible apply State.loadObjects_inv
    | with_reducible apply State.loadGate_inv | with_reducible apply foldl_inv | with_reducible apply foldl_inv2
    | with_reducible apply foldl_inv1 | with_reducible apply foldl_canon | with_reducible apply State.setRegion_inv
    | with_reducible apply State.region_inv | split | exact fun h => h | exact fun h => wf_smapAllTo h _
    | exact fun h => wf_sfilter h _ | exact fun _ => rfl | intro _ _ _ | intro _ _ | intro _ | dsimp only
    | contradiction
    | with_reducible refine inv_mk ?_ rfl rfl rfl rfl rfl rfl rfl rfl rfl rfl rfl rfl rfl rfl rfl rfl)

theorem State.writePlan_inv {s : State} (b : List Byte) (h0 : s.Inv) :
    (State.writePlan s b).Inv := by
  unfold State.writePlan
  try dsimp only
  repeat' (first
    | with_reducible assumption | with_reducible apply State.put_inv | with_reducible apply foldl_inv
    | with_reducible apply foldl_inv2 | with_reducible apply foldl_inv1 | with_reducible apply foldl_canon
    | with_reducible apply State.setRegion_inv | with_reducible apply State.region_inv | split | exact fun h => h
    | exact fun h => wf_smapAllTo h _ | exact fun h => wf_sfilter h _ | exact fun _ => rfl | intro _ _ _)

theorem State.noteWarps_inv {s : State} (va : Nat) (h0 : s.Inv) :
    (State.noteWarps s va).Inv := by
  unfold State.noteWarps
  try dsimp only
  repeat' (first
    | with_reducible assumption | with_reducible apply State.noteAccess_inv | with_reducible apply State.vaRead_inv
    | refine State.vaRead_inv_eq (by assumption) ?_ | with_reducible apply foldl_inv
    | with_reducible apply foldl_inv2 | with_reducible apply foldl_inv1 | with_reducible apply foldl_canon
    | with_reducible apply State.setRegion_inv | with_reducible apply State.region_inv | split | exact fun h => h
    | exact fun h => wf_smapAllTo h _ | exact fun h => wf_sfilter h _ | exact fun _ => rfl | intro _ _ _ | intro _ _
    | intro _ | dsimp only | contradiction
    | with_reducible refine inv_mk ?_ rfl rfl rfl rfl rfl rfl rfl rfl rfl rfl rfl rfl rfl rfl rfl rfl
    | with_reducible refine canon_mk ?_ rfl rfl
    | with_reducible refine inv_mk_wf ?_ rfl rfl rfl ?_ ?_ ?_ ?_ ?_ ?_ rfl ?_ rfl rfl rfl rfl rfl
    | refine wf_smapAllTo ?_ _)

theorem State.allowKey_inv {s : State} (p : Nat) (key : Nat) (h0 : s.Inv) :
    (State.allowKey s p key).Inv := by
  unfold State.allowKey
  try dsimp only
  repeat' (first
    | with_reducible assumption | with_reducible apply State.put_inv | with_reducible apply foldl_inv
    | with_reducible apply foldl_inv2 | with_reducible apply foldl_inv1 | with_reducible apply foldl_canon
    | with_reducible apply State.setRegion_inv | with_reducible apply State.region_inv | split)

theorem State.disallowKey_inv {s : State} (p : Nat) (key : Nat) (h0 : s.Inv) :
    (State.disallowKey s p key).Inv := by
  unfold State.disallowKey
  try dsimp only
  repeat' (first
    | with_reducible assumption | with_reducible apply State.put_inv | with_reducible apply foldl_inv
    | with_reducible apply foldl_inv2 | with_reducible apply foldl_inv1 | with_reducible apply foldl_canon
    | with_reducible apply State.setRegion_inv | with_reducible apply State.region_inv | split | exact fun h => h
    | exact fun h => wf_smapAllTo h _ | exact fun h => wf_sfilter h _ | exact fun _ => rfl | intro _ _ _)

theorem State.installWarps_inv {s : State} (w : Warps) (h0 : s.Inv) :
    (State.installWarps s w).Inv := by
  unfold State.installWarps
  try dsimp only
  repeat' (first
    | with_reducible assumption | with_reducible apply foldl_inv | with_reducible apply foldl_inv2
    | with_reducible apply foldl_inv1 | with_reducible apply foldl_canon | with_reducible apply State.setRegion_inv
    | with_reducible apply State.region_inv | split | exact fun h => h | exact fun h => wf_smapAllTo h _
    | exact fun h => wf_sfilter h _ | exact fun _ => rfl | intro _ _ _ | intro _ _ | intro _ | dsimp only
    | contradiction
    | with_reducible refine inv_mk ?_ rfl rfl rfl rfl rfl rfl rfl rfl rfl rfl rfl rfl rfl rfl rfl rfl)

theorem State.installRoutes_inv {s : State} (j : JoinRec) (h0 : s.Inv) :
    (State.installRoutes s j).Inv := by
  unfold State.installRoutes
  try dsimp only
  repeat' (first
    | with_reducible assumption | with_reducible apply State.put_inv | with_reducible apply foldl_inv
    | with_reducible apply foldl_inv2 | with_reducible apply foldl_inv1 | with_reducible apply foldl_canon
    | with_reducible apply State.setRegion_inv | with_reducible apply State.region_inv | split | exact fun h => h
    | exact fun h => wf_smapAllTo h _ | exact fun h => wf_sfilter h _ | exact fun _ => rfl | intro _ _ _ | intro _ _
    | intro _ | dsimp only | contradiction
    | with_reducible refine inv_mk ?_ rfl rfl rfl rfl rfl rfl rfl rfl rfl rfl rfl rfl rfl rfl rfl rfl)

theorem State.installHost_inv {s : State} (j : JoinRec) (h0 : s.Inv) :
    (State.installHost s j).Inv := by
  unfold State.installHost
  try dsimp only
  repeat' (first
    | with_reducible assumption | with_reducible apply State.put_inv | with_reducible apply foldl_inv
    | with_reducible apply foldl_inv2 | with_reducible apply foldl_inv1 | with_reducible apply foldl_canon
    | with_reducible apply State.setRegion_inv | with_reducible apply State.region_inv | split)

theorem State.becomeMember_inv {s : State} (j : JoinRec) (h0 : s.Inv) :
    (State.becomeMember s j).Inv := by
  unfold State.becomeMember
  try dsimp only
  repeat' (first
    | with_reducible assumption | with_reducible apply State.put_inv | with_reducible apply foldl_inv
    | with_reducible apply foldl_inv2 | with_reducible apply foldl_inv1 | with_reducible apply foldl_canon
    | with_reducible apply State.setRegion_inv | with_reducible apply State.region_inv | split | exact fun h => h
    | exact fun h => wf_smapAllTo h _ | exact fun h => wf_sfilter h _ | exact fun _ => rfl | intro _ _ _ | intro _ _
    | intro _ | dsimp only | contradiction
    | with_reducible refine inv_mk ?_ rfl rfl rfl rfl rfl rfl rfl rfl rfl rfl rfl rfl rfl rfl rfl rfl)

theorem State.installJoin_inv {s : State} (j : JoinRec) (warpVa : Nat) (w : Warps) (reused : Bool) (h0 : s.Inv) :
    (State.installJoin s j warpVa w reused).Inv := by
  unfold State.installJoin
  try dsimp only
  repeat' (first
    | with_reducible assumption | with_reducible apply State.installHost_inv
    | with_reducible apply State.installRoutes_inv | with_reducible apply State.installWarps_inv
    | with_reducible apply State.becomeMember_inv | with_reducible apply State.allowKey_inv
    | with_reducible apply State.vaStore_inv | with_reducible apply foldl_inv | with_reducible apply foldl_inv2
    | with_reducible apply foldl_inv1 | with_reducible apply foldl_canon | with_reducible apply State.setRegion_inv
    | with_reducible apply State.region_inv | split | exact fun h => h | exact fun h => wf_smapAllTo h _
    | exact fun h => wf_sfilter h _ | exact fun _ => rfl | intro _ _ _ | intro _ _ | intro _ | dsimp only
    | contradiction
    | with_reducible refine inv_mk ?_ rfl rfl rfl rfl rfl rfl rfl rfl rfl rfl rfl rfl rfl rfl rfl rfl)

theorem State.beginRetire_inv {s : State} (key : Nat) (mb : Nat) (h0 : s.Inv) :
    (State.beginRetire s key mb).Inv := by
  unfold State.beginRetire
  try dsimp only
  repeat' (first
    | with_reducible assumption | with_reducible apply State.disallowKey_inv | with_reducible apply State.endReq_inv
    | with_reducible apply foldl_inv | with_reducible apply foldl_inv2 | with_reducible apply foldl_inv1
    | with_reducible apply foldl_canon | with_reducible apply State.setRegion_inv
    | with_reducible apply State.region_inv | split | exact fun h => h | exact fun h => wf_smapAllTo h _
    | exact fun h => wf_sfilter h _ | exact fun _ => rfl | intro _ _ _ | intro _ _ | intro _ | dsimp only
    | contradiction
    | with_reducible refine inv_mk ?_ rfl rfl rfl rfl rfl rfl rfl rfl rfl rfl rfl rfl rfl rfl rfl rfl
    | with_reducible refine canon_mk ?_ rfl rfl
    | with_reducible refine inv_mk_wf ?_ rfl rfl rfl ?_ ?_ ?_ ?_ ?_ ?_ rfl ?_ rfl rfl rfl rfl rfl)

theorem State.closeTap_inv {s : State} (key : Nat) (h0 : s.Inv) :
    (State.closeTap s key).Inv := by
  unfold State.closeTap
  try dsimp only
  repeat' (first
    | with_reducible assumption | with_reducible apply foldl_inv | with_reducible apply foldl_inv2
    | with_reducible apply foldl_inv1 | with_reducible apply foldl_canon | with_reducible apply State.setRegion_inv
    | with_reducible apply State.region_inv | split | exact fun h => h | exact fun h => wf_smapAllTo h _
    | exact fun h => wf_sfilter h _ | exact fun _ => rfl | intro _ _ _ | intro _ _ | intro _ | dsimp only
    | contradiction
    | with_reducible refine inv_mk ?_ rfl rfl rfl rfl rfl rfl rfl rfl rfl rfl rfl rfl rfl rfl rfl rfl)

theorem State.clearKey_inv {s : State} (key : Nat) (h0 : s.Inv) :
    (State.clearKey s key).Inv := by
  unfold State.clearKey
  try dsimp only
  repeat' (first
    | with_reducible assumption | with_reducible apply State.setReg_inv | with_reducible apply foldl_inv
    | with_reducible apply foldl_inv2 | with_reducible apply foldl_inv1 | with_reducible apply foldl_canon
    | with_reducible apply State.setRegion_inv | with_reducible apply State.region_inv | split | exact fun h => h
    | exact fun h => wf_smapAllTo h _ | exact fun h => wf_sfilter h _ | exact fun _ => rfl | intro _ _ _ | intro _ _
    | intro _ | dsimp only | contradiction
    | with_reducible refine inv_mk ?_ rfl rfl rfl rfl rfl rfl rfl rfl rfl rfl rfl rfl rfl rfl rfl rfl)

theorem State.disarm_inv {s : State} (h0 : s.Inv) :
    (State.disarm s).Inv := by
  unfold State.disarm
  try dsimp only
  repeat' (first
    | with_reducible assumption | with_reducible apply State.put_inv | with_reducible apply foldl_inv
    | with_reducible apply foldl_inv2 | with_reducible apply foldl_inv1 | with_reducible apply foldl_canon
    | with_reducible apply State.setRegion_inv | with_reducible apply State.region_inv | split | exact fun h => h
    | exact fun h => wf_smapAllTo h _ | exact fun h => wf_sfilter h _ | exact fun _ => rfl | intro _ _ _ | intro _ _
    | intro _ | dsimp only | contradiction
    | with_reducible refine inv_mk ?_ rfl rfl rfl rfl rfl rfl rfl rfl rfl rfl rfl rfl rfl rfl rfl rfl)

theorem State.leavePartition_inv {s : State} (key : Nat) (h0 : s.Inv) :
    (State.leavePartition s key).Inv := by
  unfold State.leavePartition
  try dsimp only
  repeat' (first
    | with_reducible assumption | with_reducible apply State.disarm_inv | with_reducible apply State.put_inv
    | with_reducible apply State.setReg_inv | with_reducible apply State.closeWindow_inv
    | refine State.closeWindow_inv_eq (by assumption) ?_ | with_reducible apply foldl_inv
    | with_reducible apply foldl_inv2 | with_reducible apply foldl_inv1 | with_reducible apply foldl_canon
    | with_reducible apply State.setRegion_inv | with_reducible apply State.region_inv | split | exact fun h => h
    | exact fun h => wf_smapAllTo h _ | exact fun h => wf_sfilter h _ | exact fun _ => rfl | intro _ _ _ | intro _ _
    | intro _ | dsimp only | contradiction
    | with_reducible refine inv_mk ?_ rfl rfl rfl rfl rfl rfl rfl rfl rfl rfl rfl rfl rfl rfl rfl rfl)

theorem State.endRetire_inv {s : State} (key : Nat) (h0 : s.Inv) :
    (State.endRetire s key).Inv := by
  unfold State.endRetire
  try dsimp only
  repeat' (first
    | with_reducible assumption | with_reducible apply State.closeTap_inv | with_reducible apply State.clearKey_inv
    | with_reducible apply State.leavePartition_inv | with_reducible apply State.answer_inv
    | with_reducible apply foldl_inv | with_reducible apply foldl_inv2 | with_reducible apply foldl_inv1
    | with_reducible apply foldl_canon | with_reducible apply State.setRegion_inv
    | with_reducible apply State.region_inv | split | exact fun h => h | exact fun h => wf_smapAllTo h _
    | exact fun h => wf_sfilter h _ | exact fun _ => rfl | intro _ _ _ | intro _ _ | intro _ | dsimp only
    | contradiction
    | with_reducible refine inv_mk ?_ rfl rfl rfl rfl rfl rfl rfl rfl rfl rfl rfl rfl rfl rfl rfl rfl)

theorem State.retireKey_inv {s : State} (key : Nat) (mb : Nat) (h0 : s.Inv) :
    (State.retireKey s key mb).Inv := by
  unfold State.retireKey
  try dsimp only
  repeat' (first
    | with_reducible assumption | with_reducible apply State.answer_inv | with_reducible apply State.beginRetire_inv
    | with_reducible apply foldl_inv | with_reducible apply foldl_inv2 | with_reducible apply foldl_inv1
    | with_reducible apply foldl_canon | with_reducible apply State.setRegion_inv
    | with_reducible apply State.region_inv | split)

end Sys2Proof.Machine
end

