-- ==== Sys2Proof/Laws/InvDomains.lean ====
section
/-! SUPPORT. The invariant through the fences, the resets and the boot. -/
namespace Sys2Proof.Machine

theorem State.endRequests_inv {s : State} (h0 : s.Inv) :
    (State.endRequests s).Inv := by
  unfold State.endRequests
  try dsimp only
  repeat' (first | with_reducible assumption | with_reducible apply State.endReq_inv | with_reducible apply foldl_inv)

theorem State.fenceServing_inv {s : State} (h0 : s.Inv) :
    (State.fenceServing s).Inv := by
  unfold State.fenceServing
  try dsimp only
  repeat' (first
    | with_reducible assumption | with_reducible apply State.clearRows_inv | with_reducible apply State.nextRow_inv
    | with_reducible apply foldl_inv | with_reducible apply foldl_inv2 | with_reducible apply foldl_inv1
    | with_reducible apply foldl_canon | with_reducible apply State.setRegion_inv
    | with_reducible apply State.region_inv | split | exact fun h => h | exact fun h => wf_smapAllTo h _
    | exact fun h => wf_sfilter h _ | exact fun _ => rfl | intro _ _ _ | intro _ _ | intro _ | dsimp only
    | contradiction
    | with_reducible refine inv_mk ?_ rfl rfl rfl rfl rfl rfl rfl rfl rfl rfl rfl rfl rfl rfl rfl rfl
    | with_reducible refine canon_mk ?_ rfl rfl
    | with_reducible refine inv_mk_wf ?_ rfl rfl rfl ?_ ?_ ?_ ?_ ?_ ?_ rfl ?_ rfl rfl rfl rfl rfl
    | refine wf_smapAllTo ?_ _)

theorem State.fenceWindows_inv {s : State} (h0 : s.Inv) :
    (State.fenceWindows s).Inv := by
  unfold State.fenceWindows
  try dsimp only
  repeat' (first
    | with_reducible assumption | with_reducible apply State.endInbound_inv | with_reducible apply foldl_inv
    | with_reducible apply foldl_inv2 | with_reducible apply foldl_inv1 | with_reducible apply foldl_canon
    | with_reducible apply State.setRegion_inv | with_reducible apply State.region_inv | split | exact fun h => h
    | exact fun h => wf_smapAllTo h _ | exact fun h => wf_sfilter h _ | exact fun _ => rfl | intro _ _ _)

theorem State.fenceYield_inv {s : State} (h0 : s.Inv) :
    (State.fenceYield s).Inv := by
  unfold State.fenceYield
  try dsimp only
  repeat' (first
    | with_reducible assumption | with_reducible apply State.answerYield_inv | with_reducible apply foldl_inv
    | with_reducible apply foldl_inv2 | with_reducible apply foldl_inv1 | with_reducible apply foldl_canon
    | with_reducible apply State.setRegion_inv | with_reducible apply State.region_inv | split | exact fun h => h
    | exact fun h => wf_smapAllTo h _ | exact fun h => wf_sfilter h _ | exact fun _ => rfl | intro _ _ _ | intro _ _
    | intro _ | dsimp only | contradiction
    | with_reducible refine inv_mk ?_ rfl rfl rfl rfl rfl rfl rfl rfl rfl rfl rfl rfl rfl rfl rfl rfl)

theorem State.stopRegions_inv {s : State} (h0 : s.Inv) :
    (State.stopRegions s).Inv := by
  unfold State.stopRegions
  try dsimp only
  repeat' (first
    | with_reducible assumption | with_reducible apply State.stopSeq_inv | with_reducible apply foldl_inv
    | with_reducible apply foldl_inv2 | with_reducible apply foldl_inv1 | with_reducible apply foldl_canon
    | with_reducible apply State.setRegion_inv | with_reducible apply State.region_inv | split | exact fun h => h
    | exact fun h => wf_smapAllTo h _ | exact fun h => wf_sfilter h _ | exact fun _ => rfl | intro _ _ _ | intro _ _
    | intro _ | dsimp only | contradiction
    | with_reducible refine inv_mk ?_ rfl rfl rfl rfl rfl rfl rfl rfl rfl rfl rfl rfl rfl rfl rfl rfl)

theorem State.fenceD3_inv {s : State} (h0 : s.Inv) :
    (State.fenceD3 s).Inv := by
  unfold State.fenceD3
  try dsimp only
  repeat' (first
    | with_reducible assumption | with_reducible apply State.endRequests_inv
    | with_reducible apply State.fenceWeights_inv | with_reducible apply State.fenceServing_inv
    | with_reducible apply State.stopRegions_inv | with_reducible apply State.fenceShuttle_inv
    | with_reducible apply State.discardBme_inv | with_reducible apply State.fenceYield_inv
    | with_reducible apply State.fenceWindows_inv | with_reducible apply foldl_inv | with_reducible apply foldl_inv2
    | with_reducible apply foldl_inv1 | with_reducible apply foldl_canon | with_reducible apply State.setRegion_inv
    | with_reducible apply State.region_inv | split | exact fun h => h | exact fun h => wf_smapAllTo h _
    | exact fun h => wf_sfilter h _ | exact fun _ => rfl | intro _ _ _)

theorem State.fenceD2_inv {s : State} (h0 : s.Inv) :
    (State.fenceD2 s).Inv := by
  unfold State.fenceD2
  try dsimp only
  repeat' (first
    | with_reducible assumption | with_reducible apply State.fenceBme_inv
    | with_reducible apply State.accessFailed_inv | with_reducible apply State.recordFault_inv
    | with_reducible apply foldl_inv | with_reducible apply foldl_inv2 | with_reducible apply foldl_inv1
    | with_reducible apply foldl_canon | with_reducible apply State.setRegion_inv
    | with_reducible apply State.region_inv | split | exact fun h => h | exact fun h => wf_smapAllTo h _
    | exact fun h => wf_sfilter h _ | exact fun _ => rfl | intro _ _ _ | intro _ _ | intro _ | dsimp only
    | contradiction
    | with_reducible refine inv_mk ?_ rfl rfl rfl rfl rfl rfl rfl rfl rfl rfl rfl rfl rfl rfl rfl rfl)

theorem State.fenceRehearsal_inv {s : State} (h0 : s.Inv) :
    (State.fenceRehearsal s).Inv := by
  unfold State.fenceRehearsal
  try dsimp only
  repeat' (first
    | with_reducible assumption | with_reducible apply State.endRehearsal_inv | with_reducible apply foldl_inv
    | with_reducible apply foldl_inv2 | with_reducible apply foldl_inv1 | with_reducible apply foldl_canon
    | with_reducible apply State.setRegion_inv | with_reducible apply State.region_inv | split)

theorem State.fenceDomain_inv {s : State} (d : Nat) (h0 : s.Inv) :
    (State.fenceDomain s d).Inv := by
  unfold State.fenceDomain
  try dsimp only
  repeat' (first
    | with_reducible assumption | with_reducible apply State.put_inv | with_reducible apply State.fenceRehearsal_inv
    | with_reducible apply State.fenceD3_inv | with_reducible apply State.fenceD2_inv
    | with_reducible apply State.endRequests_inv | with_reducible apply foldl_inv | with_reducible apply foldl_inv2
    | with_reducible apply foldl_inv1 | with_reducible apply foldl_canon | with_reducible apply State.setRegion_inv
    | with_reducible apply State.region_inv | split)

theorem State.fenceAll_inv {s : State} (ds : List Nat) (box : Option Nat) (h0 : s.Inv) :
    (State.fenceAll s ds box).Inv := by
  unfold State.fenceAll
  try dsimp only
  repeat' (first
    | with_reducible assumption | with_reducible apply State.fenceDomain_inv | with_reducible apply State.disarm_inv
    | with_reducible apply foldl_inv | with_reducible apply foldl_inv2 | with_reducible apply foldl_inv1
    | with_reducible apply foldl_canon | with_reducible apply State.setRegion_inv
    | with_reducible apply State.region_inv | split | exact fun h => h | exact fun h => wf_smapAllTo h _
    | exact fun h => wf_sfilter h _ | exact fun _ => rfl | intro _ _ _ | intro _ _ | intro _ | dsimp only
    | contradiction
    | with_reducible refine inv_mk ?_ rfl rfl rfl rfl rfl rfl rfl rfl rfl rfl rfl rfl rfl rfl rfl rfl)

theorem State.accessEnded_inv {s : State} (who : Requester) (write : Bool) (h0 : s.Inv) :
    (State.accessEnded s who write).Inv := by
  unfold State.accessEnded
  try dsimp only
  repeat' (first
    | with_reducible assumption | with_reducible apply State.writeDone_inv | with_reducible apply State.readDone_inv
    | with_reducible apply foldl_inv | with_reducible apply foldl_inv2 | with_reducible apply foldl_inv1
    | with_reducible apply foldl_canon | with_reducible apply State.setRegion_inv
    | with_reducible apply State.region_inv | split)

theorem State.dropUnsched_inv {s : State} (u : Unsched) (h0 : s.Inv) :
    (State.dropUnsched s u).Inv := by
  unfold State.dropUnsched
  try dsimp only
  repeat' (first
    | with_reducible assumption | with_reducible apply State.setRegion_inv
    | with_reducible apply RegionSt.setTag_inv | with_reducible apply State.region_inv
    | with_reducible apply State.accessEnded_inv | with_reducible apply foldl_inv | with_reducible apply foldl_inv2
    | with_reducible apply foldl_inv1 | with_reducible apply foldl_canon | with_reducible apply State.setRegion_inv
    | with_reducible apply State.region_inv | split)

theorem State.dropBme_inv {s : State} (c : BmeCmd) (h0 : s.Inv) :
    (State.dropBme s c).Inv := by
  unfold State.dropBme
  try dsimp only
  repeat' (first
    | with_reducible assumption | with_reducible apply State.setRegion_inv
    | with_reducible apply RegionSt.setTag_inv | with_reducible apply State.region_inv
    | with_reducible apply foldl_inv | with_reducible apply foldl_inv2 | with_reducible apply foldl_inv1
    | with_reducible apply foldl_canon | with_reducible apply State.setRegion_inv
    | with_reducible apply State.region_inv | split | exact fun h => h | exact fun h => wf_smapAllTo h _
    | exact fun h => wf_sfilter h _ | exact fun _ => rfl | intro _ _ _ | intro _ _ | intro _ | dsimp only
    | contradiction
    | with_reducible refine inv_mk ?_ rfl rfl rfl rfl rfl rfl rfl rfl rfl rfl rfl rfl rfl rfl rfl rfl
    | with_reducible refine canon_mk ?_ rfl rfl
    | with_reducible refine inv_mk_wf ?_ rfl rfl rfl ?_ ?_ ?_ ?_ ?_ ?_ rfl ?_ rfl rfl rfl rfl rfl
    | refine wf_smapAllTo ?_ _)

theorem State.forceD3_inv {s : State} (h0 : s.Inv) :
    (State.forceD3 s).Inv := by
  unfold State.forceD3
  try dsimp only
  repeat' (first
    | with_reducible assumption | with_reducible apply State.dropUnsched_inv
    | with_reducible apply State.dropBme_inv | with_reducible apply State.endInbound_inv
    | with_reducible apply foldl_inv | with_reducible apply foldl_inv2 | with_reducible apply foldl_inv1
    | with_reducible apply foldl_canon | with_reducible apply State.setRegion_inv
    | with_reducible apply State.region_inv | split | exact fun h => h | exact fun h => wf_smapAllTo h _
    | exact fun h => wf_sfilter h _ | exact fun _ => rfl | intro _ _ _ | intro _ _ | intro _ | dsimp only
    | contradiction
    | with_reducible refine inv_mk ?_ rfl rfl rfl rfl rfl rfl rfl rfl rfl rfl rfl rfl rfl rfl rfl rfl
    | with_reducible refine canon_mk ?_ rfl rfl
    | with_reducible refine inv_mk_wf ?_ rfl rfl rfl ?_ ?_ ?_ ?_ ?_ ?_ rfl ?_ rfl rfl rfl rfl rfl
    | refine wf_smapAllTo ?_ _)

theorem State.forceD2_inv {s : State} (h0 : s.Inv) :
    (State.forceD2 s).Inv := by
  unfold State.forceD2
  try dsimp only
  repeat' (first
    | with_reducible assumption | with_reducible apply State.accessFailed_inv
    | with_reducible apply State.endInbound_inv | with_reducible apply foldl_inv | with_reducible apply foldl_inv2
    | with_reducible apply foldl_inv1 | with_reducible apply foldl_canon | with_reducible apply State.setRegion_inv
    | with_reducible apply State.region_inv | split | exact fun h => h | exact fun h => wf_smapAllTo h _
    | exact fun h => wf_sfilter h _ | exact fun _ => rfl | intro _ _ _ | intro _ _ | intro _ | dsimp only
    | contradiction
    | with_reducible refine inv_mk ?_ rfl rfl rfl rfl rfl rfl rfl rfl rfl rfl rfl rfl rfl rfl rfl rfl
    | with_reducible refine canon_mk ?_ rfl rfl
    | with_reducible refine inv_mk_wf ?_ rfl rfl rfl ?_ ?_ ?_ ?_ ?_ ?_ rfl ?_ rfl rfl rfl rfl rfl
    | refine wf_smapAllTo ?_ _)

theorem State.dropSpills_inv {s : State} (slots : Nat → Bool) (h0 : s.Inv) :
    (State.dropSpills s slots).Inv := by
  unfold State.dropSpills
  try dsimp only
  repeat' (first
    | with_reducible assumption | with_reducible apply foldl_inv | with_reducible apply foldl_inv2
    | with_reducible apply foldl_inv1 | with_reducible apply foldl_canon | with_reducible apply State.setRegion_inv
    | with_reducible apply State.region_inv | split | exact fun h => h | exact fun h => wf_smapAllTo h _
    | exact fun h => wf_sfilter h _ | exact fun _ => rfl | intro _ _ _ | intro _ _ | intro _ | dsimp only
    | contradiction
    | with_reducible refine inv_mk ?_ rfl rfl rfl rfl rfl rfl rfl rfl rfl rfl rfl rfl rfl rfl rfl rfl
    | with_reducible refine canon_mk ?_ rfl rfl
    | with_reducible refine inv_mk_wf ?_ rfl rfl rfl ?_ ?_ ?_ ?_ ?_ ?_ rfl ?_ rfl rfl rfl rfl rfl
    | refine wf_smapAllTo ?_ _)

theorem State.forceD1_inv {s : State} (h0 : s.Inv) :
    (State.forceD1 s).Inv := by
  unfold State.forceD1
  try dsimp only
  repeat' (first
    | with_reducible assumption | with_reducible apply State.dropSpills_inv
    | with_reducible apply State.noteBacklog_inv | with_reducible apply foldl_inv | with_reducible apply foldl_inv2
    | with_reducible apply foldl_inv1 | with_reducible apply foldl_canon | with_reducible apply State.setRegion_inv
    | with_reducible apply State.region_inv | split | exact fun h => h | exact fun h => wf_smapAllTo h _
    | exact fun h => wf_sfilter h _ | exact fun _ => rfl | intro _ _ _ | intro _ _ | intro _ | dsimp only
    | contradiction
    | with_reducible refine inv_mk ?_ rfl rfl rfl rfl rfl rfl rfl rfl rfl rfl rfl rfl rfl rfl rfl rfl
    | with_reducible refine canon_mk ?_ rfl rfl
    | with_reducible refine inv_mk_wf ?_ rfl rfl rfl ?_ ?_ ?_ ?_ ?_ ?_ rfl ?_ rfl rfl rfl rfl rfl
    | refine wf_smapAllTo ?_ _)

theorem State.force_inv {s : State} (d : Nat) (h0 : s.Inv) :
    (State.force s d).Inv := by
  unfold State.force
  try dsimp only
  repeat' (first
    | with_reducible assumption | with_reducible apply State.forceD1_inv | with_reducible apply State.forceD2_inv
    | with_reducible apply State.forceD3_inv | with_reducible apply foldl_inv | with_reducible apply foldl_inv2
    | with_reducible apply foldl_inv1 | with_reducible apply foldl_canon | with_reducible apply State.setRegion_inv
    | with_reducible apply State.region_inv | split)

theorem State.finishDrain_inv {s : State} (d : Drain) (h0 : s.Inv) :
    (State.finishDrain s d).Inv := by
  unfold State.finishDrain
  try dsimp only
  repeat' (first
    | with_reducible assumption | with_reducible apply State.put_inv | with_reducible apply State.logRec_inv
    | with_reducible apply State.answer_inv | with_reducible apply foldl_inv | with_reducible apply foldl_inv2
    | with_reducible apply foldl_inv1 | with_reducible apply foldl_canon | with_reducible apply State.setRegion_inv
    | with_reducible apply State.region_inv | split | exact fun h => h | exact fun h => wf_smapAllTo h _
    | exact fun h => wf_sfilter h _ | exact fun _ => rfl | intro _ _ _ | intro _ _ | intro _ | dsimp only
    | contradiction
    | with_reducible refine inv_mk ?_ rfl rfl rfl rfl rfl rfl rfl rfl rfl rfl rfl rfl rfl rfl rfl rfl)

theorem State.endDrain_inv {s : State} (h0 : s.Inv) :
    (State.endDrain s).Inv := by
  unfold State.endDrain
  try dsimp only
  repeat' (first
    | with_reducible assumption | with_reducible apply State.finishDrain_inv | with_reducible apply State.at_inv
    | with_reducible apply State.force_inv | with_reducible apply State.count_inv
    | with_reducible apply State.raise_inv | with_reducible apply foldl_inv | with_reducible apply foldl_inv2
    | with_reducible apply foldl_inv1 | with_reducible apply foldl_canon | with_reducible apply State.setRegion_inv
    | with_reducible apply State.region_inv | split)

theorem State.showSlots_inv {s : State} (h0 : s.Inv) :
    (State.showSlots s).Inv := by
  unfold State.showSlots
  try dsimp only
  repeat' (first | with_reducible assumption | with_reducible apply State.put_inv)

theorem State.startControl_inv {s : State} (h0 : s.Inv) :
    (State.startControl s).2.Inv := by
  unfold State.startControl
  try dsimp only
  repeat' (first
    | with_reducible assumption | with_reducible apply State.logRec_inv | with_reducible apply State.showSlots_inv
    | with_reducible apply foldl_inv | with_reducible apply foldl_inv2 | with_reducible apply foldl_inv1
    | with_reducible apply foldl_canon | with_reducible apply State.setRegion_inv
    | with_reducible apply State.region_inv | split | exact fun h => h | exact fun h => wf_smapAllTo h _
    | exact fun h => wf_sfilter h _ | exact fun _ => rfl | intro _ _ _ | intro _ _ | intro _ | dsimp only
    | contradiction
    | with_reducible refine inv_mk ?_ rfl rfl rfl rfl rfl rfl rfl rfl rfl rfl rfl rfl rfl rfl rfl rfl)
theorem State.startControl_inv_eq {s : State} {zr} {zt : State} (e0 : (State.startControl s) = (zr, zt)) (h0 : s.Inv) :
    zt.Inv := by
  have i := State.startControl_inv h0
  rw [e0] at i
  exact i

theorem State.resetRegs_inv {s : State} (d : Nat) (keep : Nat) (h0 : s.Inv) :
    (State.resetRegs s d keep).Inv := by
  unfold State.resetRegs
  refine { h0 with regs := ?_ }
  dsimp only
  exact wf_sfilter h0.regs _

theorem State.closeSlots_inv {s : State} (h0 : s.Inv) :
    (State.closeSlots s).Inv := by
  unfold State.closeSlots
  try dsimp only
  repeat' (first
    | with_reducible assumption | with_reducible apply State.trace_inv | with_reducible apply foldl_inv
    | with_reducible apply foldl_inv2 | with_reducible apply foldl_inv1 | with_reducible apply foldl_canon
    | with_reducible apply State.setRegion_inv | with_reducible apply State.region_inv | split | exact fun h => h
    | exact fun h => wf_smapAllTo h _ | exact fun h => wf_sfilter h _ | exact fun _ => rfl | intro _ _ _)

theorem State.dropSlots_inv {s : State} (h0 : s.Inv) :
    (State.dropSlots s).Inv := by
  unfold State.dropSlots
  refine { h0 with regs := ?_ }
  dsimp only
  exact wf_sfilter h0.regs _

theorem State.clearSlots_inv {s : State} (h0 : s.Inv) :
    (State.clearSlots s).Inv := by
  unfold State.clearSlots
  try dsimp only
  repeat' (first
    | with_reducible assumption | with_reducible apply State.put_inv | with_reducible apply State.dropSlots_inv
    | with_reducible apply State.closeSlots_inv)

theorem State.endSession_inv {s : State} (h0 : s.Inv) :
    (State.endSession s).Inv := by
  unfold State.endSession
  try dsimp only
  repeat' (first
    | with_reducible assumption | with_reducible apply State.put_inv | with_reducible apply State.clearSlots_inv)

theorem State.leaveSlipped_inv {s : State} (h0 : s.Inv) :
    (State.leaveSlipped s).Inv := by
  unfold State.leaveSlipped
  try dsimp only
  repeat' (first
    | with_reducible assumption | with_reducible apply State.put_inv | with_reducible apply foldl_inv
    | with_reducible apply foldl_inv2 | with_reducible apply foldl_inv1 | with_reducible apply foldl_canon
    | with_reducible apply State.setRegion_inv | with_reducible apply State.region_inv | split)

theorem State.dropCommands_inv {s : State} (asker : Option Nat) (h0 : s.Inv) :
    (State.dropCommands s asker).Inv := by
  unfold State.dropCommands
  try dsimp only
  repeat' (first
    | with_reducible assumption | with_reducible apply State.setBox_inv | with_reducible apply foldl_inv
    | with_reducible apply foldl_inv2 | with_reducible apply foldl_inv1 | with_reducible apply foldl_canon
    | with_reducible apply State.setRegion_inv | with_reducible apply State.region_inv | split | exact fun h => h
    | exact fun h => wf_smapAllTo h _ | exact fun h => wf_sfilter h _ | exact fun _ => rfl | intro _ _ _ | intro _ _
    | intro _ | dsimp only | contradiction
    | with_reducible refine inv_mk ?_ rfl rfl rfl rfl rfl rfl rfl rfl rfl rfl rfl rfl rfl rfl rfl rfl)

theorem State.dropRehearsal_inv {s : State} (done : Bool) (h0 : s.Inv) :
    (State.dropRehearsal s done).Inv := by
  unfold State.dropRehearsal
  split
  · exact h0
  · exact State.put_inv _ _ (inv_mk h0 rfl rfl rfl rfl rfl rfl rfl rfl rfl rfl rfl rfl rfl rfl rfl rfl)

theorem State.forgetCommands_inv {s : State} (h0 : s.Inv) :
    (State.forgetCommands s).Inv := by
  unfold State.forgetCommands
  try dsimp only
  repeat' (first
    | with_reducible assumption | with_reducible apply State.dropRehearsal_inv | with_reducible apply State.put_inv | with_reducible apply foldl_inv
    | with_reducible apply foldl_inv2 | with_reducible apply foldl_inv1 | with_reducible apply foldl_canon
    | with_reducible apply State.setRegion_inv | with_reducible apply State.region_inv | split | exact fun h => h
    | exact fun h => wf_smapAllTo h _ | exact fun h => wf_sfilter h _ | exact fun _ => rfl | intro _ _ _ | intro _ _
    | intro _ | dsimp only | contradiction
    | with_reducible refine inv_mk ?_ rfl rfl rfl rfl rfl rfl rfl rfl rfl rfl rfl rfl rfl rfl rfl rfl
    | with_reducible refine canon_mk ?_ rfl rfl
    | with_reducible refine inv_mk_wf ?_ rfl rfl rfl ?_ ?_ ?_ ?_ ?_ ?_ rfl ?_ rfl rfl rfl rfl rfl)

theorem State.dropWindows_inv {s : State} (h0 : s.Inv) :
    (State.dropWindows s).Inv := by
  unfold State.dropWindows
  try dsimp only
  repeat' (first
    | with_reducible assumption | with_reducible apply State.closeWindows_inv | with_reducible apply foldl_inv
    | with_reducible apply foldl_inv2 | with_reducible apply foldl_inv1 | with_reducible apply foldl_canon
    | with_reducible apply State.setRegion_inv | with_reducible apply State.region_inv | split | exact fun h => h
    | exact fun h => wf_smapAllTo h _ | exact fun h => wf_sfilter h _ | exact fun _ => rfl | intro _ _ _ | intro _ _
    | intro _ | dsimp only | contradiction
    | with_reducible refine inv_mk ?_ rfl rfl rfl rfl rfl rfl rfl rfl rfl rfl rfl rfl rfl rfl rfl rfl
    | with_reducible refine canon_mk ?_ rfl rfl
    | with_reducible refine inv_mk_wf ?_ rfl rfl rfl ?_ ?_ ?_ ?_ ?_ ?_ rfl ?_ rfl rfl rfl rfl rfl)

theorem State.clearD3_inv {s : State} (h0 : s.Inv) :
    (State.clearD3 s).Inv := by
  unfold State.clearD3
  have h1 : ((List.range 16).foldl (fun (t : State) k => t.discardBme k true) s).Inv :=
    foldl_inv (fun t k h => State.discardBme_inv _ _ h) h0
  generalize (List.range 16).foldl (fun (t : State) k => t.discardBme k true) s = a at h1 ⊢
  refine { h1 with regions := by dsimp only; exact wf_smapAllTo h1.regions _, slices := ?_, objects := rfl, shuttles := rfl, faultQ := Nat.zero_le _,
                   failures := Nat.zero_le _, trace := Nat.zero_le _ }
  intro e he
  dsimp only at he
  obtain ⟨x, hx⟩ := mem_smapAllTo he
  rw [hx]
  exact canon_mk RegionSt.empty_canon rfl rfl

theorem State.lockClocks_inv {s : State} (h0 : s.Inv) :
    (State.lockClocks s).Inv := by
  unfold State.lockClocks
  try dsimp only
  repeat' (first
    | with_reducible assumption | with_reducible apply State.put_inv | with_reducible apply foldl_inv
    | with_reducible apply foldl_inv2 | with_reducible apply foldl_inv1 | with_reducible apply foldl_canon
    | with_reducible apply State.setRegion_inv | with_reducible apply State.region_inv | split | exact fun h => h
    | exact fun h => wf_smapAllTo h _ | exact fun h => wf_sfilter h _ | exact fun _ => rfl | intro _ _ _)

theorem State.resetD3_inv {s : State} (asker : Option Nat) (h0 : s.Inv) :
    (State.resetD3 s asker).Inv := by
  unfold State.resetD3
  try dsimp only
  repeat' (first
    | with_reducible assumption | with_reducible apply State.readyAll_inv | with_reducible apply State.clearD3_inv
    | with_reducible apply State.dropWindows_inv | with_reducible apply State.forgetCommands_inv
    | with_reducible apply State.dropCommands_inv | with_reducible apply State.endSession_inv
    | with_reducible apply State.resetRegs_inv | with_reducible apply State.startControl_inv
    | refine State.startControl_inv_eq (by assumption) ?_ | with_reducible apply State.leaveSlipped_inv
    | with_reducible apply State.lockClocks_inv | with_reducible apply State.put_inv)

theorem State.resetD2_inv {s : State} (h0 : s.Inv) :
    (State.resetD2 s).Inv := by
  unfold State.resetD2
  try dsimp only
  repeat' (first
    | with_reducible assumption | with_reducible apply State.resetRegs_inv | with_reducible apply foldl_inv
    | with_reducible apply foldl_inv2 | with_reducible apply foldl_inv1 | with_reducible apply foldl_canon
    | with_reducible apply State.setRegion_inv | with_reducible apply State.region_inv | split | exact fun h => h
    | exact fun h => wf_smapAllTo h _ | exact fun h => wf_sfilter h _ | exact fun _ => rfl | intro _ _ _ | intro _ _
    | intro _ | dsimp only | contradiction
    | with_reducible refine inv_mk ?_ rfl rfl rfl rfl rfl rfl rfl rfl rfl rfl rfl rfl rfl rfl rfl rfl
    | with_reducible refine canon_mk ?_ rfl rfl
    | with_reducible refine inv_mk_wf ?_ rfl rfl rfl ?_ ?_ ?_ ?_ ?_ ?_ rfl ?_ rfl rfl rfl rfl rfl
    | refine wf_smapAllTo ?_ _)

theorem State.resetD1_inv {s : State} (asker : Option Nat) (h0 : s.Inv) :
    (State.resetD1 s asker).Inv := by
  unfold State.resetD1
  have h1 : ((s.endRequests.dropSpills (fun _ => true)).resetRegs 1 0x1000000).Inv :=
    State.resetRegs_inv _ _ (State.dropSpills_inv _ (State.endRequests_inv h0))
  dsimp only
  generalize (s.endRequests.dropSpills (fun _ => true)).resetRegs 1 0x1000000 = a at h1 ⊢
  exact { h1 with sram := rfl, ports := rfl, boxes := wf_sfilter h1.boxes (fun a => asker == some a) }

theorem State.beginReset_inv {s : State} (d : Nat) (asker : Option Nat) (h0 : s.Inv) :
    (State.beginReset s d asker).Inv := by
  unfold State.beginReset
  try dsimp only
  repeat' (first
    | with_reducible assumption | with_reducible apply State.count_inv | with_reducible apply State.logRec_inv
    | with_reducible apply State.resetD1_inv | with_reducible apply State.resetD2_inv
    | with_reducible apply State.resetD3_inv | with_reducible apply foldl_inv | with_reducible apply foldl_inv2
    | with_reducible apply foldl_inv1 | with_reducible apply foldl_canon | with_reducible apply State.setRegion_inv
    | with_reducible apply State.region_inv | split | exact fun h => h | exact fun h => wf_smapAllTo h _
    | exact fun h => wf_sfilter h _ | exact fun _ => rfl | intro _ _ _ | intro _ _ | intro _ | dsimp only
    | contradiction
    | with_reducible refine inv_mk ?_ rfl rfl rfl rfl rfl rfl rfl rfl rfl rfl rfl rfl rfl rfl rfl rfl)

theorem State.askReset_inv {s : State} (d : Nat) (asker : Option Nat) (h0 : s.Inv) :
    (State.askReset s d asker).Inv := by
  unfold State.askReset
  try dsimp only
  repeat' (first
    | with_reducible assumption | with_reducible apply State.beginReset_inv
    | with_reducible apply State.fenceAll_inv | with_reducible apply foldl_inv | with_reducible apply foldl_inv2
    | with_reducible apply foldl_inv1 | with_reducible apply foldl_canon | with_reducible apply State.setRegion_inv
    | with_reducible apply State.region_inv | split | exact fun h => h | exact fun h => wf_smapAllTo h _
    | exact fun h => wf_sfilter h _ | exact fun _ => rfl | intro _ _ _ | intro _ _ | intro _ | dsimp only
    | contradiction
    | with_reducible refine inv_mk ?_ rfl rfl rfl rfl rfl rfl rfl rfl rfl rfl rfl rfl rfl rfl rfl rfl)

theorem State.afterDrain_inv {s : State} (h0 : s.Inv) :
    (State.afterDrain s).Inv := by
  unfold State.afterDrain
  try dsimp only
  repeat' (first
    | with_reducible assumption | with_reducible apply State.beginReset_inv | with_reducible apply foldl_inv
    | with_reducible apply foldl_inv2 | with_reducible apply foldl_inv1 | with_reducible apply foldl_canon
    | with_reducible apply State.setRegion_inv | with_reducible apply State.region_inv | split | exact fun h => h
    | exact fun h => wf_smapAllTo h _ | exact fun h => wf_sfilter h _ | exact fun _ => rfl | intro _ _ _ | intro _ _
    | intro _ | dsimp only | contradiction
    | with_reducible refine inv_mk ?_ rfl rfl rfl rfl rfl rfl rfl rfl rfl rfl rfl rfl rfl rfl rfl rfl)

theorem State.answerDropped_inv {s : State} (h0 : s.Inv) :
    (State.answerDropped s).Inv := by
  unfold State.answerDropped
  try dsimp only
  repeat' (first
    | with_reducible assumption | with_reducible apply State.finish_inv | with_reducible apply foldl_inv
    | with_reducible apply foldl_inv2 | with_reducible apply foldl_inv1 | with_reducible apply foldl_canon
    | with_reducible apply State.setRegion_inv | with_reducible apply State.region_inv | split | exact fun h => h
    | exact fun h => wf_smapAllTo h _ | exact fun h => wf_sfilter h _ | exact fun _ => rfl | intro _ _ _ | intro _ _
    | intro _ | dsimp only | contradiction
    | with_reducible refine inv_mk ?_ rfl rfl rfl rfl rfl rfl rfl rfl rfl rfl rfl rfl rfl rfl rfl rfl)

theorem State.showDevice_inv {s : State} (h0 : s.Inv) :
    (State.showDevice s).Inv := by
  unfold State.showDevice
  try dsimp only
  repeat' (first
    | with_reducible assumption | with_reducible apply State.put_inv | with_reducible apply foldl_inv
    | with_reducible apply foldl_inv2 | with_reducible apply foldl_inv1 | with_reducible apply foldl_canon
    | with_reducible apply State.setRegion_inv | with_reducible apply State.region_inv | split)

theorem State.detectAll_inv {s : State} (h0 : s.Inv) :
    (State.detectAll s).Inv := by
  unfold State.detectAll
  try dsimp only
  repeat' (first
    | with_reducible assumption | with_reducible apply State.enterLnk_inv | with_reducible apply foldl_inv
    | with_reducible apply foldl_inv2 | with_reducible apply foldl_inv1 | with_reducible apply foldl_canon
    | with_reducible apply State.setRegion_inv | with_reducible apply State.region_inv | split | exact fun h => h
    | exact fun h => wf_smapAllTo h _ | exact fun h => wf_sfilter h _ | exact fun _ => rfl | intro _ _ _)

theorem State.restoreRoot_inv {s : State} (h0 : s.Inv) :
    (State.restoreRoot s).Inv := by
  unfold State.restoreRoot
  try dsimp only
  repeat' (first
    | with_reducible assumption | with_reducible apply State.put_inv | with_reducible apply State.setReg_inv
    | with_reducible apply foldl_inv | with_reducible apply foldl_inv2 | with_reducible apply foldl_inv1
    | with_reducible apply foldl_canon | with_reducible apply State.setRegion_inv
    | with_reducible apply State.region_inv | split | exact fun h => h | exact fun h => wf_smapAllTo h _
    | exact fun h => wf_sfilter h _ | exact fun _ => rfl | intro _ _ _ | intro _ _ | intro _ | dsimp only
    | contradiction
    | with_reducible refine inv_mk ?_ rfl rfl rfl rfl rfl rfl rfl rfl rfl rfl rfl rfl rfl rfl rfl rfl)

theorem State.endReset_inv {s : State} (d : Nat) (h0 : s.Inv) :
    (State.endReset s d).Inv := by
  unfold State.endReset
  try dsimp only
  repeat' (first
    | with_reducible assumption | with_reducible apply State.at_inv | with_reducible apply State.put_inv
    | with_reducible apply State.detectAll_inv | with_reducible apply State.showDevice_inv
    | with_reducible apply State.restoreRoot_inv | with_reducible apply State.recoverWeights_inv
    | with_reducible apply State.dropRehearsal_inv | with_reducible apply State.answerDropped_inv
    | with_reducible apply State.answer_inv | with_reducible apply foldl_inv | with_reducible apply foldl_inv2
    | with_reducible apply foldl_inv1 | with_reducible apply foldl_canon | with_reducible apply State.setRegion_inv
    | with_reducible apply State.region_inv | split | exact fun h => h | exact fun h => wf_smapAllTo h _
    | exact fun h => wf_sfilter h _ | exact fun _ => rfl | intro _ _ _ | intro _ _ | intro _ | dsimp only
    | contradiction
    | with_reducible refine inv_mk ?_ rfl rfl rfl rfl rfl rfl rfl rfl rfl rfl rfl rfl rfl rfl rfl rfl
    | with_reducible refine canon_mk ?_ rfl rfl
    | with_reducible refine inv_mk_wf ?_ rfl rfl rfl ?_ ?_ ?_ ?_ ?_ ?_ rfl ?_ rfl rfl rfl rfl rfl
    | refine wf_smapAllTo ?_ _)

theorem State.resetD0_inv {s : State} (h0 : s.Inv) :
    (State.resetD0 s).Inv := by
  unfold State.resetD0
  refine State.Inv.mk ?_ rfl (fun e he => nomatch he) rfl rfl rfl rfl rfl rfl rfl rfl rfl rfl (Nat.zero_le _) (Nat.zero_le _)
    (Nat.zero_le _) (Nat.zero_le _)
  dsimp only
  exact wf_sfilter h0.regs _

theorem State.bringUpMmu_inv {s : State} (h0 : s.Inv) :
    (State.bringUpMmu s).Inv := by
  unfold State.bringUpMmu
  try dsimp only
  repeat' (first
    | with_reducible assumption | with_reducible apply State.freeNat_inv
    | refine State.freeNat_inv_eq (by assumption) ?_ | with_reducible apply State.hbmWrite_inv
    | with_reducible apply State.put_inv | with_reducible apply State.setReg_inv | with_reducible apply foldl_inv
    | with_reducible apply foldl_inv2 | with_reducible apply foldl_inv1 | with_reducible apply foldl_canon
    | with_reducible apply State.setRegion_inv | with_reducible apply State.region_inv | split | exact fun h => h
    | exact fun h => wf_smapAllTo h _ | exact fun h => wf_sfilter h _ | exact fun _ => rfl | intro _ _ _ | intro _ _
    | intro _ | dsimp only | contradiction
    | with_reducible refine inv_mk ?_ rfl rfl rfl rfl rfl rfl rfl rfl rfl rfl rfl rfl rfl rfl rfl rfl)

theorem State.fenceAtRelease_inv {s : State} (h0 : s.Inv) :
    (State.fenceAtRelease s).Inv := by
  unfold State.fenceAtRelease
  try dsimp only
  repeat' (first
    | with_reducible assumption | with_reducible apply State.put_inv | with_reducible apply foldl_inv
    | with_reducible apply foldl_inv2 | with_reducible apply foldl_inv1 | with_reducible apply foldl_canon
    | with_reducible apply State.setRegion_inv | with_reducible apply State.region_inv | split)

theorem State.release_inv {s : State} (h0 : s.Inv) :
    (State.release s).Inv := by
  unfold State.release
  try dsimp only
  repeat' (first
    | with_reducible assumption | with_reducible apply State.detectAll_inv
    | with_reducible apply State.fenceAtRelease_inv | with_reducible apply State.bringUpMmu_inv
    | with_reducible apply foldl_inv | with_reducible apply foldl_inv2 | with_reducible apply foldl_inv1
    | with_reducible apply foldl_canon | with_reducible apply State.setRegion_inv
    | with_reducible apply State.region_inv | split | exact fun h => h | exact fun h => wf_smapAllTo h _
    | exact fun h => wf_sfilter h _ | exact fun _ => rfl | intro _ _ _ | intro _ _ | intro _ | dsimp only
    | contradiction
    | with_reducible refine inv_mk ?_ rfl rfl rfl rfl rfl rfl rfl rfl rfl rfl rfl rfl rfl rfl rfl rfl)

theorem State.tryRelease_inv {s : State} (h0 : s.Inv) :
    (State.tryRelease s).Inv := by
  unfold State.tryRelease
  try dsimp only
  repeat' (first
    | with_reducible assumption | with_reducible apply State.release_inv | with_reducible apply foldl_inv
    | with_reducible apply foldl_inv2 | with_reducible apply foldl_inv1 | with_reducible apply foldl_canon
    | with_reducible apply State.setRegion_inv | with_reducible apply State.region_inv | split)

theorem State.setCeilingReg_inv {s : State} (watts : Nat) (h0 : s.Inv) :
    (State.setCeilingReg s watts).Inv := by
  unfold State.setCeilingReg
  try dsimp only
  repeat' (first
    | with_reducible assumption | with_reducible apply State.put_inv | with_reducible apply foldl_inv
    | with_reducible apply foldl_inv2 | with_reducible apply foldl_inv1 | with_reducible apply foldl_canon
    | with_reducible apply State.setRegion_inv | with_reducible apply State.region_inv | split)

theorem State.setPermittedReg_inv {s : State} (mask : BitVec 128) (h0 : s.Inv) :
    (State.setPermittedReg s mask).Inv := by
  unfold State.setPermittedReg
  try dsimp only
  repeat' (first
    | with_reducible assumption | with_reducible apply State.setReg_inv | with_reducible apply foldl_inv
    | with_reducible apply foldl_inv2 | with_reducible apply foldl_inv1 | with_reducible apply foldl_canon
    | with_reducible apply State.setRegion_inv | with_reducible apply State.region_inv | split | exact fun h => h
    | exact fun h => wf_smapAllTo h _ | exact fun h => wf_sfilter h _ | exact fun _ => rfl | intro _ _ _)

theorem State.logBadRecord_inv {s : State} (h0 : s.Inv) :
    (State.logBadRecord s).Inv := by
  unfold State.logBadRecord
  try dsimp only
  repeat' (first
    | with_reducible assumption | with_reducible apply State.logRec_inv | with_reducible apply foldl_inv
    | with_reducible apply foldl_inv2 | with_reducible apply foldl_inv1 | with_reducible apply foldl_canon
    | with_reducible apply State.setRegion_inv | with_reducible apply State.region_inv | split | exact fun h => h
    | exact fun h => wf_smapAllTo h _ | exact fun h => wf_sfilter h _ | exact fun _ => rfl | intro _ _ _ | intro _ _
    | intro _ | dsimp only | contradiction
    | with_reducible refine inv_mk ?_ rfl rfl rfl rfl rfl rfl rfl rfl rfl rfl rfl rfl rfl rfl rfl rfl
    | with_reducible refine canon_mk ?_ rfl rfl
    | with_reducible refine inv_mk_wf ?_ rfl rfl rfl ?_ ?_ ?_ ?_ ?_ ?_ rfl ?_ rfl rfl rfl rfl rfl
    | refine wf_smapAllTo ?_ _)

theorem State.applyInstall_inv {s : State} (h0 : s.Inv) :
    (State.applyInstall s).Inv := by
  unfold State.applyInstall
  try dsimp only
  repeat' (first
    | with_reducible assumption | with_reducible apply State.logBadRecord_inv
    | with_reducible apply State.showDevice_inv | with_reducible apply State.setPermittedReg_inv
    | with_reducible apply State.setCeilingReg_inv | with_reducible apply State.put_inv
    | with_reducible apply foldl_inv | with_reducible apply foldl_inv2 | with_reducible apply foldl_inv1
    | with_reducible apply foldl_canon | with_reducible apply State.setRegion_inv
    | with_reducible apply State.region_inv | split | exact fun h => h | exact fun h => wf_smapAllTo h _
    | exact fun h => wf_sfilter h _ | exact fun _ => rfl | intro _ _ _ | intro _ _ | intro _ | dsimp only
    | contradiction
    | with_reducible refine inv_mk ?_ rfl rfl rfl rfl rfl rfl rfl rfl rfl rfl rfl rfl rfl rfl rfl rfl
    | with_reducible refine canon_mk ?_ rfl rfl
    | with_reducible refine inv_mk_wf ?_ rfl rfl rfl ?_ ?_ ?_ ?_ ?_ ?_ rfl ?_ rfl rfl rfl rfl rfl
    | refine wf_smapAllTo ?_ _)

theorem State.startMgmt_inv {s : State} (h0 : s.Inv) :
    (State.startMgmt s).2.Inv := by
  unfold State.startMgmt
  try dsimp only
  repeat' (first
    | with_reducible assumption | with_reducible apply State.logRec_inv | with_reducible apply State.showSlots_inv
    | with_reducible apply foldl_inv | with_reducible apply foldl_inv2 | with_reducible apply foldl_inv1
    | with_reducible apply foldl_canon | with_reducible apply State.setRegion_inv
    | with_reducible apply State.region_inv | split | exact fun h => h | exact fun h => wf_smapAllTo h _
    | exact fun h => wf_sfilter h _ | exact fun _ => rfl | intro _ _ _ | intro _ _ | intro _ | dsimp only
    | contradiction
    | with_reducible refine inv_mk ?_ rfl rfl rfl rfl rfl rfl rfl rfl rfl rfl rfl rfl rfl rfl rfl rfl)
theorem State.startMgmt_inv_eq {s : State} {zr} {zt : State} (e0 : (State.startMgmt s) = (zr, zt)) (h0 : s.Inv) :
    zt.Inv := by
  have i := State.startMgmt_inv h0
  rw [e0] at i
  exact i

theorem State.stopBoot_inv {s : State} (stage : Nat) (h0 : s.Inv) :
    (State.stopBoot s stage).Inv := by
  unfold State.stopBoot
  try dsimp only
  repeat' (first
    | with_reducible assumption | with_reducible apply foldl_inv | with_reducible apply foldl_inv2
    | with_reducible apply foldl_inv1 | with_reducible apply foldl_canon | with_reducible apply State.setRegion_inv
    | with_reducible apply State.region_inv | split | exact fun h => h | exact fun h => wf_smapAllTo h _
    | exact fun h => wf_sfilter h _ | exact fun _ => rfl | intro _ _ _ | intro _ _ | intro _ | dsimp only
    | contradiction
    | with_reducible refine inv_mk ?_ rfl rfl rfl rfl rfl rfl rfl rfl rfl rfl rfl rfl rfl rfl rfl rfl)

theorem State.drawNonce_inv {s : State} (h0 : s.Inv) :
    (State.drawNonce s).Inv := by
  unfold State.drawNonce
  try dsimp only
  repeat' (first
    | with_reducible assumption | with_reducible apply foldl_inv | with_reducible apply foldl_inv2
    | with_reducible apply foldl_inv1 | with_reducible apply foldl_canon | with_reducible apply State.setRegion_inv
    | with_reducible apply State.region_inv | split | exact fun h => h | exact fun h => wf_smapAllTo h _
    | exact fun h => wf_sfilter h _ | exact fun _ => rfl | intro _ _ _ | intro _ _ | intro _ | dsimp only
    | contradiction
    | with_reducible refine inv_mk ?_ rfl rfl rfl rfl rfl rfl rfl rfl rfl rfl rfl rfl rfl rfl rfl rfl)

theorem State.writeTrim_inv {s : State} (h0 : s.Inv) :
    (State.writeTrim s).Inv := by
  unfold State.writeTrim
  try dsimp only
  repeat' (first
    | with_reducible assumption | with_reducible apply foldl_inv | with_reducible apply foldl_inv2
    | with_reducible apply foldl_inv1 | with_reducible apply foldl_canon | with_reducible apply State.setRegion_inv
    | with_reducible apply State.region_inv | split | exact fun h => h | exact fun h => wf_smapAllTo h _
    | exact fun h => wf_sfilter h _ | exact fun _ => rfl | intro _ _ _ | intro _ _ | intro _ | dsimp only
    | contradiction
    | with_reducible refine inv_mk ?_ rfl rfl rfl rfl rfl rfl rfl rfl rfl rfl rfl rfl rfl rfl rfl rfl
    | with_reducible refine canon_mk ?_ rfl rfl
    | with_reducible refine inv_mk_wf ?_ rfl rfl rfl ?_ ?_ ?_ ?_ ?_ ?_ rfl ?_ rfl rfl rfl rfl rfl
    | refine wf_smapAllTo ?_ _)

theorem State.bootFirmware_inv {s : State} (h0 : s.Inv) :
    (State.bootFirmware s).Inv := by
  unfold State.bootFirmware
  try dsimp only
  repeat' (first
    | with_reducible assumption | with_reducible apply State.startControl_inv
    | refine State.startControl_inv_eq (by assumption) ?_ | with_reducible apply State.writeTrim_inv
    | with_reducible apply State.applyInstall_inv | with_reducible apply State.drawNonce_inv
    | with_reducible apply State.logRec_inv | with_reducible apply State.tryRelease_inv
    | with_reducible apply foldl_inv | with_reducible apply foldl_inv2 | with_reducible apply foldl_inv1
    | with_reducible apply foldl_canon | with_reducible apply State.setRegion_inv
    | with_reducible apply State.region_inv | split | exact fun h => h | exact fun h => wf_smapAllTo h _
    | exact fun h => wf_sfilter h _ | exact fun _ => rfl | intro _ _ _ | intro _ _ | intro _ | dsimp only
    | contradiction
    | with_reducible refine inv_mk ?_ rfl rfl rfl rfl rfl rfl rfl rfl rfl rfl rfl rfl rfl rfl rfl rfl
    | with_reducible refine canon_mk ?_ rfl rfl
    | with_reducible refine inv_mk_wf ?_ rfl rfl rfl ?_ ?_ ?_ ?_ ?_ ?_ rfl ?_ rfl rfl rfl rfl rfl
    | refine wf_smapAllTo ?_ _)

theorem State.unwrapKeys_inv {s : State} (m : MfgRec) (secret : List Byte) (h0 : s.Inv) :
    (State.unwrapKeys s m secret).Inv := by
  unfold State.unwrapKeys
  try dsimp only
  repeat' (first
    | with_reducible assumption | with_reducible apply State.logBadRecord_inv | with_reducible apply State.put_inv
    | with_reducible apply foldl_inv | with_reducible apply foldl_inv2 | with_reducible apply foldl_inv1
    | with_reducible apply foldl_canon | with_reducible apply State.setRegion_inv
    | with_reducible apply State.region_inv | split | exact fun h => h | exact fun h => wf_smapAllTo h _
    | exact fun h => wf_sfilter h _ | exact fun _ => rfl | intro _ _ _ | intro _ _ | intro _ | dsimp only
    | contradiction
    | with_reducible refine inv_mk ?_ rfl rfl rfl rfl rfl rfl rfl rfl rfl rfl rfl rfl rfl rfl rfl rfl
    | with_reducible refine canon_mk ?_ rfl rfl
    | with_reducible refine inv_mk_wf ?_ rfl rfl rfl ?_ ?_ ?_ ?_ ?_ ?_ rfl ?_ rfl rfl rfl rfl rfl
    | refine wf_smapAllTo ?_ _)

theorem State.bootChain_inv {s : State} (startup : List Byte) (h0 : s.Inv) :
    (State.bootChain s startup).Inv := by
  unfold State.bootChain
  try dsimp only
  repeat' (first
    | with_reducible assumption | with_reducible apply State.stopBoot_inv
    | with_reducible apply State.logBadRecord_inv | with_reducible apply State.unwrapKeys_inv
    | with_reducible apply State.startMgmt_inv | refine State.startMgmt_inv_eq (by assumption) ?_
    | with_reducible apply State.bootFirmware_inv | with_reducible apply foldl_inv | with_reducible apply foldl_inv2
    | with_reducible apply foldl_inv1 | with_reducible apply foldl_canon | with_reducible apply State.setRegion_inv
    | with_reducible apply State.region_inv | split | exact fun h => h | exact fun h => wf_smapAllTo h _
    | exact fun h => wf_sfilter h _ | exact fun _ => rfl | intro _ _ _ | intro _ _ | intro _ | dsimp only
    | contradiction
    | with_reducible refine inv_mk ?_ rfl rfl rfl rfl rfl rfl rfl rfl rfl rfl rfl rfl rfl rfl rfl rfl
    | with_reducible refine canon_mk ?_ rfl rfl
    | with_reducible refine inv_mk_wf ?_ rfl rfl rfl ?_ ?_ ?_ ?_ ?_ ?_ rfl ?_ rfl rfl rfl rfl rfl
    | refine wf_smapAllTo ?_ _)

end Sys2Proof.Machine
end

