-- ==== Sys2Proof/Laws/InvCommandsA.lean ====
section
/-! SUPPORT. The invariant through the commands, part one. -/
namespace Sys2Proof.Machine

theorem doFrequencyStep_inv (n : Nat) {s : State} (h0 : s.Inv) :
    (doFrequencyStep n s).Inv := by
  unfold doFrequencyStep
  try dsimp only
  repeat' (first
    | with_reducible assumption | with_reducible apply State.accountClk_inv | with_reducible apply State.at_inv
    | with_reducible apply State.region_inv | with_reducible apply State.setClk_inv
    | with_reducible apply State.put_inv | with_reducible apply foldl_inv | with_reducible apply foldl_inv2
    | with_reducible apply foldl_inv1 | with_reducible apply foldl_canon | with_reducible apply State.setRegion_inv
    | with_reducible apply State.region_inv | split)

theorem execFrequencyStep_inv (region : Nat) {s : State} (h : s.Inv) : OutInv (execFrequencyStep region s) := by
  repeat' (first
    | with_reducible assumption | with_reducible apply doFrequencyStep_inv | with_reducible apply onUnit_inv
    | with_reducible apply outInv_next | unfold execFrequencyStep)

theorem doFrequencyStepEnd_inv (n : Nat) {s : State} (h0 : s.Inv) :
    (doFrequencyStepEnd n s).Inv := by
  unfold doFrequencyStepEnd
  try dsimp only
  repeat' (first
    | with_reducible assumption | with_reducible apply State.region_inv | with_reducible apply State.at_inv
    | with_reducible apply State.setClk_inv | with_reducible apply State.put_inv | with_reducible apply foldl_inv
    | with_reducible apply foldl_inv2 | with_reducible apply foldl_inv1 | with_reducible apply foldl_canon
    | with_reducible apply State.setRegion_inv | with_reducible apply State.region_inv | split)

theorem execFrequencyStepEnd_inv (region : Nat) {s : State} (h : s.Inv) : OutInv (execFrequencyStepEnd region s) := by
  repeat' (first
    | with_reducible assumption | with_reducible apply doFrequencyStepEnd_inv | with_reducible apply onUnit_inv
    | with_reducible apply outInv_next | unfold execFrequencyStepEnd)

theorem doMonitorFire_inv (m : MonitorAt) (depth : Nat) {s : State} (h0 : s.Inv) :
    (doMonitorFire m depth s).Inv := by
  unfold doMonitorFire
  try dsimp only
  repeat' (first
    | with_reducible assumption | with_reducible apply State.startStretch_inv | with_reducible apply foldl_inv
    | with_reducible apply foldl_inv2 | with_reducible apply foldl_inv1 | with_reducible apply foldl_canon
    | with_reducible apply State.setRegion_inv | with_reducible apply State.region_inv | split)

theorem execMonitorFire_inv (monitor : MonitorAt) (depth : Nat) {s : State} (h : s.Inv)
    : OutInv (execMonitorFire monitor depth s) := by
  repeat' (first
    | with_reducible assumption | with_reducible apply doMonitorFire_inv | with_reducible apply onUnit_inv
    | with_reducible apply outInv_next | unfold execMonitorFire)

theorem doMonitorClear_inv (m : MonitorAt) {s : State} (h0 : s.Inv) :
    (doMonitorClear m s).Inv := by
  unfold doMonitorClear
  try dsimp only
  repeat' (first
    | with_reducible assumption | with_reducible apply State.region_inv | with_reducible apply State.endStretch_inv
    | with_reducible apply foldl_inv | with_reducible apply foldl_inv2 | with_reducible apply foldl_inv1
    | with_reducible apply foldl_canon | with_reducible apply State.setRegion_inv
    | with_reducible apply State.region_inv | split)

theorem execMonitorClear_inv (monitor : MonitorAt) {s : State} (h : s.Inv)
    : OutInv (execMonitorClear monitor s) := by
  repeat' (first
    | with_reducible assumption | with_reducible apply doMonitorClear_inv | with_reducible apply onUnit_inv
    | with_reducible apply outInv_next | unfold execMonitorClear)

theorem doRefLoss_inv {s : State} (h0 : s.Inv) :
    (doRefLoss s).Inv := by
  unfold doRefLoss
  try dsimp only
  repeat' (first
    | with_reducible assumption | with_reducible apply State.raise_inv | with_reducible apply State.put_inv
    | with_reducible apply State.event_inv | with_reducible apply foldl_inv | with_reducible apply foldl_inv2
    | with_reducible apply foldl_inv1 | with_reducible apply foldl_canon | with_reducible apply State.setRegion_inv
    | with_reducible apply State.region_inv | split | exact fun h => h | exact fun h => wf_smapAllTo h _
    | exact fun h => wf_sfilter h _ | exact fun _ => rfl | intro _ _ _ | intro _ _ | intro _ | dsimp only
    | contradiction
    | with_reducible refine inv_mk ?_ rfl rfl rfl rfl rfl rfl rfl rfl rfl rfl rfl rfl rfl rfl rfl rfl)

theorem execRefLoss_inv {s : State} (h : s.Inv) : OutInv (execRefLoss s) := by
  repeat' (first
    | with_reducible assumption | with_reducible apply doRefLoss_inv | with_reducible apply onUnit_inv
    | with_reducible apply outInv_next | unfold execRefLoss)

theorem doRefLossClear_inv {s : State} (h0 : s.Inv) :
    (doRefLossClear s).Inv := by
  unfold doRefLossClear
  try dsimp only
  repeat' (first
    | with_reducible assumption | with_reducible apply State.put_inv | with_reducible apply State.tryRelease_inv
    | with_reducible apply foldl_inv | with_reducible apply foldl_inv2 | with_reducible apply foldl_inv1
    | with_reducible apply foldl_canon | with_reducible apply State.setRegion_inv
    | with_reducible apply State.region_inv | split | exact fun h => h | exact fun h => wf_smapAllTo h _
    | exact fun h => wf_sfilter h _ | exact fun _ => rfl | intro _ _ _ | intro _ _ | intro _ | dsimp only
    | contradiction
    | with_reducible refine inv_mk ?_ rfl rfl rfl rfl rfl rfl rfl rfl rfl rfl rfl rfl rfl rfl rfl rfl)

theorem execRefLossClear_inv {s : State} (h : s.Inv) : OutInv (execRefLossClear s) := by
  repeat' (first
    | with_reducible assumption | with_reducible apply doRefLossClear_inv | with_reducible apply onUnit_inv
    | with_reducible apply outInv_next | unfold execRefLossClear)

theorem doHoldoverExpiry_inv {s : State} (h0 : s.Inv) :
    (doHoldoverExpiry s).Inv := by
  unfold doHoldoverExpiry
  try dsimp only
  repeat' (first
    | with_reducible assumption | with_reducible apply State.raise_inv | with_reducible apply State.at_inv
    | with_reducible apply State.each_inv | with_reducible apply State.accountClk_inv
    | with_reducible apply State.slip_inv | with_reducible apply State.stopSeq_inv
    | with_reducible apply State.put_inv | with_reducible apply State.setClk_inv
    | with_reducible apply State.region_inv | with_reducible apply foldl_inv | with_reducible apply foldl_inv2
    | with_reducible apply foldl_inv1 | with_reducible apply foldl_canon | with_reducible apply State.setRegion_inv
    | with_reducible apply State.region_inv | split | exact fun h => h | exact fun h => wf_smapAllTo h _
    | exact fun h => wf_sfilter h _ | exact fun _ => rfl | intro _ _ _ | intro _ _ | intro _ | dsimp only
    | contradiction
    | with_reducible refine inv_mk ?_ rfl rfl rfl rfl rfl rfl rfl rfl rfl rfl rfl rfl rfl rfl rfl rfl)

theorem execHoldoverExpiry_inv {s : State} (h : s.Inv) : OutInv (execHoldoverExpiry s) := by
  repeat' (first
    | with_reducible assumption | with_reducible apply doHoldoverExpiry_inv | with_reducible apply onUnit_inv
    | with_reducible apply outInv_next | unfold execHoldoverExpiry)

theorem doCxlCompletion_inv (port : Nat) (write : Bool) (index : Nat) (result : CxlResult) {s : State} (h0 : s.Inv) :
    (doCxlCompletion port write index result s).Inv := by
  unfold doCxlCompletion
  try dsimp only
  repeat' (first
    | with_reducible assumption | with_reducible apply State.takeCxl_inv | with_reducible apply State.cxlStore_inv
    | with_reducible apply State.accessFailed_inv | with_reducible apply State.cxlUnknown_inv
    | with_reducible apply State.stageFailed_inv | with_reducible apply State.writeDone_inv
    | with_reducible apply State.readDone_inv | with_reducible apply State.count_inv
    | with_reducible apply foldl_inv | with_reducible apply foldl_inv2 | with_reducible apply foldl_inv1
    | with_reducible apply foldl_canon | with_reducible apply State.setRegion_inv
    | with_reducible apply State.region_inv | split | exact fun h => h | exact fun h => wf_smapAllTo h _
    | exact fun h => wf_sfilter h _ | exact fun _ => rfl | intro _ _ _ | intro _ _ | intro _ | dsimp only
    | contradiction
    | with_reducible refine inv_mk ?_ rfl rfl rfl rfl rfl rfl rfl rfl rfl rfl rfl rfl rfl rfl rfl rfl
    | with_reducible refine canon_mk ?_ rfl rfl
    | with_reducible refine inv_mk_wf ?_ rfl rfl rfl ?_ ?_ ?_ ?_ ?_ ?_ rfl ?_ rfl rfl rfl rfl rfl
    | refine wf_smapAllTo ?_ _)

theorem execCxlCompletion_inv (port : Nat) (write : Bool) (index : Nat) (result : CxlResult) {s : State} (h : s.Inv)
    : OutInv (execCxlCompletion port write index result s) := by
  repeat' (first
    | with_reducible assumption | with_reducible apply doCxlCompletion_inv | with_reducible apply onUnit_inv
    | with_reducible apply outInv_next | unfold execCxlCompletion)

theorem doCxlLinkDown_inv (port : Nat) {s : State} (h0 : s.Inv) :
    (doCxlLinkDown port s).Inv := by
  unfold doCxlLinkDown
  try dsimp only
  repeat' (first
    | with_reducible assumption | with_reducible apply State.put_inv | with_reducible apply State.count_inv
    | with_reducible apply State.failCxl_inv | with_reducible apply State.logRec_inv
    | with_reducible apply foldl_inv | with_reducible apply foldl_inv2 | with_reducible apply foldl_inv1
    | with_reducible apply foldl_canon | with_reducible apply State.setRegion_inv
    | with_reducible apply State.region_inv | split)

theorem execCxlLinkDown_inv (port : Nat) {s : State} (h : s.Inv) : OutInv (execCxlLinkDown port s) := by
  repeat' (first
    | with_reducible assumption | with_reducible apply doCxlLinkDown_inv | with_reducible apply onUnit_inv
    | with_reducible apply outInv_next | unfold execCxlLinkDown)

theorem doCxlLinkUp_inv (port : Nat) (narrow : Bool) (slow : Bool) (capacity : Nat) (retained : Bool) {s : State}
    (h0 : s.Inv) :
    (doCxlLinkUp port narrow slow capacity retained s).Inv := by
  unfold doCxlLinkUp
  try dsimp only
  repeat' (first
    | with_reducible assumption | with_reducible apply State.put_inv | with_reducible apply State.cxlLost_inv
    | with_reducible apply foldl_inv | with_reducible apply foldl_inv2 | with_reducible apply foldl_inv1
    | with_reducible apply foldl_canon | with_reducible apply State.setRegion_inv
    | with_reducible apply State.region_inv | split | exact fun h => h | exact fun h => wf_smapAllTo h _
    | exact fun h => wf_sfilter h _ | exact fun _ => rfl | intro _ _ _ | intro _ _ | intro _ | dsimp only
    | contradiction
    | with_reducible refine inv_mk ?_ rfl rfl rfl rfl rfl rfl rfl rfl rfl rfl rfl rfl rfl rfl rfl rfl)

theorem execCxlLinkUp_inv (port : Nat) (narrow : Bool) (slow : Bool) (capacity : Nat) (retained : Bool) {s : State}
    (h : s.Inv) : OutInv (execCxlLinkUp port narrow slow capacity retained s) := by
  repeat' (first
    | with_reducible assumption | with_reducible apply doCxlLinkUp_inv | with_reducible apply onUnit_inv
    | with_reducible apply outInv_next | unfold execCxlLinkUp)

theorem State.takeIngress_inv {s : State} (p : Nat) (c : Cell) (h0 : s.Inv) :
    (State.takeIngress s p c).Inv := by
  unfold State.takeIngress
  try dsimp only
  repeat' (first | with_reducible assumption | with_reducible apply State.setPort_inv)

theorem State.routeIn_inv {s : State} (p : Nat) (c : Cell) (h0 : s.Inv) :
    (State.routeIn s p c).2.Inv := by
  unfold State.routeIn
  try dsimp only
  repeat' (first
    | with_reducible assumption | with_reducible apply State.takeIngress_inv | with_reducible apply State.count_inv
    | with_reducible apply State.dropUnadmitted_inv | with_reducible apply State.forward_inv
    | with_reducible apply foldl_inv | with_reducible apply foldl_inv2 | with_reducible apply foldl_inv1
    | with_reducible apply foldl_canon | with_reducible apply State.setRegion_inv
    | with_reducible apply State.region_inv | split)
theorem State.routeIn_inv_eq {s : State} {p : Nat} {c : Cell} {zr} {zt : State}
    (e0 : (State.routeIn s p c) = (zr, zt)) (h0 : s.Inv) :
    zt.Inv := by
  have i := State.routeIn_inv p c h0
  rw [e0] at i
  exact i

theorem State.carryAll_inv {r : State × List Cell} (h0 : r.1.Inv) :
    (State.carryAll r).Inv := by
  unfold State.carryAll
  exact foldl_inv (fun t c h => State.carryOut_inv _ h) h0

theorem doScheduledCell_inv (p : Nat) (c : Cell) {s : State} (h0 : s.Inv) :
    (doScheduledCell p c s).Inv := by
  unfold doScheduledCell
  try dsimp only
  repeat' (first
    | with_reducible assumption | with_reducible apply State.takeIngress_inv | with_reducible apply State.count_inv
    | with_reducible apply State.replicate_inv | with_reducible apply State.deliverWarp_inv
    | with_reducible apply foldl_inv | with_reducible apply foldl_inv2 | with_reducible apply foldl_inv1
    | with_reducible apply foldl_canon | with_reducible apply State.setRegion_inv
    | with_reducible apply State.region_inv | split)

theorem execScheduledCell_inv (p : Nat) (c : Cell) {s : State} (h : s.Inv) : OutInv (execScheduledCell p c s) := by
  repeat' (first
    | with_reducible assumption | with_reducible apply doScheduledCell_inv | with_reducible apply onUnit_inv
    | with_reducible apply outInv_next | unfold execScheduledCell)

theorem doInboundRelease_inv (p : Nat) {s : State} (h0 : s.Inv) :
    (doInboundRelease p s).Inv := by
  unfold doInboundRelease
  try dsimp only
  repeat' (first
    | with_reducible assumption | with_reducible apply State.deliverWarp_inv
    | with_reducible apply State.setPort_inv | with_reducible apply foldl_inv | with_reducible apply foldl_inv2
    | with_reducible apply foldl_inv1 | with_reducible apply foldl_canon | with_reducible apply State.setRegion_inv
    | with_reducible apply State.region_inv | split)

theorem execInboundRelease_inv (p : Nat) {s : State} (h : s.Inv) : OutInv (execInboundRelease p s) := by
  repeat' (first
    | with_reducible assumption | with_reducible apply doInboundRelease_inv | with_reducible apply onUnit_inv
    | with_reducible apply outInv_next | unfold execInboundRelease)

theorem doSprayedCell_inv (p : Nat) (c : Cell) {s : State} (h0 : s.Inv) :
    (doSprayedCell p c s).Inv := by
  unfold doSprayedCell
  try dsimp only
  repeat' (first
    | with_reducible assumption | with_reducible apply State.routeIn_inv
    | refine State.routeIn_inv_eq (by assumption) ?_ | with_reducible apply State.carryAll_inv
    | with_reducible apply State.reedTake_inv | refine State.reedTake_inv_eq (by assumption) ?_
    | with_reducible apply foldl_inv | with_reducible apply foldl_inv2 | with_reducible apply foldl_inv1
    | with_reducible apply foldl_canon | with_reducible apply State.setRegion_inv
    | with_reducible apply State.region_inv | split)

theorem execSprayedCell_inv (p : Nat) (c : Cell) {s : State} (h : s.Inv) : OutInv (execSprayedCell p c s) := by
  repeat' (first
    | with_reducible assumption | with_reducible apply doSprayedCell_inv | with_reducible apply onUnit_inv
    | with_reducible apply outInv_next | unfold execSprayedCell)

theorem doGrantCell_inv (p : Nat) (c : Cell) {s : State} (h0 : s.Inv) :
    (doGrantCell p c s).Inv := by
  unfold doGrantCell
  try dsimp only
  repeat' (first
    | with_reducible assumption | with_reducible apply State.routeIn_inv
    | refine State.routeIn_inv_eq (by assumption) ?_ | with_reducible apply State.takeGrantCell_inv
    | with_reducible apply foldl_inv | with_reducible apply foldl_inv2 | with_reducible apply foldl_inv1
    | with_reducible apply foldl_canon | with_reducible apply State.setRegion_inv
    | with_reducible apply State.region_inv | split)

theorem execGrantCell_inv (p : Nat) (c : Cell) {s : State} (h : s.Inv) : OutInv (execGrantCell p c s) := by
  repeat' (first
    | with_reducible assumption | with_reducible apply doGrantCell_inv | with_reducible apply onUnit_inv
    | with_reducible apply outInv_next | unfold execGrantCell)

theorem State.deliverFirst_inv {s : State} (src : Nat) (cls : Nat) (h0 : s.Inv) :
    (State.deliverFirst s src cls).Inv := by
  unfold State.deliverFirst
  try dsimp only
  repeat' (first
    | with_reducible assumption | with_reducible apply State.carryAll_inv | with_reducible apply State.pumpReed_inv
    | refine State.pumpReed_inv_eq (by assumption) ?_ | with_reducible apply foldl_inv
    | with_reducible apply foldl_inv2 | with_reducible apply foldl_inv1 | with_reducible apply foldl_canon
    | with_reducible apply State.setRegion_inv | with_reducible apply State.region_inv | split | exact fun h => h
    | exact fun h => wf_smapAllTo h _ | exact fun h => wf_sfilter h _ | exact fun _ => rfl | intro _ _ _ | intro _ _
    | intro _ | dsimp only | contradiction
    | with_reducible refine inv_mk ?_ rfl rfl rfl rfl rfl rfl rfl rfl rfl rfl rfl rfl rfl rfl rfl rfl
    | with_reducible refine canon_mk ?_ rfl rfl
    | with_reducible refine inv_mk_wf ?_ rfl rfl rfl ?_ ?_ ?_ ?_ ?_ ?_ rfl ?_ rfl rfl rfl rfl rfl
    | refine wf_smapAllTo ?_ _)

theorem doReedGapSkip_inv (src : Nat) (cls : Nat) {s : State} (h0 : s.Inv) :
    (doReedGapSkip src cls s).Inv := by
  unfold doReedGapSkip
  try dsimp only
  repeat' (first
    | with_reducible assumption | with_reducible apply State.deliverFirst_inv | with_reducible apply State.at_inv
    | with_reducible apply State.count_inv | with_reducible apply State.carryAll_inv
    | with_reducible apply State.pumpReed_inv | refine State.pumpReed_inv_eq (by assumption) ?_
    | with_reducible apply State.putFlow_inv | with_reducible apply foldl_inv | with_reducible apply foldl_inv2
    | with_reducible apply foldl_inv1 | with_reducible apply foldl_canon | with_reducible apply State.setRegion_inv
    | with_reducible apply State.region_inv | split | exact fun h => h | exact fun h => wf_smapAllTo h _
    | exact fun h => wf_sfilter h _ | exact fun _ => rfl | intro _ _ _ | intro _ _ | intro _ | dsimp only
    | contradiction
    | with_reducible refine inv_mk ?_ rfl rfl rfl rfl rfl rfl rfl rfl rfl rfl rfl rfl rfl rfl rfl rfl
    | with_reducible refine canon_mk ?_ rfl rfl
    | with_reducible refine inv_mk_wf ?_ rfl rfl rfl ?_ ?_ ?_ ?_ ?_ ?_ rfl ?_ rfl rfl rfl rfl rfl
    | refine wf_smapAllTo ?_ _)

theorem execReedGapSkip_inv (src : Nat) (cls : Nat) {s : State} (h : s.Inv) : OutInv (execReedGapSkip src cls s) := by
  repeat' (first
    | with_reducible assumption | with_reducible apply doReedGapSkip_inv | with_reducible apply onUnit_inv
    | with_reducible apply outInv_next | unfold execReedGapSkip)

theorem doGrantRequestRepeat_inv (dst : Nat) (cls : Nat) {s : State} (h0 : s.Inv) :
    (doGrantRequestRepeat dst cls s).Inv := by
  unfold doGrantRequestRepeat
  try dsimp only
  repeat' (first
    | with_reducible assumption | with_reducible apply State.askGrant_inv | with_reducible apply State.at_inv
    | with_reducible apply foldl_inv | with_reducible apply foldl_inv2 | with_reducible apply foldl_inv1
    | with_reducible apply foldl_canon | with_reducible apply State.setRegion_inv
    | with_reducible apply State.region_inv | split)

theorem execGrantRequestRepeat_inv (dst : Nat) (cls : Nat) {s : State} (h : s.Inv)
    : OutInv (execGrantRequestRepeat dst cls s) := by
  repeat' (first
    | with_reducible assumption | with_reducible apply doGrantRequestRepeat_inv | with_reducible apply onUnit_inv
    | with_reducible apply outInv_next | unfold execGrantRequestRepeat)

theorem doGrantRefresh_inv (src : Nat) (cls : Nat) {s : State} (h0 : s.Inv) :
    (doGrantRefresh src cls s).Inv := by
  unfold doGrantRefresh
  try dsimp only
  repeat' (first
    | with_reducible assumption | with_reducible apply State.at_inv | with_reducible apply State.sendGrant_inv
    | with_reducible apply foldl_inv | with_reducible apply foldl_inv2 | with_reducible apply foldl_inv1
    | with_reducible apply foldl_canon | with_reducible apply State.setRegion_inv
    | with_reducible apply State.region_inv | split | exact fun h => h | exact fun h => wf_smapAllTo h _
    | exact fun h => wf_sfilter h _ | exact fun _ => rfl | intro _ _ _ | intro _ _ | intro _ | dsimp only
    | contradiction
    | with_reducible refine inv_mk ?_ rfl rfl rfl rfl rfl rfl rfl rfl rfl rfl rfl rfl rfl rfl rfl rfl
    | with_reducible refine canon_mk ?_ rfl rfl
    | with_reducible refine inv_mk_wf ?_ rfl rfl rfl ?_ ?_ ?_ ?_ ?_ ?_ rfl ?_ rfl rfl rfl rfl rfl
    | refine wf_smapAllTo ?_ _)

theorem execGrantRefresh_inv (src : Nat) (cls : Nat) {s : State} (h : s.Inv) : OutInv (execGrantRefresh src cls s) := by
  repeat' (first
    | with_reducible assumption | with_reducible apply doGrantRefresh_inv | with_reducible apply onUnit_inv
    | with_reducible apply outInv_next | unfold execGrantRefresh)

theorem State.addressedCell_inv {s : State} (p : Nat) (c : Cell) (h0 : s.Inv) :
    (State.addressedCell s p c).Inv := by
  unfold State.addressedCell
  try dsimp only
  repeat' (first
    | with_reducible assumption | with_reducible apply State.routeIn_inv
    | refine State.routeIn_inv_eq (by assumption) ?_ | with_reducible apply State.carryOut_inv
    | with_reducible apply State.count_inv | with_reducible apply State.carryAll_inv
    | with_reducible apply State.reedTake_inv | refine State.reedTake_inv_eq (by assumption) ?_
    | with_reducible apply foldl_inv | with_reducible apply foldl_inv2 | with_reducible apply foldl_inv1
    | with_reducible apply foldl_canon | with_reducible apply State.setRegion_inv
    | with_reducible apply State.region_inv | split)

theorem doAddressedWrite_inv (p : Nat) (c : Cell) {s : State} (h0 : s.Inv) :
    (doAddressedWrite p c s).Inv := by
  unfold doAddressedWrite
  try dsimp only
  repeat' (first
    | with_reducible assumption | with_reducible apply State.addressedCell_inv | with_reducible apply foldl_inv
    | with_reducible apply foldl_inv2 | with_reducible apply foldl_inv1 | with_reducible apply foldl_canon
    | with_reducible apply State.setRegion_inv | with_reducible apply State.region_inv | split)

theorem execAddressedWrite_inv (p : Nat) (c : Cell) {s : State} (h : s.Inv) : OutInv (execAddressedWrite p c s) := by
  repeat' (first
    | with_reducible assumption | with_reducible apply doAddressedWrite_inv | with_reducible apply onUnit_inv
    | with_reducible apply outInv_next | unfold execAddressedWrite)

theorem doAddressedRead_inv (p : Nat) (c : Cell) {s : State} (h0 : s.Inv) :
    (doAddressedRead p c s).Inv := by
  unfold doAddressedRead
  try dsimp only
  repeat' (first
    | with_reducible assumption | with_reducible apply State.addressedCell_inv | with_reducible apply foldl_inv
    | with_reducible apply foldl_inv2 | with_reducible apply foldl_inv1 | with_reducible apply foldl_canon
    | with_reducible apply State.setRegion_inv | with_reducible apply State.region_inv | split)

theorem execAddressedRead_inv (p : Nat) (c : Cell) {s : State} (h : s.Inv) : OutInv (execAddressedRead p c s) := by
  repeat' (first
    | with_reducible assumption | with_reducible apply doAddressedRead_inv | with_reducible apply onUnit_inv
    | with_reducible apply outInv_next | unfold execAddressedRead)

theorem doAddressedReadData_inv (p : Nat) (c : Cell) {s : State} (h0 : s.Inv) :
    (doAddressedReadData p c s).Inv := by
  unfold doAddressedReadData
  try dsimp only
  repeat' (first
    | with_reducible assumption | with_reducible apply State.addressedCell_inv | with_reducible apply foldl_inv
    | with_reducible apply foldl_inv2 | with_reducible apply foldl_inv1 | with_reducible apply foldl_canon
    | with_reducible apply State.setRegion_inv | with_reducible apply State.region_inv | split)

theorem execAddressedReadData_inv (p : Nat) (c : Cell) {s : State} (h : s.Inv) : OutInv (execAddressedReadData p c s)
    := by
  repeat' (first
    | with_reducible assumption | with_reducible apply doAddressedReadData_inv | with_reducible apply onUnit_inv
    | with_reducible apply outInv_next | unfold execAddressedReadData)

theorem doAddressedStatus_inv (p : Nat) (c : Cell) {s : State} (h0 : s.Inv) :
    (doAddressedStatus p c s).Inv := by
  unfold doAddressedStatus
  try dsimp only
  repeat' (first
    | with_reducible assumption | with_reducible apply State.addressedCell_inv | with_reducible apply foldl_inv
    | with_reducible apply foldl_inv2 | with_reducible apply foldl_inv1 | with_reducible apply foldl_canon
    | with_reducible apply State.setRegion_inv | with_reducible apply State.region_inv | split)

theorem execAddressedStatus_inv (p : Nat) (c : Cell) {s : State} (h : s.Inv) : OutInv (execAddressedStatus p c s) := by
  repeat' (first
    | with_reducible assumption | with_reducible apply doAddressedStatus_inv | with_reducible apply onUnit_inv
    | with_reducible apply outInv_next | unfold execAddressedStatus)

theorem State.fenceFor_inv {s : State} (mb : Nat) (mask : Nat) (h0 : s.Inv) :
    (State.fenceFor s mb mask).Inv := by
  unfold State.fenceFor
  try dsimp only
  repeat' (first
    | with_reducible assumption | with_reducible apply State.fenceAll_inv | with_reducible apply State.answer_inv
    | with_reducible apply foldl_inv | with_reducible apply foldl_inv2 | with_reducible apply foldl_inv1
    | with_reducible apply foldl_canon | with_reducible apply State.setRegion_inv
    | with_reducible apply State.region_inv | split)

theorem execFence_inv (mb : Nat) {s : State} (h : s.Inv) : OutInv (execFence mb s) := by
  repeat' (first
    | with_reducible assumption | with_reducible apply State.withMail_inv | with_reducible apply State.fenceFor_inv
    | with_reducible apply onUnit_inv | with_reducible apply outInv_next | unfold execFence | split | intro _ _ _)

theorem State.unfence_inv {s : State} (mask : Nat) (h0 : s.Inv) :
    (State.unfence s mask).Inv := by
  unfold State.unfence
  try dsimp only
  repeat' (first
    | with_reducible assumption | with_reducible apply State.put_inv | with_reducible apply foldl_inv
    | with_reducible apply foldl_inv2 | with_reducible apply foldl_inv1 | with_reducible apply foldl_canon
    | with_reducible apply State.setRegion_inv | with_reducible apply State.region_inv | split | exact fun h => h
    | exact fun h => wf_smapAllTo h _ | exact fun h => wf_sfilter h _ | exact fun _ => rfl | intro _ _ _ | intro _ _
    | intro _ | dsimp only | contradiction
    | with_reducible refine inv_mk ?_ rfl rfl rfl rfl rfl rfl rfl rfl rfl rfl rfl rfl rfl rfl rfl rfl)

theorem State.unfenceFor_inv {s : State} (mask : Nat) (h0 : s.Inv) :
    (State.unfenceFor s mask).2.Inv := by
  unfold State.unfenceFor
  try dsimp only
  repeat' (first
    | with_reducible assumption | with_reducible apply State.unfence_inv | with_reducible apply foldl_inv
    | with_reducible apply foldl_inv2 | with_reducible apply foldl_inv1 | with_reducible apply foldl_canon
    | with_reducible apply State.setRegion_inv | with_reducible apply State.region_inv | split)
theorem State.unfenceFor_inv_eq {s : State} {mask : Nat} {zr} {zt : State} (e0 : (State.unfenceFor s mask) = (zr, zt))
    (h0 : s.Inv) :
    zt.Inv := by
  have i := State.unfenceFor_inv mask h0
  rw [e0] at i
  exact i

theorem execUnfence_inv (mb : Nat) {s : State} (h : s.Inv) : OutInv (execUnfence mb s) := by
  repeat' (first
    | with_reducible assumption | with_reducible apply State.withMail_inv
    | with_reducible apply State.unfenceFor_inv | with_reducible apply State.answer_inv
    | with_reducible apply onUnit_inv | with_reducible apply outInv_next | unfold execUnfence | split | intro _ _ _)

theorem State.resetFor_inv {s : State} (mb : Nat) (mask : Nat) (h0 : s.Inv) :
    (State.resetFor s mb mask).Inv := by
  unfold State.resetFor
  try dsimp only
  repeat' (first
    | with_reducible assumption | with_reducible apply State.answer_inv | with_reducible apply State.askReset_inv
    | with_reducible apply foldl_inv | with_reducible apply foldl_inv2 | with_reducible apply foldl_inv1
    | with_reducible apply foldl_canon | with_reducible apply State.setRegion_inv
    | with_reducible apply State.region_inv | split)

theorem execResetDomain_inv (mb : Nat) {s : State} (h : s.Inv) : OutInv (execResetDomain mb s) := by
  repeat' (first
    | with_reducible assumption | with_reducible apply State.withMail_inv | with_reducible apply State.resetFor_inv
    | with_reducible apply onUnit_inv | with_reducible apply outInv_next | unfold execResetDomain | split
    | intro _ _ _)

theorem execFenceDrainEnd_inv {s : State} (h : s.Inv) : OutInv (execFenceDrainEnd s) := by
  repeat' (first
    | with_reducible assumption | with_reducible apply State.afterDrain_inv
    | with_reducible apply State.endDrain_inv | with_reducible apply onUnit_inv | with_reducible apply outInv_next
    | unfold execFenceDrainEnd)

theorem doFenceN_inv {s : State} (h0 : s.Inv) :
    (doFenceN s).Inv := by
  unfold doFenceN
  try dsimp only
  repeat' (first
    | with_reducible assumption | with_reducible apply State.fenceAll_inv | with_reducible apply State.put_inv
    | with_reducible apply foldl_inv | with_reducible apply foldl_inv2 | with_reducible apply foldl_inv1
    | with_reducible apply foldl_canon | with_reducible apply State.setRegion_inv
    | with_reducible apply State.region_inv | split | exact fun h => h | exact fun h => wf_smapAllTo h _
    | exact fun h => wf_sfilter h _ | exact fun _ => rfl | intro _ _ _ | intro _ _ | intro _ | dsimp only
    | contradiction
    | with_reducible refine inv_mk ?_ rfl rfl rfl rfl rfl rfl rfl rfl rfl rfl rfl rfl rfl rfl rfl rfl)

theorem execFenceN_inv {s : State} (h : s.Inv) : OutInv (execFenceN s) := by
  repeat' (first
    | with_reducible assumption | with_reducible apply doFenceN_inv | with_reducible apply onUnit_inv
    | with_reducible apply outInv_next | unfold execFenceN)

theorem doFenceNRelease_inv {s : State} (h0 : s.Inv) :
    (doFenceNRelease s).Inv := by
  unfold doFenceNRelease
  try dsimp only
  repeat' (first
    | with_reducible assumption | with_reducible apply State.put_inv | with_reducible apply foldl_inv
    | with_reducible apply foldl_inv2 | with_reducible apply foldl_inv1 | with_reducible apply foldl_canon
    | with_reducible apply State.setRegion_inv | with_reducible apply State.region_inv | split | exact fun h => h
    | exact fun h => wf_smapAllTo h _ | exact fun h => wf_sfilter h _ | exact fun _ => rfl | intro _ _ _ | intro _ _
    | intro _ | dsimp only | contradiction
    | with_reducible refine inv_mk ?_ rfl rfl rfl rfl rfl rfl rfl rfl rfl rfl rfl rfl rfl rfl rfl rfl)

theorem execFenceNRelease_inv {s : State} (h : s.Inv) : OutInv (execFenceNRelease s) := by
  repeat' (first
    | with_reducible assumption | with_reducible apply doFenceNRelease_inv | with_reducible apply onUnit_inv
    | with_reducible apply outInv_next | unfold execFenceNRelease)

theorem execDomainResetComplete_inv (d : Nat) {s : State} (h : s.Inv) : OutInv (execDomainResetComplete d s) := by
  repeat' (first
    | with_reducible assumption | with_reducible apply State.endReset_inv | with_reducible apply onUnit_inv
    | with_reducible apply outInv_next | unfold execDomainResetComplete)

theorem doBoot_inv (secret : List Byte) {s : State} (h0 : s.Inv) :
    (doBoot secret s).Inv := by
  unfold doBoot
  try dsimp only
  repeat' (first
    | with_reducible assumption | with_reducible apply State.bootChain_inv | with_reducible apply foldl_inv
    | with_reducible apply foldl_inv2 | with_reducible apply foldl_inv1 | with_reducible apply foldl_canon
    | with_reducible apply State.setRegion_inv | with_reducible apply State.region_inv | split)

theorem execBoot_inv (secret : List Byte) {s : State} (h : s.Inv) : OutInv (execBoot secret s) := by
  repeat' (first
    | with_reducible assumption | with_reducible apply doBoot_inv | with_reducible apply onUnit_inv
    | with_reducible apply outInv_next | unfold execBoot)

theorem State.setFwPair_inv {s : State} (component : Nat) (p : FwPair) (h0 : s.Inv) :
    (State.setFwPair s component p).Inv := by
  unfold State.setFwPair
  try dsimp only
  repeat' (first
    | with_reducible assumption | with_reducible apply foldl_inv | with_reducible apply foldl_inv2
    | with_reducible apply foldl_inv1 | with_reducible apply foldl_canon | with_reducible apply State.setRegion_inv
    | with_reducible apply State.region_inv | split | exact fun h => h | exact fun h => wf_smapAllTo h _
    | exact fun h => wf_sfilter h _ | exact fun _ => rfl | intro _ _ _ | intro _ _ | intro _ | dsimp only
    | contradiction
    | with_reducible refine inv_mk ?_ rfl rfl rfl rfl rfl rfl rfl rfl rfl rfl rfl rfl rfl rfl rfl rfl)

theorem State.pldmAnswer_inv {s : State} (component : Nat) (status : Nat) (h0 : s.Inv) :
    (State.pldmAnswer s component status).Inv := by
  unfold State.pldmAnswer
  try dsimp only
  repeat' (first | with_reducible assumption | with_reducible apply State.emit_inv)

theorem doFirmwareComponentWrite_inv (component : Nat) (image : List Byte) {s : State} (h0 : s.Inv) :
    (doFirmwareComponentWrite component image s).Inv := by
  unfold doFirmwareComponentWrite
  try dsimp only
  repeat' (first
    | with_reducible assumption | with_reducible apply State.pldmAnswer_inv
    | with_reducible apply State.showSlots_inv | with_reducible apply State.setFwPair_inv
    | with_reducible apply State.logRec_inv | with_reducible apply foldl_inv | with_reducible apply foldl_inv2
    | with_reducible apply foldl_inv1 | with_reducible apply foldl_canon | with_reducible apply State.setRegion_inv
    | with_reducible apply State.region_inv | split)

theorem execFirmwareComponentWrite_inv (component : Nat) (image : List Byte) {s : State} (h : s.Inv)
    : OutInv (execFirmwareComponentWrite component image s) := by
  repeat' (first
    | with_reducible assumption | with_reducible apply doFirmwareComponentWrite_inv
    | with_reducible apply onUnit_inv | with_reducible apply outInv_next | unfold execFirmwareComponentWrite)

theorem doActivateFirmware_inv (component : Nat) {s : State} (h0 : s.Inv) :
    (doActivateFirmware component s).Inv := by
  unfold doActivateFirmware
  try dsimp only
  repeat' (first
    | with_reducible assumption | with_reducible apply State.pldmAnswer_inv
    | with_reducible apply State.showSlots_inv | with_reducible apply State.setFwPair_inv
    | with_reducible apply foldl_inv | with_reducible apply foldl_inv2 | with_reducible apply foldl_inv1
    | with_reducible apply foldl_canon | with_reducible apply State.setRegion_inv
    | with_reducible apply State.region_inv | split)

theorem execActivateFirmware_inv (component : Nat) {s : State} (h : s.Inv) : OutInv (execActivateFirmware component s)
    := by
  repeat' (first
    | with_reducible assumption | with_reducible apply doActivateFirmware_inv | with_reducible apply onUnit_inv
    | with_reducible apply outInv_next | unfold execActivateFirmware)

theorem doFirmwareReady_inv (component : Nat) {s : State} (h0 : s.Inv) :
    (doFirmwareReady component s).Inv := by
  unfold doFirmwareReady
  try dsimp only
  repeat' (first
    | with_reducible assumption | with_reducible apply State.at_inv | with_reducible apply State.logRec_inv
    | with_reducible apply State.showSlots_inv | with_reducible apply State.setFwPair_inv
    | with_reducible apply foldl_inv | with_reducible apply foldl_inv2 | with_reducible apply foldl_inv1
    | with_reducible apply foldl_canon | with_reducible apply State.setRegion_inv
    | with_reducible apply State.region_inv | split)

theorem execFirmwareReady_inv (component : Nat) {s : State} (h : s.Inv) : OutInv (execFirmwareReady component s) := by
  repeat' (first
    | with_reducible assumption | with_reducible apply doFirmwareReady_inv | with_reducible apply onUnit_inv
    | with_reducible apply outInv_next | unfold execFirmwareReady)

theorem State.takeFault_inv {s : State} (h0 : s.Inv) :
    (State.takeFault s).Inv := by
  have h1 (r rest) (e : s.faultQ = r :: rest) : ({ s with faultQ := rest } : State).Inv :=
    { h0 with faultQ := by have := h0.faultQ; rw [e] at this; exact Nat.le_trans (Nat.le_succ _) this }
  unfold State.takeFault
  split
  · exact h0
  · rename_i r rest e
    have h2 := h1 r rest e
    generalize ({ s with faultQ := rest } : State) = a at h2 ⊢
    dsimp only
    repeat' (first
      | split | with_reducible apply State.emit_inv | with_reducible apply State.askPage_inv | exact { h2 with })

theorem State.maskAborted_inv {s : State} (h0 : s.Inv) :
    (State.maskAborted s).Inv := by
  unfold State.maskAborted
  try dsimp only
  repeat' (first
    | with_reducible assumption | with_reducible apply State.emit_inv | with_reducible apply State.fwMask_inv
    | with_reducible apply foldl_inv | with_reducible apply foldl_inv2 | with_reducible apply foldl_inv1
    | with_reducible apply foldl_canon | with_reducible apply State.setRegion_inv
    | with_reducible apply State.region_inv | split | exact fun h => h | exact fun h => wf_smapAllTo h _
    | exact fun h => wf_sfilter h _ | exact fun _ => rfl | intro _ _ _ | intro _ _ | intro _ | dsimp only
    | contradiction
    | with_reducible refine inv_mk ?_ rfl rfl rfl rfl rfl rfl rfl rfl rfl rfl rfl rfl rfl rfl rfl rfl)

theorem State.fwBme_inv {s : State} (op : Nat) (stack : Nat) (pch : Nat) (vreg : Nat) (block : List Byte) (h0 : s.Inv) :
    OptInv (State.fwBme s op stack pch vreg block) := by
  unfold State.fwBme
  split
  · exact optInv_some h0
  · dsimp only
    split
    · exact optInv_some h0
    · split
      · exact optInv_some (State.markBme_inv _ h0)
      · refine optInv_mapAny (fun a => State.beginBme_inv _ _ _ ?_)
        have h1 := State.at_inv a h0
        generalize s.at_ a = t at h1 ⊢
        split
        · exact State.setPch_inv _ _ h1
        · exact h1
theorem State.fwBme_inv_eq {s : State} {op : Nat} {stack : Nat} {pch : Nat} {vreg : Nat} {block : List Byte}
    {zt : State} (e0 : (State.fwBme s op stack pch vreg block) = some zt) (h0 : s.Inv) :
    zt.Inv := State.fwBme_inv op stack pch vreg block h0 _ e0

theorem State.fwSlice_inv {s : State} (n : Nat) (addr : Nat) (bytes : List Byte) (h0 : s.Inv) :
    OptInv (State.fwSlice s n addr bytes) := by
  unfold State.fwSlice
  try dsimp only
  repeat' (first
    | with_reducible assumption | with_reducible apply State.putSlice_inv | with_reducible apply State.holdPort_inv
    | refine State.holdPort_inv_eq (by assumption) ?_ | with_reducible apply State.region_inv
    | with_reducible apply foldl_inv | with_reducible apply foldl_inv2 | with_reducible apply foldl_inv1
    | with_reducible apply foldl_canon | with_reducible apply State.setRegion_inv
    | with_reducible apply State.region_inv | with_reducible apply optInv_none | with_reducible apply optInv_some
    | with_reducible apply optInv2_none | with_reducible apply optInv2_some | with_reducible apply optInv2_some'
    | with_reducible apply optInv1_none | with_reducible apply optInv1_some | with_reducible apply optInv_bind
    | with_reducible apply optInv_map | with_reducible apply foldl_optInv | split | exact fun h => h
    | exact fun h => wf_smapAllTo h _ | exact fun h => wf_sfilter h _ | exact fun _ => rfl | intro _ _ _ | intro _ _
    | intro _ | dsimp only | contradiction
    | with_reducible refine inv_mk ?_ rfl rfl rfl rfl rfl rfl rfl rfl rfl rfl rfl rfl rfl rfl rfl rfl
    | with_reducible refine canon_mk ?_ rfl rfl
    | with_reducible refine inv_mk_wf ?_ rfl rfl rfl ?_ ?_ ?_ ?_ ?_ ?_ rfl ?_ rfl rfl rfl rfl rfl
    | refine wf_smapAllTo ?_ _)
theorem State.fwSlice_inv_eq {s : State} {n : Nat} {addr : Nat} {bytes : List Byte} {zt : State}
    (e0 : (State.fwSlice s n addr bytes) = some zt) (h0 : s.Inv) :
    zt.Inv := State.fwSlice_inv n addr bytes h0 _ e0

theorem State.fwEffect_inv {s : State} (x1 : FwAction) (h0 : s.Inv) :
    (State.fwEffect s x1).Inv := by
  unfold State.fwEffect
  try dsimp only
  repeat' (first
    | with_reducible assumption | with_reducible apply State.rowLoad_inv
    | with_reducible apply State.maskAborted_inv | with_reducible apply State.pageIn_inv
    | with_reducible apply State.migrateBegin_inv | with_reducible apply State.migrateEnd_inv
    | with_reducible apply State.evict_inv | with_reducible apply State.setEntryBits_inv
    | with_reducible apply State.vaStore_inv | with_reducible apply State.park_inv
    | with_reducible apply State.unpark_inv | with_reducible apply foldl_inv | with_reducible apply foldl_inv2
    | with_reducible apply foldl_inv1 | with_reducible apply foldl_canon | with_reducible apply State.setRegion_inv
    | with_reducible apply State.region_inv | split | exact fun h => h | exact fun h => wf_smapAllTo h _
    | exact fun h => wf_sfilter h _ | exact fun _ => rfl | intro _ _ _ | intro _ _ | intro _ | dsimp only
    | contradiction
    | with_reducible refine inv_mk ?_ rfl rfl rfl rfl rfl rfl rfl rfl rfl rfl rfl rfl rfl rfl rfl rfl
    | with_reducible refine canon_mk ?_ rfl rfl
    | with_reducible refine inv_mk_wf ?_ rfl rfl rfl ?_ ?_ ?_ ?_ ?_ ?_ rfl ?_ rfl rfl rfl rfl rfl
    | refine wf_smapAllTo ?_ _)

theorem State.fwGoOn_inv {s : State} (act : FwAction) (l : List FwTouch) (h0 : s.Inv) :
    (State.fwGoOn s act l).Inv := by
  unfold State.fwGoOn
  try dsimp only
  repeat' (first
    | with_reducible assumption | with_reducible apply State.touchAll_inv
    | refine State.touchAll_inv_eq (by assumption) ?_ | with_reducible apply State.fwEffect_inv
    | with_reducible apply foldl_inv | with_reducible apply foldl_inv2 | with_reducible apply foldl_inv1
    | with_reducible apply foldl_canon | with_reducible apply State.setRegion_inv
    | with_reducible apply State.region_inv | split | exact fun h => h | exact fun h => wf_smapAllTo h _
    | exact fun h => wf_sfilter h _ | exact fun _ => rfl | intro _ _ _ | intro _ _ | intro _ | dsimp only
    | contradiction
    | with_reducible refine inv_mk ?_ rfl rfl rfl rfl rfl rfl rfl rfl rfl rfl rfl rfl rfl rfl rfl rfl
    | with_reducible refine canon_mk ?_ rfl rfl
    | with_reducible refine inv_mk_wf ?_ rfl rfl rfl ?_ ?_ ?_ ?_ ?_ ?_ rfl ?_ rfl rfl rfl rfl rfl
    | refine wf_smapAllTo ?_ _)

theorem State.firmwareAct_inv {s : State} (act : FwAction) (h0 : s.Inv) :
    OptInv (State.firmwareAct s act) := by
  have hg (a : FwAction) : OptInv
      (let l := s.fwTouches a; if !l.isEmpty && (s.touchAll l).1 == l then none else some (s.fwGoOn a l)) := by
    extract_lets l
    split
    · exact optInv_none
    · exact optInv_some (State.fwGoOn_inv _ _ h0)
  unfold State.firmwareAct
  split
  · exact optInv_some (State.takeMail_inv h0)
  · exact optInv_some (State.takeFault_inv h0)
  · split
    · exact State.fwSlice_inv _ _ _ h0
    · exact optInv_some h0
  · exact State.portAbsent_inv _ h0
  · exact State.fwBme_inv _ _ _ _ _ h0
  all_goals exact hg _

theorem State.firmwareAct_inv_eq {s : State} {act : FwAction} {zt : State} (e0 : (State.firmwareAct s act) = some zt)
    (h0 : s.Inv) :
    zt.Inv := State.firmwareAct_inv act h0 _ e0

theorem State.runActs_inv {s : State} (x1 : List FwAction) (h0 : s.Inv) :
    (State.runActs s x1).Inv := by
  induction x1 generalizing s with
  | nil => exact { h0 with }
  | cons a l ih =>
    unfold State.runActs
    split
    · exact { h0 with }
    · split
      · rename_i t e
        exact ih (State.firmwareAct_inv _ h0 _ e)
      · exact { h0 with }

theorem State.runJob_inv {s : State} (h0 : s.Inv) :
    (State.runJob s).Inv := by
  unfold State.runJob
  try dsimp only
  repeat' (first
    | with_reducible assumption | with_reducible apply State.fwGoOn_inv | with_reducible apply foldl_inv
    | with_reducible apply foldl_inv2 | with_reducible apply foldl_inv1 | with_reducible apply foldl_canon
    | with_reducible apply State.setRegion_inv | with_reducible apply State.region_inv | split | exact fun h => h
    | exact fun h => wf_smapAllTo h _ | exact fun h => wf_sfilter h _ | exact fun _ => rfl | intro _ _ _ | intro _ _
    | intro _ | dsimp only | contradiction
    | with_reducible refine inv_mk ?_ rfl rfl rfl rfl rfl rfl rfl rfl rfl rfl rfl rfl rfl rfl rfl rfl
    | with_reducible refine canon_mk ?_ rfl rfl
    | with_reducible refine inv_mk_wf ?_ rfl rfl rfl ?_ ?_ ?_ ?_ ?_ ?_ rfl ?_ rfl rfl rfl rfl rfl
    | refine wf_smapAllTo ?_ _)

theorem doFirmwareWindowAccess_inv (act : FwAction) {s : State} (h0 : s.Inv) :
    (doFirmwareWindowAccess act s).Inv := by
  unfold doFirmwareWindowAccess
  try dsimp only
  repeat' (first
    | with_reducible assumption | with_reducible apply State.runActs_inv | with_reducible apply State.runJob_inv
    | with_reducible apply State.at_inv | with_reducible apply foldl_inv | with_reducible apply foldl_inv2
    | with_reducible apply foldl_inv1 | with_reducible apply foldl_canon | with_reducible apply State.setRegion_inv
    | with_reducible apply State.region_inv | split | exact fun h => h | exact fun h => wf_smapAllTo h _
    | exact fun h => wf_sfilter h _ | exact fun _ => rfl | intro _ _ _ | intro _ _ | intro _ | dsimp only
    | contradiction
    | with_reducible refine inv_mk ?_ rfl rfl rfl rfl rfl rfl rfl rfl rfl rfl rfl rfl rfl rfl rfl rfl
    | with_reducible refine canon_mk ?_ rfl rfl
    | with_reducible refine inv_mk_wf ?_ rfl rfl rfl ?_ ?_ ?_ ?_ ?_ ?_ rfl ?_ rfl rfl rfl rfl rfl
    | refine wf_smapAllTo ?_ _)

theorem execFirmwareWindowAccess_inv (act : FwAction) {s : State} (h : s.Inv)
    : OutInv (execFirmwareWindowAccess act s) := by
  repeat' (first
    | with_reducible assumption | with_reducible apply doFirmwareWindowAccess_inv | with_reducible apply onUnit_inv
    | with_reducible apply outInv_next | unfold execFirmwareWindowAccess | split | intro _ _ _ | dsimp only)

theorem doHbmRefresh_inv (stack : Nat) (pch : Nat) {s : State} (h0 : s.Inv) :
    (doHbmRefresh stack pch s).Inv := by
  unfold doHbmRefresh
  try dsimp only
  repeat' (first
    | with_reducible assumption | with_reducible apply State.setPch_inv | with_reducible apply State.at_inv
    | with_reducible apply foldl_inv | with_reducible apply foldl_inv2 | with_reducible apply foldl_inv1
    | with_reducible apply foldl_canon | with_reducible apply State.setRegion_inv
    | with_reducible apply State.region_inv | split)

theorem execHbmRefresh_inv (stack : Nat) (pch : Nat) {s : State} (h : s.Inv) : OutInv (execHbmRefresh stack pch s) := by
  repeat' (first
    | with_reducible assumption | with_reducible apply doHbmRefresh_inv | with_reducible apply onUnit_inv
    | with_reducible apply outInv_next | unfold execHbmRefresh)

theorem doHbmScrub_inv (stack : Nat) (pch : Nat) (ecc : Ecc) {s : State} (h0 : s.Inv) :
    (doHbmScrub stack pch ecc s).Inv := by
  unfold doHbmScrub
  try dsimp only
  repeat' (first
    | with_reducible assumption | with_reducible apply State.hbmCheck_inv
    | refine State.hbmCheck_inv_eq (by assumption) ?_ | with_reducible apply State.count_inv
    | with_reducible apply State.setPch_inv | with_reducible apply State.at_inv | with_reducible apply foldl_inv
    | with_reducible apply foldl_inv2 | with_reducible apply foldl_inv1 | with_reducible apply foldl_canon
    | with_reducible apply State.setRegion_inv | with_reducible apply State.region_inv | split)

theorem execHbmScrub_inv (stack : Nat) (pch : Nat) (ecc : Ecc) {s : State} (h : s.Inv)
    : OutInv (execHbmScrub stack pch ecc s) := by
  repeat' (first
    | with_reducible assumption | with_reducible apply doHbmScrub_inv | with_reducible apply onUnit_inv
    | with_reducible apply outInv_next | unfold execHbmScrub)

theorem doHbmRun_inv (stack : Nat) (pch : Nat) (lines : Nat) (errors : List (Nat × Bool)) {s : State} (h0 : s.Inv) :
    (doHbmRun stack pch lines errors s).Inv := by
  unfold doHbmRun
  try dsimp only
  repeat' (first
    | with_reducible assumption | with_reducible apply State.setPch_inv | with_reducible apply State.at_inv
    | with_reducible apply State.makeHbm_inv | with_reducible apply foldl_inv | with_reducible apply foldl_inv2
    | with_reducible apply foldl_inv1 | with_reducible apply foldl_canon | with_reducible apply State.setRegion_inv
    | with_reducible apply State.region_inv | split | exact fun h => h | exact fun h => wf_smapAllTo h _
    | exact fun h => wf_sfilter h _ | exact fun _ => rfl | intro _ _ _)

theorem execHbmRun_inv (stack : Nat) (pch : Nat) (lines : Nat) (errors : List (Nat × Bool)) {s : State} (h : s.Inv)
    : OutInv (execHbmRun stack pch lines errors s) := by
  repeat' (first
    | with_reducible assumption | with_reducible apply doHbmRun_inv | with_reducible apply onUnit_inv
    | with_reducible apply outInv_next | unfold execHbmRun)

theorem doHbmInitComplete_inv (stack : Nat) {s : State} (h0 : s.Inv) :
    (doHbmInitComplete stack s).Inv := by
  unfold doHbmInitComplete
  split
  · exact h0
  · refine State.tryRelease_inv { h0 with hbm := ?_ }
    dsimp only
    exact wf_sfilter h0.hbm _

theorem execHbmInitComplete_inv (stack : Nat) {s : State} (h : s.Inv) : OutInv (execHbmInitComplete stack s) := by
  repeat' (first
    | with_reducible assumption | with_reducible apply doHbmInitComplete_inv | with_reducible apply onUnit_inv
    | with_reducible apply outInv_next | unfold execHbmInitComplete)

theorem doCodewordReceive_inv (p : Nat) (lanes : List (List Pam4)) {s : State} (h0 : s.Inv) :
    (doCodewordReceive p lanes s).Inv := by
  unfold doCodewordReceive
  try dsimp only
  repeat' (first
    | with_reducible assumption | with_reducible apply State.receiveCodeword_inv | with_reducible apply foldl_inv
    | with_reducible apply foldl_inv2 | with_reducible apply foldl_inv1 | with_reducible apply foldl_canon
    | with_reducible apply State.setRegion_inv | with_reducible apply State.region_inv | split)

theorem execCodewordReceive_inv (p : Nat) (lanes : List (List Pam4)) {s : State} (h : s.Inv)
    : OutInv (execCodewordReceive p lanes s) := by
  repeat' (first
    | with_reducible assumption | with_reducible apply doCodewordReceive_inv | with_reducible apply onUnit_inv
    | with_reducible apply outInv_next | unfold execCodewordReceive)

theorem doCodewordSend_inv (p : Nat) {s : State} (h0 : s.Inv) :
    (doCodewordSend p s).Inv := by
  unfold doCodewordSend
  try dsimp only
  repeat' (first
    | with_reducible assumption | with_reducible apply State.sendCodeword_inv | with_reducible apply foldl_inv
    | with_reducible apply foldl_inv2 | with_reducible apply foldl_inv1 | with_reducible apply foldl_canon
    | with_reducible apply State.setRegion_inv | with_reducible apply State.region_inv | split)

theorem execCodewordSend_inv (p : Nat) {s : State} (h : s.Inv) : OutInv (execCodewordSend p s) := by
  repeat' (first
    | with_reducible assumption | with_reducible apply doCodewordSend_inv | with_reducible apply onUnit_inv
    | with_reducible apply outInv_next | unfold execCodewordSend)

theorem execReplayReq_inv (p : Nat) (first : Nat) (last : Nat) (all : Bool) {s : State} (h : s.Inv)
    : OutInv (execReplayReq p first last all s) := by
  repeat' (first
    | with_reducible assumption | with_reducible apply State.takeReplayReq_inv | with_reducible apply onUnit_inv
    | with_reducible apply outInv_next | unfold execReplayReq | split)

theorem doReplayReqRetry_inv (p : Nat) {s : State} (h0 : s.Inv) :
    (doReplayReqRetry p s).Inv := by
  unfold doReplayReqRetry
  try dsimp only
  repeat' (first
    | with_reducible assumption | with_reducible apply State.setPort_inv | with_reducible apply State.at_inv
    | with_reducible apply State.sendControl_inv | with_reducible apply foldl_inv | with_reducible apply foldl_inv2
    | with_reducible apply foldl_inv1 | with_reducible apply foldl_canon | with_reducible apply State.setRegion_inv
    | with_reducible apply State.region_inv | split)

theorem execReplayReqRetry_inv (p : Nat) {s : State} (h : s.Inv) : OutInv (execReplayReqRetry p s) := by
  repeat' (first
    | with_reducible assumption | with_reducible apply doReplayReqRetry_inv | with_reducible apply onUnit_inv
    | with_reducible apply outInv_next | unfold execReplayReqRetry)

theorem doGoBack_inv (p : Nat) {s : State} (h0 : s.Inv) :
    (doGoBack p s).Inv := by
  unfold doGoBack
  try dsimp only
  repeat' (first
    | with_reducible assumption | with_reducible apply State.goBack_inv | with_reducible apply State.at_inv
    | with_reducible apply foldl_inv | with_reducible apply foldl_inv2 | with_reducible apply foldl_inv1
    | with_reducible apply foldl_canon | with_reducible apply State.setRegion_inv
    | with_reducible apply State.region_inv | split)

theorem execGoBack_inv (p : Nat) {s : State} (h : s.Inv) : OutInv (execGoBack p s) := by
  repeat' (first
    | with_reducible assumption | with_reducible apply doGoBack_inv | with_reducible apply onUnit_inv
    | with_reducible apply outInv_next | unfold execGoBack)

theorem execMeasure_inv (p : Nat) (index : BitVec 8) (stamp : BitVec 32) (hold : Nat) {s : State} (h : s.Inv)
    : OutInv (execMeasure p index stamp hold s) := by
  repeat' (first
    | with_reducible assumption | with_reducible apply State.takeMeasure_inv | with_reducible apply onUnit_inv
    | with_reducible apply outInv_next | unfold execMeasure | split)

theorem execMeasureEcho_inv (p : Nat) (_index : BitVec 8) (stamp : BitVec 32) (hold : BitVec 32) {s : State}
    (h : s.Inv) : OutInv (execMeasureEcho p _index stamp hold s) := by
  repeat' (first
    | with_reducible assumption | with_reducible apply State.takeEcho_inv | with_reducible apply onUnit_inv
    | with_reducible apply outInv_next | unfold execMeasureEcho | split)

theorem execWidthReq_inv (p : Nat) (lanes : BitVec 8) (at_ : BitVec 32) {s : State} (h : s.Inv)
    : OutInv (execWidthReq p lanes at_ s) := by
  repeat' (first
    | with_reducible assumption | with_reducible apply State.takeWidthReq_inv | with_reducible apply onUnit_inv
    | with_reducible apply outInv_next | unfold execWidthReq)

theorem execWidthAck_inv (p : Nat) (lanes : BitVec 8) (at_ : BitVec 32) {s : State} (h : s.Inv)
    : OutInv (execWidthAck p lanes at_ s) := by
  repeat' (first
    | with_reducible assumption | with_reducible apply State.takeWidthAck_inv | with_reducible apply onUnit_inv
    | with_reducible apply outInv_next | unfold execWidthAck)

theorem execWidthNak_inv (p : Nat) (lanes : BitVec 8) (at_ : BitVec 32) {s : State} (h : s.Inv)
    : OutInv (execWidthNak p lanes at_ s) := by
  repeat' (first
    | with_reducible assumption | with_reducible apply State.takeWidthNak_inv | with_reducible apply onUnit_inv
    | with_reducible apply outInv_next | unfold execWidthNak)

theorem doWidthSwitchPoint_inv (p : Nat) {s : State} (h0 : s.Inv) :
    (doWidthSwitchPoint p s).Inv := by
  unfold doWidthSwitchPoint
  try dsimp only
  repeat' (first
    | with_reducible assumption | with_reducible apply State.put_inv | with_reducible apply State.useLanes_inv
    | with_reducible apply State.enterLnk_inv | with_reducible apply State.setPort_inv
    | with_reducible apply foldl_inv | with_reducible apply foldl_inv2 | with_reducible apply foldl_inv1
    | with_reducible apply foldl_canon | with_reducible apply State.setRegion_inv
    | with_reducible apply State.region_inv | split)

theorem execWidthSwitchPoint_inv (p : Nat) {s : State} (h : s.Inv) : OutInv (execWidthSwitchPoint p s) := by
  repeat' (first
    | with_reducible assumption | with_reducible apply doWidthSwitchPoint_inv | with_reducible apply onUnit_inv
    | with_reducible apply outInv_next | unfold execWidthSwitchPoint)

theorem doSwitchTimeout_inv (p : Nat) {s : State} (h0 : s.Inv) :
    (doSwitchTimeout p s).Inv := by
  unfold doSwitchTimeout
  try dsimp only
  repeat' (first
    | with_reducible assumption | with_reducible apply State.fastRetrain_inv | with_reducible apply State.at_inv
    | with_reducible apply foldl_inv | with_reducible apply foldl_inv2 | with_reducible apply foldl_inv1
    | with_reducible apply foldl_canon | with_reducible apply State.setRegion_inv
    | with_reducible apply State.region_inv | split)

theorem execSwitchTimeout_inv (p : Nat) {s : State} (h : s.Inv) : OutInv (execSwitchTimeout p s) := by
  repeat' (first
    | with_reducible assumption | with_reducible apply doSwitchTimeout_inv | with_reducible apply onUnit_inv
    | with_reducible apply outInv_next | unfold execSwitchTimeout)

theorem State.relock_inv {s : State} (p : Nat) (tests : List LaneTest) (h0 : s.Inv) :
    (State.relock s p tests).Inv := by
  unfold State.relock
  try dsimp only
  repeat' (first
    | with_reducible assumption | with_reducible apply State.recordLanes_inv
    | with_reducible apply State.fullRetrainPort_inv | with_reducible apply State.syncScramblers_inv
    | with_reducible apply State.useLanes_inv | with_reducible apply State.setPort_inv
    | with_reducible apply State.startMeasure_inv | with_reducible apply State.emit_inv
    | with_reducible apply foldl_inv | with_reducible apply foldl_inv2 | with_reducible apply foldl_inv1
    | with_reducible apply foldl_canon | with_reducible apply State.setRegion_inv
    | with_reducible apply State.region_inv | split)

theorem State.endRetrain_inv {s : State} (p : Nat) (h0 : s.Inv) :
    (State.endRetrain s p).Inv := by
  unfold State.endRetrain
  try dsimp only
  repeat' (first
    | with_reducible assumption | with_reducible apply State.enterLnk_inv | with_reducible apply State.goBack_inv
    | with_reducible apply State.setPort_inv)

theorem doRetrainComplete_inv (p : Nat) (tests : List LaneTest) {s : State} (h0 : s.Inv) :
    (doRetrainComplete p tests s).Inv := by
  unfold doRetrainComplete
  try dsimp only
  repeat' (first
    | with_reducible assumption | with_reducible apply State.relock_inv | with_reducible apply State.endRetrain_inv
    | with_reducible apply foldl_inv | with_reducible apply foldl_inv2 | with_reducible apply foldl_inv1
    | with_reducible apply foldl_canon | with_reducible apply State.setRegion_inv
    | with_reducible apply State.region_inv | split)

theorem execRetrainComplete_inv (p : Nat) (tests : List LaneTest) {s : State} (h : s.Inv)
    : OutInv (execRetrainComplete p tests s) := by
  repeat' (first
    | with_reducible assumption | with_reducible apply doRetrainComplete_inv | with_reducible apply onUnit_inv
    | with_reducible apply outInv_next | unfold execRetrainComplete)

theorem doRetrainTimeout_inv (p : Nat) {s : State} (h0 : s.Inv) :
    (doRetrainTimeout p s).Inv := by
  unfold doRetrainTimeout
  try dsimp only
  repeat' (first
    | with_reducible assumption | with_reducible apply State.fullRetrainPort_inv
    | with_reducible apply State.at_inv | with_reducible apply foldl_inv | with_reducible apply foldl_inv2
    | with_reducible apply foldl_inv1 | with_reducible apply foldl_canon | with_reducible apply State.setRegion_inv
    | with_reducible apply State.region_inv | split)

theorem execRetrainTimeout_inv (p : Nat) {s : State} (h : s.Inv) : OutInv (execRetrainTimeout p s) := by
  repeat' (first
    | with_reducible assumption | with_reducible apply doRetrainTimeout_inv | with_reducible apply onUnit_inv
    | with_reducible apply outInv_next | unfold execRetrainTimeout)

theorem doLaneSignalLoss_inv (p : Nat) (lane : Nat) {s : State} (h0 : s.Inv) :
    (doLaneSignalLoss p lane s).Inv := by
  unfold doLaneSignalLoss
  try dsimp only
  repeat' (first
    | with_reducible assumption | with_reducible apply State.fastRetrain_inv | with_reducible apply foldl_inv
    | with_reducible apply foldl_inv2 | with_reducible apply foldl_inv1 | with_reducible apply foldl_canon
    | with_reducible apply State.setRegion_inv | with_reducible apply State.region_inv | split)

theorem execLaneSignalLoss_inv (p : Nat) (lane : Nat) {s : State} (h : s.Inv) : OutInv (execLaneSignalLoss p lane s)
    := by
  repeat' (first
    | with_reducible assumption | with_reducible apply doLaneSignalLoss_inv | with_reducible apply onUnit_inv
    | with_reducible apply outInv_next | unfold execLaneSignalLoss)

theorem doLaneDegrade_inv (p : Nat) (lane : Nat) {s : State} (h0 : s.Inv) :
    (doLaneDegrade p lane s).Inv := by
  unfold doLaneDegrade
  try dsimp only
  repeat' (first
    | with_reducible assumption | with_reducible apply State.raise_inv | with_reducible apply State.put_inv
    | with_reducible apply State.setPort_inv | with_reducible apply State.requestWidth_inv
    | with_reducible apply foldl_inv | with_reducible apply foldl_inv2 | with_reducible apply foldl_inv1
    | with_reducible apply foldl_canon | with_reducible apply State.setRegion_inv
    | with_reducible apply State.region_inv | split)

theorem execLaneDegrade_inv (p : Nat) (lane : Nat) {s : State} (h : s.Inv) : OutInv (execLaneDegrade p lane s) := by
  repeat' (first
    | with_reducible assumption | with_reducible apply doLaneDegrade_inv | with_reducible apply onUnit_inv
    | with_reducible apply outInv_next | unfold execLaneDegrade)

theorem execRetrain_inv (p : Nat) {s : State} (h : s.Inv) : OutInv (execRetrain p s) := by
  repeat' (first
    | with_reducible assumption | with_reducible apply State.fastRetrain_inv | with_reducible apply onUnit_inv
    | with_reducible apply outInv_next | unfold execRetrain | split)

theorem doFullRetrain_inv (p : Nat) {s : State} (h0 : s.Inv) :
    (doFullRetrain p s).Inv := by
  unfold doFullRetrain
  try dsimp only
  repeat' (first
    | with_reducible assumption | with_reducible apply State.fullRetrainPort_inv | with_reducible apply foldl_inv
    | with_reducible apply foldl_inv2 | with_reducible apply foldl_inv1 | with_reducible apply foldl_canon
    | with_reducible apply State.setRegion_inv | with_reducible apply State.region_inv | split)

theorem execFullRetrain_inv (p : Nat) {s : State} (h : s.Inv) : OutInv (execFullRetrain p s) := by
  repeat' (first
    | with_reducible assumption | with_reducible apply doFullRetrain_inv | with_reducible apply onUnit_inv
    | with_reducible apply outInv_next | unfold execFullRetrain)

theorem doWiden_inv (p : Nat) {s : State} (h0 : s.Inv) :
    (doWiden p s).Inv := by
  unfold doWiden
  try dsimp only
  repeat' (first
    | with_reducible assumption | with_reducible apply State.freeByte_inv
    | refine State.freeByte_inv_eq (by assumption) ?_ | with_reducible apply State.setPort_inv
    | with_reducible apply State.put_inv | with_reducible apply State.requestWidth_inv
    | with_reducible apply foldl_inv | with_reducible apply foldl_inv2 | with_reducible apply foldl_inv1
    | with_reducible apply foldl_canon | with_reducible apply State.setRegion_inv
    | with_reducible apply State.region_inv | split)

theorem execWiden_inv (p : Nat) {s : State} (h : s.Inv) : OutInv (execWiden p s) := by
  repeat' (first
    | with_reducible assumption | with_reducible apply doWiden_inv | with_reducible apply onUnit_inv
    | with_reducible apply outInv_next | unfold execWiden)

theorem doPortEnWrite_inv (p : Nat) (en : Bool) {s : State} (h0 : s.Inv) :
    (doPortEnWrite p en s).Inv := by
  unfold doPortEnWrite
  try dsimp only
  repeat' (first
    | with_reducible assumption | with_reducible apply State.put_inv | with_reducible apply State.enterLnk_inv
    | with_reducible apply State.lnkToDown_inv | with_reducible apply foldl_inv | with_reducible apply foldl_inv2
    | with_reducible apply foldl_inv1 | with_reducible apply foldl_canon | with_reducible apply State.setRegion_inv
    | with_reducible apply State.region_inv | split)

theorem execPortEnWrite_inv (p : Nat) (en : Bool) {s : State} (h : s.Inv) : OutInv (execPortEnWrite p en s) := by
  repeat' (first
    | with_reducible assumption | with_reducible apply doPortEnWrite_inv | with_reducible apply onUnit_inv
    | with_reducible apply outInv_next | unfold execPortEnWrite)

theorem doTrainingBlock_inv (p : Nat) (msg : TrainMsg) {s : State} (h0 : s.Inv) :
    (doTrainingBlock p msg s).Inv := by
  unfold doTrainingBlock
  try dsimp only
  repeat' (first
    | with_reducible assumption | with_reducible apply State.setPort_inv | with_reducible apply State.put_inv
    | with_reducible apply State.raise_inv | with_reducible apply State.fastRetrain_inv
    | with_reducible apply foldl_inv | with_reducible apply foldl_inv2 | with_reducible apply foldl_inv1
    | with_reducible apply foldl_canon | with_reducible apply State.setRegion_inv
    | with_reducible apply State.region_inv | split)

theorem execTrainingBlock_inv (p : Nat) (msg : TrainMsg) {s : State} (h : s.Inv) : OutInv (execTrainingBlock p msg s)
    := by
  repeat' (first
    | with_reducible assumption | with_reducible apply doTrainingBlock_inv | with_reducible apply onUnit_inv
    | with_reducible apply outInv_next | unfold execTrainingBlock)

theorem State.identify_inv {s : State} (p : Nat) (b : Partner) (h0 : s.Inv) :
    (State.identify s p b).Inv := by
  unfold State.identify
  try dsimp only
  repeat' (first
    | with_reducible assumption | with_reducible apply State.put_inv | with_reducible apply State.raise_inv
    | with_reducible apply State.enterLnk_inv | with_reducible apply State.rehearsalUp_inv
    | with_reducible apply State.setPort_inv | with_reducible apply foldl_inv | with_reducible apply foldl_inv2
    | with_reducible apply foldl_inv1 | with_reducible apply foldl_canon | with_reducible apply State.setRegion_inv
    | with_reducible apply State.region_inv | split)

theorem doTrainingStageComplete_inv (p : Nat) (tests : List LaneTest) (partner : Partner) {s : State} (h0 : s.Inv) :
    (doTrainingStageComplete p tests partner s).Inv := by
  unfold doTrainingStageComplete
  try dsimp only
  repeat' (first
    | with_reducible assumption | with_reducible apply State.enterLnk_inv
    | with_reducible apply State.recordLanes_inv | with_reducible apply State.useLanes_inv
    | with_reducible apply State.put_inv | with_reducible apply State.syncScramblers_inv
    | with_reducible apply State.startMeasure_inv | with_reducible apply State.delefDelay_inv
    | with_reducible apply State.identify_inv | with_reducible apply State.raise_inv
    | with_reducible apply foldl_inv | with_reducible apply foldl_inv2 | with_reducible apply foldl_inv1
    | with_reducible apply foldl_canon | with_reducible apply State.setRegion_inv
    | with_reducible apply State.region_inv | split)

theorem execTrainingStageComplete_inv (p : Nat) (tests : List LaneTest) (partner : Partner) {s : State} (h : s.Inv)
    : OutInv (execTrainingStageComplete p tests partner s) := by
  repeat' (first
    | with_reducible assumption | with_reducible apply doTrainingStageComplete_inv | with_reducible apply onUnit_inv
    | with_reducible apply outInv_next | unfold execTrainingStageComplete)

theorem doTrainingTimeout_inv (p : Nat) {s : State} (h0 : s.Inv) :
    (doTrainingTimeout p s).Inv := by
  unfold doTrainingTimeout
  try dsimp only
  repeat' (first
    | with_reducible assumption | with_reducible apply State.raise_inv | with_reducible apply State.enterLnk_inv
    | with_reducible apply State.at_inv | with_reducible apply foldl_inv | with_reducible apply foldl_inv2
    | with_reducible apply foldl_inv1 | with_reducible apply foldl_canon | with_reducible apply State.setRegion_inv
    | with_reducible apply State.region_inv | split)

theorem execTrainingTimeout_inv (p : Nat) {s : State} (h : s.Inv) : OutInv (execTrainingTimeout p s) := by
  repeat' (first
    | with_reducible assumption | with_reducible apply doTrainingTimeout_inv | with_reducible apply onUnit_inv
    | with_reducible apply outInv_next | unfold execTrainingTimeout)

theorem doAckCoalesce_inv (p : Nat) {s : State} (h0 : s.Inv) :
    (doAckCoalesce p s).Inv := by
  unfold doAckCoalesce
  try dsimp only
  repeat' (first
    | with_reducible assumption | with_reducible apply State.at_inv | with_reducible apply State.setPort_inv
    | with_reducible apply foldl_inv | with_reducible apply foldl_inv2 | with_reducible apply foldl_inv1
    | with_reducible apply foldl_canon | with_reducible apply State.setRegion_inv
    | with_reducible apply State.region_inv | split)

theorem execAckCoalesce_inv (p : Nat) {s : State} (h : s.Inv) : OutInv (execAckCoalesce p s) := by
  repeat' (first
    | with_reducible assumption | with_reducible apply doAckCoalesce_inv | with_reducible apply onUnit_inv
    | with_reducible apply outInv_next | unfold execAckCoalesce)

theorem execEgressEnqueue_inv (p : Nat) (cell : Cell) {s : State} (h : s.Inv) : OutInv (execEgressEnqueue p cell s)
    := by
  repeat' (first
    | with_reducible assumption | with_reducible apply State.egress_inv | with_reducible apply onUnit_inv
    | with_reducible apply outInv_next | unfold execEgressEnqueue | split)

theorem execEgressRefill_inv (p : Nat) {s : State} (h : s.Inv) : OutInv (execEgressRefill p s) := by
  repeat' (first
    | with_reducible assumption | with_reducible apply State.refillEgress_inv | with_reducible apply onUnit_inv
    | with_reducible apply outInv_next | unfold execEgressRefill)

theorem execIdentify_inv (mb : Nat) {s : State} (h : s.Inv) : OutInv (execIdentify mb s) := by
  repeat' (first
    | with_reducible assumption | with_reducible apply State.withMail_inv | with_reducible apply State.answer_inv
    | with_reducible apply onUnit_inv | with_reducible apply outInv_next | unfold execIdentify | split | intro _ _ _)

theorem State.noteSpill_inv {s : State} (h0 : s.Inv) :
    (State.noteSpill s).Inv := by
  unfold State.noteSpill
  try dsimp only
  repeat' (first
    | with_reducible assumption | with_reducible apply State.put_inv | with_reducible apply foldl_inv
    | with_reducible apply foldl_inv2 | with_reducible apply foldl_inv1 | with_reducible apply foldl_canon
    | with_reducible apply State.setRegion_inv | with_reducible apply State.region_inv | split | exact fun h => h
    | exact fun h => wf_smapAllTo h _ | exact fun h => wf_sfilter h _ | exact fun _ => rfl | intro _ _ _)

theorem State.negotiate_inv (mb : Nat) (b : List Byte) {s : State} (h0 : s.Inv) :
    (State.negotiate mb b s).Inv := by
  unfold State.negotiate
  try dsimp only
  repeat' (first
    | with_reducible assumption | with_reducible apply State.answer_inv | with_reducible apply State.noteSpill_inv
    | with_reducible apply foldl_inv | with_reducible apply foldl_inv2 | with_reducible apply foldl_inv1
    | with_reducible apply foldl_canon | with_reducible apply State.setRegion_inv
    | with_reducible apply State.region_inv | split | exact fun h => h | exact fun h => wf_smapAllTo h _
    | exact fun h => wf_sfilter h _ | exact fun _ => rfl | intro _ _ _ | intro _ _ | intro _ | dsimp only
    | contradiction
    | with_reducible refine inv_mk ?_ rfl rfl rfl rfl rfl rfl rfl rfl rfl rfl rfl rfl rfl rfl rfl rfl)

theorem execNegotiate_inv (mb : Nat) {s : State} (h : s.Inv) : OutInv (execNegotiate mb s) := by
  repeat' (first
    | with_reducible assumption | with_reducible apply State.withMail_inv | with_reducible apply State.negotiate_inv
    | with_reducible apply onUnit_inv | with_reducible apply outInv_next | unfold execNegotiate)

theorem State.switchOff_inv {s : State} (h0 : s.Inv) :
    (State.switchOff s).Inv := by
  unfold State.switchOff
  try dsimp only
  repeat' (first
    | with_reducible assumption | with_reducible apply State.region_inv | with_reducible apply State.put_inv
    | with_reducible apply State.setClk_inv | with_reducible apply foldl_inv | with_reducible apply foldl_inv2
    | with_reducible apply foldl_inv1 | with_reducible apply foldl_canon | with_reducible apply State.setRegion_inv
    | with_reducible apply State.region_inv | split | exact fun h => h | exact fun h => wf_smapAllTo h _
    | exact fun h => wf_sfilter h _ | exact fun _ => rfl | intro _ _ _)

theorem State.mapGrid_inv (mb : Nat) (b : List Byte) {s : State} (h0 : s.Inv) :
    (State.mapGrid mb b s).Inv := by
  unfold State.mapGrid
  try dsimp only
  repeat' (first
    | with_reducible assumption | with_reducible apply State.answer_inv | with_reducible apply State.each_inv
    | with_reducible apply State.accountClk_inv | with_reducible apply State.switchOff_inv
    | with_reducible apply foldl_inv | with_reducible apply foldl_inv2 | with_reducible apply foldl_inv1
    | with_reducible apply foldl_canon | with_reducible apply State.setRegion_inv
    | with_reducible apply State.region_inv | split | exact fun h => h | exact fun h => wf_smapAllTo h _
    | exact fun h => wf_sfilter h _ | exact fun _ => rfl | intro _ _ _ | intro _ _ | intro _ | dsimp only
    | contradiction
    | with_reducible refine inv_mk ?_ rfl rfl rfl rfl rfl rfl rfl rfl rfl rfl rfl rfl rfl rfl rfl rfl)

theorem execMapGrid_inv (mb : Nat) {s : State} (h : s.Inv) : OutInv (execMapGrid mb s) := by
  repeat' (first
    | with_reducible assumption | with_reducible apply State.withMail_inv | with_reducible apply State.mapGrid_inv
    | with_reducible apply onUnit_inv | with_reducible apply outInv_next | unfold execMapGrid)

theorem State.openWindow_inv (mb : Nat) (b : List Byte) {s : State} (h0 : s.Inv) :
    (State.openWindow mb b s).Inv := by
  unfold State.openWindow
  try dsimp only
  repeat' (first
    | with_reducible assumption | with_reducible apply State.answer_inv | with_reducible apply State.setWindow_inv
    | with_reducible apply foldl_inv | with_reducible apply foldl_inv2 | with_reducible apply foldl_inv1
    | with_reducible apply foldl_canon | with_reducible apply State.setRegion_inv
    | with_reducible apply State.region_inv | split)

theorem execOpenWindow_inv (mb : Nat) {s : State} (h : s.Inv) : OutInv (execOpenWindow mb s) := by
  repeat' (first
    | with_reducible assumption | with_reducible apply State.withMail_inv
    | with_reducible apply State.openWindow_inv | with_reducible apply onUnit_inv | with_reducible apply outInv_next
    | unfold execOpenWindow)

theorem State.shutWindow_inv (mb : Nat) (b : List Byte) {s : State} (h0 : s.Inv) :
    (State.shutWindow mb b s).Inv := by
  unfold State.shutWindow
  try dsimp only
  repeat' (first
    | with_reducible assumption | with_reducible apply State.answer_inv | with_reducible apply State.closeWindow_inv
    | refine State.closeWindow_inv_eq (by assumption) ?_ | with_reducible apply State.setWindow_inv
    | with_reducible apply State.windowDrained_inv | with_reducible apply foldl_inv
    | with_reducible apply foldl_inv2 | with_reducible apply foldl_inv1 | with_reducible apply foldl_canon
    | with_reducible apply State.setRegion_inv | with_reducible apply State.region_inv | split)

theorem execCloseWindow_inv (mb : Nat) {s : State} (h : s.Inv) : OutInv (execCloseWindow mb s) := by
  repeat' (first
    | with_reducible assumption | with_reducible apply State.withMail_inv
    | with_reducible apply State.shutWindow_inv | with_reducible apply onUnit_inv | with_reducible apply outInv_next
    | unfold execCloseWindow)

theorem State.debugBreak_inv (mb : Nat) (b : List Byte) {s : State} (h0 : s.Inv) :
    (State.debugBreak mb b s).Inv := by
  unfold State.debugBreak
  try dsimp only
  repeat' (first
    | with_reducible assumption | with_reducible apply State.answer_inv | with_reducible apply State.setReg_inv
    | with_reducible apply State.put_inv | with_reducible apply State.resumeSeq_inv | with_reducible apply foldl_inv
    | with_reducible apply foldl_inv2 | with_reducible apply foldl_inv1 | with_reducible apply foldl_canon
    | with_reducible apply State.setRegion_inv | with_reducible apply State.region_inv | split)

theorem execDebugBreak_inv (mb : Nat) {s : State} (h : s.Inv) : OutInv (execDebugBreak mb s) := by
  repeat' (first
    | with_reducible assumption | with_reducible apply State.withMail_inv
    | with_reducible apply State.debugBreak_inv | with_reducible apply onUnit_inv | with_reducible apply outInv_next
    | unfold execDebugBreak)

theorem State.markLoaded_inv {s : State} (mb : Nat) (b : List Byte) (hash : List Byte) (restored : Option Nat)
    (h0 : s.Inv) :
    (State.markLoaded s mb b hash restored).Inv := by
  unfold State.markLoaded
  try dsimp only
  repeat' (first
    | with_reducible assumption | with_reducible apply State.put_inv | with_reducible apply State.answer_inv
    | with_reducible apply foldl_inv | with_reducible apply foldl_inv2 | with_reducible apply foldl_inv1
    | with_reducible apply foldl_canon | with_reducible apply State.setRegion_inv
    | with_reducible apply State.region_inv | split | exact fun h => h | exact fun h => wf_smapAllTo h _
    | exact fun h => wf_sfilter h _ | exact fun _ => rfl | intro _ _ _ | intro _ _ | intro _ | dsimp only
    | contradiction
    | with_reducible refine inv_mk ?_ rfl rfl rfl rfl rfl rfl rfl rfl rfl rfl rfl rfl rfl rfl rfl rfl)

theorem State.restoreStep_inv {s : State} (mb : Nat) (rq : List Byte) (b : List Byte) (hash : List Byte) (h0 : s.Inv) :
    (State.restoreStep s mb rq b hash).Inv := by
  unfold State.restoreStep
  try dsimp only
  repeat' (first
    | with_reducible assumption | with_reducible apply State.noteAccess_inv | with_reducible apply State.answer_inv
    | with_reducible apply State.vaRead_inv | refine State.vaRead_inv_eq (by assumption) ?_
    | with_reducible apply State.restore_inv | refine State.restore_inv_eq (by assumption) ?_
    | with_reducible apply State.markLoaded_inv | with_reducible apply foldl_inv | with_reducible apply foldl_inv2
    | with_reducible apply foldl_inv1 | with_reducible apply foldl_canon | with_reducible apply State.setRegion_inv
    | with_reducible apply State.region_inv | split)

theorem State.writeImage_inv {s : State} (mb : Nat) (rq : List Byte) (b : List Byte) (hash : List Byte) (h0 : s.Inv) :
    (State.writeImage s mb rq b hash).Inv := by
  unfold State.writeImage
  try dsimp only
  repeat' (first
    | with_reducible assumption | with_reducible apply State.writeSections_inv
    | refine State.writeSections_inv_eq (by assumption) ?_ | with_reducible apply State.answer_inv
    | with_reducible apply State.noteAccess_inv | with_reducible apply State.applyRelocs_inv
    | refine State.applyRelocs_inv_eq (by assumption) ?_ | with_reducible apply State.writePlan_inv
    | with_reducible apply State.writeObjects_inv | with_reducible apply State.writeServing_inv
    | with_reducible apply State.writeRanges_inv | with_reducible apply State.restoreStep_inv
    | with_reducible apply foldl_inv | with_reducible apply foldl_inv2 | with_reducible apply foldl_inv1
    | with_reducible apply foldl_canon | with_reducible apply State.setRegion_inv
    | with_reducible apply State.region_inv | split | exact fun h => h | exact fun h => wf_smapAllTo h _
    | exact fun h => wf_sfilter h _ | exact fun _ => rfl | intro _ _ _ | intro _ _ | intro _ | dsimp only
    | contradiction
    | with_reducible refine inv_mk ?_ rfl rfl rfl rfl rfl rfl rfl rfl rfl rfl rfl rfl rfl rfl rfl rfl)

theorem State.load_inv (mb : Nat) (rq : List Byte) {s : State} (h0 : s.Inv) :
    (State.load mb rq s).Inv := by
  unfold State.load
  try dsimp only
  repeat' (first
    | with_reducible assumption | with_reducible apply State.answer_inv | with_reducible apply State.noteAccess_inv
    | with_reducible apply State.vaRead_inv | refine State.vaRead_inv_eq (by assumption) ?_
    | with_reducible apply State.writeImage_inv | with_reducible apply foldl_inv | with_reducible apply foldl_inv2
    | with_reducible apply foldl_inv1 | with_reducible apply foldl_canon | with_reducible apply State.setRegion_inv
    | with_reducible apply State.region_inv | split)

theorem execLoadImage_inv (mb : Nat) {s : State} (h : s.Inv) : OutInv (execLoadImage mb s) := by
  repeat' (first
    | with_reducible assumption | with_reducible apply State.withMail_inv | with_reducible apply State.load_inv
    | with_reducible apply onUnit_inv | with_reducible apply outInv_next | unfold execLoadImage | split
    | intro _ _ _ | dsimp only)

theorem State.patch_inv (mb : Nat) (rq : List Byte) {s : State} (h0 : s.Inv) :
    (State.patch mb rq s).Inv := by
  unfold State.patch
  try dsimp only
  repeat' (first
    | with_reducible assumption | with_reducible apply State.answer_inv | with_reducible apply State.noteAccess_inv
    | with_reducible apply State.applyRelocs_inv | refine State.applyRelocs_inv_eq (by assumption) ?_
    | with_reducible apply foldl_inv | with_reducible apply foldl_inv2 | with_reducible apply foldl_inv1
    | with_reducible apply foldl_canon | with_reducible apply State.setRegion_inv
    | with_reducible apply State.region_inv | split)

theorem execPatchImage_inv (mb : Nat) {s : State} (h : s.Inv) : OutInv (execPatchImage mb s) := by
  repeat' (first
    | with_reducible assumption | with_reducible apply State.withMail_inv | with_reducible apply State.patch_inv
    | with_reducible apply onUnit_inv | with_reducible apply outInv_next | unfold execPatchImage | split
    | intro _ _ _ | dsimp only)

end Sys2Proof.Machine
end

