-- ==== Sys2Proof/Laws/InvCommandsB.lean ====
section
/-! SUPPORT. The invariant through the commands, part two. -/
namespace Sys2Proof.Machine

theorem State.reply_inv {s : State} (op : Nat) (hd : MsgHead) (status : Nat) (body : List Byte) (h0 : s.Inv) :
    (State.reply s op hd status body).Inv := by
  unfold State.reply
  try dsimp only
  repeat' (first
    | with_reducible assumption | with_reducible apply State.emit_inv | with_reducible apply foldl_inv
    | with_reducible apply foldl_inv2 | with_reducible apply foldl_inv1 | with_reducible apply foldl_canon
    | with_reducible apply State.setRegion_inv | with_reducible apply State.region_inv | split | exact fun h => h
    | exact fun h => wf_smapAllTo h _ | exact fun h => wf_sfilter h _ | exact fun _ => rfl | intro _ _ _ | intro _ _
    | intro _ | dsimp only | contradiction
    | with_reducible refine inv_mk ?_ rfl rfl rfl rfl rfl rfl rfl rfl rfl rfl rfl rfl rfl rfl rfl rfl
    | with_reducible refine canon_mk ?_ rfl rfl
    | with_reducible refine inv_mk_wf ?_ rfl rfl rfl ?_ ?_ ?_ ?_ ?_ ?_ rfl ?_ rfl rfl rfl rfl rfl
    | refine wf_smapAllTo ?_ _)

theorem State.withSigned_inv {s : State} (key : Option (List Byte)) (op : Nat) (hd : MsgHead) (body : List Byte)
    (sig : List Byte) {f : State → State} (h0 : s.Inv) (hf1 : ∀ u0, u0.Inv → (f u0).Inv) :
    (State.withSigned s key op hd body sig f).Inv := by
  unfold State.withSigned
  try dsimp only
  repeat' (first
    | with_reducible assumption | with_reducible apply State.drawNonce_inv | with_reducible apply State.reply_inv
    | with_reducible apply foldl_inv | with_reducible apply foldl_inv2 | with_reducible apply foldl_inv1
    | with_reducible apply foldl_canon | with_reducible apply State.setRegion_inv
    | with_reducible apply State.region_inv | with_reducible apply hf1 | split | exact fun h => h
    | exact fun h => wf_smapAllTo h _ | exact fun h => wf_sfilter h _ | exact fun _ => rfl | intro _ _ _ | intro _ _
    | intro _ | dsimp only | contradiction
    | with_reducible refine inv_mk ?_ rfl rfl rfl rfl rfl rfl rfl rfl rfl rfl rfl rfl rfl rfl rfl rfl
    | with_reducible refine canon_mk ?_ rfl rfl
    | with_reducible refine inv_mk_wf ?_ rfl rfl rfl ?_ ?_ ?_ ?_ ?_ ?_ rfl ?_ rfl rfl rfl rfl rfl
    | refine wf_smapAllTo ?_ _)

theorem State.putLog_inv {s : State} (r : LogRec) (h0 : s.Inv) :
    (State.putLog s r).Inv := by
  unfold State.putLog
  try dsimp only
  repeat' (first
    | with_reducible assumption | with_reducible apply foldl_inv | with_reducible apply foldl_inv2
    | with_reducible apply foldl_inv1 | with_reducible apply foldl_canon | with_reducible apply State.setRegion_inv
    | with_reducible apply State.region_inv | split | exact fun h => h | exact fun h => wf_smapAllTo h _
    | exact fun h => wf_sfilter h _ | exact fun _ => rfl | intro _ _ _ | intro _ _ | intro _ | dsimp only
    | contradiction
    | with_reducible refine inv_mk ?_ rfl rfl rfl rfl rfl rfl rfl rfl rfl rfl rfl rfl rfl rfl rfl rfl)

theorem State.takeReading_inv {s : State} (n : Nat) (v : Int) (h0 : s.Inv) :
    (State.takeReading s n v).Inv := by
  unfold State.takeReading
  try dsimp only
  repeat' (first
    | with_reducible assumption | with_reducible apply foldl_inv | with_reducible apply foldl_inv2
    | with_reducible apply foldl_inv1 | with_reducible apply foldl_canon | with_reducible apply State.setRegion_inv
    | with_reducible apply State.region_inv | split | exact fun h => h | exact fun h => wf_smapAllTo h _
    | exact fun h => wf_sfilter h _ | exact fun _ => rfl | intro _ _ _ | intro _ _ | intro _ | dsimp only
    | contradiction
    | with_reducible refine inv_mk ?_ rfl rfl rfl rfl rfl rfl rfl rfl rfl rfl rfl rfl rfl rfl rfl rfl
    | with_reducible refine canon_mk ?_ rfl rfl
    | with_reducible refine inv_mk_wf ?_ rfl rfl rfl ?_ ?_ ?_ ?_ ?_ ?_ rfl ?_ rfl rfl rfl rfl rfl
    | refine wf_smapAllTo ?_ _)

theorem State.putInstall_inv {s : State} (r : InstallRec) (h0 : s.Inv) :
    (State.putInstall s r).Inv := by
  unfold State.putInstall
  try dsimp only
  repeat' (first
    | with_reducible assumption | with_reducible apply foldl_inv | with_reducible apply foldl_inv2
    | with_reducible apply foldl_inv1 | with_reducible apply foldl_canon | with_reducible apply State.setRegion_inv
    | with_reducible apply State.region_inv | split | exact fun h => h | exact fun h => wf_smapAllTo h _
    | exact fun h => wf_sfilter h _ | exact fun _ => rfl | intro _ _ _ | intro _ _ | intro _ | dsimp only
    | contradiction
    | with_reducible refine inv_mk ?_ rfl rfl rfl rfl rfl rfl rfl rfl rfl rfl rfl rfl rfl rfl rfl rfl)

theorem doGetInfo_inv (hd : MsgHead) {s : State} (h0 : s.Inv) :
    (doGetInfo hd s).Inv := by
  unfold doGetInfo
  try dsimp only
  repeat' (first
    | with_reducible assumption | with_reducible apply State.reply_inv | with_reducible apply foldl_inv
    | with_reducible apply foldl_inv2 | with_reducible apply foldl_inv1 | with_reducible apply foldl_canon
    | with_reducible apply State.setRegion_inv | with_reducible apply State.region_inv | split | exact fun h => h
    | exact fun h => wf_smapAllTo h _ | exact fun h => wf_sfilter h _ | exact fun _ => rfl | intro _ _ _ | intro _ _
    | intro _ | dsimp only | contradiction
    | with_reducible refine inv_mk ?_ rfl rfl rfl rfl rfl rfl rfl rfl rfl rfl rfl rfl rfl rfl rfl rfl
    | with_reducible refine canon_mk ?_ rfl rfl
    | with_reducible refine inv_mk_wf ?_ rfl rfl rfl ?_ ?_ ?_ ?_ ?_ ?_ rfl ?_ rfl rfl rfl rfl rfl
    | refine wf_smapAllTo ?_ _)

theorem execGetInfo_inv (h1 : MsgHead) {s : State} (h : s.Inv) : OutInv (execGetInfo h1 s) := by
  repeat' (first
    | with_reducible assumption | with_reducible apply doGetInfo_inv | with_reducible apply onUnit_inv
    | with_reducible apply outInv_next | unfold execGetInfo | split | intro _ _ _ | dsimp only)

theorem doReadSensors_inv (hd : MsgHead) (first : BitVec 16) (count : BitVec 16) {s : State} (h0 : s.Inv) :
    (doReadSensors hd first count s).Inv := by
  unfold doReadSensors
  try dsimp only
  repeat' (first
    | with_reducible assumption | with_reducible apply State.reply_inv | with_reducible apply foldl_inv
    | with_reducible apply foldl_inv2 | with_reducible apply foldl_inv1 | with_reducible apply foldl_canon
    | with_reducible apply State.setRegion_inv | with_reducible apply State.region_inv | split | exact fun h => h
    | exact fun h => wf_smapAllTo h _ | exact fun h => wf_sfilter h _ | exact fun _ => rfl | intro _ _ _ | intro _ _
    | intro _ | dsimp only | contradiction
    | with_reducible refine inv_mk ?_ rfl rfl rfl rfl rfl rfl rfl rfl rfl rfl rfl rfl rfl rfl rfl rfl
    | with_reducible refine canon_mk ?_ rfl rfl
    | with_reducible refine inv_mk_wf ?_ rfl rfl rfl ?_ ?_ ?_ ?_ ?_ ?_ rfl ?_ rfl rfl rfl rfl rfl
    | refine wf_smapAllTo ?_ _)

theorem execReadSensors_inv (h1 : MsgHead) (first : BitVec 16) (count : BitVec 16) {s : State} (h : s.Inv)
    : OutInv (execReadSensors h1 first count s) := by
  repeat' (first
    | with_reducible assumption | with_reducible apply doReadSensors_inv | with_reducible apply onUnit_inv
    | with_reducible apply outInv_next | unfold execReadSensors | split | intro _ _ _ | dsimp only)

theorem doReadLog_inv (hd : MsgHead) (first : BitVec 64) (count : BitVec 16) {s : State} (h0 : s.Inv) :
    (doReadLog hd first count s).Inv := by
  unfold doReadLog
  try dsimp only
  repeat' (first
    | with_reducible assumption | with_reducible apply State.reply_inv | with_reducible apply foldl_inv
    | with_reducible apply foldl_inv2 | with_reducible apply foldl_inv1 | with_reducible apply foldl_canon
    | with_reducible apply State.setRegion_inv | with_reducible apply State.region_inv | split | exact fun h => h
    | exact fun h => wf_smapAllTo h _ | exact fun h => wf_sfilter h _ | exact fun _ => rfl | intro _ _ _ | intro _ _
    | intro _ | dsimp only | contradiction
    | with_reducible refine inv_mk ?_ rfl rfl rfl rfl rfl rfl rfl rfl rfl rfl rfl rfl rfl rfl rfl rfl
    | with_reducible refine canon_mk ?_ rfl rfl
    | with_reducible refine inv_mk_wf ?_ rfl rfl rfl ?_ ?_ ?_ ?_ ?_ ?_ rfl ?_ rfl rfl rfl rfl rfl
    | refine wf_smapAllTo ?_ _)

theorem execReadLog_inv (h1 : MsgHead) (first : BitVec 64) (count : BitVec 16) {s : State} (h : s.Inv)
    : OutInv (execReadLog h1 first count s) := by
  repeat' (first
    | with_reducible assumption | with_reducible apply doReadLog_inv | with_reducible apply onUnit_inv
    | with_reducible apply outInv_next | unfold execReadLog | split | intro _ _ _ | dsimp only)

theorem doGetNonce_inv (hd : MsgHead) {s : State} (h0 : s.Inv) :
    (doGetNonce hd s).Inv := by
  unfold doGetNonce
  try dsimp only
  repeat' (first
    | with_reducible assumption | with_reducible apply State.reply_inv | with_reducible apply foldl_inv
    | with_reducible apply foldl_inv2 | with_reducible apply foldl_inv1 | with_reducible apply foldl_canon
    | with_reducible apply State.setRegion_inv | with_reducible apply State.region_inv | split | exact fun h => h
    | exact fun h => wf_smapAllTo h _ | exact fun h => wf_sfilter h _ | exact fun _ => rfl | intro _ _ _ | intro _ _
    | intro _ | dsimp only | contradiction
    | with_reducible refine inv_mk ?_ rfl rfl rfl rfl rfl rfl rfl rfl rfl rfl rfl rfl rfl rfl rfl rfl
    | with_reducible refine canon_mk ?_ rfl rfl
    | with_reducible refine inv_mk_wf ?_ rfl rfl rfl ?_ ?_ ?_ ?_ ?_ ?_ rfl ?_ rfl rfl rfl rfl rfl
    | refine wf_smapAllTo ?_ _)

theorem execGetNonce_inv (h1 : MsgHead) {s : State} (h : s.Inv) : OutInv (execGetNonce h1 s) := by
  repeat' (first
    | with_reducible assumption | with_reducible apply doGetNonce_inv | with_reducible apply onUnit_inv
    | with_reducible apply outInv_next | unfold execGetNonce | split | intro _ _ _ | dsimp only)

theorem doWriteInstall_inv (hd : MsgHead) (record : List Byte) {s : State} (h0 : s.Inv) :
    (doWriteInstall hd record s).Inv := by
  unfold doWriteInstall
  try dsimp only
  repeat' (first
    | with_reducible assumption | with_reducible apply State.reply_inv | with_reducible apply State.putInstall_inv
    | with_reducible apply foldl_inv | with_reducible apply foldl_inv2 | with_reducible apply foldl_inv1
    | with_reducible apply foldl_canon | with_reducible apply State.setRegion_inv
    | with_reducible apply State.region_inv | split | exact fun h => h | exact fun h => wf_smapAllTo h _
    | exact fun h => wf_sfilter h _ | exact fun _ => rfl | intro _ _ _ | intro _ _ | intro _ | dsimp only
    | contradiction
    | with_reducible refine inv_mk ?_ rfl rfl rfl rfl rfl rfl rfl rfl rfl rfl rfl rfl rfl rfl rfl rfl
    | with_reducible refine canon_mk ?_ rfl rfl
    | with_reducible refine inv_mk_wf ?_ rfl rfl rfl ?_ ?_ ?_ ?_ ?_ ?_ rfl ?_ rfl rfl rfl rfl rfl
    | refine wf_smapAllTo ?_ _)

theorem execWriteInstall_inv (h1 : MsgHead) (record : List Byte) {s : State} (h : s.Inv)
    : OutInv (execWriteInstall h1 record s) := by
  repeat' (first
    | with_reducible assumption | with_reducible apply doWriteInstall_inv | with_reducible apply onUnit_inv
    | with_reducible apply outInv_next | unfold execWriteInstall | split | intro _ _ _ | dsimp only)

theorem doSetCeiling_inv (hd : MsgHead) (watts : BitVec 16) (sig : List Byte) {s : State} (h0 : s.Inv) :
    (doSetCeiling hd watts sig s).Inv := by
  unfold doSetCeiling
  try dsimp only
  repeat' (first
    | with_reducible assumption | with_reducible apply State.withSigned_inv | with_reducible apply State.reply_inv
    | with_reducible apply State.setCeilingReg_inv | with_reducible apply foldl_inv
    | with_reducible apply foldl_inv2 | with_reducible apply foldl_inv1 | with_reducible apply foldl_canon
    | with_reducible apply State.setRegion_inv | with_reducible apply State.region_inv | split | exact fun h => h
    | exact fun h => wf_smapAllTo h _ | exact fun h => wf_sfilter h _ | exact fun _ => rfl | intro _ _ _ | intro _ _
    | intro _ | dsimp only | contradiction
    | with_reducible refine inv_mk ?_ rfl rfl rfl rfl rfl rfl rfl rfl rfl rfl rfl rfl rfl rfl rfl rfl
    | with_reducible refine canon_mk ?_ rfl rfl
    | with_reducible refine inv_mk_wf ?_ rfl rfl rfl ?_ ?_ ?_ ?_ ?_ ?_ rfl ?_ rfl rfl rfl rfl rfl
    | refine wf_smapAllTo ?_ _)

theorem execSetCeiling_inv (h1 : MsgHead) (watts : BitVec 16) (sig : List Byte) {s : State} (h : s.Inv)
    : OutInv (execSetCeiling h1 watts sig s) := by
  repeat' (first
    | with_reducible assumption | with_reducible apply doSetCeiling_inv | with_reducible apply onUnit_inv
    | with_reducible apply outInv_next | unfold execSetCeiling | split | intro _ _ _ | dsimp only)

theorem doSetPermitted_inv (hd : MsgHead) (mask : BitVec 128) (sig : List Byte) {s : State} (h0 : s.Inv) :
    (doSetPermitted hd mask sig s).Inv := by
  unfold doSetPermitted
  try dsimp only
  repeat' (first
    | with_reducible assumption | with_reducible apply State.withSigned_inv | with_reducible apply State.reply_inv
    | with_reducible apply State.setPermittedReg_inv | with_reducible apply foldl_inv
    | with_reducible apply foldl_inv2 | with_reducible apply foldl_inv1 | with_reducible apply foldl_canon
    | with_reducible apply State.setRegion_inv | with_reducible apply State.region_inv | split | exact fun h => h
    | exact fun h => wf_smapAllTo h _ | exact fun h => wf_sfilter h _ | exact fun _ => rfl | intro _ _ _ | intro _ _
    | intro _ | dsimp only | contradiction
    | with_reducible refine inv_mk ?_ rfl rfl rfl rfl rfl rfl rfl rfl rfl rfl rfl rfl rfl rfl rfl rfl
    | with_reducible refine canon_mk ?_ rfl rfl
    | with_reducible refine inv_mk_wf ?_ rfl rfl rfl ?_ ?_ ?_ ?_ ?_ ?_ rfl ?_ rfl rfl rfl rfl rfl
    | refine wf_smapAllTo ?_ _)

theorem execSetPermitted_inv (h1 : MsgHead) (mask : BitVec 128) (sig : List Byte) {s : State} (h : s.Inv)
    : OutInv (execSetPermitted h1 mask sig s) := by
  repeat' (first
    | with_reducible assumption | with_reducible apply doSetPermitted_inv | with_reducible apply onUnit_inv
    | with_reducible apply outInv_next | unfold execSetPermitted | split | intro _ _ _ | dsimp only)

theorem doFenceMessage_inv (hd : MsgHead) (domains : BitVec 8) (sig : List Byte) {s : State} (h0 : s.Inv) :
    (doFenceMessage hd domains sig s).Inv := by
  unfold doFenceMessage
  try dsimp only
  repeat' (first
    | with_reducible assumption | with_reducible apply State.withSigned_inv
    | with_reducible apply State.fenceFor_inv | with_reducible apply foldl_inv | with_reducible apply foldl_inv2
    | with_reducible apply foldl_inv1 | with_reducible apply foldl_canon | with_reducible apply State.setRegion_inv
    | with_reducible apply State.region_inv | split | exact fun h => h | exact fun h => wf_smapAllTo h _
    | exact fun h => wf_sfilter h _ | exact fun _ => rfl | intro _ _ _ | intro _ _ | intro _ | dsimp only
    | contradiction
    | with_reducible refine inv_mk ?_ rfl rfl rfl rfl rfl rfl rfl rfl rfl rfl rfl rfl rfl rfl rfl rfl
    | with_reducible refine canon_mk ?_ rfl rfl
    | with_reducible refine inv_mk_wf ?_ rfl rfl rfl ?_ ?_ ?_ ?_ ?_ ?_ rfl ?_ rfl rfl rfl rfl rfl
    | refine wf_smapAllTo ?_ _)

theorem execFenceMessage_inv (h1 : MsgHead) (domains : BitVec 8) (sig : List Byte) {s : State} (h : s.Inv)
    : OutInv (execFenceMessage h1 domains sig s) := by
  repeat' (first
    | with_reducible assumption | with_reducible apply doFenceMessage_inv | with_reducible apply onUnit_inv
    | with_reducible apply outInv_next | unfold execFenceMessage | split | intro _ _ _ | dsimp only)

theorem doUnfenceMessage_inv (hd : MsgHead) (domains : BitVec 8) (sig : List Byte) {s : State} (h0 : s.Inv) :
    (doUnfenceMessage hd domains sig s).Inv := by
  unfold doUnfenceMessage
  try dsimp only
  repeat' (first
    | with_reducible assumption | with_reducible apply State.withSigned_inv
    | with_reducible apply State.unfenceFor_inv | refine State.unfenceFor_inv_eq (by assumption) ?_
    | with_reducible apply State.reply_inv | with_reducible apply foldl_inv | with_reducible apply foldl_inv2
    | with_reducible apply foldl_inv1 | with_reducible apply foldl_canon | with_reducible apply State.setRegion_inv
    | with_reducible apply State.region_inv | split | exact fun h => h | exact fun h => wf_smapAllTo h _
    | exact fun h => wf_sfilter h _ | exact fun _ => rfl | intro _ _ _ | intro _ _ | intro _ | dsimp only
    | contradiction
    | with_reducible refine inv_mk ?_ rfl rfl rfl rfl rfl rfl rfl rfl rfl rfl rfl rfl rfl rfl rfl rfl
    | with_reducible refine canon_mk ?_ rfl rfl
    | with_reducible refine inv_mk_wf ?_ rfl rfl rfl ?_ ?_ ?_ ?_ ?_ ?_ rfl ?_ rfl rfl rfl rfl rfl
    | refine wf_smapAllTo ?_ _)

theorem execUnfenceMessage_inv (h1 : MsgHead) (domains : BitVec 8) (sig : List Byte) {s : State} (h : s.Inv)
    : OutInv (execUnfenceMessage h1 domains sig s) := by
  repeat' (first
    | with_reducible assumption | with_reducible apply doUnfenceMessage_inv | with_reducible apply onUnit_inv
    | with_reducible apply outInv_next | unfold execUnfenceMessage | split | intro _ _ _ | dsimp only)

theorem doResetDomainMessage_inv (hd : MsgHead) (domains : BitVec 8) (sig : List Byte) {s : State} (h0 : s.Inv) :
    (doResetDomainMessage hd domains sig s).Inv := by
  unfold doResetDomainMessage
  try dsimp only
  repeat' (first
    | with_reducible assumption | with_reducible apply State.withSigned_inv | with_reducible apply State.resetD0_inv
    | with_reducible apply State.reply_inv | with_reducible apply State.resetFor_inv
    | with_reducible apply foldl_inv | with_reducible apply foldl_inv2 | with_reducible apply foldl_inv1
    | with_reducible apply foldl_canon | with_reducible apply State.setRegion_inv
    | with_reducible apply State.region_inv | split | exact fun h => h | exact fun h => wf_smapAllTo h _
    | exact fun h => wf_sfilter h _ | exact fun _ => rfl | intro _ _ _ | intro _ _ | intro _ | dsimp only
    | contradiction
    | with_reducible refine inv_mk ?_ rfl rfl rfl rfl rfl rfl rfl rfl rfl rfl rfl rfl rfl rfl rfl rfl
    | with_reducible refine canon_mk ?_ rfl rfl
    | with_reducible refine inv_mk_wf ?_ rfl rfl rfl ?_ ?_ ?_ ?_ ?_ ?_ rfl ?_ rfl rfl rfl rfl rfl
    | refine wf_smapAllTo ?_ _)

theorem execResetDomainMessage_inv (h1 : MsgHead) (domains : BitVec 8) (sig : List Byte) {s : State} (h : s.Inv)
    : OutInv (execResetDomainMessage h1 domains sig s) := by
  repeat' (first
    | with_reducible assumption | with_reducible apply doResetDomainMessage_inv | with_reducible apply onUnit_inv
    | with_reducible apply outInv_next | unfold execResetDomainMessage | split | intro _ _ _ | dsimp only)

theorem State.relay_inv {s : State} (hd : MsgHead) (mb : Nat) (request : List Byte) (h0 : s.Inv) :
    (State.relay s hd mb request).Inv := by
  unfold State.relay
  try dsimp only
  repeat' (first
    | with_reducible assumption | with_reducible apply State.reply_inv | with_reducible apply State.sramPut_inv
    | with_reducible apply State.ringDoorbell_inv | refine State.ringDoorbell_inv_eq (by assumption) ?_
    | with_reducible apply State.setBox_inv | with_reducible apply foldl_inv | with_reducible apply foldl_inv2
    | with_reducible apply foldl_inv1 | with_reducible apply foldl_canon | with_reducible apply State.setRegion_inv
    | with_reducible apply State.region_inv | split | exact fun h => h | exact fun h => wf_smapAllTo h _
    | exact fun h => wf_sfilter h _ | exact fun _ => rfl | intro _ _ _ | intro _ _ | intro _ | dsimp only
    | contradiction
    | with_reducible refine inv_mk ?_ rfl rfl rfl rfl rfl rfl rfl rfl rfl rfl rfl rfl rfl rfl rfl rfl
    | with_reducible refine canon_mk ?_ rfl rfl
    | with_reducible refine inv_mk_wf ?_ rfl rfl rfl ?_ ?_ ?_ ?_ ?_ ?_ rfl ?_ rfl rfl rfl rfl rfl
    | refine wf_smapAllTo ?_ _)

theorem doMailboxRelay_inv (hd : MsgHead) (mailbox : BitVec 8) (request : List Byte) (sig : List Byte) {s : State}
    (h0 : s.Inv) :
    (doMailboxRelay hd mailbox request sig s).Inv := by
  unfold doMailboxRelay
  try dsimp only
  repeat' (first
    | with_reducible assumption | with_reducible apply State.withSigned_inv | with_reducible apply State.reply_inv
    | with_reducible apply State.relay_inv | with_reducible apply foldl_inv | with_reducible apply foldl_inv2
    | with_reducible apply foldl_inv1 | with_reducible apply foldl_canon | with_reducible apply State.setRegion_inv
    | with_reducible apply State.region_inv | split | exact fun h => h | exact fun h => wf_smapAllTo h _
    | exact fun h => wf_sfilter h _ | exact fun _ => rfl | intro _ _ _ | intro _ _ | intro _ | dsimp only
    | contradiction
    | with_reducible refine inv_mk ?_ rfl rfl rfl rfl rfl rfl rfl rfl rfl rfl rfl rfl rfl rfl rfl rfl
    | with_reducible refine canon_mk ?_ rfl rfl
    | with_reducible refine inv_mk_wf ?_ rfl rfl rfl ?_ ?_ ?_ ?_ ?_ ?_ rfl ?_ rfl rfl rfl rfl rfl
    | refine wf_smapAllTo ?_ _)

theorem execMailboxRelay_inv (h1 : MsgHead) (mailbox : BitVec 8) (request : List Byte) (sig : List Byte) {s : State}
    (h : s.Inv) : OutInv (execMailboxRelay h1 mailbox request sig s) := by
  repeat' (first
    | with_reducible assumption | with_reducible apply doMailboxRelay_inv | with_reducible apply onUnit_inv
    | with_reducible apply outInv_next | unfold execMailboxRelay | split | intro _ _ _ | dsimp only)

theorem doEvent_inv {s : State} (h0 : s.Inv) :
    (doEvent s).Inv := by
  unfold doEvent
  try dsimp only
  repeat' (first
    | with_reducible assumption | with_reducible apply State.emit_inv | with_reducible apply foldl_inv
    | with_reducible apply foldl_inv2 | with_reducible apply foldl_inv1 | with_reducible apply foldl_canon
    | with_reducible apply State.setRegion_inv | with_reducible apply State.region_inv | split | exact fun h => h
    | exact fun h => wf_smapAllTo h _ | exact fun h => wf_sfilter h _ | exact fun _ => rfl | intro _ _ _ | intro _ _
    | intro _ | dsimp only | contradiction
    | with_reducible refine inv_mk ?_ rfl rfl rfl rfl rfl rfl rfl rfl rfl rfl rfl rfl rfl rfl rfl rfl)

theorem execEvent_inv {s : State} (h : s.Inv) : OutInv (execEvent s) := by
  repeat' (first
    | with_reducible assumption | with_reducible apply doEvent_inv | with_reducible apply onUnit_inv
    | with_reducible apply outInv_next | unfold execEvent)

theorem State.loseFence_inv {s : State} (h0 : s.Inv) :
    (State.loseFence s).Inv := by
  unfold State.loseFence
  try dsimp only
  repeat' (first
    | with_reducible assumption | with_reducible apply State.unfence_inv | with_reducible apply foldl_inv
    | with_reducible apply foldl_inv2 | with_reducible apply foldl_inv1 | with_reducible apply foldl_canon
    | with_reducible apply State.setRegion_inv | with_reducible apply State.region_inv | split | exact fun h => h
    | exact fun h => wf_smapAllTo h _ | exact fun h => wf_sfilter h _ | exact fun _ => rfl | intro _ _ _ | intro _ _
    | intro _ | dsimp only | contradiction
    | with_reducible refine inv_mk ?_ rfl rfl rfl rfl rfl rfl rfl rfl rfl rfl rfl rfl rfl rfl rfl rfl
    | with_reducible refine canon_mk ?_ rfl rfl
    | with_reducible refine inv_mk_wf ?_ rfl rfl rfl ?_ ?_ ?_ ?_ ?_ ?_ rfl ?_ rfl rfl rfl rfl rfl
    | refine wf_smapAllTo ?_ _)

theorem State.failMgmt_inv {s : State} (h0 : s.Inv) :
    (State.failMgmt s).Inv := by
  unfold State.failMgmt
  try dsimp only
  repeat' (first
    | with_reducible assumption | with_reducible apply State.logRec_inv | with_reducible apply State.showSlots_inv
    | with_reducible apply foldl_inv | with_reducible apply foldl_inv2 | with_reducible apply foldl_inv1
    | with_reducible apply foldl_canon | with_reducible apply State.setRegion_inv
    | with_reducible apply State.region_inv | split | exact fun h => h | exact fun h => wf_smapAllTo h _
    | exact fun h => wf_sfilter h _ | exact fun _ => rfl | intro _ _ _ | intro _ _ | intro _ | dsimp only
    | contradiction
    | with_reducible refine inv_mk ?_ rfl rfl rfl rfl rfl rfl rfl rfl rfl rfl rfl rfl rfl rfl rfl rfl
    | with_reducible refine canon_mk ?_ rfl rfl
    | with_reducible refine inv_mk_wf ?_ rfl rfl rfl ?_ ?_ ?_ ?_ ?_ ?_ rfl ?_ rfl rfl rfl rfl rfl
    | refine wf_smapAllTo ?_ _)

theorem doManagementWatchdog_inv {s : State} (h0 : s.Inv) :
    (doManagementWatchdog s).Inv := by
  unfold doManagementWatchdog
  split
  · exact h0
  · have h1 : (s.freeNat 2).2.Inv := State.freeNat_inv _ h0
    extract_lets mine k up w t
    have h3 : ({ k.2 with freeCtr := k.2.freeCtr + 1 } : State).Inv := { h1 with }
    have h2 : t.Inv := State.failMgmt_inv (State.loseFence_inv h3)
    refine { h2 with log := ?_, boxes := by dsimp only; exact wf_smapAllTo h2.boxes _ }
    dsimp only
    split
    · exact h2.log
    · exact Nat.zero_le _

theorem execManagementWatchdog_inv {s : State} (h : s.Inv) : OutInv (execManagementWatchdog s) := by
  repeat' (first
    | with_reducible assumption | with_reducible apply doManagementWatchdog_inv | with_reducible apply onUnit_inv
    | with_reducible apply outInv_next | unfold execManagementWatchdog)

theorem doSensorSample_inv (sensor : Nat) (value : Int) {s : State} (h0 : s.Inv) :
    (doSensorSample sensor value s).Inv := by
  unfold doSensorSample
  try dsimp only
  repeat' (first
    | with_reducible assumption | with_reducible apply State.takeReading_inv | with_reducible apply State.raise_inv
    | with_reducible apply foldl_inv | with_reducible apply foldl_inv2 | with_reducible apply foldl_inv1
    | with_reducible apply foldl_canon | with_reducible apply State.setRegion_inv
    | with_reducible apply State.region_inv | split | exact fun h => h | exact fun h => wf_smapAllTo h _
    | exact fun h => wf_sfilter h _ | exact fun _ => rfl | intro _ _ _ | intro _ _ | intro _ | dsimp only
    | contradiction
    | with_reducible refine inv_mk ?_ rfl rfl rfl rfl rfl rfl rfl rfl rfl rfl rfl rfl rfl rfl rfl rfl
    | with_reducible refine canon_mk ?_ rfl rfl
    | with_reducible refine inv_mk_wf ?_ rfl rfl rfl ?_ ?_ ?_ ?_ ?_ ?_ rfl ?_ rfl rfl rfl rfl rfl
    | refine wf_smapAllTo ?_ _)

theorem execSensorSample_inv (sensor : Nat) (value : Int) {s : State} (h : s.Inv)
    : OutInv (execSensorSample sensor value s) := by
  repeat' (first
    | with_reducible assumption | with_reducible apply doSensorSample_inv | with_reducible apply onUnit_inv
    | with_reducible apply outInv_next | unfold execSensorSample | split | intro _ _ _ | dsimp only)

theorem doLogWrite_inv {s : State} (h0 : s.Inv) :
    (doLogWrite s).Inv := by
  unfold doLogWrite
  split
  · exact h0
  · rename_i r rest e
    extract_lets k n lost c1 t
    have h1 : State.Inv t := { h0 with log := by have := h0.log; rw [e] at this; exact Nat.le_trans (Nat.le_succ _) this }
    split
    · exact h0
    · refine State.putLog_inv _ ?_
      split
      · exact h1
      · exact State.putLog_inv _ h1

theorem execLogWrite_inv {s : State} (h : s.Inv) : OutInv (execLogWrite s) := by
  repeat' (first
    | with_reducible assumption | with_reducible apply doLogWrite_inv | with_reducible apply onUnit_inv
    | with_reducible apply outInv_next | unfold execLogWrite)

theorem State.putMeter_inv {s : State} (r : MeterRec) (h0 : s.Inv) :
    (State.putMeter s r).Inv := by
  unfold State.putMeter
  try dsimp only
  repeat' (first
    | with_reducible assumption | with_reducible apply foldl_inv | with_reducible apply foldl_inv2
    | with_reducible apply foldl_inv1 | with_reducible apply foldl_canon | with_reducible apply State.setRegion_inv
    | with_reducible apply State.region_inv | split | exact fun h => h | exact fun h => wf_smapAllTo h _
    | exact fun h => wf_sfilter h _ | exact fun _ => rfl | intro _ _ _ | intro _ _ | intro _ | dsimp only
    | contradiction
    | with_reducible refine inv_mk ?_ rfl rfl rfl rfl rfl rfl rfl rfl rfl rfl rfl rfl rfl rfl rfl rfl)

theorem State.writeRecord_inv {s : State} (kind : Nat) (keys : List KeyCount) (startUs : Nat) (energy : Nat)
    (h0 : s.Inv) :
    (State.writeRecord s kind keys startUs energy).Inv := by
  unfold State.writeRecord
  try dsimp only
  repeat' (first
    | with_reducible assumption | with_reducible apply State.putMeter_inv | with_reducible apply foldl_inv
    | with_reducible apply foldl_inv2 | with_reducible apply foldl_inv1 | with_reducible apply foldl_canon
    | with_reducible apply State.setRegion_inv | with_reducible apply State.region_inv | split | exact fun h => h
    | exact fun h => wf_smapAllTo h _ | exact fun h => wf_sfilter h _ | exact fun _ => rfl | intro _ _ _ | intro _ _
    | intro _ | dsimp only | contradiction
    | with_reducible refine inv_mk ?_ rfl rfl rfl rfl rfl rfl rfl rfl rfl rfl rfl rfl rfl rfl rfl rfl)

theorem State.closeInterval_inv {s : State} (h0 : s.Inv) :
    (State.closeInterval s).Inv := by
  unfold State.closeInterval
  try dsimp only
  repeat' (first
    | with_reducible assumption | with_reducible apply State.writeRecord_inv | with_reducible apply foldl_inv
    | with_reducible apply foldl_inv2 | with_reducible apply foldl_inv1 | with_reducible apply foldl_canon
    | with_reducible apply State.setRegion_inv | with_reducible apply State.region_inv | split | exact fun h => h
    | exact fun h => wf_smapAllTo h _ | exact fun h => wf_sfilter h _ | exact fun _ => rfl | intro _ _ _ | intro _ _
    | intro _ | dsimp only | contradiction
    | with_reducible refine inv_mk ?_ rfl rfl rfl rfl rfl rfl rfl rfl rfl rfl rfl rfl rfl rfl rfl rfl)

theorem State.meterEvent_inv {s : State} (change : SmuSt → SmuSt) (h0 : s.Inv) :
    (State.meterEvent s change).Inv := by
  unfold State.meterEvent
  try dsimp only
  repeat' (first
    | with_reducible assumption | with_reducible apply State.closeInterval_inv
    | with_reducible apply State.writeRecord_inv | with_reducible apply foldl_inv | with_reducible apply foldl_inv2
    | with_reducible apply foldl_inv1 | with_reducible apply foldl_canon | with_reducible apply State.setRegion_inv
    | with_reducible apply State.region_inv | split | exact fun h => h | exact fun h => wf_smapAllTo h _
    | exact fun h => wf_sfilter h _ | exact fun _ => rfl | intro _ _ _ | intro _ _ | intro _ | dsimp only
    | contradiction
    | with_reducible refine inv_mk ?_ rfl rfl rfl rfl rfl rfl rfl rfl rfl rfl rfl rfl rfl rfl rfl rfl)

theorem State.saveCheckpoint_inv {s : State} (h0 : s.Inv) :
    (State.saveCheckpoint s).Inv := by
  unfold State.saveCheckpoint
  try dsimp only
  repeat' (first
    | with_reducible assumption | with_reducible apply foldl_inv | with_reducible apply foldl_inv2
    | with_reducible apply foldl_inv1 | with_reducible apply foldl_canon | with_reducible apply State.setRegion_inv
    | with_reducible apply State.region_inv | split | exact fun h => h | exact fun h => wf_smapAllTo h _
    | exact fun h => wf_sfilter h _ | exact fun _ => rfl | intro _ _ _ | intro _ _ | intro _ | dsimp only
    | contradiction
    | with_reducible refine inv_mk ?_ rfl rfl rfl rfl rfl rfl rfl rfl rfl rfl rfl rfl rfl rfl rfl rfl)

theorem State.resumeCheckpoint_inv {s : State} (h0 : s.Inv) :
    (State.resumeCheckpoint s).Inv := by
  unfold State.resumeCheckpoint
  try dsimp only
  repeat' (first
    | with_reducible assumption | with_reducible apply foldl_inv | with_reducible apply foldl_inv2
    | with_reducible apply foldl_inv1 | with_reducible apply foldl_canon | with_reducible apply State.setRegion_inv
    | with_reducible apply State.region_inv | split | exact fun h => h | exact fun h => wf_smapAllTo h _
    | exact fun h => wf_sfilter h _ | exact fun _ => rfl | intro _ _ _ | intro _ _ | intro _ | dsimp only
    | contradiction
    | with_reducible refine inv_mk ?_ rfl rfl rfl rfl rfl rfl rfl rfl rfl rfl rfl rfl rfl rfl rfl rfl)

theorem State.resetD4_inv {s : State} (h0 : s.Inv) :
    (State.resetD4 s).Inv := by
  unfold State.resetD4
  try dsimp only
  repeat' (first
    | with_reducible assumption | with_reducible apply State.resetRegs_inv | with_reducible apply foldl_inv
    | with_reducible apply foldl_inv2 | with_reducible apply foldl_inv1 | with_reducible apply foldl_canon
    | with_reducible apply State.setRegion_inv | with_reducible apply State.region_inv | split | exact fun h => h
    | exact fun h => wf_smapAllTo h _ | exact fun h => wf_sfilter h _ | exact fun _ => rfl | intro _ _ _ | intro _ _
    | intro _ | dsimp only | contradiction
    | with_reducible refine inv_mk ?_ rfl rfl rfl rfl rfl rfl rfl rfl rfl rfl rfl rfl rfl rfl rfl rfl)

theorem State.startMeter_inv {s : State} (gap : Bool) (h0 : s.Inv) :
    (State.startMeter s gap).Inv := by
  unfold State.startMeter
  try dsimp only
  repeat' (first
    | with_reducible assumption | with_reducible apply State.resumeCheckpoint_inv
    | with_reducible apply State.meterEvent_inv | with_reducible apply State.writeRecord_inv
    | with_reducible apply foldl_inv | with_reducible apply foldl_inv2 | with_reducible apply foldl_inv1
    | with_reducible apply foldl_canon | with_reducible apply State.setRegion_inv
    | with_reducible apply State.region_inv | split | exact fun h => h | exact fun h => wf_smapAllTo h _
    | exact fun h => wf_sfilter h _ | exact fun _ => rfl | intro _ _ _ | intro _ _ | intro _ | dsimp only
    | contradiction
    | with_reducible refine inv_mk ?_ rfl rfl rfl rfl rfl rfl rfl rfl rfl rfl rfl rfl rfl rfl rfl rfl
    | with_reducible refine canon_mk ?_ rfl rfl
    | with_reducible refine inv_mk_wf ?_ rfl rfl rfl ?_ ?_ ?_ ?_ ?_ ?_ rfl ?_ rfl rfl rfl rfl rfl
    | refine wf_smapAllTo ?_ _)

theorem State.sample_inv {s : State} (millivolts : Nat) (milliamps : Nat) (h0 : s.Inv) :
    (State.sample s millivolts milliamps).Inv := by
  unfold State.sample
  try dsimp only
  repeat' (first
    | with_reducible assumption | with_reducible apply State.put_inv | with_reducible apply foldl_inv
    | with_reducible apply foldl_inv2 | with_reducible apply foldl_inv1 | with_reducible apply foldl_canon
    | with_reducible apply State.setRegion_inv | with_reducible apply State.region_inv | split | exact fun h => h
    | exact fun h => wf_smapAllTo h _ | exact fun h => wf_sfilter h _ | exact fun _ => rfl | intro _ _ _ | intro _ _
    | intro _ | dsimp only | contradiction
    | with_reducible refine inv_mk ?_ rfl rfl rfl rfl rfl rfl rfl rfl rfl rfl rfl rfl rfl rfl rfl rfl)

theorem State.meterReply_inv {s : State} (op : Nat) (status : Nat) (body : List Byte) (h0 : s.Inv) :
    (State.meterReply s op status body).Inv := by
  unfold State.meterReply
  try dsimp only
  repeat' (first | with_reducible assumption | with_reducible apply State.emit_inv)

theorem State.withMeter_inv {s : State} {f : State → State} (h0 : s.Inv) (hf1 : ∀ u0, u0.Inv → (f u0).Inv) :
    (State.withMeter s f).Inv := by
  unfold State.withMeter
  try dsimp only
  repeat' (first
    | with_reducible assumption | with_reducible apply foldl_inv | with_reducible apply foldl_inv2
    | with_reducible apply foldl_inv1 | with_reducible apply foldl_canon | with_reducible apply State.setRegion_inv
    | with_reducible apply State.region_inv | with_reducible apply hf1 | split)

theorem State.meterChange_inv {s : State} (op : Nat) (change : SmuSt → SmuSt) (h0 : s.Inv) :
    (State.meterChange s op change).Inv := by
  unfold State.meterChange
  try dsimp only
  repeat' (first
    | with_reducible assumption | with_reducible apply State.meterReply_inv
    | with_reducible apply State.meterEvent_inv | with_reducible apply foldl_inv | with_reducible apply foldl_inv2
    | with_reducible apply foldl_inv1 | with_reducible apply foldl_canon | with_reducible apply State.setRegion_inv
    | with_reducible apply State.region_inv | split)

theorem doSmuSample_inv (millivolts : Nat) (milliamps : Nat) {s : State} (h0 : s.Inv) :
    (doSmuSample millivolts milliamps s).Inv := by
  unfold doSmuSample
  try dsimp only
  repeat' (first
    | with_reducible assumption | with_reducible apply State.sample_inv | with_reducible apply State.startMeter_inv
    | with_reducible apply foldl_inv | with_reducible apply foldl_inv2 | with_reducible apply foldl_inv1
    | with_reducible apply foldl_canon | with_reducible apply State.setRegion_inv
    | with_reducible apply State.region_inv | split)

theorem execSmuSample_inv (millivolts : Nat) (milliamps : Nat) {s : State} (h : s.Inv)
    : OutInv (execSmuSample millivolts milliamps s) := by
  repeat' (first
    | with_reducible assumption | with_reducible apply doSmuSample_inv | with_reducible apply onUnit_inv
    | with_reducible apply outInv_next | unfold execSmuSample)

theorem doIntervalClose_inv {s : State} (h0 : s.Inv) :
    (doIntervalClose s).Inv := by
  unfold doIntervalClose
  try dsimp only
  repeat' (first
    | with_reducible assumption | with_reducible apply State.withMeter_inv
    | with_reducible apply State.closeInterval_inv | with_reducible apply foldl_inv
    | with_reducible apply foldl_inv2 | with_reducible apply foldl_inv1 | with_reducible apply foldl_canon
    | with_reducible apply State.setRegion_inv | with_reducible apply State.region_inv | split | exact fun h => h
    | exact fun h => wf_smapAllTo h _ | exact fun h => wf_sfilter h _ | exact fun _ => rfl | intro _ _ _ | intro _ _
    | intro _ | dsimp only | contradiction
    | with_reducible refine inv_mk ?_ rfl rfl rfl rfl rfl rfl rfl rfl rfl rfl rfl rfl rfl rfl rfl rfl)

theorem execIntervalClose_inv {s : State} (h : s.Inv) : OutInv (execIntervalClose s) := by
  repeat' (first
    | with_reducible assumption | with_reducible apply doIntervalClose_inv | with_reducible apply onUnit_inv
    | with_reducible apply outInv_next | unfold execIntervalClose)

theorem doSmuCheckpoint_inv {s : State} (h0 : s.Inv) :
    (doSmuCheckpoint s).Inv := by
  unfold doSmuCheckpoint
  try dsimp only
  repeat' (first
    | with_reducible assumption | with_reducible apply State.withMeter_inv
    | with_reducible apply State.saveCheckpoint_inv | with_reducible apply foldl_inv
    | with_reducible apply foldl_inv2 | with_reducible apply foldl_inv1 | with_reducible apply foldl_canon
    | with_reducible apply State.setRegion_inv | with_reducible apply State.region_inv | split | exact fun h => h
    | exact fun h => wf_smapAllTo h _ | exact fun h => wf_sfilter h _ | exact fun _ => rfl | intro _ _ _ | intro _ _
    | intro _ | dsimp only | contradiction
    | with_reducible refine inv_mk ?_ rfl rfl rfl rfl rfl rfl rfl rfl rfl rfl rfl rfl rfl rfl rfl rfl
    | with_reducible refine canon_mk ?_ rfl rfl
    | with_reducible refine inv_mk_wf ?_ rfl rfl rfl ?_ ?_ ?_ ?_ ?_ ?_ rfl ?_ rfl rfl rfl rfl rfl
    | refine wf_smapAllTo ?_ _)

theorem execSmuCheckpoint_inv {s : State} (h : s.Inv) : OutInv (execSmuCheckpoint s) := by
  repeat' (first
    | with_reducible assumption | with_reducible apply doSmuCheckpoint_inv | with_reducible apply onUnit_inv
    | with_reducible apply outInv_next | unfold execSmuCheckpoint)

theorem doSmuWatchdog_inv {s : State} (h0 : s.Inv) :
    (doSmuWatchdog s).Inv := by
  unfold doSmuWatchdog
  try dsimp only
  repeat' (first
    | with_reducible assumption | with_reducible apply State.startMeter_inv | with_reducible apply State.resetD4_inv
    | with_reducible apply foldl_inv | with_reducible apply foldl_inv2 | with_reducible apply foldl_inv1
    | with_reducible apply foldl_canon | with_reducible apply State.setRegion_inv
    | with_reducible apply State.region_inv | split)

theorem execSmuWatchdog_inv {s : State} (h : s.Inv) : OutInv (execSmuWatchdog s) := by
  repeat' (first
    | with_reducible assumption | with_reducible apply doSmuWatchdog_inv | with_reducible apply onUnit_inv
    | with_reducible apply outInv_next | unfold execSmuWatchdog)

theorem doGetReading_inv {s : State} (h0 : s.Inv) :
    (doGetReading s).Inv := by
  unfold doGetReading
  try dsimp only
  repeat' (first
    | with_reducible assumption | with_reducible apply State.withMeter_inv
    | with_reducible apply State.meterReply_inv | with_reducible apply foldl_inv | with_reducible apply foldl_inv2
    | with_reducible apply foldl_inv1 | with_reducible apply foldl_canon | with_reducible apply State.setRegion_inv
    | with_reducible apply State.region_inv | split | exact fun h => h | exact fun h => wf_smapAllTo h _
    | exact fun h => wf_sfilter h _ | exact fun _ => rfl | intro _ _ _ | intro _ _)

theorem execGetReading_inv {s : State} (h : s.Inv) : OutInv (execGetReading s) := by
  repeat' (first
    | with_reducible assumption | with_reducible apply doGetReading_inv | with_reducible apply onUnit_inv
    | with_reducible apply outInv_next | unfold execGetReading)

theorem doGetRecords_inv (seq : BitVec 64) {s : State} (h0 : s.Inv) :
    (doGetRecords seq s).Inv := by
  unfold doGetRecords
  try dsimp only
  repeat' (first
    | with_reducible assumption | with_reducible apply State.withMeter_inv
    | with_reducible apply State.meterReply_inv | with_reducible apply foldl_inv | with_reducible apply foldl_inv2
    | with_reducible apply foldl_inv1 | with_reducible apply foldl_canon | with_reducible apply State.setRegion_inv
    | with_reducible apply State.region_inv | split | exact fun h => h | exact fun h => wf_smapAllTo h _
    | exact fun h => wf_sfilter h _ | exact fun _ => rfl | intro _ _ _ | intro _ _)

theorem execGetRecords_inv (seq : BitVec 64) {s : State} (h : s.Inv) : OutInv (execGetRecords seq s) := by
  repeat' (first
    | with_reducible assumption | with_reducible apply doGetRecords_inv | with_reducible apply onUnit_inv
    | with_reducible apply outInv_next | unfold execGetRecords)

theorem doGetCert_inv {s : State} (h0 : s.Inv) :
    (doGetCert s).Inv := by
  unfold doGetCert
  try dsimp only
  repeat' (first
    | with_reducible assumption | with_reducible apply State.withMeter_inv
    | with_reducible apply State.meterReply_inv | with_reducible apply foldl_inv | with_reducible apply foldl_inv2
    | with_reducible apply foldl_inv1 | with_reducible apply foldl_canon | with_reducible apply State.setRegion_inv
    | with_reducible apply State.region_inv | split | exact fun h => h | exact fun h => wf_smapAllTo h _
    | exact fun h => wf_sfilter h _ | exact fun _ => rfl | intro _ _ _ | intro _ _)

theorem execGetCert_inv {s : State} (h : s.Inv) : OutInv (execGetCert s) := by
  repeat' (first
    | with_reducible assumption | with_reducible apply doGetCert_inv | with_reducible apply onUnit_inv
    | with_reducible apply outInv_next | unfold execGetCert)

theorem doSetInterval_inv (seconds : Nat) {s : State} (h0 : s.Inv) :
    (doSetInterval seconds s).Inv := by
  unfold doSetInterval
  try dsimp only
  repeat' (first
    | with_reducible assumption | with_reducible apply State.withMeter_inv
    | with_reducible apply State.meterReply_inv | with_reducible apply State.meterChange_inv
    | with_reducible apply foldl_inv | with_reducible apply foldl_inv2 | with_reducible apply foldl_inv1
    | with_reducible apply foldl_canon | with_reducible apply State.setRegion_inv
    | with_reducible apply State.region_inv | split | exact fun h => h | exact fun h => wf_smapAllTo h _
    | exact fun h => wf_sfilter h _ | exact fun _ => rfl | intro _ _ _ | intro _ _)

theorem execSetInterval_inv (seconds : Nat) {s : State} (h : s.Inv) : OutInv (execSetInterval seconds s) := by
  repeat' (first
    | with_reducible assumption | with_reducible apply doSetInterval_inv | with_reducible apply onUnit_inv
    | with_reducible apply outInv_next | unfold execSetInterval)

theorem doCalibrationWrite_inv (data : List Byte) (sig : List Byte) {s : State} (h0 : s.Inv) :
    (doCalibrationWrite data sig s).Inv := by
  unfold doCalibrationWrite
  try dsimp only
  repeat' (first
    | with_reducible assumption | with_reducible apply State.withMeter_inv
    | with_reducible apply State.meterChange_inv | with_reducible apply State.meterReply_inv
    | with_reducible apply foldl_inv | with_reducible apply foldl_inv2 | with_reducible apply foldl_inv1
    | with_reducible apply foldl_canon | with_reducible apply State.setRegion_inv
    | with_reducible apply State.region_inv | split | exact fun h => h | exact fun h => wf_smapAllTo h _
    | exact fun h => wf_sfilter h _ | exact fun _ => rfl | intro _ _ _ | intro _ _)

theorem execCalibrationWrite_inv (data : List Byte) (sig : List Byte) {s : State} (h : s.Inv)
    : OutInv (execCalibrationWrite data sig s) := by
  repeat' (first
    | with_reducible assumption | with_reducible apply doCalibrationWrite_inv | with_reducible apply onUnit_inv
    | with_reducible apply outInv_next | unfold execCalibrationWrite)

theorem doMeterImageUpdate_inv (image : List Byte) (activate : Bool) {s : State} (h0 : s.Inv) :
    (doMeterImageUpdate image activate s).Inv := by
  unfold doMeterImageUpdate
  try dsimp only
  repeat' (first
    | with_reducible assumption | with_reducible apply State.withMeter_inv
    | with_reducible apply State.meterChange_inv | with_reducible apply State.meterReply_inv
    | with_reducible apply foldl_inv | with_reducible apply foldl_inv2 | with_reducible apply foldl_inv1
    | with_reducible apply foldl_canon | with_reducible apply State.setRegion_inv
    | with_reducible apply State.region_inv | split | exact fun h => h | exact fun h => wf_smapAllTo h _
    | exact fun h => wf_sfilter h _ | exact fun _ => rfl | intro _ _ _ | intro _ _ | intro _ | dsimp only
    | contradiction
    | with_reducible refine inv_mk ?_ rfl rfl rfl rfl rfl rfl rfl rfl rfl rfl rfl rfl rfl rfl rfl rfl)

theorem execMeterImageUpdate_inv (image : List Byte) (activate : Bool) {s : State} (h : s.Inv)
    : OutInv (execMeterImageUpdate image activate s) := by
  repeat' (first
    | with_reducible assumption | with_reducible apply doMeterImageUpdate_inv | with_reducible apply onUnit_inv
    | with_reducible apply outInv_next | unfold execMeterImageUpdate)

theorem doMeterKeyRegeneration_inv {s : State} (h0 : s.Inv) :
    (doMeterKeyRegeneration s).Inv := by
  unfold doMeterKeyRegeneration
  try dsimp only
  repeat' (first
    | with_reducible assumption | with_reducible apply State.withMeter_inv
    | with_reducible apply State.meterChange_inv | with_reducible apply foldl_inv | with_reducible apply foldl_inv2
    | with_reducible apply foldl_inv1 | with_reducible apply foldl_canon | with_reducible apply State.setRegion_inv
    | with_reducible apply State.region_inv | split | exact fun h => h | exact fun h => wf_smapAllTo h _
    | exact fun h => wf_sfilter h _ | exact fun _ => rfl | intro _ _ _ | intro _ _)

theorem execMeterKeyRegeneration_inv {s : State} (h : s.Inv) : OutInv (execMeterKeyRegeneration s) := by
  repeat' (first
    | with_reducible assumption | with_reducible apply doMeterKeyRegeneration_inv | with_reducible apply onUnit_inv
    | with_reducible apply outInv_next | unfold execMeterKeyRegeneration)

theorem State.setWalk_inv {s : State} (w : Walk) (h0 : s.Inv) :
    (State.setWalk s w).Inv := by
  unfold State.setWalk
  try dsimp only
  repeat' (first
    | with_reducible assumption | with_reducible apply foldl_inv | with_reducible apply foldl_inv2
    | with_reducible apply foldl_inv1 | with_reducible apply foldl_canon | with_reducible apply State.setRegion_inv
    | with_reducible apply State.region_inv | split | exact fun h => h | exact fun h => wf_smapAllTo h _
    | exact fun h => wf_sfilter h _ | exact fun _ => rfl | intro _ _ _ | intro _ _ | intro _ | dsimp only
    | contradiction
    | with_reducible refine inv_mk ?_ rfl rfl rfl rfl rfl rfl rfl rfl rfl rfl rfl rfl rfl rfl rfl rfl)

theorem doPageWalkRead_inv (ecc : Ecc) {s : State} (h0 : s.Inv) :
    (doPageWalkRead ecc s).Inv := by
  unfold doPageWalkRead
  try dsimp only
  repeat' (first
    | with_reducible assumption | with_reducible apply State.setPch_inv | with_reducible apply State.at_inv
    | with_reducible apply State.count_inv | with_reducible apply State.hbmCheck_inv
    | refine State.hbmCheck_inv_eq (by assumption) ?_ | with_reducible apply State.setWalk_inv
    | with_reducible apply foldl_inv | with_reducible apply foldl_inv2 | with_reducible apply foldl_inv1
    | with_reducible apply foldl_canon | with_reducible apply State.setRegion_inv
    | with_reducible apply State.region_inv | split | exact fun h => h | exact fun h => wf_smapAllTo h _
    | exact fun h => wf_sfilter h _ | exact fun _ => rfl | intro _ _ _ | intro _ _ | intro _ | dsimp only
    | contradiction
    | with_reducible refine inv_mk ?_ rfl rfl rfl rfl rfl rfl rfl rfl rfl rfl rfl rfl rfl rfl rfl rfl)

theorem execPageWalkRead_inv (ecc : Ecc) {s : State} (h : s.Inv) : OutInv (execPageWalkRead ecc s) := by
  repeat' (first
    | with_reducible assumption | with_reducible apply doPageWalkRead_inv | with_reducible apply onUnit_inv
    | with_reducible apply outInv_next | unfold execPageWalkRead)

theorem State.waitProceeds_inv {s : State} (l : Leaf) (w : WalkWait) (h0 : s.Inv) :
    (State.waitProceeds s l w).Inv := by
  unfold State.waitProceeds
  try dsimp only
  repeat' (first
    | with_reducible assumption | with_reducible apply State.accessFailed_inv
    | with_reducible apply State.recordFault_inv | with_reducible apply State.atPlace_inv
    | refine State.atPlace_inv_eq (by assumption) ?_ | with_reducible apply foldl_inv
    | with_reducible apply foldl_inv2 | with_reducible apply foldl_inv1 | with_reducible apply foldl_canon
    | with_reducible apply State.setRegion_inv | with_reducible apply State.region_inv | split)

theorem State.waitFaults_inv {s : State} (cause : Nat) (w : WalkWait) (h0 : s.Inv) :
    (State.waitFaults s cause w).Inv := by
  unfold State.waitFaults
  try dsimp only
  repeat' (first
    | with_reducible assumption | with_reducible apply State.accessFailed_inv
    | with_reducible apply State.recordFault_inv)

theorem State.endWalk_inv {s : State} (w : Walk) (h0 : s.Inv) :
    (State.endWalk s w).Inv := by
  unfold State.endWalk
  try dsimp only
  repeat' (first
    | with_reducible assumption | with_reducible apply State.waitProceeds_inv
    | with_reducible apply State.fillCache_inv | with_reducible apply State.waitFaults_inv
    | with_reducible apply State.raise_inv | with_reducible apply State.fillWalks_inv
    | with_reducible apply foldl_inv | with_reducible apply foldl_inv2 | with_reducible apply foldl_inv1
    | with_reducible apply foldl_canon | with_reducible apply State.setRegion_inv
    | with_reducible apply State.region_inv | split | exact fun h => h | exact fun h => wf_smapAllTo h _
    | exact fun h => wf_sfilter h _ | exact fun _ => rfl | intro _ _ _ | intro _ _ | intro _ | dsimp only
    | contradiction
    | with_reducible refine inv_mk ?_ rfl rfl rfl rfl rfl rfl rfl rfl rfl rfl rfl rfl rfl rfl rfl rfl)

theorem doWalkComplete_inv {s : State} (h0 : s.Inv) :
    (doWalkComplete s).Inv := by
  unfold doWalkComplete
  try dsimp only
  repeat' (first
    | with_reducible assumption | with_reducible apply State.endWalk_inv | with_reducible apply foldl_inv
    | with_reducible apply foldl_inv2 | with_reducible apply foldl_inv1 | with_reducible apply foldl_canon
    | with_reducible apply State.setRegion_inv | with_reducible apply State.region_inv | split)

theorem execWalkComplete_inv {s : State} (h : s.Inv) : OutInv (execWalkComplete s) := by
  repeat' (first
    | with_reducible assumption | with_reducible apply doWalkComplete_inv | with_reducible apply onUnit_inv
    | with_reducible apply outInv_next | unfold execWalkComplete)

theorem doInvDrainComplete_inv {s : State} (h0 : s.Inv) :
    (doInvDrainComplete s).Inv := by
  unfold doInvDrainComplete
  try dsimp only
  repeat' (first
    | with_reducible assumption | with_reducible apply State.put_inv | with_reducible apply foldl_inv
    | with_reducible apply foldl_inv2 | with_reducible apply foldl_inv1 | with_reducible apply foldl_canon
    | with_reducible apply State.setRegion_inv | with_reducible apply State.region_inv | split)

theorem execInvDrainComplete_inv {s : State} (h : s.Inv) : OutInv (execInvDrainComplete s) := by
  repeat' (first
    | with_reducible assumption | with_reducible apply doInvDrainComplete_inv | with_reducible apply onUnit_inv
    | with_reducible apply outInv_next | unfold execInvDrainComplete)

theorem State.putShadow_inv {s : State} (o : Nat) (v : Reg32) (h0 : s.Inv) :
    (State.putShadow s o v).Inv := by
  unfold State.putShadow
  try dsimp only
  repeat' (first
    | with_reducible assumption | with_reducible apply foldl_inv | with_reducible apply foldl_inv2
    | with_reducible apply foldl_inv1 | with_reducible apply foldl_canon | with_reducible apply State.setRegion_inv
    | with_reducible apply State.region_inv | split | exact fun h => h | exact fun h => wf_smapAllTo h _
    | exact fun h => wf_sfilter h _ | exact fun _ => rfl | intro _ _ _ | intro _ _ | intro _ | dsimp only
    | contradiction
    | with_reducible refine inv_mk ?_ rfl rfl rfl rfl rfl rfl rfl rfl rfl rfl rfl rfl rfl rfl rfl rfl)

theorem State.takeSnapshot_inv {s : State} (holdover : Bool) (h0 : s.Inv) :
    (State.takeSnapshot s holdover).Inv := by
  unfold State.takeSnapshot
  try dsimp only
  repeat' (first
    | with_reducible assumption | with_reducible apply State.putShadow_inv | with_reducible apply foldl_inv
    | with_reducible apply foldl_inv2 | with_reducible apply foldl_inv1 | with_reducible apply foldl_canon
    | with_reducible apply State.setRegion_inv | with_reducible apply State.region_inv | split | exact fun h => h
    | exact fun h => wf_smapAllTo h _ | exact fun h => wf_sfilter h _ | exact fun _ => rfl | intro _ _ _ | intro _ _
    | intro _ | dsimp only | contradiction
    | with_reducible refine inv_mk ?_ rfl rfl rfl rfl rfl rfl rfl rfl rfl rfl rfl rfl rfl rfl rfl rfl)

theorem State.recordHang_inv {s : State} (kind : Nat) (samples : Nat) (nodes : List Nat) (h0 : s.Inv) :
    (State.recordHang s kind samples nodes).Inv := by
  unfold State.recordHang
  try dsimp only
  repeat' (first
    | with_reducible assumption | with_reducible apply State.put_inv | with_reducible apply State.raise_inv
    | with_reducible apply State.setReg_inv | with_reducible apply foldl_inv | with_reducible apply foldl_inv2
    | with_reducible apply foldl_inv1 | with_reducible apply foldl_canon | with_reducible apply State.setRegion_inv
    | with_reducible apply State.region_inv | split | exact fun h => h | exact fun h => wf_smapAllTo h _
    | exact fun h => wf_sfilter h _ | exact fun _ => rfl | intro _ _ _)

theorem State.raiseHang_inv {s : State} (kind : Nat) (samples : Nat) (nodes : List Nat) (h0 : s.Inv) :
    (State.raiseHang s kind samples nodes).Inv := by
  unfold State.raiseHang
  try dsimp only
  repeat' (first
    | with_reducible assumption | with_reducible apply State.recordHang_inv | with_reducible apply State.event_inv
    | with_reducible apply foldl_inv | with_reducible apply foldl_inv2 | with_reducible apply foldl_inv1
    | with_reducible apply foldl_canon | with_reducible apply State.setRegion_inv
    | with_reducible apply State.region_inv | split | exact fun h => h | exact fun h => wf_smapAllTo h _
    | exact fun h => wf_sfilter h _ | exact fun _ => rfl | intro _ _ _ | intro _ _ | intro _ | dsimp only
    | contradiction
    | with_reducible refine inv_mk ?_ rfl rfl rfl rfl rfl rfl rfl rfl rfl rfl rfl rfl rfl rfl rfl rfl)

theorem State.sampleHang_inv {s : State} (h0 : s.Inv) :
    (State.sampleHang s).Inv := by
  unfold State.sampleHang
  split
  · exact h0
  · have h1 (x : HangSt) : ({ s with fence := { s.fence with hang := x } } : State).Inv := { h0 with }
    extract_lets e c t
    have h2 : State.Inv t := h1 _
    clear_value t
    split
    · exact h2
    · split
      · exact State.raiseHang_inv _ _ _ h2
      · exact h2

theorem State.advanceCount_inv {s : State} (h0 : s.Inv) :
    (State.advanceCount s).Inv := by
  unfold State.advanceCount
  try dsimp only
  repeat' (first
    | with_reducible assumption | with_reducible apply State.raise_inv | with_reducible apply foldl_inv
    | with_reducible apply foldl_inv2 | with_reducible apply foldl_inv1 | with_reducible apply foldl_canon
    | with_reducible apply State.setRegion_inv | with_reducible apply State.region_inv | split | exact fun h => h
    | exact fun h => wf_smapAllTo h _ | exact fun h => wf_sfilter h _ | exact fun _ => rfl | intro _ _ _ | intro _ _
    | intro _ | dsimp only | contradiction
    | with_reducible refine inv_mk ?_ rfl rfl rfl rfl rfl rfl rfl rfl rfl rfl rfl rfl rfl rfl rfl rfl)

theorem State.setPickState_inv {s : State} (v : Nat) (h0 : s.Inv) :
    (State.setPickState s v).Inv := by
  unfold State.setPickState
  try dsimp only
  repeat' (first
    | with_reducible assumption | with_reducible apply State.put_inv | with_reducible apply foldl_inv
    | with_reducible apply foldl_inv2 | with_reducible apply foldl_inv1 | with_reducible apply foldl_canon
    | with_reducible apply State.setRegion_inv | with_reducible apply State.region_inv | split)

theorem State.beginState_inv {s : State} (h0 : s.Inv) :
    (State.beginState s).Inv := by
  unfold State.beginState
  try dsimp only
  repeat' (first
    | with_reducible assumption | with_reducible apply State.setPickState_inv | with_reducible apply State.put_inv
    | with_reducible apply foldl_inv | with_reducible apply foldl_inv2 | with_reducible apply foldl_inv1
    | with_reducible apply foldl_canon | with_reducible apply State.setRegion_inv
    | with_reducible apply State.region_inv | split)

theorem State.overrun_inv {s : State} (h0 : s.Inv) :
    (State.overrun s).Inv := by
  unfold State.overrun
  try dsimp only
  repeat' (first
    | with_reducible assumption | with_reducible apply State.count_inv | with_reducible apply State.raise_inv
    | with_reducible apply State.event_inv)

theorem State.evaluateLag_inv {s : State} (slipDue : Bool) (ended : Nat) (h0 : s.Inv) :
    (State.evaluateLag s slipDue ended).Inv := by
  unfold State.evaluateLag
  try dsimp only
  repeat' (first
    | with_reducible assumption | with_reducible apply State.put_inv | with_reducible apply State.slip_inv
    | with_reducible apply State.overrun_inv | with_reducible apply foldl_inv | with_reducible apply foldl_inv2
    | with_reducible apply foldl_inv1 | with_reducible apply foldl_canon | with_reducible apply State.setRegion_inv
    | with_reducible apply State.region_inv | split)

theorem State.windowPchs_inv {s : State} (cut : Bool) (h0 : s.Inv) :
    (State.windowPchs s cut).Inv := by
  unfold State.windowPchs
  try dsimp only
  repeat' (first
    | with_reducible assumption | with_reducible apply State.setPch_inv | with_reducible apply foldl_inv
    | with_reducible apply foldl_inv2 | with_reducible apply foldl_inv1 | with_reducible apply foldl_canon
    | with_reducible apply State.setRegion_inv | with_reducible apply State.region_inv | split | exact fun h => h
    | exact fun h => wf_smapAllTo h _ | exact fun h => wf_sfilter h _ | exact fun _ => rfl | intro _ _ _ | intro _ _
    | intro _ | dsimp only | contradiction
    | with_reducible refine inv_mk ?_ rfl rfl rfl rfl rfl rfl rfl rfl rfl rfl rfl rfl rfl rfl rfl rfl
    | with_reducible refine canon_mk ?_ rfl rfl
    | with_reducible refine inv_mk_wf ?_ rfl rfl rfl ?_ ?_ ?_ ?_ ?_ ?_ rfl ?_ rfl rfl rfl rfl rfl
    | refine wf_smapAllTo ?_ _)

theorem State.beginWindow_inv {s : State} (at_ : Nat) (cut : Bool) (h0 : s.Inv) :
    (State.beginWindow s at_ cut).Inv := by
  unfold State.beginWindow
  try dsimp only
  repeat' (first
    | with_reducible assumption | with_reducible apply State.windowPchs_inv | with_reducible apply State.each_inv
    | with_reducible apply State.setClk_inv | with_reducible apply State.region_inv | with_reducible apply foldl_inv
    | with_reducible apply foldl_inv2 | with_reducible apply foldl_inv1 | with_reducible apply foldl_canon
    | with_reducible apply State.setRegion_inv | with_reducible apply State.region_inv | split | exact fun h => h
    | exact fun h => wf_smapAllTo h _ | exact fun h => wf_sfilter h _ | exact fun _ => rfl | intro _ _ _ | intro _ _
    | intro _ | dsimp only | contradiction
    | with_reducible refine inv_mk ?_ rfl rfl rfl rfl rfl rfl rfl rfl rfl rfl rfl rfl rfl rfl rfl rfl
    | with_reducible refine canon_mk ?_ rfl rfl
    | with_reducible refine inv_mk_wf ?_ rfl rfl rfl ?_ ?_ ?_ ?_ ?_ ?_ rfl ?_ rfl rfl rfl rfl rfl)

theorem State.endWindow_inv {s : State} (h0 : s.Inv) :
    (State.endWindow s).Inv := by
  unfold State.endWindow
  try dsimp only
  repeat' (first
    | with_reducible assumption | with_reducible apply State.count_inv | with_reducible apply State.each_inv
    | with_reducible apply State.startSlotStretch_inv | with_reducible apply State.openSegment_inv
    | with_reducible apply State.landMasks_inv | with_reducible apply foldl_inv | with_reducible apply foldl_inv2
    | with_reducible apply foldl_inv1 | with_reducible apply foldl_canon | with_reducible apply State.setRegion_inv
    | with_reducible apply State.region_inv | split | exact fun h => h | exact fun h => wf_smapAllTo h _
    | exact fun h => wf_sfilter h _ | exact fun _ => rfl | intro _ _ _ | intro _ _ | intro _ | dsimp only
    | contradiction
    | with_reducible refine inv_mk ?_ rfl rfl rfl rfl rfl rfl rfl rfl rfl rfl rfl rfl rfl rfl rfl rfl
    | with_reducible refine canon_mk ?_ rfl rfl
    | with_reducible refine inv_mk_wf ?_ rfl rfl rfl ?_ ?_ ?_ ?_ ?_ ?_ rfl ?_ rfl rfl rfl rfl rfl)

theorem State.setSlot_inv {s : State} (n : Nat) (left : Option Nat) (h0 : s.Inv) :
    (State.setSlot s n left).Inv := by
  unfold State.setSlot
  try dsimp only
  repeat' (first
    | with_reducible assumption | with_reducible apply State.put_inv | with_reducible apply State.trace_inv
    | with_reducible apply foldl_inv | with_reducible apply foldl_inv2 | with_reducible apply foldl_inv1
    | with_reducible apply foldl_canon | with_reducible apply State.setRegion_inv
    | with_reducible apply State.region_inv | split | exact fun h => h | exact fun h => wf_smapAllTo h _
    | exact fun h => wf_sfilter h _ | exact fun _ => rfl | intro _ _ _ | intro _ _ | intro _ | dsimp only
    | contradiction
    | with_reducible refine inv_mk ?_ rfl rfl rfl rfl rfl rfl rfl rfl rfl rfl rfl rfl rfl rfl rfl rfl)

theorem State.stepSlot_inv {s : State} (n : Nat) (h0 : s.Inv) :
    (State.stepSlot s n).Inv := by
  unfold State.stepSlot
  try dsimp only
  repeat' (first
    | with_reducible assumption | with_reducible apply State.setSlot_inv | with_reducible apply State.put_inv
    | with_reducible apply State.raise_inv | with_reducible apply foldl_inv | with_reducible apply foldl_inv2
    | with_reducible apply foldl_inv1 | with_reducible apply foldl_canon | with_reducible apply State.setRegion_inv
    | with_reducible apply State.region_inv | split | exact fun h => h | exact fun h => wf_smapAllTo h _
    | exact fun h => wf_sfilter h _ | exact fun _ => rfl | intro _ _ _ | intro _ _ | intro _ | dsimp only
    | contradiction
    | with_reducible refine inv_mk ?_ rfl rfl rfl rfl rfl rfl rfl rfl rfl rfl rfl rfl rfl rfl rfl rfl)

theorem State.stepSlots_inv {s : State} (h0 : s.Inv) :
    (State.stepSlots s).Inv := by
  unfold State.stepSlots
  try dsimp only
  repeat' (first
    | with_reducible assumption | with_reducible apply State.each_inv | with_reducible apply State.region_inv
    | with_reducible apply State.setClk_inv | with_reducible apply State.stepSlot_inv
    | with_reducible apply foldl_inv | with_reducible apply foldl_inv2 | with_reducible apply foldl_inv1
    | with_reducible apply foldl_canon | with_reducible apply State.setRegion_inv
    | with_reducible apply State.region_inv | split | exact fun h => h | exact fun h => wf_smapAllTo h _
    | exact fun h => wf_sfilter h _ | exact fun _ => rfl | intro _ _ _)

theorem State.armExpires_inv {s : State} (h0 : s.Inv) :
    (State.armExpires s).Inv := by
  unfold State.armExpires
  try dsimp only
  repeat' (first
    | with_reducible assumption | with_reducible apply State.disarm_inv | with_reducible apply foldl_inv
    | with_reducible apply foldl_inv2 | with_reducible apply foldl_inv1 | with_reducible apply foldl_canon
    | with_reducible apply State.setRegion_inv | with_reducible apply State.region_inv | split)

theorem State.beginProgram_inv {s : State} (p : Nat) (h0 : s.Inv) :
    (State.beginProgram s p).Inv := by
  unfold State.beginProgram
  try dsimp only
  repeat' (first
    | with_reducible assumption | with_reducible apply State.put_inv | with_reducible apply State.each_inv
    | with_reducible apply State.setRegion_inv | with_reducible apply State.region_inv
    | with_reducible apply foldl_inv | with_reducible apply foldl_inv2 | with_reducible apply foldl_inv1
    | with_reducible apply foldl_canon | with_reducible apply State.setRegion_inv
    | with_reducible apply State.region_inv | split | exact fun h => h | exact fun h => wf_smapAllTo h _
    | exact fun h => wf_sfilter h _ | exact fun _ => rfl | intro _ _ _ | intro _ _ | intro _ | dsimp only
    | contradiction
    | with_reducible refine inv_mk ?_ rfl rfl rfl rfl rfl rfl rfl rfl rfl rfl rfl rfl rfl rfl rfl rfl
    | with_reducible refine canon_mk ?_ rfl rfl)

theorem State.startDue_inv {s : State} (h0 : s.Inv) :
    (State.startDue s).Inv := by
  unfold State.startDue
  try dsimp only
  repeat' (first
    | with_reducible assumption | with_reducible apply State.beginProgram_inv | with_reducible apply foldl_inv
    | with_reducible apply foldl_inv2 | with_reducible apply foldl_inv1 | with_reducible apply foldl_canon
    | with_reducible apply State.setRegion_inv | with_reducible apply State.region_inv | split)

theorem State.noteWait_inv {s : State} (h0 : s.Inv) :
    (State.noteWait s).Inv := by
  unfold State.noteWait
  try dsimp only
  repeat' (first
    | with_reducible assumption | with_reducible apply State.event_inv | with_reducible apply State.raise_inv
    | with_reducible apply foldl_inv | with_reducible apply foldl_inv2 | with_reducible apply foldl_inv1
    | with_reducible apply foldl_canon | with_reducible apply State.setRegion_inv
    | with_reducible apply State.region_inv | split | exact fun h => h | exact fun h => wf_smapAllTo h _
    | exact fun h => wf_sfilter h _ | exact fun _ => rfl | intro _ _ _ | intro _ _ | intro _ | dsimp only
    | contradiction
    | with_reducible refine inv_mk ?_ rfl rfl rfl rfl rfl rfl rfl rfl rfl rfl rfl rfl rfl rfl rfl rfl)

theorem State.inject_inv {s : State} (h0 : s.Inv) :
    (State.inject s).Inv := by
  unfold State.inject
  try dsimp only
  repeat' (first
    | with_reducible assumption | with_reducible apply State.lnkToDown_inv | with_reducible apply State.setPort_inv
    | with_reducible apply State.endRehearsal_inv | with_reducible apply State.askReset_inv
    | with_reducible apply State.put_inv | with_reducible apply State.fenceAll_inv | with_reducible apply foldl_inv
    | with_reducible apply foldl_inv2 | with_reducible apply foldl_inv1 | with_reducible apply foldl_canon
    | with_reducible apply State.setRegion_inv | with_reducible apply State.region_inv | split | exact fun h => h
    | exact fun h => wf_smapAllTo h _ | exact fun h => wf_sfilter h _ | exact fun _ => rfl | intro _ _ _ | intro _ _
    | intro _ | dsimp only | contradiction
    | with_reducible refine inv_mk ?_ rfl rfl rfl rfl rfl rfl rfl rfl rfl rfl rfl rfl rfl rfl rfl rfl)

theorem State.sendTick_inv {s : State} (latency : Nat → Nat) (payload : Nat → List Byte) (h0 : s.Inv) :
    (State.sendTick s latency payload).Inv := by
  unfold State.sendTick
  try dsimp only
  repeat' (first
    | with_reducible assumption | with_reducible apply State.count_inv | with_reducible apply State.setPort_inv
    | with_reducible apply foldl_inv | with_reducible apply foldl_inv2 | with_reducible apply foldl_inv1
    | with_reducible apply foldl_canon | with_reducible apply State.setRegion_inv
    | with_reducible apply State.region_inv | split | exact fun h => h | exact fun h => wf_smapAllTo h _
    | exact fun h => wf_sfilter h _ | exact fun _ => rfl | intro _ _ _ | intro _ _ | intro _ | dsimp only
    | contradiction
    | with_reducible refine inv_mk ?_ rfl rfl rfl rfl rfl rfl rfl rfl rfl rfl rfl rfl rfl rfl rfl rfl
    | with_reducible refine canon_mk ?_ rfl rfl
    | with_reducible refine inv_mk_wf ?_ rfl rfl rfl ?_ ?_ ?_ ?_ ?_ ?_ rfl ?_ rfl rfl rfl rfl rfl
    | refine wf_smapAllTo ?_ _)

theorem State.originTick_inv {s : State} (h0 : s.Inv) :
    (State.originTick s).Inv := by
  unfold State.originTick
  try dsimp only
  repeat' (first
    | with_reducible assumption | with_reducible apply State.sendTick_inv | with_reducible apply foldl_inv
    | with_reducible apply foldl_inv2 | with_reducible apply foldl_inv1 | with_reducible apply foldl_canon
    | with_reducible apply State.setRegion_inv | with_reducible apply State.region_inv | split | exact fun h => h
    | exact fun h => wf_smapAllTo h _ | exact fun h => wf_sfilter h _ | exact fun _ => rfl | intro _ _ _ | intro _ _
    | intro _ | dsimp only | contradiction
    | with_reducible refine inv_mk ?_ rfl rfl rfl rfl rfl rfl rfl rfl rfl rfl rfl rfl rfl rfl rfl rfl
    | with_reducible refine canon_mk ?_ rfl rfl
    | with_reducible refine inv_mk_wf ?_ rfl rfl rfl ?_ ?_ ?_ ?_ ?_ ?_ rfl ?_ rfl rfl rfl rfl rfl
    | refine wf_smapAllTo ?_ _)

theorem State.pulseOut_inv {s : State} (at_ : Nat) (h0 : s.Inv) :
    (State.pulseOut s at_).Inv := by
  unfold State.pulseOut
  try dsimp only
  repeat' (first
    | with_reducible assumption | with_reducible apply State.emit_inv | with_reducible apply foldl_inv
    | with_reducible apply foldl_inv2 | with_reducible apply foldl_inv1 | with_reducible apply foldl_canon
    | with_reducible apply State.setRegion_inv | with_reducible apply State.region_inv | split | exact fun h => h
    | exact fun h => wf_smapAllTo h _ | exact fun h => wf_sfilter h _ | exact fun _ => rfl | intro _ _ _ | intro _ _
    | intro _ | dsimp only | contradiction
    | with_reducible refine inv_mk ?_ rfl rfl rfl rfl rfl rfl rfl rfl rfl rfl rfl rfl rfl rfl rfl rfl)

theorem State.beginSlots_inv {s : State} (h0 : s.Inv) :
    (State.beginSlots s).Inv := by
  unfold State.beginSlots
  try dsimp only
  repeat' (first
    | with_reducible assumption | with_reducible apply foldl_inv | with_reducible apply foldl_inv2
    | with_reducible apply foldl_inv1 | with_reducible apply foldl_canon | with_reducible apply State.setRegion_inv
    | with_reducible apply State.region_inv | split | exact fun h => h | exact fun h => wf_smapAllTo h _
    | exact fun h => wf_sfilter h _ | exact fun _ => rfl | intro _ _ _ | intro _ _ | intro _ | dsimp only
    | contradiction
    | with_reducible refine inv_mk ?_ rfl rfl rfl rfl rfl rfl rfl rfl rfl rfl rfl rfl rfl rfl rfl rfl
    | with_reducible refine canon_mk ?_ rfl rfl
    | with_reducible refine inv_mk_wf ?_ rfl rfl rfl ?_ ?_ ?_ ?_ ?_ ?_ rfl ?_ rfl rfl rfl rfl rfl)

theorem State.newTilePick_inv {s : State} (n : Nat) (h0 : s.Inv) :
    (State.newTilePick s n).Inv := by
  unfold State.newTilePick
  try dsimp only
  repeat' (first
    | with_reducible assumption | with_reducible apply State.setRegion_inv | with_reducible apply State.region_inv
    | with_reducible apply foldl_inv | with_reducible apply foldl_inv2 | with_reducible apply foldl_inv1
    | with_reducible apply foldl_canon | with_reducible apply State.setRegion_inv
    | with_reducible apply State.region_inv | split | exact fun h => h | exact fun h => wf_smapAllTo h _
    | exact fun h => wf_sfilter h _ | exact fun _ => rfl | intro _ _ _ | intro _ _ | intro _ | dsimp only
    | contradiction
    | with_reducible refine inv_mk ?_ rfl rfl rfl rfl rfl rfl rfl rfl rfl rfl rfl rfl rfl rfl rfl rfl
    | with_reducible refine canon_mk ?_ rfl rfl)

theorem State.boundaryActions_inv {s : State} (at_ : Nat) (power : Nat) (h0 : s.Inv) :
    (State.boundaryActions s at_ power).Inv := by
  unfold State.boundaryActions
  try dsimp only
  repeat' (first
    | with_reducible assumption | with_reducible apply State.each_inv | with_reducible apply State.newTilePick_inv
    | with_reducible apply State.accountClk_inv | with_reducible apply State.raise_inv
    | with_reducible apply State.advanceCount_inv | with_reducible apply State.beginState_inv
    | with_reducible apply State.takeSnapshot_inv | with_reducible apply State.count_inv
    | with_reducible apply State.enterYield_inv | with_reducible apply State.evaluateLag_inv
    | with_reducible apply State.trace_inv | with_reducible apply State.beginWindow_inv
    | with_reducible apply State.windowCaps_inv | with_reducible apply State.stepSlots_inv
    | with_reducible apply State.startDue_inv | with_reducible apply State.armExpires_inv
    | with_reducible apply State.pulseOut_inv | with_reducible apply State.originTick_inv
    | with_reducible apply State.beginSlots_inv | with_reducible apply State.sampleHang_inv
    | with_reducible apply State.inject_inv | with_reducible apply State.noteWait_inv
    | with_reducible apply foldl_inv | with_reducible apply foldl_inv2 | with_reducible apply foldl_inv1
    | with_reducible apply foldl_canon | with_reducible apply State.setRegion_inv
    | with_reducible apply State.region_inv | split | exact fun h => h | exact fun h => wf_smapAllTo h _
    | exact fun h => wf_sfilter h _ | exact fun _ => rfl | intro _ _ _ | intro _ _ | intro _ | dsimp only
    | contradiction
    | with_reducible refine inv_mk ?_ rfl rfl rfl rfl rfl rfl rfl rfl rfl rfl rfl rfl rfl rfl rfl rfl)

theorem State.popFault_inv {s : State} (h0 : s.Inv) :
    (State.popFault s).Inv := by
  unfold State.popFault
  refine { h0 with faultQ := ?_ }
  have := h0.faultQ
  simp only [List.length_drop]; omega

theorem State.popFailure_inv {s : State} (h0 : s.Inv) :
    (State.popFailure s).Inv := by
  unfold State.popFailure
  refine { h0 with failures := ?_ }
  have := h0.failures
  simp only [List.length_drop]; omega

theorem State.invWrite_inv {s : State} (v : Reg32) (h0 : s.Inv) :
    (State.invWrite s v).Inv := by
  unfold State.invWrite
  try dsimp only
  repeat' (first
    | with_reducible assumption | with_reducible apply State.invalidate_inv | with_reducible apply foldl_inv
    | with_reducible apply foldl_inv2 | with_reducible apply foldl_inv1 | with_reducible apply foldl_canon
    | with_reducible apply State.setRegion_inv | with_reducible apply State.region_inv | split)

theorem State.lnkWrite_inv {s : State} (p : Nat) (v : Reg32) (h0 : s.Inv) :
    (State.lnkWrite s p v).Inv := by
  unfold State.lnkWrite
  try dsimp only
  repeat' (first
    | with_reducible assumption | with_reducible apply doPortEnWrite_inv | with_reducible apply doFullRetrain_inv
    | with_reducible apply State.fastRetrain_inv | with_reducible apply doWiden_inv | with_reducible apply foldl_inv
    | with_reducible apply foldl_inv2 | with_reducible apply foldl_inv1 | with_reducible apply foldl_canon
    | with_reducible apply State.setRegion_inv | with_reducible apply State.region_inv | split)

theorem State.slotWrite_inv {s : State} (n : Nat) (h0 : s.Inv) :
    (State.slotWrite s n).Inv := by
  unfold State.slotWrite
  try dsimp only
  repeat' (first
    | with_reducible assumption | with_reducible apply State.setSlot_inv | with_reducible apply foldl_inv
    | with_reducible apply foldl_inv2 | with_reducible apply foldl_inv1 | with_reducible apply foldl_canon
    | with_reducible apply State.setRegion_inv | with_reducible apply State.region_inv | split)

theorem State.writeAct_inv {s : State} (a : Nat) (v : Reg32) (h0 : s.Inv) :
    (State.writeAct s a v).Inv := by
  unfold State.writeAct
  try dsimp only
  repeat' (first
    | with_reducible assumption | with_reducible apply State.put_inv | with_reducible apply State.resumeSeq_inv | with_reducible apply State.invWrite_inv
    | with_reducible apply State.popFault_inv | with_reducible apply State.popFailure_inv
    | with_reducible apply State.lnkWrite_inv | with_reducible apply State.slotWrite_inv
    | with_reducible apply foldl_inv | with_reducible apply foldl_inv2 | with_reducible apply foldl_inv1
    | with_reducible apply foldl_canon | with_reducible apply State.setRegion_inv
    | with_reducible apply State.region_inv | split | exact fun h => h | exact fun h => wf_smapAllTo h _
    | exact fun h => wf_sfilter h _ | exact fun _ => rfl | intro _ _ _ | intro _ _ | intro _ | dsimp only
    | contradiction
    | with_reducible refine inv_mk ?_ rfl rfl rfl rfl rfl rfl rfl rfl rfl rfl rfl rfl rfl rfl rfl rfl)

theorem State.configWrite_inv {s : State} (parts : Bool) (v : Reg32) (h0 : s.Inv) :
    (State.configWrite s parts v).Inv := by
  unfold State.configWrite
  try dsimp only
  repeat' (first
    | with_reducible assumption | with_reducible apply State.raise_inv | with_reducible apply State.setReg_inv
    | with_reducible apply foldl_inv | with_reducible apply foldl_inv2 | with_reducible apply foldl_inv1
    | with_reducible apply foldl_canon | with_reducible apply State.setRegion_inv
    | with_reducible apply State.region_inv | split)

theorem State.writeReg_inv {s : State} (a : Nat) (v : Reg32) (h0 : s.Inv) :
    (State.writeReg s a v).Inv := by
  unfold State.writeReg
  try dsimp only
  repeat' (first
    | with_reducible assumption | with_reducible apply State.configWrite_inv
    | with_reducible apply State.writeAct_inv | with_reducible apply State.setReg_inv
    | with_reducible apply foldl_inv | with_reducible apply foldl_inv2 | with_reducible apply foldl_inv1
    | with_reducible apply foldl_canon | with_reducible apply State.setRegion_inv
    | with_reducible apply State.region_inv | split)

theorem State.latchRead_inv {s : State} (a : Nat) (h0 : s.Inv) :
    (State.latchRead s a).Inv := by
  unfold State.latchRead
  try dsimp only
  repeat' (first
    | with_reducible assumption | with_reducible apply foldl_inv | with_reducible apply foldl_inv2
    | with_reducible apply foldl_inv1 | with_reducible apply foldl_canon | with_reducible apply State.setRegion_inv
    | with_reducible apply State.region_inv | split | exact fun h => h | exact fun h => wf_smapAllTo h _
    | exact fun h => wf_sfilter h _ | exact fun _ => rfl | intro _ _ _ | intro _ _ | intro _ | dsimp only
    | contradiction
    | with_reducible refine inv_mk ?_ rfl rfl rfl rfl rfl rfl rfl rfl rfl rfl rfl rfl rfl rfl rfl rfl)

theorem State.beforeRead_inv {s : State} (a : Nat) (h0 : s.Inv) :
    (State.beforeRead s a).Inv := by
  unfold State.beforeRead
  try dsimp only
  repeat' (first
    | with_reducible assumption | with_reducible apply State.accountClk_inv | with_reducible apply foldl_inv
    | with_reducible apply foldl_inv2 | with_reducible apply foldl_inv1 | with_reducible apply foldl_canon
    | with_reducible apply State.setRegion_inv | with_reducible apply State.region_inv | split)

theorem State.lostRead_inv {s : State} (a : Nat) (h0 : s.Inv) :
    (State.lostRead s a).Inv := by
  unfold State.lostRead
  try dsimp only
  repeat' (first
    | with_reducible assumption | with_reducible apply State.region_inv | with_reducible apply State.setClk_inv
    | with_reducible apply foldl_inv | with_reducible apply foldl_inv2 | with_reducible apply foldl_inv1
    | with_reducible apply foldl_canon | with_reducible apply State.setRegion_inv
    | with_reducible apply State.region_inv | split)

theorem State.readReg_inv {s : State} (a : Nat) (h0 : s.Inv) :
    (State.readReg s a).Inv := by
  unfold State.readReg
  try dsimp only
  repeat' (first
    | with_reducible assumption | with_reducible apply State.beforeRead_inv
    | with_reducible apply State.lostRead_inv | with_reducible apply State.setReg_inv
    | with_reducible apply State.latchRead_inv | with_reducible apply foldl_inv | with_reducible apply foldl_inv2
    | with_reducible apply foldl_inv1 | with_reducible apply foldl_canon | with_reducible apply State.setRegion_inv
    | with_reducible apply State.region_inv | split | exact fun h => h | exact fun h => wf_smapAllTo h _
    | exact fun h => wf_sfilter h _ | exact fun _ => rfl | intro _ _ _ | intro _ _ | intro _ | dsimp only
    | contradiction
    | with_reducible refine inv_mk ?_ rfl rfl rfl rfl rfl rfl rfl rfl rfl rfl rfl rfl rfl rfl rfl rfl)

theorem State.accessCycle_inv {s : State} (h0 : s.Inv) :
    (State.accessCycle s).Inv := by
  unfold State.accessCycle
  try dsimp only
  repeat' (first | with_reducible assumption | with_reducible apply State.at_inv)

theorem execRegisterWrite_inv (addr : BitVec 24) (value : BitVec 32) {s : State} (h : s.Inv)
    : OutInv (execRegisterWrite addr value s) := by
  repeat' (first
    | with_reducible assumption | with_reducible apply State.writeReg_inv
    | with_reducible apply State.accessCycle_inv | with_reducible apply onUnit_inv
    | with_reducible apply outInv_next | unfold execRegisterWrite)

theorem execRcRead_inv (addr : BitVec 24) {s : State} (h : s.Inv) : OutInv (execRcRead addr s) := by
  repeat' (first
    | with_reducible assumption | with_reducible apply State.readReg_inv
    | with_reducible apply State.accessCycle_inv | with_reducible apply onUnit_inv
    | with_reducible apply outInv_next | unfold execRcRead)

theorem execPckCountLoRead_inv {s : State} (h : s.Inv) : OutInv (execPckCountLoRead s) := by
  repeat' (first
    | with_reducible assumption | with_reducible apply State.readReg_inv | with_reducible apply onUnit_inv
    | with_reducible apply outInv_next | unfold execPckCountLoRead)

theorem execSeqRetiredLoRead_inv {s : State} (h : s.Inv) : OutInv (execSeqRetiredLoRead s) := by
  repeat' (first
    | with_reducible assumption | with_reducible apply State.readReg_inv | with_reducible apply onUnit_inv
    | with_reducible apply outInv_next | unfold execSeqRetiredLoRead)

theorem execSmuSeqLoRead_inv {s : State} (h : s.Inv) : OutInv (execSmuSeqLoRead s) := by
  repeat' (first
    | with_reducible assumption | with_reducible apply State.readReg_inv | with_reducible apply onUnit_inv
    | with_reducible apply outInv_next | unfold execSmuSeqLoRead)

theorem execPckConfigWrite_inv (parts : Bool) (value : BitVec 32) {s : State} (h : s.Inv)
    : OutInv (execPckConfigWrite parts value s) := by
  repeat' (first
    | with_reducible assumption | with_reducible apply State.configWrite_inv | with_reducible apply onUnit_inv
    | with_reducible apply outInv_next | unfold execPckConfigWrite)

theorem execMmuInvalidatePage_inv (value : BitVec 32) {s : State} (h : s.Inv) : OutInv (execMmuInvalidatePage value s)
    := by
  repeat' (first
    | with_reducible assumption | with_reducible apply State.invWrite_inv | with_reducible apply onUnit_inv
    | with_reducible apply outInv_next | unfold execMmuInvalidatePage)

theorem execMmuInvalidateAll_inv (value : BitVec 32) {s : State} (h : s.Inv) : OutInv (execMmuInvalidateAll value s)
    := by
  repeat' (first
    | with_reducible assumption | with_reducible apply State.invWrite_inv | with_reducible apply onUnit_inv
    | with_reducible apply outInv_next | unfold execMmuInvalidateAll)

theorem execFqPop_inv {s : State} (h : s.Inv) : OutInv (execFqPop s) := by
  repeat' (first
    | with_reducible assumption | with_reducible apply State.popFault_inv | with_reducible apply onUnit_inv
    | with_reducible apply outInv_next | unfold execFqPop)

theorem execFailPop_inv {s : State} (h : s.Inv) : OutInv (execFailPop s) := by
  repeat' (first
    | with_reducible assumption | with_reducible apply State.popFailure_inv | with_reducible apply onUnit_inv
    | with_reducible apply outInv_next | unfold execFailPop)

theorem State.armSnapshot_inv (mb : Nat) (b : List Byte) {s : State} (h0 : s.Inv) :
    (State.armSnapshot mb b s).Inv := by
  unfold State.armSnapshot
  try dsimp only
  repeat' (first
    | with_reducible assumption | with_reducible apply State.answer_inv | with_reducible apply foldl_inv
    | with_reducible apply foldl_inv2 | with_reducible apply foldl_inv1 | with_reducible apply foldl_canon
    | with_reducible apply State.setRegion_inv | with_reducible apply State.region_inv | split | exact fun h => h
    | exact fun h => wf_smapAllTo h _ | exact fun h => wf_sfilter h _ | exact fun _ => rfl | intro _ _ _ | intro _ _
    | intro _ | dsimp only | contradiction
    | with_reducible refine inv_mk ?_ rfl rfl rfl rfl rfl rfl rfl rfl rfl rfl rfl rfl rfl rfl rfl rfl)

theorem execSnapshotArm_inv (mb : Nat) {s : State} (h : s.Inv) : OutInv (execSnapshotArm mb s) := by
  repeat' (first
    | with_reducible assumption | with_reducible apply State.withMail_inv
    | with_reducible apply State.armSnapshot_inv | with_reducible apply onUnit_inv
    | with_reducible apply outInv_next | unfold execSnapshotArm)

theorem State.findSnapshot_inv (mb : Nat) (b : List Byte) {s : State} (h0 : s.Inv) :
    (State.findSnapshot mb b s).Inv := by
  unfold State.findSnapshot
  try dsimp only
  repeat' (first
    | with_reducible assumption | with_reducible apply State.answer_inv | with_reducible apply foldl_inv
    | with_reducible apply foldl_inv2 | with_reducible apply foldl_inv1 | with_reducible apply foldl_canon
    | with_reducible apply State.setRegion_inv | with_reducible apply State.region_inv | split)

theorem execSnapshotRead_inv (mb : Nat) {s : State} (h : s.Inv) : OutInv (execSnapshotRead mb s) := by
  repeat' (first
    | with_reducible assumption | with_reducible apply State.withMail_inv
    | with_reducible apply State.findSnapshot_inv | with_reducible apply onUnit_inv
    | with_reducible apply outInv_next | unfold execSnapshotRead)

theorem State.perturb_inv (mb : Nat) (b : List Byte) {s : State} (h0 : s.Inv) :
    (State.perturb mb b s).Inv := by
  unfold State.perturb
  try dsimp only
  repeat' (first
    | with_reducible assumption | with_reducible apply State.answer_inv | with_reducible apply State.put_inv
    | with_reducible apply State.writeReg_inv | with_reducible apply State.endSession_inv
    | with_reducible apply foldl_inv | with_reducible apply foldl_inv2 | with_reducible apply foldl_inv1
    | with_reducible apply foldl_canon | with_reducible apply State.setRegion_inv
    | with_reducible apply State.region_inv | split | exact fun h => h | exact fun h => wf_smapAllTo h _
    | exact fun h => wf_sfilter h _ | exact fun _ => rfl | intro _ _ _)

theorem doPerturb_inv (mb : Nat) {s : State} (h0 : s.Inv) :
    (doPerturb mb s).Inv := by
  unfold doPerturb
  try dsimp only
  repeat' (first
    | with_reducible assumption | with_reducible apply State.withMail_inv | with_reducible apply State.perturb_inv
    | with_reducible apply foldl_inv | with_reducible apply foldl_inv2 | with_reducible apply foldl_inv1
    | with_reducible apply foldl_canon | with_reducible apply State.setRegion_inv
    | with_reducible apply State.region_inv | split)

theorem execPerturb_inv (mb : Nat) {s : State} (h : s.Inv) : OutInv (execPerturb mb s) := by
  repeat' (first
    | with_reducible assumption | with_reducible apply doPerturb_inv | with_reducible apply onUnit_inv
    | with_reducible apply outInv_next | unfold execPerturb)

theorem State.rehearse_inv (mb : Nat) (b : List Byte) {s : State} (h0 : s.Inv) :
    (State.rehearse mb b s).Inv := by
  unfold State.rehearse
  try dsimp only
  repeat' (first
    | with_reducible assumption | with_reducible apply State.answer_inv | with_reducible apply State.put_inv
    | with_reducible apply foldl_inv | with_reducible apply foldl_inv2 | with_reducible apply foldl_inv1
    | with_reducible apply foldl_canon | with_reducible apply State.setRegion_inv
    | with_reducible apply State.region_inv | split | exact fun h => h | exact fun h => wf_smapAllTo h _
    | exact fun h => wf_sfilter h _ | exact fun _ => rfl | intro _ _ _ | intro _ _ | intro _ | dsimp only
    | contradiction
    | with_reducible refine inv_mk ?_ rfl rfl rfl rfl rfl rfl rfl rfl rfl rfl rfl rfl rfl rfl rfl rfl)

theorem execRehearse_inv (mb : Nat) {s : State} (h : s.Inv) : OutInv (execRehearse mb s) := by
  repeat' (first
    | with_reducible assumption | with_reducible apply State.withMail_inv | with_reducible apply State.rehearse_inv
    | with_reducible apply onUnit_inv | with_reducible apply outInv_next | unfold execRehearse)

theorem doRehearsalLinkRelease_inv {s : State} (h0 : s.Inv) :
    (doRehearsalLinkRelease s).Inv := by
  unfold doRehearsalLinkRelease
  try dsimp only
  repeat' (first
    | with_reducible assumption | with_reducible apply State.at_inv | with_reducible apply State.setPort_inv
    | with_reducible apply State.enterLnk_inv | with_reducible apply foldl_inv | with_reducible apply foldl_inv2
    | with_reducible apply foldl_inv1 | with_reducible apply foldl_canon | with_reducible apply State.setRegion_inv
    | with_reducible apply State.region_inv | split)

theorem execRehearsalLinkRelease_inv {s : State} (h : s.Inv) : OutInv (execRehearsalLinkRelease s) := by
  repeat' (first
    | with_reducible assumption | with_reducible apply doRehearsalLinkRelease_inv | with_reducible apply onUnit_inv
    | with_reducible apply outInv_next | unfold execRehearsalLinkRelease)

theorem doRehearsalLinkTimeout_inv {s : State} (h0 : s.Inv) :
    (doRehearsalLinkTimeout s).Inv := by
  unfold doRehearsalLinkTimeout
  try dsimp only
  repeat' (first
    | with_reducible assumption | with_reducible apply State.endRehearsal_inv | with_reducible apply State.at_inv
    | with_reducible apply foldl_inv | with_reducible apply foldl_inv2 | with_reducible apply foldl_inv1
    | with_reducible apply foldl_canon | with_reducible apply State.setRegion_inv
    | with_reducible apply State.region_inv | split)

theorem execRehearsalLinkTimeout_inv {s : State} (h : s.Inv) : OutInv (execRehearsalLinkTimeout s) := by
  repeat' (first
    | with_reducible assumption | with_reducible apply doRehearsalLinkTimeout_inv | with_reducible apply onUnit_inv
    | with_reducible apply outInv_next | unfold execRehearsalLinkTimeout)

theorem State.putTrace_inv {s : State} (r : TraceRec) (h0 : s.Inv) :
    (State.putTrace s r).Inv := by
  unfold State.putTrace
  try dsimp only
  repeat' (first
    | with_reducible assumption | with_reducible apply State.setPch_inv | with_reducible apply State.put_inv
    | with_reducible apply foldl_inv | with_reducible apply foldl_inv2 | with_reducible apply foldl_inv1
    | with_reducible apply foldl_canon | with_reducible apply State.setRegion_inv
    | with_reducible apply State.region_inv | split | exact fun h => h | exact fun h => wf_smapAllTo h _
    | exact fun h => wf_sfilter h _ | exact fun _ => rfl | intro _ _ _ | intro _ _ | intro _ | dsimp only
    | contradiction
    | with_reducible refine inv_mk ?_ rfl rfl rfl rfl rfl rfl rfl rfl rfl rfl rfl rfl rfl rfl rfl rfl
    | with_reducible refine canon_mk ?_ rfl rfl
    | with_reducible refine inv_mk_wf ?_ rfl rfl rfl ?_ ?_ ?_ ?_ ?_ ?_ rfl ?_ rfl rfl rfl rfl rfl
    | refine wf_smapAllTo ?_ _)

theorem doTraceWrite_inv {s : State} (h0 : s.Inv) :
    (doTraceWrite s).Inv := by
  unfold doTraceWrite
  split
  · exact h0
  · rename_i r rest e
    have h1 : ({ s with obs := { s.obs with trace := rest, traceDropped := 0 } } : State).Inv :=
      { h0 with trace := by have := h0.trace; rw [e] at this; exact Nat.le_trans (Nat.le_succ _) this }
    dsimp only
    refine State.putTrace_inv _ ?_
    split
    · exact h1
    · exact State.putTrace_inv _ h1

theorem execTraceWrite_inv {s : State} (h : s.Inv) : OutInv (execTraceWrite s) := by
  repeat' (first
    | with_reducible assumption | with_reducible apply doTraceWrite_inv | with_reducible apply onUnit_inv
    | with_reducible apply outInv_next | unfold execTraceWrite)

theorem State.join_inv (mb : Nat) (rq : List Byte) {s : State} (h0 : s.Inv) :
    (State.join mb rq s).Inv := by
  unfold State.join
  try dsimp only
  repeat' (first
    | with_reducible assumption | with_reducible apply State.noteAccess_inv | with_reducible apply State.vaRead_inv
    | refine State.vaRead_inv_eq (by assumption) ?_ | with_reducible apply State.answer_inv
    | with_reducible apply State.noteWarps_inv | with_reducible apply State.installJoin_inv
    | with_reducible apply foldl_inv | with_reducible apply foldl_inv2 | with_reducible apply foldl_inv1
    | with_reducible apply foldl_canon | with_reducible apply State.setRegion_inv
    | with_reducible apply State.region_inv | split | exact fun h => h | exact fun h => wf_smapAllTo h _
    | exact fun h => wf_sfilter h _ | exact fun _ => rfl | intro _ _ _ | intro _ _ | intro _ | dsimp only
    | contradiction
    | with_reducible refine inv_mk ?_ rfl rfl rfl rfl rfl rfl rfl rfl rfl rfl rfl rfl rfl rfl rfl rfl
    | with_reducible refine canon_mk ?_ rfl rfl
    | with_reducible refine inv_mk_wf ?_ rfl rfl rfl ?_ ?_ ?_ ?_ ?_ ?_ rfl ?_ rfl rfl rfl rfl rfl
    | refine wf_smapAllTo ?_ _)

theorem execJoinPartition_inv (mb : Nat) {s : State} (h : s.Inv) : OutInv (execJoinPartition mb s) := by
  repeat' (first
    | with_reducible assumption | with_reducible apply State.withMail_inv | with_reducible apply State.join_inv
    | with_reducible apply onUnit_inv | with_reducible apply outInv_next | unfold execJoinPartition)

theorem State.leave_inv (mb : Nat) (rq : List Byte) {s : State} (h0 : s.Inv) :
    (State.leave mb rq s).Inv := by
  unfold State.leave
  try dsimp only
  repeat' (first
    | with_reducible assumption | with_reducible apply State.retireKey_inv | with_reducible apply State.answer_inv
    | with_reducible apply foldl_inv | with_reducible apply foldl_inv2 | with_reducible apply foldl_inv1
    | with_reducible apply foldl_canon | with_reducible apply State.setRegion_inv
    | with_reducible apply State.region_inv | split)

theorem execLeavePartition_inv (mb : Nat) {s : State} (h : s.Inv) : OutInv (execLeavePartition mb s) := by
  repeat' (first
    | with_reducible assumption | with_reducible apply State.withMail_inv | with_reducible apply State.leave_inv
    | with_reducible apply onUnit_inv | with_reducible apply outInv_next | unfold execLeavePartition)

theorem State.retire_inv (mb : Nat) (rq : List Byte) {s : State} (h0 : s.Inv) :
    (State.retire mb rq s).Inv := by
  unfold State.retire
  try dsimp only
  repeat' (first
    | with_reducible assumption | with_reducible apply State.retireKey_inv | with_reducible apply State.answer_inv
    | with_reducible apply foldl_inv | with_reducible apply foldl_inv2 | with_reducible apply foldl_inv1
    | with_reducible apply foldl_canon | with_reducible apply State.setRegion_inv
    | with_reducible apply State.region_inv | split)

theorem execKeyRetire_inv (mb : Nat) {s : State} (h : s.Inv) : OutInv (execKeyRetire mb s) := by
  repeat' (first
    | with_reducible assumption | with_reducible apply State.withMail_inv | with_reducible apply State.retire_inv
    | with_reducible apply onUnit_inv | with_reducible apply outInv_next | unfold execKeyRetire)

theorem execKeyDrainComplete_inv (key : Nat) {s : State} (h : s.Inv) : OutInv (execKeyDrainComplete key s) := by
  repeat' (first
    | with_reducible assumption | with_reducible apply State.endRetire_inv | with_reducible apply onUnit_inv
    | with_reducible apply outInv_next | unfold execKeyDrainComplete)

theorem doPickBoundary_inv (power : Nat) {s : State} (h0 : s.Inv) :
    (doPickBoundary power s).Inv := by
  unfold doPickBoundary
  try dsimp only
  repeat' (first
    | with_reducible assumption | with_reducible apply State.boundaryActions_inv
    | with_reducible apply State.at_inv | with_reducible apply foldl_inv | with_reducible apply foldl_inv2
    | with_reducible apply foldl_inv1 | with_reducible apply foldl_canon | with_reducible apply State.setRegion_inv
    | with_reducible apply State.region_inv | split)

theorem execPickBoundary_inv (power : Nat) {s : State} (h : s.Inv) : OutInv (execPickBoundary power s) := by
  repeat' (first
    | with_reducible assumption | with_reducible apply doPickBoundary_inv | with_reducible apply onUnit_inv
    | with_reducible apply outInv_next | unfold execPickBoundary)

theorem doSpanStart_inv {s : State} (h0 : s.Inv) :
    (doSpanStart s).Inv := by
  unfold doSpanStart
  try dsimp only
  repeat' (first
    | with_reducible assumption | with_reducible apply State.endWindow_inv | with_reducible apply State.at_inv
    | with_reducible apply foldl_inv | with_reducible apply foldl_inv2 | with_reducible apply foldl_inv1
    | with_reducible apply foldl_canon | with_reducible apply State.setRegion_inv
    | with_reducible apply State.region_inv | split)

theorem execSpanStart_inv {s : State} (h : s.Inv) : OutInv (execSpanStart s) := by
  repeat' (first
    | with_reducible assumption | with_reducible apply doSpanStart_inv | with_reducible apply onUnit_inv
    | with_reducible apply outInv_next | unfold execSpanStart)

theorem doDefaultFramedWindow_inv (power : Nat) {s : State} (h0 : s.Inv) :
    (doDefaultFramedWindow power s).Inv := by
  unfold doDefaultFramedWindow
  try dsimp only
  repeat' (first
    | with_reducible assumption | with_reducible apply State.at_inv | with_reducible apply State.each_inv
    | with_reducible apply State.accountClk_inv | with_reducible apply State.sampleHang_inv
    | with_reducible apply State.beginWindow_inv | with_reducible apply State.windowCaps_inv
    | with_reducible apply foldl_inv | with_reducible apply foldl_inv2 | with_reducible apply foldl_inv1
    | with_reducible apply foldl_canon | with_reducible apply State.setRegion_inv
    | with_reducible apply State.region_inv | split | exact fun h => h | exact fun h => wf_smapAllTo h _
    | exact fun h => wf_sfilter h _ | exact fun _ => rfl | intro _ _ _)

theorem execDefaultFramedWindow_inv (power : Nat) {s : State} (h : s.Inv) : OutInv (execDefaultFramedWindow power s)
    := by
  repeat' (first
    | with_reducible assumption | with_reducible apply doDefaultFramedWindow_inv | with_reducible apply onUnit_inv
    | with_reducible apply outInv_next | unfold execDefaultFramedWindow)

theorem State.acceptTick_inv {s : State} (p : Nat) (at_ : Nat) (b : List Byte) (h0 : s.Inv) :
    (State.acceptTick s p at_ b).Inv := by
  unfold State.acceptTick
  try dsimp only
  repeat' (first
    | with_reducible assumption | with_reducible apply State.putMax_inv | with_reducible apply State.put_inv
    | with_reducible apply State.sendTick_inv | with_reducible apply foldl_inv | with_reducible apply foldl_inv2
    | with_reducible apply foldl_inv1 | with_reducible apply foldl_canon | with_reducible apply State.setRegion_inv
    | with_reducible apply State.region_inv | split | exact fun h => h | exact fun h => wf_smapAllTo h _
    | exact fun h => wf_sfilter h _ | exact fun _ => rfl | intro _ _ _ | intro _ _ | intro _ | dsimp only
    | contradiction
    | with_reducible refine inv_mk ?_ rfl rfl rfl rfl rfl rfl rfl rfl rfl rfl rfl rfl rfl rfl rfl rfl
    | with_reducible refine canon_mk ?_ rfl rfl
    | with_reducible refine inv_mk_wf ?_ rfl rfl rfl ?_ ?_ ?_ ?_ ?_ ?_ rfl ?_ rfl rfl rfl rfl rfl
    | refine wf_smapAllTo ?_ _)

theorem State.takeTick_inv {s : State} (p : Nat) (at_ : Nat) (b : List Byte) (h0 : s.Inv) :
    (State.takeTick s p at_ b).Inv := by
  unfold State.takeTick
  try dsimp only
  repeat' (first
    | with_reducible assumption | with_reducible apply State.raise_inv | with_reducible apply State.acceptTick_inv
    | with_reducible apply foldl_inv | with_reducible apply foldl_inv2 | with_reducible apply foldl_inv1
    | with_reducible apply foldl_canon | with_reducible apply State.setRegion_inv
    | with_reducible apply State.region_inv | split | exact fun h => h | exact fun h => wf_smapAllTo h _
    | exact fun h => wf_sfilter h _ | exact fun _ => rfl | intro _ _ _ | intro _ _ | intro _ | dsimp only
    | contradiction
    | with_reducible refine inv_mk ?_ rfl rfl rfl rfl rfl rfl rfl rfl rfl rfl rfl rfl rfl rfl rfl rfl
    | with_reducible refine canon_mk ?_ rfl rfl
    | with_reducible refine inv_mk_wf ?_ rfl rfl rfl ?_ ?_ ?_ ?_ ?_ ?_ rfl ?_ rfl rfl rfl rfl rfl
    | refine wf_smapAllTo ?_ _)

theorem doTickCell_inv (p : Nat) (c : Cell) (at_ : Nat) {s : State} (h0 : s.Inv) :
    (doTickCell p c at_ s).Inv := by
  unfold doTickCell
  try dsimp only
  repeat' (first
    | with_reducible assumption | with_reducible apply State.at_inv | with_reducible apply State.takeIngress_inv
    | with_reducible apply State.count_inv | with_reducible apply State.takeTick_inv
    | with_reducible apply foldl_inv | with_reducible apply foldl_inv2 | with_reducible apply foldl_inv1
    | with_reducible apply foldl_canon | with_reducible apply State.setRegion_inv
    | with_reducible apply State.region_inv | split)

theorem execTickCell_inv (p : Nat) (c : Cell) (at_ : Nat) {s : State} (h : s.Inv) : OutInv (execTickCell p c at_ s)
    := by
  repeat' (first
    | with_reducible assumption | with_reducible apply doTickCell_inv | with_reducible apply onUnit_inv
    | with_reducible apply outInv_next | unfold execTickCell)

theorem State.takeEdge_inv {s : State} (b : Nat) (expected : Nat) (h0 : s.Inv) :
    (State.takeEdge s b expected).Inv := by
  unfold State.takeEdge
  try dsimp only
  repeat' (first
    | with_reducible assumption | with_reducible apply State.raise_inv | with_reducible apply foldl_inv
    | with_reducible apply foldl_inv2 | with_reducible apply foldl_inv1 | with_reducible apply foldl_canon
    | with_reducible apply State.setRegion_inv | with_reducible apply State.region_inv | split | exact fun h => h
    | exact fun h => wf_smapAllTo h _ | exact fun h => wf_sfilter h _ | exact fun _ => rfl | intro _ _ _ | intro _ _
    | intro _ | dsimp only | contradiction
    | with_reducible refine inv_mk ?_ rfl rfl rfl rfl rfl rfl rfl rfl rfl rfl rfl rfl rfl rfl rfl rfl)

theorem doPickIoEdge_inv (at_ : Nat) {s : State} (h0 : s.Inv) :
    (doPickIoEdge at_ s).Inv := by
  unfold doPickIoEdge
  try dsimp only
  repeat' (first
    | with_reducible assumption | with_reducible apply State.takeEdge_inv | with_reducible apply State.at_inv
    | with_reducible apply foldl_inv | with_reducible apply foldl_inv2 | with_reducible apply foldl_inv1
    | with_reducible apply foldl_canon | with_reducible apply State.setRegion_inv
    | with_reducible apply State.region_inv | split)

theorem execPickIoEdge_inv (at_ : Nat) {s : State} (h : s.Inv) : OutInv (execPickIoEdge at_ s) := by
  repeat' (first
    | with_reducible assumption | with_reducible apply doPickIoEdge_inv | with_reducible apply onUnit_inv
    | with_reducible apply outInv_next | unfold execPickIoEdge)

theorem State.dark_inv {s : State} (h0 : s.Inv) :
    (State.dark s).Inv := by
  unfold State.dark
  try dsimp only
  repeat' (first
    | with_reducible assumption | with_reducible apply State.resetD0_inv | with_reducible apply foldl_inv
    | with_reducible apply foldl_inv2 | with_reducible apply foldl_inv1 | with_reducible apply foldl_canon
    | with_reducible apply State.setRegion_inv | with_reducible apply State.region_inv | split | exact fun h => h
    | exact fun h => wf_smapAllTo h _ | exact fun h => wf_sfilter h _ | exact fun _ => rfl | intro _ _ _ | intro _ _
    | intro _ | dsimp only | contradiction
    | with_reducible refine inv_mk ?_ rfl rfl rfl rfl rfl rfl rfl rfl rfl rfl rfl rfl rfl rfl rfl rfl)

theorem State.removePower_inv {s : State} (fault : Bool) (h0 : s.Inv) :
    (State.removePower s fault).Inv := by
  unfold State.removePower
  try dsimp only
  repeat' (first
    | with_reducible assumption | with_reducible apply State.dark_inv | with_reducible apply foldl_inv
    | with_reducible apply foldl_inv2 | with_reducible apply foldl_inv1 | with_reducible apply foldl_canon
    | with_reducible apply State.setRegion_inv | with_reducible apply State.region_inv | split | exact fun h => h
    | exact fun h => wf_smapAllTo h _ | exact fun h => wf_sfilter h _ | exact fun _ => rfl | intro _ _ _ | intro _ _
    | intro _ | dsimp only | contradiction
    | with_reducible refine inv_mk ?_ rfl rfl rfl rfl rfl rfl rfl rfl rfl rfl rfl rfl rfl rfl rfl rfl)

theorem State.removeLogic_inv {s : State} (h0 : s.Inv) :
    (State.removeLogic s).Inv := by
  unfold State.removeLogic
  refine { State.resetD0_inv h0 with regs := ?_, log := h0.log }
  dsimp only
  exact wf_sfilter h0.regs _

theorem doPowerUp_inv {s : State} (h0 : s.Inv) :
    (doPowerUp s).Inv := by
  unfold doPowerUp
  try dsimp only
  repeat' (first
    | with_reducible assumption | with_reducible apply foldl_inv | with_reducible apply foldl_inv2
    | with_reducible apply foldl_inv1 | with_reducible apply foldl_canon | with_reducible apply State.setRegion_inv
    | with_reducible apply State.region_inv | split | exact fun h => h | exact fun h => wf_smapAllTo h _
    | exact fun h => wf_sfilter h _ | exact fun _ => rfl | intro _ _ _ | intro _ _ | intro _ | dsimp only
    | contradiction
    | with_reducible refine inv_mk ?_ rfl rfl rfl rfl rfl rfl rfl rfl rfl rfl rfl rfl rfl rfl rfl rfl)

theorem execPowerUp_inv {s : State} (h : s.Inv) : OutInv (execPowerUp s) := by
  repeat' (first
    | with_reducible assumption | with_reducible apply doPowerUp_inv | with_reducible apply onUnit_inv
    | with_reducible apply outInv_next | unfold execPowerUp)

theorem State.meterUp_inv {s : State} (h0 : s.Inv) :
    (State.meterUp s).Inv := by
  unfold State.meterUp
  try dsimp only
  repeat' (first
    | with_reducible assumption | with_reducible apply State.resetD4_inv | with_reducible apply foldl_inv
    | with_reducible apply foldl_inv2 | with_reducible apply foldl_inv1 | with_reducible apply foldl_canon
    | with_reducible apply State.setRegion_inv | with_reducible apply State.region_inv | split | exact fun h => h
    | exact fun h => wf_smapAllTo h _ | exact fun h => wf_sfilter h _ | exact fun _ => rfl | intro _ _ _ | intro _ _
    | intro _ | dsimp only | contradiction
    | with_reducible refine inv_mk ?_ rfl rfl rfl rfl rfl rfl rfl rfl rfl rfl rfl rfl rfl rfl rfl rfl)

theorem doRailStepComplete_inv {s : State} (h0 : s.Inv) :
    (doRailStepComplete s).Inv := by
  unfold doRailStepComplete
  try dsimp only
  repeat' (first
    | with_reducible assumption | with_reducible apply State.meterUp_inv | with_reducible apply State.resetD0_inv
    | with_reducible apply foldl_inv | with_reducible apply foldl_inv2 | with_reducible apply foldl_inv1
    | with_reducible apply foldl_canon | with_reducible apply State.setRegion_inv
    | with_reducible apply State.region_inv | split | exact fun h => h | exact fun h => wf_smapAllTo h _
    | exact fun h => wf_sfilter h _ | exact fun _ => rfl | intro _ _ _ | intro _ _ | intro _ | dsimp only
    | contradiction
    | with_reducible refine inv_mk ?_ rfl rfl rfl rfl rfl rfl rfl rfl rfl rfl rfl rfl rfl rfl rfl rfl)

theorem execRailStepComplete_inv {s : State} (h : s.Inv) : OutInv (execRailStepComplete s) := by
  repeat' (first
    | with_reducible assumption | with_reducible apply doRailStepComplete_inv | with_reducible apply onUnit_inv
    | with_reducible apply outInv_next | unfold execRailStepComplete)

theorem doRailStepTimeout_inv {s : State} (h0 : s.Inv) :
    (doRailStepTimeout s).Inv := by
  unfold doRailStepTimeout
  try dsimp only
  repeat' (first
    | with_reducible assumption | with_reducible apply State.removePower_inv | with_reducible apply State.at_inv
    | with_reducible apply foldl_inv | with_reducible apply foldl_inv2 | with_reducible apply foldl_inv1
    | with_reducible apply foldl_canon | with_reducible apply State.setRegion_inv
    | with_reducible apply State.region_inv | split)

theorem execRailStepTimeout_inv {s : State} (h : s.Inv) : OutInv (execRailStepTimeout s) := by
  repeat' (first
    | with_reducible assumption | with_reducible apply doRailStepTimeout_inv | with_reducible apply onUnit_inv
    | with_reducible apply outInv_next | unfold execRailStepTimeout)

theorem doRailFault_inv {s : State} (h0 : s.Inv) :
    (doRailFault s).Inv := by
  unfold doRailFault
  try dsimp only
  repeat' (first
    | with_reducible assumption | with_reducible apply State.removePower_inv | with_reducible apply foldl_inv
    | with_reducible apply foldl_inv2 | with_reducible apply foldl_inv1 | with_reducible apply foldl_canon
    | with_reducible apply State.setRegion_inv | with_reducible apply State.region_inv | split)

theorem execRailFault_inv (rail : Nat) {s : State} (h : s.Inv) : OutInv (execRailFault rail s) := by
  repeat' (first
    | with_reducible assumption | with_reducible apply doRailFault_inv | with_reducible apply onUnit_inv
    | with_reducible apply outInv_next | unfold execRailFault)

theorem doPowerLoss_inv {s : State} (h0 : s.Inv) :
    (doPowerLoss s).Inv := by
  unfold doPowerLoss
  try dsimp only
  repeat' (first
    | with_reducible assumption | with_reducible apply State.saveCheckpoint_inv
    | with_reducible apply State.removePower_inv | with_reducible apply foldl_inv | with_reducible apply foldl_inv2
    | with_reducible apply foldl_inv1 | with_reducible apply foldl_canon | with_reducible apply State.setRegion_inv
    | with_reducible apply State.region_inv | split)

theorem execPowerLoss_inv {s : State} (h : s.Inv) : OutInv (execPowerLoss s) := by
  repeat' (first
    | with_reducible assumption | with_reducible apply doPowerLoss_inv | with_reducible apply onUnit_inv
    | with_reducible apply outInv_next | unfold execPowerLoss)

theorem doInputBelow40V_inv {s : State} (h0 : s.Inv) :
    (doInputBelow40V s).Inv := by
  unfold doInputBelow40V
  try dsimp only
  repeat' (first
    | with_reducible assumption | with_reducible apply State.saveCheckpoint_inv | with_reducible apply doPowerLoss_inv | with_reducible apply State.resetD4_inv
    | with_reducible apply foldl_inv | with_reducible apply foldl_inv2 | with_reducible apply foldl_inv1
    | with_reducible apply foldl_canon | with_reducible apply State.setRegion_inv
    | with_reducible apply State.region_inv | split | exact fun h => h | exact fun h => wf_smapAllTo h _
    | exact fun h => wf_sfilter h _ | exact fun _ => rfl | intro _ _ _ | intro _ _ | intro _ | dsimp only
    | contradiction
    | with_reducible refine inv_mk ?_ rfl rfl rfl rfl rfl rfl rfl rfl rfl rfl rfl rfl rfl rfl rfl rfl)

theorem execInputBelow40V_inv {s : State} (h : s.Inv) : OutInv (execInputBelow40V s) := by
  repeat' (first
    | with_reducible assumption | with_reducible apply doInputBelow40V_inv | with_reducible apply onUnit_inv
    | with_reducible apply outInv_next | unfold execInputBelow40V)

theorem doThermalTrip_inv {s : State} (h0 : s.Inv) :
    (doThermalTrip s).Inv := by
  unfold doThermalTrip
  try dsimp only
  repeat' (first
    | with_reducible assumption | with_reducible apply State.logRec_inv | with_reducible apply State.removeLogic_inv
    | with_reducible apply foldl_inv | with_reducible apply foldl_inv2 | with_reducible apply foldl_inv1
    | with_reducible apply foldl_canon | with_reducible apply State.setRegion_inv
    | with_reducible apply State.region_inv | split | exact fun h => h | exact fun h => wf_smapAllTo h _
    | exact fun h => wf_sfilter h _ | exact fun _ => rfl | intro _ _ _ | intro _ _ | intro _ | dsimp only
    | contradiction
    | with_reducible refine inv_mk ?_ rfl rfl rfl rfl rfl rfl rfl rfl rfl rfl rfl rfl rfl rfl rfl rfl)

theorem execThermalTrip_inv {s : State} (h : s.Inv) : OutInv (execThermalTrip s) := by
  repeat' (first
    | with_reducible assumption | with_reducible apply doThermalTrip_inv | with_reducible apply onUnit_inv
    | with_reducible apply outInv_next | unfold execThermalTrip)

theorem doModResetN_inv (release : Bool) {s : State} (h0 : s.Inv) :
    (doModResetN release s).Inv := by
  unfold doModResetN
  try dsimp only
  repeat' (first
    | with_reducible assumption | with_reducible apply State.resetD0_inv | with_reducible apply foldl_inv
    | with_reducible apply foldl_inv2 | with_reducible apply foldl_inv1 | with_reducible apply foldl_canon
    | with_reducible apply State.setRegion_inv | with_reducible apply State.region_inv | split | exact fun h => h
    | exact fun h => wf_smapAllTo h _ | exact fun h => wf_sfilter h _ | exact fun _ => rfl | intro _ _ _ | intro _ _
    | intro _ | dsimp only | contradiction
    | with_reducible refine inv_mk ?_ rfl rfl rfl rfl rfl rfl rfl rfl rfl rfl rfl rfl rfl rfl rfl rfl)

theorem execModResetN_inv (release : Bool) {s : State} (h : s.Inv) : OutInv (execModResetN release s) := by
  repeat' (first
    | with_reducible assumption | with_reducible apply doModResetN_inv | with_reducible apply onUnit_inv
    | with_reducible apply outInv_next | unfold execModResetN)

theorem doCxlPerstRelease_inv (port : Nat) {s : State} (h0 : s.Inv) :
    (doCxlPerstRelease port s).Inv := by
  unfold doCxlPerstRelease
  try dsimp only
  repeat' (first
    | with_reducible assumption | with_reducible apply foldl_inv | with_reducible apply foldl_inv2
    | with_reducible apply foldl_inv1 | with_reducible apply foldl_canon | with_reducible apply State.setRegion_inv
    | with_reducible apply State.region_inv | split | exact fun h => h | exact fun h => wf_smapAllTo h _
    | exact fun h => wf_sfilter h _ | exact fun _ => rfl | intro _ _ _ | intro _ _ | intro _ | dsimp only
    | contradiction
    | with_reducible refine inv_mk ?_ rfl rfl rfl rfl rfl rfl rfl rfl rfl rfl rfl rfl rfl rfl rfl rfl)

theorem execCxlPerstRelease_inv (port : Nat) {s : State} (h : s.Inv) : OutInv (execCxlPerstRelease port s) := by
  repeat' (first
    | with_reducible assumption | with_reducible apply doCxlPerstRelease_inv | with_reducible apply onUnit_inv
    | with_reducible apply outInv_next | unfold execCxlPerstRelease)

end Sys2Proof.Machine
end

