-- ==== Sys2Proof/Laws/InvCommandsC.lean ====
section
/-! SUPPORT. The invariant through the commands, part three. -/
namespace Sys2Proof.Machine

theorem execWordExecute_inv (region : Nat) (upsets : List (Nat × Bool)) {s : State} (h : s.Inv)
    : OutInv (execWordExecute region upsets s) := by
  repeat' (first
    | with_reducible assumption | with_reducible apply State.tryWord_inv | with_reducible apply onUnit_inv
    | with_reducible apply outInv_next | unfold execWordExecute)

theorem doRegionWaitResume_inv (n : Nat) {s : State} (h0 : s.Inv) :
    (doRegionWaitResume n s).Inv := by
  unfold doRegionWaitResume
  try dsimp only
  repeat' (first
    | with_reducible assumption | with_reducible apply State.region_inv | with_reducible apply State.tryWord_inv
    | with_reducible apply foldl_inv | with_reducible apply foldl_inv2 | with_reducible apply foldl_inv1
    | with_reducible apply foldl_canon | with_reducible apply State.setRegion_inv
    | with_reducible apply State.region_inv | split)

theorem execRegionWaitResume_inv (region : Nat) {s : State} (h : s.Inv) : OutInv (execRegionWaitResume region s) := by
  repeat' (first
    | with_reducible assumption | with_reducible apply doRegionWaitResume_inv | with_reducible apply onUnit_inv
    | with_reducible apply outInv_next | unfold execRegionWaitResume)

theorem doPipelineWriteback_inv (n : Nat) {s : State} (h0 : s.Inv) :
    (doPipelineWriteback n s).Inv := by
  unfold doPipelineWriteback
  try dsimp only
  repeat' (first
    | with_reducible assumption | with_reducible apply State.landRegs_inv | with_reducible apply State.region_inv
    | with_reducible apply foldl_inv | with_reducible apply foldl_inv2 | with_reducible apply foldl_inv1
    | with_reducible apply foldl_canon | with_reducible apply State.setRegion_inv
    | with_reducible apply State.region_inv | split)

theorem execPipelineWriteback_inv (region : Nat) {s : State} (h : s.Inv) : OutInv (execPipelineWriteback region s) := by
  repeat' (first
    | with_reducible assumption | with_reducible apply doPipelineWriteback_inv | with_reducible apply onUnit_inv
    | with_reducible apply outInv_next | unfold execPipelineWriteback)

theorem doArrayRowResult_inv (n : Nat) {s : State} (h0 : s.Inv) :
    (doArrayRowResult n s).Inv := by
  unfold doArrayRowResult
  try dsimp only
  repeat' (first
    | with_reducible assumption | with_reducible apply State.landAcc_inv | with_reducible apply State.region_inv
    | with_reducible apply foldl_inv | with_reducible apply foldl_inv2 | with_reducible apply foldl_inv1
    | with_reducible apply foldl_canon | with_reducible apply State.setRegion_inv
    | with_reducible apply State.region_inv | split)

theorem execArrayRowResult_inv (region : Nat) {s : State} (h : s.Inv) : OutInv (execArrayRowResult region s) := by
  repeat' (first
    | with_reducible assumption | with_reducible apply doArrayRowResult_inv | with_reducible apply onUnit_inv
    | with_reducible apply outInv_next | unfold execArrayRowResult)

theorem State.handle_inv {s : State} (src : Nat) (cls : Nat) (op : Nat) {f : Message → State → State} (h0 : s.Inv)
    (hf1 : ∀ u0 u1, u1.Inv → (f u0 u1).Inv) :
    (State.handle s src cls op f).Inv := by
  unfold State.handle
  try dsimp only
  repeat' (first
    | with_reducible assumption | with_reducible apply State.takeMessage_inv
    | refine State.takeMessage_inv_eq (by assumption) ?_ | with_reducible apply foldl_inv
    | with_reducible apply foldl_inv2 | with_reducible apply foldl_inv1 | with_reducible apply foldl_canon
    | with_reducible apply State.setRegion_inv | with_reducible apply State.region_inv | with_reducible apply hf1
    | split)

theorem execRead_inv (src : Nat) {s : State} (h : s.Inv) : OutInv (execRead src s) := by
  repeat' (first
    | with_reducible assumption | with_reducible apply State.handle_inv | with_reducible apply State.takeRead_inv
    | with_reducible apply onUnit_inv | with_reducible apply outInv_next | unfold execRead | split | intro _ _ _)

theorem execWrite_inv (src : Nat) {s : State} (h : s.Inv) : OutInv (execWrite src s) := by
  repeat' (first
    | with_reducible assumption | with_reducible apply State.handle_inv | with_reducible apply State.takeWrite_inv
    | with_reducible apply onUnit_inv | with_reducible apply outInv_next | unfold execWrite | split | intro _ _ _)

theorem execSync_inv (src : Nat) {s : State} (h : s.Inv) : OutInv (execSync src s) := by
  repeat' (first
    | with_reducible assumption | with_reducible apply State.handle_inv | with_reducible apply State.takeSync_inv
    | with_reducible apply onUnit_inv | with_reducible apply outInv_next | unfold execSync | split | intro _ _ _)

theorem State.takeAnswer_inv {s : State} (m : Message) (h0 : s.Inv) :
    (State.takeAnswer s m).Inv := by
  unfold State.takeAnswer
  try dsimp only
  repeat' (first
    | with_reducible assumption | with_reducible apply State.count_inv | with_reducible apply State.restartReq_inv
    | with_reducible apply State.completeReq_inv | with_reducible apply foldl_inv | with_reducible apply foldl_inv2
    | with_reducible apply foldl_inv1 | with_reducible apply foldl_canon | with_reducible apply State.setRegion_inv
    | with_reducible apply State.region_inv | split)

theorem execReadResp_inv (src : Nat) {s : State} (h : s.Inv) : OutInv (execReadResp src s) := by
  repeat' (first
    | with_reducible assumption | with_reducible apply State.handle_inv | with_reducible apply State.takeAnswer_inv
    | with_reducible apply onUnit_inv | with_reducible apply outInv_next | unfold execReadResp | split | intro _ _ _)

theorem execWriteAck_inv (src : Nat) {s : State} (h : s.Inv) : OutInv (execWriteAck src s) := by
  repeat' (first
    | with_reducible assumption | with_reducible apply State.handle_inv | with_reducible apply State.takeAnswer_inv
    | with_reducible apply onUnit_inv | with_reducible apply outInv_next | unfold execWriteAck | split | intro _ _ _)

theorem execSyncAck_inv (src : Nat) {s : State} (h : s.Inv) : OutInv (execSyncAck src s) := by
  repeat' (first
    | with_reducible assumption | with_reducible apply State.handle_inv | with_reducible apply State.takeAnswer_inv
    | with_reducible apply onUnit_inv | with_reducible apply outInv_next | unfold execSyncAck | split | intro _ _ _)

theorem doRequestRetry_inv (n : Nat) {s : State} (h0 : s.Inv) :
    (doRequestRetry n s).Inv := by
  unfold doRequestRetry
  try dsimp only
  repeat' (first
    | with_reducible assumption | with_reducible apply State.resend_inv | with_reducible apply State.at_inv
    | with_reducible apply foldl_inv | with_reducible apply foldl_inv2 | with_reducible apply foldl_inv1
    | with_reducible apply foldl_canon | with_reducible apply State.setRegion_inv
    | with_reducible apply State.region_inv | split)

theorem execRequestRetry_inv (n : Nat) {s : State} (h : s.Inv) : OutInv (execRequestRetry n s) := by
  repeat' (first
    | with_reducible assumption | with_reducible apply doRequestRetry_inv | with_reducible apply onUnit_inv
    | with_reducible apply outInv_next | unfold execRequestRetry)

theorem doRequestTimeout_inv (n : Nat) {s : State} (h0 : s.Inv) :
    (doRequestTimeout n s).Inv := by
  unfold doRequestTimeout
  try dsimp only
  repeat' (first
    | with_reducible assumption | with_reducible apply State.endReq_inv | with_reducible apply State.at_inv
    | with_reducible apply foldl_inv | with_reducible apply foldl_inv2 | with_reducible apply foldl_inv1
    | with_reducible apply foldl_canon | with_reducible apply State.setRegion_inv
    | with_reducible apply State.region_inv | split)

theorem execRequestTimeout_inv (n : Nat) {s : State} (h : s.Inv) : OutInv (execRequestTimeout n s) := by
  repeat' (first
    | with_reducible assumption | with_reducible apply doRequestTimeout_inv | with_reducible apply onUnit_inv
    | with_reducible apply outInv_next | unfold execRequestTimeout)

theorem doDoorbell_inv (mb : Nat) (src : Nat) (value : BitVec 64) {s : State} (h0 : s.Inv) :
    (doDoorbell mb src value s).Inv := by
  unfold doDoorbell
  try dsimp only
  repeat' (first
    | with_reducible assumption | with_reducible apply State.ringDoorbell_inv
    | refine State.ringDoorbell_inv_eq (by assumption) ?_ | with_reducible apply State.emit_inv
    | with_reducible apply foldl_inv | with_reducible apply foldl_inv2 | with_reducible apply foldl_inv1
    | with_reducible apply foldl_canon | with_reducible apply State.setRegion_inv
    | with_reducible apply State.region_inv | split | exact fun h => h | exact fun h => wf_smapAllTo h _
    | exact fun h => wf_sfilter h _ | exact fun _ => rfl | intro _ _ _ | intro _ _ | intro _ | dsimp only
    | contradiction
    | with_reducible refine inv_mk ?_ rfl rfl rfl rfl rfl rfl rfl rfl rfl rfl rfl rfl rfl rfl rfl rfl
    | with_reducible refine canon_mk ?_ rfl rfl
    | with_reducible refine inv_mk_wf ?_ rfl rfl rfl ?_ ?_ ?_ ?_ ?_ ?_ rfl ?_ rfl rfl rfl rfl rfl
    | refine wf_smapAllTo ?_ _)

theorem execDoorbell_inv (mb : Nat) (src : Nat) (value : BitVec 64) {s : State} (h : s.Inv)
    : OutInv (execDoorbell mb src value s) := by
  repeat' (first
    | with_reducible assumption | with_reducible apply doDoorbell_inv | with_reducible apply onUnit_inv
    | with_reducible apply outInv_next | unfold execDoorbell | split | intro _ _ _ | dsimp only)

theorem doUnscheduledAccess_inv (region : Nat) (bank : Nat) (write : Bool) (ecc : Ecc) {s : State} (h0 : s.Inv) :
    (doUnscheduledAccess region bank write ecc s).Inv := by
  unfold doUnscheduledAccess
  try dsimp only
  repeat' (first
    | with_reducible assumption | with_reducible apply State.region_inv | with_reducible apply State.countDelay_inv
    | with_reducible apply State.makeUnsched_inv | with_reducible apply State.portTaken_inv
    | with_reducible apply foldl_inv | with_reducible apply foldl_inv2 | with_reducible apply foldl_inv1
    | with_reducible apply foldl_canon | with_reducible apply State.setRegion_inv
    | with_reducible apply State.region_inv | split | exact fun h => h | exact fun h => wf_smapAllTo h _
    | exact fun h => wf_sfilter h _ | exact fun _ => rfl | intro _ _ _ | intro _ _ | intro _ | dsimp only
    | contradiction
    | with_reducible refine inv_mk ?_ rfl rfl rfl rfl rfl rfl rfl rfl rfl rfl rfl rfl rfl rfl rfl rfl)

theorem execUnscheduledAccess_inv (region : Nat) (bank : Nat) (write : Bool) (ecc : Ecc) {s : State} (h : s.Inv)
    : OutInv (execUnscheduledAccess region bank write ecc s) := by
  repeat' (first
    | with_reducible assumption | with_reducible apply doUnscheduledAccess_inv | with_reducible apply onUnit_inv
    | with_reducible apply outInv_next | unfold execUnscheduledAccess)

theorem execWordIssue_inv (ecc : Ecc) {s : State} (h : s.Inv) : OutInv (execWordIssue ecc s) := by
  repeat' (first
    | with_reducible assumption | with_reducible apply State.tryIssue_inv | with_reducible apply onUnit_inv
    | with_reducible apply outInv_next | unfold execWordIssue)

theorem doIssueWaitResume_inv (ecc : Ecc) {s : State} (h0 : s.Inv) :
    (doIssueWaitResume ecc s).Inv := by
  unfold doIssueWaitResume
  try dsimp only
  repeat' (first
    | with_reducible assumption | with_reducible apply State.tryIssue_inv | with_reducible apply foldl_inv
    | with_reducible apply foldl_inv2 | with_reducible apply foldl_inv1 | with_reducible apply foldl_canon
    | with_reducible apply State.setRegion_inv | with_reducible apply State.region_inv | split)

theorem execIssueWaitResume_inv (ecc : Ecc) {s : State} (h : s.Inv) : OutInv (execIssueWaitResume ecc s) := by
  repeat' (first
    | with_reducible assumption | with_reducible apply doIssueWaitResume_inv | with_reducible apply onUnit_inv
    | with_reducible apply outInv_next | unfold execIssueWaitResume)

theorem execSummaryArrival_inv {s : State} (h : s.Inv) : OutInv (execSummaryArrival s) := by
  repeat' (first
    | with_reducible assumption | with_reducible apply State.landSummary_inv | with_reducible apply onUnit_inv
    | with_reducible apply outInv_next | unfold execSummaryArrival)

theorem execResume_inv {s : State} (h : s.Inv) : OutInv (execResume s) := by
  repeat' (first
    | with_reducible assumption | with_reducible apply State.resumeSeq_inv | with_reducible apply onUnit_inv
    | with_reducible apply outInv_next | unfold execResume)

theorem State.programStops_inv {s : State} (p : Nat) (h0 : s.Inv) :
    (State.programStops s p).Inv := by
  unfold State.programStops
  try dsimp only
  repeat' (first
    | with_reducible assumption | with_reducible apply State.answer_inv | with_reducible apply foldl_inv
    | with_reducible apply foldl_inv2 | with_reducible apply foldl_inv1 | with_reducible apply foldl_canon
    | with_reducible apply State.setRegion_inv | with_reducible apply State.region_inv | split | exact fun h => h
    | exact fun h => wf_smapAllTo h _ | exact fun h => wf_sfilter h _ | exact fun _ => rfl | intro _ _ _ | intro _ _
    | intro _ | dsimp only | contradiction
    | with_reducible refine inv_mk ?_ rfl rfl rfl rfl rfl rfl rfl rfl rfl rfl rfl rfl rfl rfl rfl rfl)

theorem State.yieldFails_inv {s : State} (h0 : s.Inv) :
    (State.yieldFails s).Inv := by
  unfold State.yieldFails
  try dsimp only
  repeat' (first
    | with_reducible assumption | with_reducible apply State.answer_inv | with_reducible apply foldl_inv
    | with_reducible apply foldl_inv2 | with_reducible apply foldl_inv1 | with_reducible apply foldl_canon
    | with_reducible apply State.setRegion_inv | with_reducible apply State.region_inv | split | exact fun h => h
    | exact fun h => wf_smapAllTo h _ | exact fun h => wf_sfilter h _ | exact fun _ => rfl | intro _ _ _ | intro _ _
    | intro _ | dsimp only | contradiction
    | with_reducible refine inv_mk ?_ rfl rfl rfl rfl rfl rfl rfl rfl rfl rfl rfl rfl rfl rfl rfl rfl)

theorem doSegmentComplete_inv {s : State} (h0 : s.Inv) :
    (doSegmentComplete s).Inv := by
  unfold doSegmentComplete
  try dsimp only
  repeat' (first
    | with_reducible assumption | with_reducible apply State.programStops_inv
    | with_reducible apply State.openSegment_inv | with_reducible apply State.yieldFails_inv
    | with_reducible apply foldl_inv | with_reducible apply foldl_inv2 | with_reducible apply foldl_inv1
    | with_reducible apply foldl_canon | with_reducible apply State.setRegion_inv
    | with_reducible apply State.region_inv | split | exact fun h => h | exact fun h => wf_smapAllTo h _
    | exact fun h => wf_sfilter h _ | exact fun _ => rfl | intro _ _ _ | intro _ _ | intro _ | dsimp only
    | contradiction
    | with_reducible refine inv_mk ?_ rfl rfl rfl rfl rfl rfl rfl rfl rfl rfl rfl rfl rfl rfl rfl rfl)

theorem execSegmentComplete_inv {s : State} (h : s.Inv) : OutInv (execSegmentComplete s) := by
  repeat' (first
    | with_reducible assumption | with_reducible apply doSegmentComplete_inv | with_reducible apply onUnit_inv
    | with_reducible apply outInv_next | unfold execSegmentComplete)

theorem State.holdMask_inv {s : State} (mb : Nat) (code : Nat) (h0 : s.Inv) :
    OptInv (State.holdMask s mb code) := by
  unfold State.holdMask
  try dsimp only
  repeat' (first
    | with_reducible assumption | with_reducible apply State.holdPort_inv
    | refine State.holdPort_inv_eq (by assumption) ?_ | with_reducible apply foldl_inv
    | with_reducible apply foldl_inv2 | with_reducible apply foldl_inv1 | with_reducible apply foldl_canon
    | with_reducible apply State.setRegion_inv | with_reducible apply State.region_inv
    | with_reducible apply optInv_none | with_reducible apply optInv_some | with_reducible apply optInv2_none
    | with_reducible apply optInv2_some | with_reducible apply optInv2_some' | with_reducible apply optInv1_none
    | with_reducible apply optInv1_some | with_reducible apply optInv_bind | with_reducible apply optInv_map
    | with_reducible apply foldl_optInv | split | exact fun h => h | exact fun h => wf_smapAllTo h _
    | exact fun h => wf_sfilter h _ | exact fun _ => rfl | intro _ _ _ | intro _ _ | intro _ | dsimp only
    | contradiction
    | with_reducible refine inv_mk ?_ rfl rfl rfl rfl rfl rfl rfl rfl rfl rfl rfl rfl rfl rfl rfl rfl
    | with_reducible refine canon_mk ?_ rfl rfl
    | with_reducible refine inv_mk_wf ?_ rfl rfl rfl ?_ ?_ ?_ ?_ ?_ ?_ rfl ?_ rfl rfl rfl rfl rfl
    | refine wf_smapAllTo ?_ _)
theorem State.holdMask_inv_eq {s : State} {mb : Nat} {code : Nat} {zt : State}
    (e0 : (State.holdMask s mb code) = some zt) (h0 : s.Inv) :
    zt.Inv := State.holdMask_inv mb code h0 _ e0

theorem State.ctxBegin_inv {s : State} (mb : Nat) (code : Nat) (entry : List Byte → Option Nat) (h0 : s.Inv) :
    OptInv (State.ctxBegin s mb code entry) := by
  unfold State.ctxBegin
  try dsimp only
  repeat' (first
    | with_reducible assumption | with_reducible apply State.holdLines_inv
    | refine State.holdLines_inv_eq (by assumption) ?_ | with_reducible apply State.at_inv
    | with_reducible apply State.holdMask_inv | refine State.holdMask_inv_eq (by assumption) ?_
    | with_reducible apply foldl_inv | with_reducible apply foldl_inv2 | with_reducible apply foldl_inv1
    | with_reducible apply foldl_canon | with_reducible apply State.setRegion_inv
    | with_reducible apply State.region_inv | with_reducible apply optInv_none | with_reducible apply optInv_some
    | with_reducible apply optInv2_none | with_reducible apply optInv2_some | with_reducible apply optInv2_some'
    | with_reducible apply optInv1_none | with_reducible apply optInv1_some | with_reducible apply optInv_bind
    | with_reducible apply optInv_map | with_reducible apply foldl_optInv | split | exact fun h => h
    | exact fun h => wf_smapAllTo h _ | exact fun h => wf_sfilter h _ | exact fun _ => rfl | intro _ _ _ | intro _ _
    | intro _ | dsimp only | contradiction
    | with_reducible refine inv_mk ?_ rfl rfl rfl rfl rfl rfl rfl rfl rfl rfl rfl rfl rfl rfl rfl rfl
    | with_reducible refine canon_mk ?_ rfl rfl
    | with_reducible refine inv_mk_wf ?_ rfl rfl rfl ?_ ?_ ?_ ?_ ?_ ?_ rfl ?_ rfl rfl rfl rfl rfl
    | refine wf_smapAllTo ?_ _)
theorem State.ctxBegin_inv_eq {s : State} {mb : Nat} {code : Nat} {entry : List Byte → Option Nat} {zt : State}
    (e0 : (State.ctxBegin s mb code entry) = some zt) (h0 : s.Inv) :
    zt.Inv := State.ctxBegin_inv mb code entry h0 _ e0

theorem State.ctxCommand_inv {s : State} (mb : Nat) (code : Nat) (entry : List Byte → Option Nat)
    {f : List Byte → State → State} (h0 : s.Inv) (hf1 : ∀ u0 u1, u1.Inv → (f u0 u1).Inv) :
    (State.ctxCommand s mb code entry f).Inv := by
  unfold State.ctxCommand
  try dsimp only
  repeat' (first
    | with_reducible assumption | with_reducible apply State.ctxBegin_inv
    | refine State.ctxBegin_inv_eq (by assumption) ?_ | with_reducible apply State.withMail_inv
    | with_reducible apply State.noteAccess_inv | with_reducible apply State.answer_inv
    | with_reducible apply foldl_inv | with_reducible apply foldl_inv2 | with_reducible apply foldl_inv1
    | with_reducible apply foldl_canon | with_reducible apply State.setRegion_inv
    | with_reducible apply State.region_inv | with_reducible apply hf1 | split | exact fun h => h
    | exact fun h => wf_smapAllTo h _ | exact fun h => wf_sfilter h _ | exact fun _ => rfl | intro _ _ _)

theorem State.noteCreate_inv {s : State} (b : List Byte) (o : Nat) (h0 : s.Inv) :
    (State.noteCreate s b o).Inv := by
  unfold State.noteCreate
  try dsimp only
  repeat' (first
    | with_reducible assumption | with_reducible apply State.vaRead_inv
    | refine State.vaRead_inv_eq (by assumption) ?_ | with_reducible apply State.notePage_inv
    | with_reducible apply foldl_inv | with_reducible apply foldl_inv2 | with_reducible apply foldl_inv1
    | with_reducible apply foldl_canon | with_reducible apply State.setRegion_inv
    | with_reducible apply State.region_inv | split | exact fun h => h | exact fun h => wf_smapAllTo h _
    | exact fun h => wf_sfilter h _ | exact fun _ => rfl | intro _ _ _ | intro _ _ | intro _ | dsimp only
    | contradiction
    | with_reducible refine inv_mk ?_ rfl rfl rfl rfl rfl rfl rfl rfl rfl rfl rfl rfl rfl rfl rfl rfl
    | with_reducible refine canon_mk ?_ rfl rfl
    | with_reducible refine inv_mk_wf ?_ rfl rfl rfl ?_ ?_ ?_ ?_ ?_ ?_ rfl ?_ rfl rfl rfl rfl rfl
    | refine wf_smapAllTo ?_ _)

theorem State.ctxCreate_inv (mb : Nat) (b : List Byte) {s : State} (h0 : s.Inv) :
    (State.ctxCreate mb b s).Inv := by
  unfold State.ctxCreate
  try dsimp only
  repeat' (first
    | with_reducible assumption | with_reducible apply State.noteAccess_inv | with_reducible apply State.answer_inv
    | with_reducible apply State.noteCreate_inv | with_reducible apply State.setCtx_inv
    | with_reducible apply foldl_inv | with_reducible apply foldl_inv2 | with_reducible apply foldl_inv1
    | with_reducible apply foldl_canon | with_reducible apply State.setRegion_inv
    | with_reducible apply State.region_inv | split | exact fun h => h | exact fun h => wf_smapAllTo h _
    | exact fun h => wf_sfilter h _ | exact fun _ => rfl | intro _ _ _ | intro _ _ | intro _ | dsimp only
    | contradiction
    | with_reducible refine inv_mk ?_ rfl rfl rfl rfl rfl rfl rfl rfl rfl rfl rfl rfl rfl rfl rfl rfl
    | with_reducible refine canon_mk ?_ rfl rfl
    | with_reducible refine inv_mk_wf ?_ rfl rfl rfl ?_ ?_ ?_ ?_ ?_ ?_ rfl ?_ rfl rfl rfl rfl rfl
    | refine wf_smapAllTo ?_ _)

theorem execCtxCreate_inv (mb : Nat) {s : State} (h : s.Inv) : OutInv (execCtxCreate mb s) := by
  repeat' (first
    | with_reducible assumption | with_reducible apply State.ctxCommand_inv
    | with_reducible apply State.ctxCreate_inv | with_reducible apply onUnit_inv | with_reducible apply outInv_next
    | unfold execCtxCreate)

theorem State.ctxCancel_inv (mb : Nat) (b : List Byte) {s : State} (h0 : s.Inv) :
    (State.ctxCancel mb b s).Inv := by
  unfold State.ctxCancel
  try dsimp only
  repeat' (first
    | with_reducible assumption | with_reducible apply State.answer_inv | with_reducible apply State.fwMask_inv
    | with_reducible apply State.setCtx_inv | with_reducible apply State.endContext_inv
    | with_reducible apply foldl_inv | with_reducible apply foldl_inv2 | with_reducible apply foldl_inv1
    | with_reducible apply foldl_canon | with_reducible apply State.setRegion_inv
    | with_reducible apply State.region_inv | split)

theorem execCtxCancel_inv (mb : Nat) {s : State} (h : s.Inv) : OutInv (execCtxCancel mb s) := by
  repeat' (first
    | with_reducible assumption | with_reducible apply State.ctxCommand_inv
    | with_reducible apply State.ctxCancel_inv | with_reducible apply onUnit_inv | with_reducible apply outInv_next
    | unfold execCtxCancel)

theorem State.ctxDeadline_inv (mb : Nat) (b : List Byte) {s : State} (h0 : s.Inv) :
    (State.ctxDeadline mb b s).Inv := by
  unfold State.ctxDeadline
  extract_lets n d e st t u
  have h1 : State.Inv t := State.setCtx_inv _ _ h0
  clear_value t
  split
  · exact State.answer_inv _ _ _ _ h0
  · refine State.answer_inv _ _ _ _ ?_
    unfold u
    split
    · exact State.setRow_inv _ _ h1
    · exact h1

theorem execCtxDeadline_inv (mb : Nat) {s : State} (h : s.Inv) : OutInv (execCtxDeadline mb s) := by
  repeat' (first
    | with_reducible assumption | with_reducible apply State.ctxCommand_inv
    | with_reducible apply State.ctxDeadline_inv | with_reducible apply onUnit_inv
    | with_reducible apply outInv_next | unfold execCtxDeadline)

theorem State.ctxRelease_inv (mb : Nat) (b : List Byte) {s : State} (h0 : s.Inv) :
    (State.ctxRelease mb b s).Inv := by
  unfold State.ctxRelease
  try dsimp only
  repeat' (first
    | with_reducible assumption | with_reducible apply State.answer_inv | with_reducible apply State.setCtx_inv
    | with_reducible apply foldl_inv | with_reducible apply foldl_inv2 | with_reducible apply foldl_inv1
    | with_reducible apply foldl_canon | with_reducible apply State.setRegion_inv
    | with_reducible apply State.region_inv | split | exact fun h => h | exact fun h => wf_smapAllTo h _
    | exact fun h => wf_sfilter h _ | exact fun _ => rfl | intro _ _ _ | intro _ _ | intro _ | dsimp only
    | contradiction
    | with_reducible refine inv_mk ?_ rfl rfl rfl rfl rfl rfl rfl rfl rfl rfl rfl rfl rfl rfl rfl rfl)

theorem execCtxRelease_inv (mb : Nat) {s : State} (h : s.Inv) : OutInv (execCtxRelease mb s) := by
  repeat' (first
    | with_reducible assumption | with_reducible apply State.ctxCommand_inv
    | with_reducible apply State.ctxRelease_inv | with_reducible apply onUnit_inv | with_reducible apply outInv_next
    | unfold execCtxRelease)

theorem State.variantBegin_inv (mb : Nat) (b : List Byte) {s : State} (h0 : s.Inv) :
    (State.variantBegin mb b s).Inv := by
  unfold State.variantBegin
  try dsimp only
  repeat' (first
    | with_reducible assumption | with_reducible apply State.noteReads_inv | with_reducible apply State.vaRead_inv
    | refine State.vaRead_inv_eq (by assumption) ?_ | with_reducible apply State.answer_inv
    | with_reducible apply State.holdPage_inv | with_reducible apply State.invalidate_inv
    | with_reducible apply foldl_inv | with_reducible apply foldl_inv2 | with_reducible apply foldl_inv1
    | with_reducible apply foldl_canon | with_reducible apply State.setRegion_inv
    | with_reducible apply State.region_inv | split | exact fun h => h | exact fun h => wf_smapAllTo h _
    | exact fun h => wf_sfilter h _ | exact fun _ => rfl | intro _ _ _ | intro _ _ | intro _ | dsimp only
    | contradiction
    | with_reducible refine inv_mk ?_ rfl rfl rfl rfl rfl rfl rfl rfl rfl rfl rfl rfl rfl rfl rfl rfl
    | with_reducible refine canon_mk ?_ rfl rfl
    | with_reducible refine inv_mk_wf ?_ rfl rfl rfl ?_ ?_ ?_ ?_ ?_ ?_ rfl ?_ rfl rfl rfl rfl rfl
    | refine wf_smapAllTo ?_ _)

theorem State.restorePages_inv {s : State} (held : List (Nat × BitVec 64)) (h0 : s.Inv) :
    (State.restorePages s held).Inv := by
  unfold State.restorePages
  try dsimp only
  repeat' (first
    | with_reducible assumption | with_reducible apply State.dropMigrating_inv
    | with_reducible apply State.setEntryBits_inv | with_reducible apply foldl_inv | with_reducible apply foldl_inv2
    | with_reducible apply foldl_inv1 | with_reducible apply foldl_canon | with_reducible apply State.setRegion_inv
    | with_reducible apply State.region_inv | split | exact fun h => h | exact fun h => wf_smapAllTo h _
    | exact fun h => wf_sfilter h _ | exact fun _ => rfl | intro _ _ _ | intro _ _ | intro _ | dsimp only
    | contradiction
    | with_reducible refine inv_mk ?_ rfl rfl rfl rfl rfl rfl rfl rfl rfl rfl rfl rfl rfl rfl rfl rfl
    | with_reducible refine canon_mk ?_ rfl rfl
    | with_reducible refine inv_mk_wf ?_ rfl rfl rfl ?_ ?_ ?_ ?_ ?_ ?_ rfl ?_ rfl rfl rfl rfl rfl
    | refine wf_smapAllTo ?_ _)

theorem State.variantEnd_inv {s : State} (h0 : s.Inv) :
    (State.variantEnd s).Inv := by
  unfold State.variantEnd
  try dsimp only
  repeat' (first
    | with_reducible assumption | with_reducible apply State.noteReads_inv
    | with_reducible apply State.restorePages_inv | with_reducible apply State.vaRead_inv
    | refine State.vaRead_inv_eq (by assumption) ?_ | with_reducible apply State.answer_inv
    | with_reducible apply State.vaStore_inv | with_reducible apply foldl_inv | with_reducible apply foldl_inv2
    | with_reducible apply foldl_inv1 | with_reducible apply foldl_canon | with_reducible apply State.setRegion_inv
    | with_reducible apply State.region_inv | split | exact fun h => h | exact fun h => wf_smapAllTo h _
    | exact fun h => wf_sfilter h _ | exact fun _ => rfl | intro _ _ _ | intro _ _ | intro _ | dsimp only
    | contradiction
    | with_reducible refine inv_mk ?_ rfl rfl rfl rfl rfl rfl rfl rfl rfl rfl rfl rfl rfl rfl rfl rfl
    | with_reducible refine canon_mk ?_ rfl rfl
    | with_reducible refine inv_mk_wf ?_ rfl rfl rfl ?_ ?_ ?_ ?_ ?_ ?_ rfl ?_ rfl rfl rfl rfl rfl
    | refine wf_smapAllTo ?_ _)

theorem State.variantGoOn_inv {s : State} (dst : Nat) (held : List (Nat × BitVec 64)) (h0 : s.Inv) :
    (State.variantGoOn s dst held).Inv := by
  unfold State.variantGoOn
  try dsimp only
  repeat' (first
    | with_reducible assumption | with_reducible apply State.touchAll_inv
    | refine State.touchAll_inv_eq (by assumption) ?_ | with_reducible apply State.variantEnd_inv
    | with_reducible apply foldl_inv | with_reducible apply foldl_inv2 | with_reducible apply foldl_inv1
    | with_reducible apply foldl_canon | with_reducible apply State.setRegion_inv
    | with_reducible apply State.region_inv | split | exact fun h => h | exact fun h => wf_smapAllTo h _
    | exact fun h => wf_sfilter h _ | exact fun _ => rfl | intro _ _ _ | intro _ _ | intro _ | dsimp only
    | contradiction
    | with_reducible refine inv_mk ?_ rfl rfl rfl rfl rfl rfl rfl rfl rfl rfl rfl rfl rfl rfl rfl rfl
    | with_reducible refine canon_mk ?_ rfl rfl
    | with_reducible refine inv_mk_wf ?_ rfl rfl rfl ?_ ?_ ?_ ?_ ?_ ?_ rfl ?_ rfl rfl rfl rfl rfl
    | refine wf_smapAllTo ?_ _)

theorem doVariantLoad_inv (mb : Nat) {s : State} (h0 : s.Inv) :
    (doVariantLoad mb s).Inv := by
  unfold doVariantLoad
  try dsimp only
  repeat' (first
    | with_reducible assumption | with_reducible apply State.variantGoOn_inv
    | with_reducible apply State.ctxCommand_inv | with_reducible apply State.variantBegin_inv
    | with_reducible apply foldl_inv | with_reducible apply foldl_inv2 | with_reducible apply foldl_inv1
    | with_reducible apply foldl_canon | with_reducible apply State.setRegion_inv
    | with_reducible apply State.region_inv | split | exact fun h => h | exact fun h => wf_smapAllTo h _
    | exact fun h => wf_sfilter h _ | exact fun _ => rfl | intro _ _ _ | intro _ _ | intro _ | dsimp only
    | contradiction
    | with_reducible refine inv_mk ?_ rfl rfl rfl rfl rfl rfl rfl rfl rfl rfl rfl rfl rfl rfl rfl rfl
    | with_reducible refine canon_mk ?_ rfl rfl
    | with_reducible refine inv_mk_wf ?_ rfl rfl rfl ?_ ?_ ?_ ?_ ?_ ?_ rfl ?_ rfl rfl rfl rfl rfl
    | refine wf_smapAllTo ?_ _)

theorem execVariantLoad_inv (mb : Nat) {s : State} (h : s.Inv) : OutInv (execVariantLoad mb s) := by
  repeat' (first
    | with_reducible assumption | with_reducible apply doVariantLoad_inv | with_reducible apply onUnit_inv
    | with_reducible apply outInv_next | unfold execVariantLoad)

theorem execCommitBlock_inv (rows : Nat) (begun : Bool) {s : State} (h : s.Inv)
    : OutInv (execCommitBlock rows begun s) := by
  repeat' (first
    | with_reducible assumption | with_reducible apply State.commitBlock_inv | with_reducible apply onUnit_inv
    | with_reducible apply outInv_next | unfold execCommitBlock)

theorem execRowMaskPropagate_inv {s : State} (h : s.Inv) : OutInv (execRowMaskPropagate s) := by
  repeat' (first
    | with_reducible assumption | with_reducible apply State.landMask_inv | with_reducible apply onUnit_inv
    | with_reducible apply outInv_next | unfold execRowMaskPropagate)

theorem doTransferStart_inv (k : Nat) {s : State} (h0 : s.Inv) :
    (doTransferStart k s).Inv := by
  unfold doTransferStart
  try dsimp only
  repeat' (first
    | with_reducible assumption | with_reducible apply State.pumpShuttle_inv
    | with_reducible apply State.setTransfer_inv | with_reducible apply foldl_inv | with_reducible apply foldl_inv2
    | with_reducible apply foldl_inv1 | with_reducible apply foldl_canon | with_reducible apply State.setRegion_inv
    | with_reducible apply State.region_inv | split)

theorem execTransferStart_inv (k : Nat) {s : State} (h : s.Inv) : OutInv (execTransferStart k s) := by
  repeat' (first
    | with_reducible assumption | with_reducible apply doTransferStart_inv | with_reducible apply onUnit_inv
    | with_reducible apply outInv_next | unfold execTransferStart)

theorem doSourceLineArrival_inv (k : Nat) (n : Nat) {s : State} (h0 : s.Inv) :
    (doSourceLineArrival k n s).Inv := by
  unfold doSourceLineArrival
  try dsimp only
  repeat' (first
    | with_reducible assumption | with_reducible apply State.pumpShuttle_inv
    | with_reducible apply State.placeLine_inv | with_reducible apply foldl_inv | with_reducible apply foldl_inv2
    | with_reducible apply foldl_inv1 | with_reducible apply foldl_canon | with_reducible apply State.setRegion_inv
    | with_reducible apply State.region_inv | split)

theorem execSourceLineArrival_inv (k : Nat) (n : Nat) {s : State} (h : s.Inv) : OutInv (execSourceLineArrival k n s)
    := by
  repeat' (first
    | with_reducible assumption | with_reducible apply doSourceLineArrival_inv | with_reducible apply onUnit_inv
    | with_reducible apply outInv_next | unfold execSourceLineArrival)

theorem doFetchTimeout_inv (k : Nat) (n : Nat) {s : State} (h0 : s.Inv) :
    (doFetchTimeout k n s).Inv := by
  unfold doFetchTimeout
  try dsimp only
  repeat' (first
    | with_reducible assumption | with_reducible apply State.raise_inv | with_reducible apply State.at_inv
    | with_reducible apply State.setTransfer_inv | with_reducible apply State.setShuttle_inv
    | with_reducible apply foldl_inv | with_reducible apply foldl_inv2 | with_reducible apply foldl_inv1
    | with_reducible apply foldl_canon | with_reducible apply State.setRegion_inv
    | with_reducible apply State.region_inv | split)

theorem execFetchTimeout_inv (k : Nat) (n : Nat) {s : State} (h : s.Inv) : OutInv (execFetchTimeout k n s) := by
  repeat' (first
    | with_reducible assumption | with_reducible apply doFetchTimeout_inv | with_reducible apply onUnit_inv
    | with_reducible apply outInv_next | unfold execFetchTimeout)

theorem doTransferComplete_inv (k : Nat) {s : State} (h0 : s.Inv) :
    (doTransferComplete k s).Inv := by
  unfold doTransferComplete
  try dsimp only
  repeat' (first
    | with_reducible assumption | with_reducible apply State.setShuttle_inv | with_reducible apply State.addObj_inv
    | with_reducible apply State.trace_inv | with_reducible apply foldl_inv | with_reducible apply foldl_inv2
    | with_reducible apply foldl_inv1 | with_reducible apply foldl_canon | with_reducible apply State.setRegion_inv
    | with_reducible apply State.region_inv | split)

theorem execTransferComplete_inv (k : Nat) {s : State} (h : s.Inv) : OutInv (execTransferComplete k s) := by
  repeat' (first
    | with_reducible assumption | with_reducible apply doTransferComplete_inv | with_reducible apply onUnit_inv
    | with_reducible apply outInv_next | unfold execTransferComplete)

theorem State.spdmReply_inv {s : State} (code : Nat) (error : Nat) (body : List Byte) (h0 : s.Inv) :
    (State.spdmReply s code error body).Inv := by
  unfold State.spdmReply
  try dsimp only
  repeat' (first | with_reducible assumption | with_reducible apply State.emit_inv)

theorem State.spdmAt_inv {s : State} (code : Nat) (stage : Nat) {f : State → State} (h0 : s.Inv)
    (hf1 : ∀ u0, u0.Inv → (f u0).Inv) :
    (State.spdmAt s code stage f).Inv := by
  unfold State.spdmAt
  try dsimp only
  repeat' (first
    | with_reducible assumption | with_reducible apply State.spdmReply_inv | with_reducible apply foldl_inv
    | with_reducible apply foldl_inv2 | with_reducible apply foldl_inv1 | with_reducible apply foldl_canon
    | with_reducible apply State.setRegion_inv | with_reducible apply State.region_inv | with_reducible apply hf1
    | split)

theorem State.setSpdm_inv {s : State} (n : Nat) (h0 : s.Inv) :
    (State.setSpdm s n).Inv := by
  unfold State.setSpdm
  try dsimp only
  repeat' (first
    | with_reducible assumption | with_reducible apply foldl_inv | with_reducible apply foldl_inv2
    | with_reducible apply foldl_inv1 | with_reducible apply foldl_canon | with_reducible apply State.setRegion_inv
    | with_reducible apply State.region_inv | split | exact fun h => h | exact fun h => wf_smapAllTo h _
    | exact fun h => wf_sfilter h _ | exact fun _ => rfl | intro _ _ _ | intro _ _ | intro _ | dsimp only
    | contradiction
    | with_reducible refine inv_mk ?_ rfl rfl rfl rfl rfl rfl rfl rfl rfl rfl rfl rfl rfl rfl rfl rfl)

theorem doGetVersion_inv {s : State} (h0 : s.Inv) :
    (doGetVersion s).Inv := by
  unfold doGetVersion
  try dsimp only
  repeat' (first
    | with_reducible assumption | with_reducible apply State.spdmAt_inv | with_reducible apply State.spdmReply_inv
    | with_reducible apply State.setSpdm_inv | with_reducible apply foldl_inv | with_reducible apply foldl_inv2
    | with_reducible apply foldl_inv1 | with_reducible apply foldl_canon | with_reducible apply State.setRegion_inv
    | with_reducible apply State.region_inv | split | exact fun h => h | exact fun h => wf_smapAllTo h _
    | exact fun h => wf_sfilter h _ | exact fun _ => rfl | intro _ _ _ | intro _ _)

theorem execGetVersion_inv {s : State} (h : s.Inv) : OutInv (execGetVersion s) := by
  repeat' (first
    | with_reducible assumption | with_reducible apply doGetVersion_inv | with_reducible apply onUnit_inv
    | with_reducible apply outInv_next | unfold execGetVersion)

theorem doGetCapabilities_inv {s : State} (h0 : s.Inv) :
    (doGetCapabilities s).Inv := by
  unfold doGetCapabilities
  try dsimp only
  repeat' (first
    | with_reducible assumption | with_reducible apply State.spdmAt_inv | with_reducible apply State.spdmReply_inv
    | with_reducible apply State.setSpdm_inv | with_reducible apply foldl_inv | with_reducible apply foldl_inv2
    | with_reducible apply foldl_inv1 | with_reducible apply foldl_canon | with_reducible apply State.setRegion_inv
    | with_reducible apply State.region_inv | split | exact fun h => h | exact fun h => wf_smapAllTo h _
    | exact fun h => wf_sfilter h _ | exact fun _ => rfl | intro _ _ _ | intro _ _)

theorem execGetCapabilities_inv {s : State} (h : s.Inv) : OutInv (execGetCapabilities s) := by
  repeat' (first
    | with_reducible assumption | with_reducible apply doGetCapabilities_inv | with_reducible apply onUnit_inv
    | with_reducible apply outInv_next | unfold execGetCapabilities)

theorem doNegotiateAlgorithms_inv (rsa3072 : Bool) (hash256 : Bool) (meas256 : Bool) {s : State} (h0 : s.Inv) :
    (doNegotiateAlgorithms rsa3072 hash256 meas256 s).Inv := by
  unfold doNegotiateAlgorithms
  try dsimp only
  repeat' (first
    | with_reducible assumption | with_reducible apply State.spdmAt_inv | with_reducible apply State.spdmReply_inv
    | with_reducible apply State.setSpdm_inv | with_reducible apply foldl_inv | with_reducible apply foldl_inv2
    | with_reducible apply foldl_inv1 | with_reducible apply foldl_canon | with_reducible apply State.setRegion_inv
    | with_reducible apply State.region_inv | split | exact fun h => h | exact fun h => wf_smapAllTo h _
    | exact fun h => wf_sfilter h _ | exact fun _ => rfl | intro _ _ _ | intro _ _)

theorem execNegotiateAlgorithms_inv (rsa3072 : Bool) (sha256 : Bool) (measSha256 : Bool) {s : State} (h : s.Inv)
    : OutInv (execNegotiateAlgorithms rsa3072 sha256 measSha256 s) := by
  repeat' (first
    | with_reducible assumption | with_reducible apply doNegotiateAlgorithms_inv | with_reducible apply onUnit_inv
    | with_reducible apply outInv_next | unfold execNegotiateAlgorithms)

theorem doGetDigests_inv {s : State} (h0 : s.Inv) :
    (doGetDigests s).Inv := by
  unfold doGetDigests
  try dsimp only
  repeat' (first
    | with_reducible assumption | with_reducible apply State.spdmAt_inv | with_reducible apply State.spdmReply_inv
    | with_reducible apply foldl_inv | with_reducible apply foldl_inv2 | with_reducible apply foldl_inv1
    | with_reducible apply foldl_canon | with_reducible apply State.setRegion_inv
    | with_reducible apply State.region_inv | split | exact fun h => h | exact fun h => wf_smapAllTo h _
    | exact fun h => wf_sfilter h _ | exact fun _ => rfl | intro _ _ _ | intro _ _)

theorem execGetDigests_inv {s : State} (h : s.Inv) : OutInv (execGetDigests s) := by
  repeat' (first
    | with_reducible assumption | with_reducible apply doGetDigests_inv | with_reducible apply onUnit_inv
    | with_reducible apply outInv_next | unfold execGetDigests)

theorem doGetCertificate_inv (slot : Nat) (offset : Nat) (length : Nat) {s : State} (h0 : s.Inv) :
    (doGetCertificate slot offset length s).Inv := by
  unfold doGetCertificate
  try dsimp only
  repeat' (first
    | with_reducible assumption | with_reducible apply State.spdmAt_inv | with_reducible apply State.spdmReply_inv
    | with_reducible apply foldl_inv | with_reducible apply foldl_inv2 | with_reducible apply foldl_inv1
    | with_reducible apply foldl_canon | with_reducible apply State.setRegion_inv
    | with_reducible apply State.region_inv | split | exact fun h => h | exact fun h => wf_smapAllTo h _
    | exact fun h => wf_sfilter h _ | exact fun _ => rfl | intro _ _ _ | intro _ _)

theorem execGetCertificate_inv (slot : Nat) (offset : Nat) (length : Nat) {s : State} (h : s.Inv)
    : OutInv (execGetCertificate slot offset length s) := by
  repeat' (first
    | with_reducible assumption | with_reducible apply doGetCertificate_inv | with_reducible apply onUnit_inv
    | with_reducible apply outInv_next | unfold execGetCertificate)

theorem State.spdmSigned_inv {s : State} (code : Nat) (nonce : BitVec 256) (body : List Byte) (h0 : s.Inv) :
    (State.spdmSigned s code nonce body).Inv := by
  unfold State.spdmSigned
  try dsimp only
  repeat' (first
    | with_reducible assumption | with_reducible apply State.spdmReply_inv | with_reducible apply foldl_inv
    | with_reducible apply foldl_inv2 | with_reducible apply foldl_inv1 | with_reducible apply foldl_canon
    | with_reducible apply State.setRegion_inv | with_reducible apply State.region_inv | split | exact fun h => h
    | exact fun h => wf_smapAllTo h _ | exact fun h => wf_sfilter h _ | exact fun _ => rfl | intro _ _ _ | intro _ _
    | intro _ | dsimp only | contradiction
    | with_reducible refine inv_mk ?_ rfl rfl rfl rfl rfl rfl rfl rfl rfl rfl rfl rfl rfl rfl rfl rfl)

theorem doChallenge_inv (slot : Nat) (nonce : BitVec 256) {s : State} (h0 : s.Inv) :
    (doChallenge slot nonce s).Inv := by
  unfold doChallenge
  try dsimp only
  repeat' (first
    | with_reducible assumption | with_reducible apply State.spdmAt_inv | with_reducible apply State.spdmSigned_inv
    | with_reducible apply State.spdmReply_inv | with_reducible apply foldl_inv | with_reducible apply foldl_inv2
    | with_reducible apply foldl_inv1 | with_reducible apply foldl_canon | with_reducible apply State.setRegion_inv
    | with_reducible apply State.region_inv | split | exact fun h => h | exact fun h => wf_smapAllTo h _
    | exact fun h => wf_sfilter h _ | exact fun _ => rfl | intro _ _ _ | intro _ _)

theorem execChallenge_inv (slot : Nat) (nonce : BitVec 256) {s : State} (h : s.Inv)
    : OutInv (execChallenge slot nonce s) := by
  repeat' (first
    | with_reducible assumption | with_reducible apply doChallenge_inv | with_reducible apply onUnit_inv
    | with_reducible apply outInv_next | unfold execChallenge)

theorem doGetMeasurements_inv (index : Nat) (signed : Bool) (nonce : BitVec 256) {s : State} (h0 : s.Inv) :
    (doGetMeasurements index signed nonce s).Inv := by
  unfold doGetMeasurements
  try dsimp only
  repeat' (first
    | with_reducible assumption | with_reducible apply State.spdmAt_inv | with_reducible apply State.spdmReply_inv
    | with_reducible apply State.spdmSigned_inv | with_reducible apply foldl_inv | with_reducible apply foldl_inv2
    | with_reducible apply foldl_inv1 | with_reducible apply foldl_canon | with_reducible apply State.setRegion_inv
    | with_reducible apply State.region_inv | split | exact fun h => h | exact fun h => wf_smapAllTo h _
    | exact fun h => wf_sfilter h _ | exact fun _ => rfl | intro _ _ _ | intro _ _ | intro _ | dsimp only
    | contradiction
    | with_reducible refine inv_mk ?_ rfl rfl rfl rfl rfl rfl rfl rfl rfl rfl rfl rfl rfl rfl rfl rfl)

theorem execGetMeasurements_inv (index : Nat) (signed : Bool) (nonce : BitVec 256) {s : State} (h : s.Inv)
    : OutInv (execGetMeasurements index signed nonce s) := by
  repeat' (first
    | with_reducible assumption | with_reducible apply doGetMeasurements_inv | with_reducible apply onUnit_inv
    | with_reducible apply outInv_next | unfold execGetMeasurements)

theorem doSpdmUnsupportedRequest_inv (code : BitVec 8) {s : State} (h0 : s.Inv) :
    (doSpdmUnsupportedRequest code s).Inv := by
  unfold doSpdmUnsupportedRequest
  try dsimp only
  repeat' (first
    | with_reducible assumption | with_reducible apply State.spdmReply_inv | with_reducible apply foldl_inv
    | with_reducible apply foldl_inv2 | with_reducible apply foldl_inv1 | with_reducible apply foldl_canon
    | with_reducible apply State.setRegion_inv | with_reducible apply State.region_inv | split)

theorem execSpdmUnsupportedRequest_inv (code : BitVec 8) {s : State} (h : s.Inv)
    : OutInv (execSpdmUnsupportedRequest code s) := by
  repeat' (first
    | with_reducible assumption | with_reducible apply doSpdmUnsupportedRequest_inv
    | with_reducible apply onUnit_inv | with_reducible apply outInv_next | unfold execSpdmUnsupportedRequest)

theorem State.recordArrives_inv {s : State} (p : Nat) (src : Nat) (op : Nat) (rec1 : List Byte) (h0 : s.Inv) :
    (State.recordArrives s p src op rec1).Inv := by
  unfold State.recordArrives
  try dsimp only
  repeat' (first
    | with_reducible assumption | with_reducible apply State.takeStart_inv | with_reducible apply State.sramPut_inv
    | with_reducible apply foldl_inv | with_reducible apply foldl_inv2 | with_reducible apply foldl_inv1
    | with_reducible apply foldl_canon | with_reducible apply State.setRegion_inv
    | with_reducible apply State.region_inv | split)

theorem execArmRecord_inv (p : Nat) (src : Nat) (rec : List Byte) {s : State} (h : s.Inv)
    : OutInv (execArmRecord p src rec s) := by
  repeat' (first
    | with_reducible assumption | with_reducible apply State.recordArrives_inv | with_reducible apply onUnit_inv
    | with_reducible apply outInv_next | unfold execArmRecord)

theorem execCommitRecord_inv (p : Nat) (src : Nat) (rec : List Byte) {s : State} (h : s.Inv)
    : OutInv (execCommitRecord p src rec s) := by
  repeat' (first
    | with_reducible assumption | with_reducible apply State.recordArrives_inv | with_reducible apply onUnit_inv
    | with_reducible apply outInv_next | unfold execCommitRecord)

theorem doStartAck_inv (p : Nat) (src : Nat) (rec1 : List Byte) {s : State} (h0 : s.Inv) :
    (doStartAck p src rec1 s).Inv := by
  unfold doStartAck
  try dsimp only
  repeat' (first
    | with_reducible assumption | with_reducible apply State.takeStartAck_inv
    | with_reducible apply State.sramPut_inv | with_reducible apply foldl_inv | with_reducible apply foldl_inv2
    | with_reducible apply foldl_inv1 | with_reducible apply foldl_canon | with_reducible apply State.setRegion_inv
    | with_reducible apply State.region_inv | split)

theorem execStartAck_inv (p : Nat) (src : Nat) (rec : List Byte) {s : State} (h : s.Inv)
    : OutInv (execStartAck p src rec s) := by
  repeat' (first
    | with_reducible assumption | with_reducible apply doStartAck_inv | with_reducible apply onUnit_inv
    | with_reducible apply outInv_next | unfold execStartAck)

theorem execArmTimeout_inv {s : State} (h : s.Inv) : OutInv (execArmTimeout s) := by
  repeat' (first
    | with_reducible assumption | with_reducible apply State.startTimeout_inv | with_reducible apply onUnit_inv
    | with_reducible apply outInv_next | unfold execArmTimeout)

theorem State.startCommand_inv (op : Nat) (mb : Nat) (rq : List Byte) {s : State} (h0 : s.Inv) :
    (State.startCommand op mb rq s).Inv := by
  unfold State.startCommand
  try dsimp only
  repeat' (first
    | with_reducible assumption | with_reducible apply State.answer_inv | with_reducible apply State.takeStart_inv
    | with_reducible apply foldl_inv | with_reducible apply foldl_inv2 | with_reducible apply foldl_inv1
    | with_reducible apply foldl_canon | with_reducible apply State.setRegion_inv
    | with_reducible apply State.region_inv | split)

theorem execArmStart_inv (mb : Nat) {s : State} (h : s.Inv) : OutInv (execArmStart mb s) := by
  repeat' (first
    | with_reducible assumption | with_reducible apply State.withMail_inv
    | with_reducible apply State.startCommand_inv | with_reducible apply onUnit_inv
    | with_reducible apply outInv_next | unfold execArmStart)

theorem execCommitStart_inv (mb : Nat) {s : State} (h : s.Inv) : OutInv (execCommitStart mb s) := by
  repeat' (first
    | with_reducible assumption | with_reducible apply State.withMail_inv
    | with_reducible apply State.startCommand_inv | with_reducible apply onUnit_inv
    | with_reducible apply outInv_next | unfold execCommitStart)

theorem State.yEffect_inv {s : State} (y : YPending) (h0 : s.Inv) :
    (State.yEffect s y).Inv := by
  unfold State.yEffect
  try dsimp only
  repeat' (first
    | with_reducible assumption | with_reducible apply State.deadlineCheck_inv
    | with_reducible apply State.gatePassed_inv | with_reducible apply State.changeObj_inv
    | with_reducible apply State.sendSync_inv | with_reducible apply foldl_inv | with_reducible apply foldl_inv2
    | with_reducible apply foldl_inv1 | with_reducible apply foldl_canon | with_reducible apply State.setRegion_inv
    | with_reducible apply State.region_inv | split)

theorem doYRetireEffect_inv {s : State} (h0 : s.Inv) :
    (doYRetireEffect s).Inv := by
  unfold doYRetireEffect
  try dsimp only
  repeat' (first
    | with_reducible assumption | with_reducible apply State.at_inv | with_reducible apply State.yEffect_inv
    | with_reducible apply foldl_inv | with_reducible apply foldl_inv2 | with_reducible apply foldl_inv1
    | with_reducible apply foldl_canon | with_reducible apply State.setRegion_inv
    | with_reducible apply State.region_inv | split | exact fun h => h | exact fun h => wf_smapAllTo h _
    | exact fun h => wf_sfilter h _ | exact fun _ => rfl | intro _ _ _ | intro _ _ | intro _ | dsimp only
    | contradiction
    | with_reducible refine inv_mk ?_ rfl rfl rfl rfl rfl rfl rfl rfl rfl rfl rfl rfl rfl rfl rfl rfl)

theorem execYRetireEffect_inv {s : State} (h : s.Inv) : OutInv (execYRetireEffect s) := by
  repeat' (first
    | with_reducible assumption | with_reducible apply doYRetireEffect_inv | with_reducible apply onUnit_inv
    | with_reducible apply outInv_next | unfold execYRetireEffect)

theorem State.askMap_inv {s : State} (rq : List Byte) (h0 : s.Inv) :
    (State.askMap s rq).Inv := by
  unfold State.askMap
  try dsimp only
  repeat' (first
    | with_reducible assumption | with_reducible apply State.emit_inv | with_reducible apply foldl_inv
    | with_reducible apply foldl_inv2 | with_reducible apply foldl_inv1 | with_reducible apply foldl_canon
    | with_reducible apply State.setRegion_inv | with_reducible apply State.region_inv | split | exact fun h => h
    | exact fun h => wf_smapAllTo h _ | exact fun h => wf_sfilter h _ | exact fun _ => rfl | intro _ _ _ | intro _ _
    | intro _ | dsimp only | contradiction
    | with_reducible refine inv_mk ?_ rfl rfl rfl rfl rfl rfl rfl rfl rfl rfl rfl rfl rfl rfl rfl rfl
    | with_reducible refine canon_mk ?_ rfl rfl
    | with_reducible refine inv_mk_wf ?_ rfl rfl rfl ?_ ?_ ?_ ?_ ?_ ?_ rfl ?_ rfl rfl rfl rfl rfl
    | refine wf_smapAllTo ?_ _)

theorem State.weightFetch_inv (mb : Nat) (map : List Byte) (rq : List Byte) {s : State} (h0 : s.Inv) :
    (State.weightFetch mb map rq s).Inv := by
  unfold State.weightFetch
  try dsimp only
  repeat' (first
    | with_reducible assumption | with_reducible apply State.answer_inv | with_reducible apply State.askMap_inv
    | with_reducible apply State.fetchDone_inv | with_reducible apply State.setWeightOp_inv
    | with_reducible apply State.feedWeights_inv | with_reducible apply foldl_inv | with_reducible apply foldl_inv2
    | with_reducible apply foldl_inv1 | with_reducible apply foldl_canon | with_reducible apply State.setRegion_inv
    | with_reducible apply State.region_inv | split | exact fun h => h | exact fun h => wf_smapAllTo h _
    | exact fun h => wf_sfilter h _ | exact fun _ => rfl | intro _ _ _ | intro _ _ | intro _ | dsimp only
    | contradiction
    | with_reducible refine inv_mk ?_ rfl rfl rfl rfl rfl rfl rfl rfl rfl rfl rfl rfl rfl rfl rfl rfl
    | with_reducible refine canon_mk ?_ rfl rfl
    | with_reducible refine inv_mk_wf ?_ rfl rfl rfl ?_ ?_ ?_ ?_ ?_ ?_ rfl ?_ rfl rfl rfl rfl rfl
    | refine wf_smapAllTo ?_ _)

theorem execWeightFetch_inv (mb : Nat) (map : List Byte) {s : State} (h : s.Inv) : OutInv (execWeightFetch mb map s)
    := by
  repeat' (first
    | with_reducible assumption | with_reducible apply State.withMail_inv
    | with_reducible apply State.weightFetch_inv | with_reducible apply onUnit_inv
    | with_reducible apply outInv_next | unfold execWeightFetch | split | intro _ _ _ | dsimp only)

theorem State.weightSwap_inv (mb : Nat) (rq : List Byte) {s : State} (h0 : s.Inv) :
    (State.weightSwap mb rq s).Inv := by
  unfold State.weightSwap
  try dsimp only
  repeat' (first
    | with_reducible assumption | with_reducible apply State.answer_inv | with_reducible apply State.setWeightOp_inv
    | with_reducible apply State.swapDone_inv | with_reducible apply foldl_inv | with_reducible apply foldl_inv2
    | with_reducible apply foldl_inv1 | with_reducible apply foldl_canon | with_reducible apply State.setRegion_inv
    | with_reducible apply State.region_inv | split)

theorem doWeightSwap_inv (mb : Nat) {s : State} (h0 : s.Inv) :
    (doWeightSwap mb s).Inv := by
  unfold doWeightSwap
  try dsimp only
  repeat' (first
    | with_reducible assumption | with_reducible apply State.withMail_inv
    | with_reducible apply State.weightSwap_inv | with_reducible apply foldl_inv | with_reducible apply foldl_inv2
    | with_reducible apply foldl_inv1 | with_reducible apply foldl_canon | with_reducible apply State.setRegion_inv
    | with_reducible apply State.region_inv | split)

theorem execWeightSwap_inv (mb : Nat) {s : State} (h : s.Inv) : OutInv (execWeightSwap mb s) := by
  repeat' (first
    | with_reducible assumption | with_reducible apply doWeightSwap_inv | with_reducible apply onUnit_inv
    | with_reducible apply outInv_next | unfold execWeightSwap)

theorem doLayerCopyStart_inv {s : State} (h0 : s.Inv) :
    (doLayerCopyStart s).Inv := by
  unfold doLayerCopyStart
  try dsimp only
  repeat' (first
    | with_reducible assumption | with_reducible apply State.setWeightOp_inv
    | with_reducible apply State.readStage_inv | with_reducible apply foldl_inv | with_reducible apply foldl_inv2
    | with_reducible apply foldl_inv1 | with_reducible apply foldl_canon | with_reducible apply State.setRegion_inv
    | with_reducible apply State.region_inv | split | exact fun h => h | exact fun h => wf_smapAllTo h _
    | exact fun h => wf_sfilter h _ | exact fun _ => rfl | intro _ _ _ | intro _ _ | intro _ | dsimp only
    | contradiction
    | with_reducible refine inv_mk ?_ rfl rfl rfl rfl rfl rfl rfl rfl rfl rfl rfl rfl rfl rfl rfl rfl
    | with_reducible refine canon_mk ?_ rfl rfl
    | with_reducible refine inv_mk_wf ?_ rfl rfl rfl ?_ ?_ ?_ ?_ ?_ ?_ rfl ?_ rfl rfl rfl rfl rfl
    | refine wf_smapAllTo ?_ _)

theorem execLayerCopyStart_inv {s : State} (h : s.Inv) : OutInv (execLayerCopyStart s) := by
  repeat' (first
    | with_reducible assumption | with_reducible apply doLayerCopyStart_inv | with_reducible apply onUnit_inv
    | with_reducible apply outInv_next | unfold execLayerCopyStart)

theorem doChunkLanded_inv (i : Nat) {s : State} (h0 : s.Inv) :
    (doChunkLanded i s).Inv := by
  unfold doChunkLanded
  try dsimp only
  repeat' (first
    | with_reducible assumption | with_reducible apply State.copyChunk_inv
    | refine State.copyChunk_inv_eq (by assumption) ?_ | with_reducible apply State.setWeightOp_inv
    | with_reducible apply State.fetchDone_inv | with_reducible apply State.chunkFailed_inv
    | with_reducible apply foldl_inv | with_reducible apply foldl_inv2 | with_reducible apply foldl_inv1
    | with_reducible apply foldl_canon | with_reducible apply State.setRegion_inv
    | with_reducible apply State.region_inv | split)

theorem execChunkLanded_inv (i : Nat) {s : State} (h : s.Inv) : OutInv (execChunkLanded i s) := by
  repeat' (first
    | with_reducible assumption | with_reducible apply doChunkLanded_inv | with_reducible apply onUnit_inv
    | with_reducible apply outInv_next | unfold execChunkLanded)

theorem doLayerCopyComplete_inv {s : State} (h0 : s.Inv) :
    (doLayerCopyComplete s).Inv := by
  unfold doLayerCopyComplete
  try dsimp only
  repeat' (first
    | with_reducible assumption | with_reducible apply State.layerDone_inv | with_reducible apply foldl_inv
    | with_reducible apply foldl_inv2 | with_reducible apply foldl_inv1 | with_reducible apply foldl_canon
    | with_reducible apply State.setRegion_inv | with_reducible apply State.region_inv | split)

theorem execLayerCopyComplete_inv {s : State} (h : s.Inv) : OutInv (execLayerCopyComplete s) := by
  repeat' (first
    | with_reducible assumption | with_reducible apply doLayerCopyComplete_inv | with_reducible apply onUnit_inv
    | with_reducible apply outInv_next | unfold execLayerCopyComplete)

theorem State.acceptYield_inv (mb : Nat) (b : List Byte) {s : State} (h0 : s.Inv) :
    (State.acceptYield mb b s).Inv := by
  unfold State.acceptYield
  try dsimp only
  repeat' (first
    | with_reducible assumption | with_reducible apply State.answer_inv | with_reducible apply foldl_inv
    | with_reducible apply foldl_inv2 | with_reducible apply foldl_inv1 | with_reducible apply foldl_canon
    | with_reducible apply State.setRegion_inv | with_reducible apply State.region_inv | split | exact fun h => h
    | exact fun h => wf_smapAllTo h _ | exact fun h => wf_sfilter h _ | exact fun _ => rfl | intro _ _ _ | intro _ _
    | intro _ | dsimp only | contradiction
    | with_reducible refine inv_mk ?_ rfl rfl rfl rfl rfl rfl rfl rfl rfl rfl rfl rfl rfl rfl rfl rfl)

theorem doYield_inv (mb : Nat) {s : State} (h0 : s.Inv) :
    (doYield mb s).Inv := by
  unfold doYield
  try dsimp only
  repeat' (first
    | with_reducible assumption | with_reducible apply State.withMail_inv
    | with_reducible apply State.acceptYield_inv | with_reducible apply foldl_inv | with_reducible apply foldl_inv2
    | with_reducible apply foldl_inv1 | with_reducible apply foldl_canon | with_reducible apply State.setRegion_inv
    | with_reducible apply State.region_inv | split)

theorem execYield_inv (mb : Nat) {s : State} (h : s.Inv) : OutInv (execYield mb s) := by
  repeat' (first
    | with_reducible assumption | with_reducible apply doYield_inv | with_reducible apply onUnit_inv
    | with_reducible apply outInv_next | unfold execYield)

theorem execSaveComplete_inv {s : State} (h : s.Inv) : OutInv (execSaveComplete s) := by
  repeat' (first
    | with_reducible assumption | with_reducible apply State.endSave_inv | with_reducible apply onUnit_inv
    | with_reducible apply outInv_next | unfold execSaveComplete)

theorem doYieldLimitExpiry_inv {s : State} (h0 : s.Inv) :
    (doYieldLimitExpiry s).Inv := by
  unfold doYieldLimitExpiry
  try dsimp only
  repeat' (first
    | with_reducible assumption | with_reducible apply State.openSegment_inv
    | with_reducible apply State.answerYield_inv | with_reducible apply foldl_inv | with_reducible apply foldl_inv2
    | with_reducible apply foldl_inv1 | with_reducible apply foldl_canon | with_reducible apply State.setRegion_inv
    | with_reducible apply State.region_inv | split | exact fun h => h | exact fun h => wf_smapAllTo h _
    | exact fun h => wf_sfilter h _ | exact fun _ => rfl | intro _ _ _ | intro _ _ | intro _ | dsimp only
    | contradiction
    | with_reducible refine inv_mk ?_ rfl rfl rfl rfl rfl rfl rfl rfl rfl rfl rfl rfl rfl rfl rfl rfl)

theorem execYieldLimitExpiry_inv {s : State} (h : s.Inv) : OutInv (execYieldLimitExpiry s) := by
  repeat' (first
    | with_reducible assumption | with_reducible apply doYieldLimitExpiry_inv | with_reducible apply onUnit_inv
    | with_reducible apply outInv_next | unfold execYieldLimitExpiry)

theorem State.acceptStop_inv (mb : Nat) (b : List Byte) {s : State} (h0 : s.Inv) :
    (State.acceptStop mb b s).Inv := by
  unfold State.acceptStop
  try dsimp only
  repeat' (first
    | with_reducible assumption | with_reducible apply State.answer_inv | with_reducible apply foldl_inv
    | with_reducible apply foldl_inv2 | with_reducible apply foldl_inv1 | with_reducible apply foldl_canon
    | with_reducible apply State.setRegion_inv | with_reducible apply State.region_inv | split | exact fun h => h
    | exact fun h => wf_smapAllTo h _ | exact fun h => wf_sfilter h _ | exact fun _ => rfl | intro _ _ _ | intro _ _
    | intro _ | dsimp only | contradiction
    | with_reducible refine inv_mk ?_ rfl rfl rfl rfl rfl rfl rfl rfl rfl rfl rfl rfl rfl rfl rfl rfl)

theorem execStop_inv (mb : Nat) {s : State} (h : s.Inv) : OutInv (execStop mb s) := by
  repeat' (first
    | with_reducible assumption | with_reducible apply State.withMail_inv
    | with_reducible apply State.acceptStop_inv | with_reducible apply onUnit_inv | with_reducible apply outInv_next
    | unfold execStop)

theorem doStopLimitExpiry_inv {s : State} (h0 : s.Inv) :
    (doStopLimitExpiry s).Inv := by
  unfold doStopLimitExpiry
  try dsimp only
  repeat' (first
    | with_reducible assumption | with_reducible apply State.answer_inv | with_reducible apply foldl_inv
    | with_reducible apply foldl_inv2 | with_reducible apply foldl_inv1 | with_reducible apply foldl_canon
    | with_reducible apply State.setRegion_inv | with_reducible apply State.region_inv | split | exact fun h => h
    | exact fun h => wf_smapAllTo h _ | exact fun h => wf_sfilter h _ | exact fun _ => rfl | intro _ _ _ | intro _ _
    | intro _ | dsimp only | contradiction
    | with_reducible refine inv_mk ?_ rfl rfl rfl rfl rfl rfl rfl rfl rfl rfl rfl rfl rfl rfl rfl rfl)

theorem execStopLimitExpiry_inv {s : State} (h : s.Inv) : OutInv (execStopLimitExpiry s) := by
  repeat' (first
    | with_reducible assumption | with_reducible apply doStopLimitExpiry_inv | with_reducible apply onUnit_inv
    | with_reducible apply outInv_next | unfold execStopLimitExpiry)

end Sys2Proof.Machine
end

