-- ==== Sys2Proof/Laws/State.lean ====
section
/-! SUPPORT. Reading the module's state after an update: one lemma for each field and update, and what a register, a field,
a unit or the mailboxes' SRAM reads after a write. -/
namespace Sys2Proof.Machine

/-! ## setReg -/

@[simp] theorem State.pending_setReg (s : State) (r : Reg) (v : Reg32) : (s.setReg r v).pending = s.pending := (rfl)
@[simp] theorem State.now_setReg (s : State) (r : Reg) (v : Reg32) : (s.setReg r v).now = s.now := (rfl)
@[simp] theorem State.freeCtr_setReg (s : State) (r : Reg) (v : Reg32) : (s.setReg r v).freeCtr = s.freeCtr := (rfl)
@[simp] theorem State.rdata_setReg (s : State) (r : Reg) (v : Reg32) : (s.setReg r v).rdata = s.rdata := (rfl)
@[simp] theorem State.outbox_setReg (s : State) (r : Reg) (v : Reg32) : (s.setReg r v).outbox = s.outbox := (rfl)
@[simp] theorem State.pick_setReg (s : State) (r : Reg) (v : Reg32) : (s.setReg r v).pick = s.pick := (rfl)
@[simp] theorem State.clk_setReg (s : State) (r : Reg) (v : Reg32) : (s.setReg r v).clk = s.clk := (rfl)
@[simp] theorem State.seq_setReg (s : State) (r : Reg) (v : Reg32) : (s.setReg r v).seq = s.seq := (rfl)
@[simp] theorem State.regions_setReg (s : State) (r : Reg) (v : Reg32) : (s.setReg r v).regions = s.regions := (rfl)
@[simp] theorem State.array_setReg (s : State) (r : Reg) (v : Reg32) : (s.setReg r v).array = s.array := (rfl)
@[simp] theorem State.unsched_setReg (s : State) (r : Reg) (v : Reg32) : (s.setReg r v).unsched = s.unsched := (rfl)
@[simp] theorem State.hbm_setReg (s : State) (r : Reg) (v : Reg32) : (s.setReg r v).hbm = s.hbm := (rfl)
@[simp] theorem State.cxl_setReg (s : State) (r : Reg) (v : Reg32) : (s.setReg r v).cxl = s.cxl := (rfl)
@[simp] theorem State.mmu_setReg (s : State) (r : Reg) (v : Reg32) : (s.setReg r v).mmu = s.mmu := (rfl)
@[simp] theorem State.windows_setReg (s : State) (r : Reg) (v : Reg32) : (s.setReg r v).windows = s.windows := (rfl)
@[simp] theorem State.inbound_setReg (s : State) (r : Reg) (v : Reg32) : (s.setReg r v).inbound = s.inbound := (rfl)
@[simp] theorem State.tokens_setReg (s : State) (r : Reg) (v : Reg32) : (s.setReg r v).tokens = s.tokens := (rfl)
@[simp] theorem State.hbmStacks_setReg (s : State) (r : Reg) (v : Reg32) : (s.setReg r v).hbmStacks = s.hbmStacks := (rfl)
@[simp] theorem State.bmeWay_setReg (s : State) (r : Reg) (v : Reg32) : (s.setReg r v).bmeWay = s.bmeWay := (rfl)
@[simp] theorem State.shuttles_setReg (s : State) (r : Reg) (v : Reg32) : (s.setReg r v).shuttles = s.shuttles := (rfl)
@[simp] theorem State.faultQ_setReg (s : State) (r : Reg) (v : Reg32) : (s.setReg r v).faultQ = s.faultQ := (rfl)
@[simp] theorem State.ports_setReg (s : State) (r : Reg) (v : Reg32) : (s.setReg r v).ports = s.ports := (rfl)
@[simp] theorem State.router_setReg (s : State) (r : Reg) (v : Reg32) : (s.setReg r v).router = s.router := (rfl)
@[simp] theorem State.reed_setReg (s : State) (r : Reg) (v : Reg32) : (s.setReg r v).reed = s.reed := (rfl)
@[simp] theorem State.requests_setReg (s : State) (r : Reg) (v : Reg32) : (s.setReg r v).requests = s.requests := (rfl)
@[simp] theorem State.serve_setReg (s : State) (r : Reg) (v : Reg32) : (s.setReg r v).serve = s.serve := (rfl)
@[simp] theorem State.weights_setReg (s : State) (r : Reg) (v : Reg32) : (s.setReg r v).weights = s.weights := (rfl)
@[simp] theorem State.sync_setReg (s : State) (r : Reg) (v : Reg32) : (s.setReg r v).sync = s.sync := (rfl)
@[simp] theorem State.mail_setReg (s : State) (r : Reg) (v : Reg32) : (s.setReg r v).mail = s.mail := (rfl)
@[simp] theorem State.part_setReg (s : State) (r : Reg) (v : Reg32) : (s.setReg r v).part = s.part := (rfl)
@[simp] theorem State.fence_setReg (s : State) (r : Reg) (v : Reg32) : (s.setReg r v).fence = s.fence := (rfl)
@[simp] theorem State.mgt_setReg (s : State) (r : Reg) (v : Reg32) : (s.setReg r v).mgt = s.mgt := (rfl)
@[simp] theorem State.smu_setReg (s : State) (r : Reg) (v : Reg32) : (s.setReg r v).smu = s.smu := (rfl)
@[simp] theorem State.obs_setReg (s : State) (r : Reg) (v : Reg32) : (s.setReg r v).obs = s.obs := (rfl)
@[simp] theorem State.power_setReg (s : State) (r : Reg) (v : Reg32) : (s.setReg r v).power = s.power := (rfl)

/-! ## put -/

@[simp] theorem State.pending_put (s : State) (f : Fld) (v : Nat) : (s.put f v).pending = s.pending := (rfl)
@[simp] theorem State.now_put (s : State) (f : Fld) (v : Nat) : (s.put f v).now = s.now := (rfl)
@[simp] theorem State.freeCtr_put (s : State) (f : Fld) (v : Nat) : (s.put f v).freeCtr = s.freeCtr := (rfl)
@[simp] theorem State.rdata_put (s : State) (f : Fld) (v : Nat) : (s.put f v).rdata = s.rdata := (rfl)
@[simp] theorem State.outbox_put (s : State) (f : Fld) (v : Nat) : (s.put f v).outbox = s.outbox := (rfl)
@[simp] theorem State.pick_put (s : State) (f : Fld) (v : Nat) : (s.put f v).pick = s.pick := (rfl)
@[simp] theorem State.clk_put (s : State) (f : Fld) (v : Nat) : (s.put f v).clk = s.clk := (rfl)
@[simp] theorem State.seq_put (s : State) (f : Fld) (v : Nat) : (s.put f v).seq = s.seq := (rfl)
@[simp] theorem State.regions_put (s : State) (f : Fld) (v : Nat) : (s.put f v).regions = s.regions := (rfl)
@[simp] theorem State.array_put (s : State) (f : Fld) (v : Nat) : (s.put f v).array = s.array := (rfl)
@[simp] theorem State.unsched_put (s : State) (f : Fld) (v : Nat) : (s.put f v).unsched = s.unsched := (rfl)
@[simp] theorem State.hbm_put (s : State) (f : Fld) (v : Nat) : (s.put f v).hbm = s.hbm := (rfl)
@[simp] theorem State.cxl_put (s : State) (f : Fld) (v : Nat) : (s.put f v).cxl = s.cxl := (rfl)
@[simp] theorem State.mmu_put (s : State) (f : Fld) (v : Nat) : (s.put f v).mmu = s.mmu := (rfl)
@[simp] theorem State.windows_put (s : State) (f : Fld) (v : Nat) : (s.put f v).windows = s.windows := (rfl)
@[simp] theorem State.inbound_put (s : State) (f : Fld) (v : Nat) : (s.put f v).inbound = s.inbound := (rfl)
@[simp] theorem State.tokens_put (s : State) (f : Fld) (v : Nat) : (s.put f v).tokens = s.tokens := (rfl)
@[simp] theorem State.hbmStacks_put (s : State) (f : Fld) (v : Nat) : (s.put f v).hbmStacks = s.hbmStacks := (rfl)
@[simp] theorem State.bmeWay_put (s : State) (f : Fld) (v : Nat) : (s.put f v).bmeWay = s.bmeWay := (rfl)
@[simp] theorem State.shuttles_put (s : State) (f : Fld) (v : Nat) : (s.put f v).shuttles = s.shuttles := (rfl)
@[simp] theorem State.faultQ_put (s : State) (f : Fld) (v : Nat) : (s.put f v).faultQ = s.faultQ := (rfl)
@[simp] theorem State.ports_put (s : State) (f : Fld) (v : Nat) : (s.put f v).ports = s.ports := (rfl)
@[simp] theorem State.router_put (s : State) (f : Fld) (v : Nat) : (s.put f v).router = s.router := (rfl)
@[simp] theorem State.reed_put (s : State) (f : Fld) (v : Nat) : (s.put f v).reed = s.reed := (rfl)
@[simp] theorem State.requests_put (s : State) (f : Fld) (v : Nat) : (s.put f v).requests = s.requests := (rfl)
@[simp] theorem State.serve_put (s : State) (f : Fld) (v : Nat) : (s.put f v).serve = s.serve := (rfl)
@[simp] theorem State.weights_put (s : State) (f : Fld) (v : Nat) : (s.put f v).weights = s.weights := (rfl)
@[simp] theorem State.sync_put (s : State) (f : Fld) (v : Nat) : (s.put f v).sync = s.sync := (rfl)
@[simp] theorem State.mail_put (s : State) (f : Fld) (v : Nat) : (s.put f v).mail = s.mail := (rfl)
@[simp] theorem State.part_put (s : State) (f : Fld) (v : Nat) : (s.put f v).part = s.part := (rfl)
@[simp] theorem State.fence_put (s : State) (f : Fld) (v : Nat) : (s.put f v).fence = s.fence := (rfl)
@[simp] theorem State.mgt_put (s : State) (f : Fld) (v : Nat) : (s.put f v).mgt = s.mgt := (rfl)
@[simp] theorem State.smu_put (s : State) (f : Fld) (v : Nat) : (s.put f v).smu = s.smu := (rfl)
@[simp] theorem State.obs_put (s : State) (f : Fld) (v : Nat) : (s.put f v).obs = s.obs := (rfl)
@[simp] theorem State.power_put (s : State) (f : Fld) (v : Nat) : (s.put f v).power = s.power := (rfl)

/-! ## raise -/

@[simp] theorem State.pending_raise (s : State) (f : Fld) : (s.raise f).pending = s.pending := (rfl)
@[simp] theorem State.now_raise (s : State) (f : Fld) : (s.raise f).now = s.now := (rfl)
@[simp] theorem State.freeCtr_raise (s : State) (f : Fld) : (s.raise f).freeCtr = s.freeCtr := (rfl)
@[simp] theorem State.rdata_raise (s : State) (f : Fld) : (s.raise f).rdata = s.rdata := (rfl)
@[simp] theorem State.outbox_raise (s : State) (f : Fld) : (s.raise f).outbox = s.outbox := (rfl)
@[simp] theorem State.pick_raise (s : State) (f : Fld) : (s.raise f).pick = s.pick := (rfl)
@[simp] theorem State.clk_raise (s : State) (f : Fld) : (s.raise f).clk = s.clk := (rfl)
@[simp] theorem State.seq_raise (s : State) (f : Fld) : (s.raise f).seq = s.seq := (rfl)
@[simp] theorem State.regions_raise (s : State) (f : Fld) : (s.raise f).regions = s.regions := (rfl)
@[simp] theorem State.array_raise (s : State) (f : Fld) : (s.raise f).array = s.array := (rfl)
@[simp] theorem State.unsched_raise (s : State) (f : Fld) : (s.raise f).unsched = s.unsched := (rfl)
@[simp] theorem State.hbm_raise (s : State) (f : Fld) : (s.raise f).hbm = s.hbm := (rfl)
@[simp] theorem State.cxl_raise (s : State) (f : Fld) : (s.raise f).cxl = s.cxl := (rfl)
@[simp] theorem State.mmu_raise (s : State) (f : Fld) : (s.raise f).mmu = s.mmu := (rfl)
@[simp] theorem State.windows_raise (s : State) (f : Fld) : (s.raise f).windows = s.windows := (rfl)
@[simp] theorem State.inbound_raise (s : State) (f : Fld) : (s.raise f).inbound = s.inbound := (rfl)
@[simp] theorem State.tokens_raise (s : State) (f : Fld) : (s.raise f).tokens = s.tokens := (rfl)
@[simp] theorem State.hbmStacks_raise (s : State) (f : Fld) : (s.raise f).hbmStacks = s.hbmStacks := (rfl)
@[simp] theorem State.bmeWay_raise (s : State) (f : Fld) : (s.raise f).bmeWay = s.bmeWay := (rfl)
@[simp] theorem State.shuttles_raise (s : State) (f : Fld) : (s.raise f).shuttles = s.shuttles := (rfl)
@[simp] theorem State.faultQ_raise (s : State) (f : Fld) : (s.raise f).faultQ = s.faultQ := (rfl)
@[simp] theorem State.ports_raise (s : State) (f : Fld) : (s.raise f).ports = s.ports := (rfl)
@[simp] theorem State.router_raise (s : State) (f : Fld) : (s.raise f).router = s.router := (rfl)
@[simp] theorem State.reed_raise (s : State) (f : Fld) : (s.raise f).reed = s.reed := (rfl)
@[simp] theorem State.requests_raise (s : State) (f : Fld) : (s.raise f).requests = s.requests := (rfl)
@[simp] theorem State.serve_raise (s : State) (f : Fld) : (s.raise f).serve = s.serve := (rfl)
@[simp] theorem State.weights_raise (s : State) (f : Fld) : (s.raise f).weights = s.weights := (rfl)
@[simp] theorem State.sync_raise (s : State) (f : Fld) : (s.raise f).sync = s.sync := (rfl)
@[simp] theorem State.mail_raise (s : State) (f : Fld) : (s.raise f).mail = s.mail := (rfl)
@[simp] theorem State.part_raise (s : State) (f : Fld) : (s.raise f).part = s.part := (rfl)
@[simp] theorem State.fence_raise (s : State) (f : Fld) : (s.raise f).fence = s.fence := (rfl)
@[simp] theorem State.mgt_raise (s : State) (f : Fld) : (s.raise f).mgt = s.mgt := (rfl)
@[simp] theorem State.smu_raise (s : State) (f : Fld) : (s.raise f).smu = s.smu := (rfl)
@[simp] theorem State.obs_raise (s : State) (f : Fld) : (s.raise f).obs = s.obs := (rfl)
@[simp] theorem State.power_raise (s : State) (f : Fld) : (s.raise f).power = s.power := (rfl)

/-! ## count -/

@[simp] theorem State.pending_count (s : State) (f : Fld) (n : Nat) : (s.count f n).pending = s.pending := (rfl)
@[simp] theorem State.now_count (s : State) (f : Fld) (n : Nat) : (s.count f n).now = s.now := (rfl)
@[simp] theorem State.freeCtr_count (s : State) (f : Fld) (n : Nat) : (s.count f n).freeCtr = s.freeCtr := (rfl)
@[simp] theorem State.rdata_count (s : State) (f : Fld) (n : Nat) : (s.count f n).rdata = s.rdata := (rfl)
@[simp] theorem State.outbox_count (s : State) (f : Fld) (n : Nat) : (s.count f n).outbox = s.outbox := (rfl)
@[simp] theorem State.pick_count (s : State) (f : Fld) (n : Nat) : (s.count f n).pick = s.pick := (rfl)
@[simp] theorem State.clk_count (s : State) (f : Fld) (n : Nat) : (s.count f n).clk = s.clk := (rfl)
@[simp] theorem State.seq_count (s : State) (f : Fld) (n : Nat) : (s.count f n).seq = s.seq := (rfl)
@[simp] theorem State.regions_count (s : State) (f : Fld) (n : Nat) : (s.count f n).regions = s.regions := (rfl)
@[simp] theorem State.array_count (s : State) (f : Fld) (n : Nat) : (s.count f n).array = s.array := (rfl)
@[simp] theorem State.unsched_count (s : State) (f : Fld) (n : Nat) : (s.count f n).unsched = s.unsched := (rfl)
@[simp] theorem State.hbm_count (s : State) (f : Fld) (n : Nat) : (s.count f n).hbm = s.hbm := (rfl)
@[simp] theorem State.cxl_count (s : State) (f : Fld) (n : Nat) : (s.count f n).cxl = s.cxl := (rfl)
@[simp] theorem State.mmu_count (s : State) (f : Fld) (n : Nat) : (s.count f n).mmu = s.mmu := (rfl)
@[simp] theorem State.windows_count (s : State) (f : Fld) (n : Nat) : (s.count f n).windows = s.windows := (rfl)
@[simp] theorem State.inbound_count (s : State) (f : Fld) (n : Nat) : (s.count f n).inbound = s.inbound := (rfl)
@[simp] theorem State.tokens_count (s : State) (f : Fld) (n : Nat) : (s.count f n).tokens = s.tokens := (rfl)
@[simp] theorem State.hbmStacks_count (s : State) (f : Fld) (n : Nat) : (s.count f n).hbmStacks = s.hbmStacks := (rfl)
@[simp] theorem State.bmeWay_count (s : State) (f : Fld) (n : Nat) : (s.count f n).bmeWay = s.bmeWay := (rfl)
@[simp] theorem State.shuttles_count (s : State) (f : Fld) (n : Nat) : (s.count f n).shuttles = s.shuttles := (rfl)
@[simp] theorem State.faultQ_count (s : State) (f : Fld) (n : Nat) : (s.count f n).faultQ = s.faultQ := (rfl)
@[simp] theorem State.ports_count (s : State) (f : Fld) (n : Nat) : (s.count f n).ports = s.ports := (rfl)
@[simp] theorem State.router_count (s : State) (f : Fld) (n : Nat) : (s.count f n).router = s.router := (rfl)
@[simp] theorem State.reed_count (s : State) (f : Fld) (n : Nat) : (s.count f n).reed = s.reed := (rfl)
@[simp] theorem State.requests_count (s : State) (f : Fld) (n : Nat) : (s.count f n).requests = s.requests := (rfl)
@[simp] theorem State.serve_count (s : State) (f : Fld) (n : Nat) : (s.count f n).serve = s.serve := (rfl)
@[simp] theorem State.weights_count (s : State) (f : Fld) (n : Nat) : (s.count f n).weights = s.weights := (rfl)
@[simp] theorem State.sync_count (s : State) (f : Fld) (n : Nat) : (s.count f n).sync = s.sync := (rfl)
@[simp] theorem State.mail_count (s : State) (f : Fld) (n : Nat) : (s.count f n).mail = s.mail := (rfl)
@[simp] theorem State.part_count (s : State) (f : Fld) (n : Nat) : (s.count f n).part = s.part := (rfl)
@[simp] theorem State.fence_count (s : State) (f : Fld) (n : Nat) : (s.count f n).fence = s.fence := (rfl)
@[simp] theorem State.mgt_count (s : State) (f : Fld) (n : Nat) : (s.count f n).mgt = s.mgt := (rfl)
@[simp] theorem State.smu_count (s : State) (f : Fld) (n : Nat) : (s.count f n).smu = s.smu := (rfl)
@[simp] theorem State.obs_count (s : State) (f : Fld) (n : Nat) : (s.count f n).obs = s.obs := (rfl)
@[simp] theorem State.power_count (s : State) (f : Fld) (n : Nat) : (s.count f n).power = s.power := (rfl)

/-! ## putMax -/

@[simp] theorem State.pending_putMax (s : State) (f : Fld) (v : Nat) : (s.putMax f v).pending = s.pending := (rfl)
@[simp] theorem State.now_putMax (s : State) (f : Fld) (v : Nat) : (s.putMax f v).now = s.now := (rfl)
@[simp] theorem State.freeCtr_putMax (s : State) (f : Fld) (v : Nat) : (s.putMax f v).freeCtr = s.freeCtr := (rfl)
@[simp] theorem State.rdata_putMax (s : State) (f : Fld) (v : Nat) : (s.putMax f v).rdata = s.rdata := (rfl)
@[simp] theorem State.outbox_putMax (s : State) (f : Fld) (v : Nat) : (s.putMax f v).outbox = s.outbox := (rfl)
@[simp] theorem State.pick_putMax (s : State) (f : Fld) (v : Nat) : (s.putMax f v).pick = s.pick := (rfl)
@[simp] theorem State.clk_putMax (s : State) (f : Fld) (v : Nat) : (s.putMax f v).clk = s.clk := (rfl)
@[simp] theorem State.seq_putMax (s : State) (f : Fld) (v : Nat) : (s.putMax f v).seq = s.seq := (rfl)
@[simp] theorem State.regions_putMax (s : State) (f : Fld) (v : Nat) : (s.putMax f v).regions = s.regions := (rfl)
@[simp] theorem State.array_putMax (s : State) (f : Fld) (v : Nat) : (s.putMax f v).array = s.array := (rfl)
@[simp] theorem State.unsched_putMax (s : State) (f : Fld) (v : Nat) : (s.putMax f v).unsched = s.unsched := (rfl)
@[simp] theorem State.hbm_putMax (s : State) (f : Fld) (v : Nat) : (s.putMax f v).hbm = s.hbm := (rfl)
@[simp] theorem State.cxl_putMax (s : State) (f : Fld) (v : Nat) : (s.putMax f v).cxl = s.cxl := (rfl)
@[simp] theorem State.mmu_putMax (s : State) (f : Fld) (v : Nat) : (s.putMax f v).mmu = s.mmu := (rfl)
@[simp] theorem State.windows_putMax (s : State) (f : Fld) (v : Nat) : (s.putMax f v).windows = s.windows := (rfl)
@[simp] theorem State.inbound_putMax (s : State) (f : Fld) (v : Nat) : (s.putMax f v).inbound = s.inbound := (rfl)
@[simp] theorem State.tokens_putMax (s : State) (f : Fld) (v : Nat) : (s.putMax f v).tokens = s.tokens := (rfl)
@[simp] theorem State.hbmStacks_putMax (s : State) (f : Fld) (v : Nat) : (s.putMax f v).hbmStacks = s.hbmStacks := (rfl)
@[simp] theorem State.bmeWay_putMax (s : State) (f : Fld) (v : Nat) : (s.putMax f v).bmeWay = s.bmeWay := (rfl)
@[simp] theorem State.shuttles_putMax (s : State) (f : Fld) (v : Nat) : (s.putMax f v).shuttles = s.shuttles := (rfl)
@[simp] theorem State.faultQ_putMax (s : State) (f : Fld) (v : Nat) : (s.putMax f v).faultQ = s.faultQ := (rfl)
@[simp] theorem State.ports_putMax (s : State) (f : Fld) (v : Nat) : (s.putMax f v).ports = s.ports := (rfl)
@[simp] theorem State.router_putMax (s : State) (f : Fld) (v : Nat) : (s.putMax f v).router = s.router := (rfl)
@[simp] theorem State.reed_putMax (s : State) (f : Fld) (v : Nat) : (s.putMax f v).reed = s.reed := (rfl)
@[simp] theorem State.requests_putMax (s : State) (f : Fld) (v : Nat) : (s.putMax f v).requests = s.requests := (rfl)
@[simp] theorem State.serve_putMax (s : State) (f : Fld) (v : Nat) : (s.putMax f v).serve = s.serve := (rfl)
@[simp] theorem State.weights_putMax (s : State) (f : Fld) (v : Nat) : (s.putMax f v).weights = s.weights := (rfl)
@[simp] theorem State.sync_putMax (s : State) (f : Fld) (v : Nat) : (s.putMax f v).sync = s.sync := (rfl)
@[simp] theorem State.mail_putMax (s : State) (f : Fld) (v : Nat) : (s.putMax f v).mail = s.mail := (rfl)
@[simp] theorem State.part_putMax (s : State) (f : Fld) (v : Nat) : (s.putMax f v).part = s.part := (rfl)
@[simp] theorem State.fence_putMax (s : State) (f : Fld) (v : Nat) : (s.putMax f v).fence = s.fence := (rfl)
@[simp] theorem State.mgt_putMax (s : State) (f : Fld) (v : Nat) : (s.putMax f v).mgt = s.mgt := (rfl)
@[simp] theorem State.smu_putMax (s : State) (f : Fld) (v : Nat) : (s.putMax f v).smu = s.smu := (rfl)
@[simp] theorem State.obs_putMax (s : State) (f : Fld) (v : Nat) : (s.putMax f v).obs = s.obs := (rfl)
@[simp] theorem State.power_putMax (s : State) (f : Fld) (v : Nat) : (s.putMax f v).power = s.power := (rfl)

/-! ## setRegion -/

@[simp] theorem State.pending_setRegion (s : State) (n : Nat) (x : RegionSt) : (s.setRegion n x).pending = s.pending := (rfl)
@[simp] theorem State.now_setRegion (s : State) (n : Nat) (x : RegionSt) : (s.setRegion n x).now = s.now := (rfl)
@[simp] theorem State.freeCtr_setRegion (s : State) (n : Nat) (x : RegionSt) : (s.setRegion n x).freeCtr = s.freeCtr := (rfl)
@[simp] theorem State.regs_setRegion (s : State) (n : Nat) (x : RegionSt) : (s.setRegion n x).regs = s.regs := (rfl)
@[simp] theorem State.rdata_setRegion (s : State) (n : Nat) (x : RegionSt) : (s.setRegion n x).rdata = s.rdata := (rfl)
@[simp] theorem State.outbox_setRegion (s : State) (n : Nat) (x : RegionSt) : (s.setRegion n x).outbox = s.outbox := (rfl)
@[simp] theorem State.pick_setRegion (s : State) (n : Nat) (x : RegionSt) : (s.setRegion n x).pick = s.pick := (rfl)
@[simp] theorem State.clk_setRegion (s : State) (n : Nat) (x : RegionSt) : (s.setRegion n x).clk = s.clk := (rfl)
@[simp] theorem State.seq_setRegion (s : State) (n : Nat) (x : RegionSt) : (s.setRegion n x).seq = s.seq := (rfl)
@[simp] theorem State.array_setRegion (s : State) (n : Nat) (x : RegionSt) : (s.setRegion n x).array = s.array := (rfl)
@[simp] theorem State.unsched_setRegion (s : State) (n : Nat) (x : RegionSt) : (s.setRegion n x).unsched = s.unsched := (rfl)
@[simp] theorem State.hbm_setRegion (s : State) (n : Nat) (x : RegionSt) : (s.setRegion n x).hbm = s.hbm := (rfl)
@[simp] theorem State.cxl_setRegion (s : State) (n : Nat) (x : RegionSt) : (s.setRegion n x).cxl = s.cxl := (rfl)
@[simp] theorem State.mmu_setRegion (s : State) (n : Nat) (x : RegionSt) : (s.setRegion n x).mmu = s.mmu := (rfl)
@[simp] theorem State.windows_setRegion (s : State) (n : Nat) (x : RegionSt) : (s.setRegion n x).windows = s.windows := (rfl)
@[simp] theorem State.inbound_setRegion (s : State) (n : Nat) (x : RegionSt) : (s.setRegion n x).inbound = s.inbound := (rfl)
@[simp] theorem State.tokens_setRegion (s : State) (n : Nat) (x : RegionSt) : (s.setRegion n x).tokens = s.tokens := (rfl)
@[simp] theorem State.hbmStacks_setRegion (s : State) (n : Nat) (x : RegionSt) : (s.setRegion n x).hbmStacks = s.hbmStacks := (rfl)
@[simp] theorem State.bmeWay_setRegion (s : State) (n : Nat) (x : RegionSt) : (s.setRegion n x).bmeWay = s.bmeWay := (rfl)
@[simp] theorem State.shuttles_setRegion (s : State) (n : Nat) (x : RegionSt) : (s.setRegion n x).shuttles = s.shuttles := (rfl)
@[simp] theorem State.faultQ_setRegion (s : State) (n : Nat) (x : RegionSt) : (s.setRegion n x).faultQ = s.faultQ := (rfl)
@[simp] theorem State.ports_setRegion (s : State) (n : Nat) (x : RegionSt) : (s.setRegion n x).ports = s.ports := (rfl)
@[simp] theorem State.router_setRegion (s : State) (n : Nat) (x : RegionSt) : (s.setRegion n x).router = s.router := (rfl)
@[simp] theorem State.reed_setRegion (s : State) (n : Nat) (x : RegionSt) : (s.setRegion n x).reed = s.reed := (rfl)
@[simp] theorem State.requests_setRegion (s : State) (n : Nat) (x : RegionSt) : (s.setRegion n x).requests = s.requests := (rfl)
@[simp] theorem State.serve_setRegion (s : State) (n : Nat) (x : RegionSt) : (s.setRegion n x).serve = s.serve := (rfl)
@[simp] theorem State.weights_setRegion (s : State) (n : Nat) (x : RegionSt) : (s.setRegion n x).weights = s.weights := (rfl)
@[simp] theorem State.sync_setRegion (s : State) (n : Nat) (x : RegionSt) : (s.setRegion n x).sync = s.sync := (rfl)
@[simp] theorem State.mail_setRegion (s : State) (n : Nat) (x : RegionSt) : (s.setRegion n x).mail = s.mail := (rfl)
@[simp] theorem State.part_setRegion (s : State) (n : Nat) (x : RegionSt) : (s.setRegion n x).part = s.part := (rfl)
@[simp] theorem State.fence_setRegion (s : State) (n : Nat) (x : RegionSt) : (s.setRegion n x).fence = s.fence := (rfl)
@[simp] theorem State.mgt_setRegion (s : State) (n : Nat) (x : RegionSt) : (s.setRegion n x).mgt = s.mgt := (rfl)
@[simp] theorem State.smu_setRegion (s : State) (n : Nat) (x : RegionSt) : (s.setRegion n x).smu = s.smu := (rfl)
@[simp] theorem State.obs_setRegion (s : State) (n : Nat) (x : RegionSt) : (s.setRegion n x).obs = s.obs := (rfl)
@[simp] theorem State.power_setRegion (s : State) (n : Nat) (x : RegionSt) : (s.setRegion n x).power = s.power := (rfl)

/-! ## setPort -/

@[simp] theorem State.pending_setPort (s : State) (n : Nat) (x : PortSt) : (s.setPort n x).pending = s.pending := (rfl)
@[simp] theorem State.now_setPort (s : State) (n : Nat) (x : PortSt) : (s.setPort n x).now = s.now := (rfl)
@[simp] theorem State.freeCtr_setPort (s : State) (n : Nat) (x : PortSt) : (s.setPort n x).freeCtr = s.freeCtr := (rfl)
@[simp] theorem State.regs_setPort (s : State) (n : Nat) (x : PortSt) : (s.setPort n x).regs = s.regs := (rfl)
@[simp] theorem State.rdata_setPort (s : State) (n : Nat) (x : PortSt) : (s.setPort n x).rdata = s.rdata := (rfl)
@[simp] theorem State.outbox_setPort (s : State) (n : Nat) (x : PortSt) : (s.setPort n x).outbox = s.outbox := (rfl)
@[simp] theorem State.pick_setPort (s : State) (n : Nat) (x : PortSt) : (s.setPort n x).pick = s.pick := (rfl)
@[simp] theorem State.clk_setPort (s : State) (n : Nat) (x : PortSt) : (s.setPort n x).clk = s.clk := (rfl)
@[simp] theorem State.seq_setPort (s : State) (n : Nat) (x : PortSt) : (s.setPort n x).seq = s.seq := (rfl)
@[simp] theorem State.regions_setPort (s : State) (n : Nat) (x : PortSt) : (s.setPort n x).regions = s.regions := (rfl)
@[simp] theorem State.array_setPort (s : State) (n : Nat) (x : PortSt) : (s.setPort n x).array = s.array := (rfl)
@[simp] theorem State.unsched_setPort (s : State) (n : Nat) (x : PortSt) : (s.setPort n x).unsched = s.unsched := (rfl)
@[simp] theorem State.hbm_setPort (s : State) (n : Nat) (x : PortSt) : (s.setPort n x).hbm = s.hbm := (rfl)
@[simp] theorem State.cxl_setPort (s : State) (n : Nat) (x : PortSt) : (s.setPort n x).cxl = s.cxl := (rfl)
@[simp] theorem State.mmu_setPort (s : State) (n : Nat) (x : PortSt) : (s.setPort n x).mmu = s.mmu := (rfl)
@[simp] theorem State.windows_setPort (s : State) (n : Nat) (x : PortSt) : (s.setPort n x).windows = s.windows := (rfl)
@[simp] theorem State.inbound_setPort (s : State) (n : Nat) (x : PortSt) : (s.setPort n x).inbound = s.inbound := (rfl)
@[simp] theorem State.tokens_setPort (s : State) (n : Nat) (x : PortSt) : (s.setPort n x).tokens = s.tokens := (rfl)
@[simp] theorem State.hbmStacks_setPort (s : State) (n : Nat) (x : PortSt) : (s.setPort n x).hbmStacks = s.hbmStacks := (rfl)
@[simp] theorem State.bmeWay_setPort (s : State) (n : Nat) (x : PortSt) : (s.setPort n x).bmeWay = s.bmeWay := (rfl)
@[simp] theorem State.shuttles_setPort (s : State) (n : Nat) (x : PortSt) : (s.setPort n x).shuttles = s.shuttles := (rfl)
@[simp] theorem State.faultQ_setPort (s : State) (n : Nat) (x : PortSt) : (s.setPort n x).faultQ = s.faultQ := (rfl)
@[simp] theorem State.router_setPort (s : State) (n : Nat) (x : PortSt) : (s.setPort n x).router = s.router := (rfl)
@[simp] theorem State.reed_setPort (s : State) (n : Nat) (x : PortSt) : (s.setPort n x).reed = s.reed := (rfl)
@[simp] theorem State.requests_setPort (s : State) (n : Nat) (x : PortSt) : (s.setPort n x).requests = s.requests := (rfl)
@[simp] theorem State.serve_setPort (s : State) (n : Nat) (x : PortSt) : (s.setPort n x).serve = s.serve := (rfl)
@[simp] theorem State.weights_setPort (s : State) (n : Nat) (x : PortSt) : (s.setPort n x).weights = s.weights := (rfl)
@[simp] theorem State.sync_setPort (s : State) (n : Nat) (x : PortSt) : (s.setPort n x).sync = s.sync := (rfl)
@[simp] theorem State.mail_setPort (s : State) (n : Nat) (x : PortSt) : (s.setPort n x).mail = s.mail := (rfl)
@[simp] theorem State.part_setPort (s : State) (n : Nat) (x : PortSt) : (s.setPort n x).part = s.part := (rfl)
@[simp] theorem State.fence_setPort (s : State) (n : Nat) (x : PortSt) : (s.setPort n x).fence = s.fence := (rfl)
@[simp] theorem State.mgt_setPort (s : State) (n : Nat) (x : PortSt) : (s.setPort n x).mgt = s.mgt := (rfl)
@[simp] theorem State.smu_setPort (s : State) (n : Nat) (x : PortSt) : (s.setPort n x).smu = s.smu := (rfl)
@[simp] theorem State.obs_setPort (s : State) (n : Nat) (x : PortSt) : (s.setPort n x).obs = s.obs := (rfl)
@[simp] theorem State.power_setPort (s : State) (n : Nat) (x : PortSt) : (s.setPort n x).power = s.power := (rfl)

/-! ## setStack -/

@[simp] theorem State.pending_setStack (s : State) (n : Nat) (x : StackSt) : (s.setStack n x).pending = s.pending := (rfl)
@[simp] theorem State.now_setStack (s : State) (n : Nat) (x : StackSt) : (s.setStack n x).now = s.now := (rfl)
@[simp] theorem State.freeCtr_setStack (s : State) (n : Nat) (x : StackSt) : (s.setStack n x).freeCtr = s.freeCtr := (rfl)
@[simp] theorem State.regs_setStack (s : State) (n : Nat) (x : StackSt) : (s.setStack n x).regs = s.regs := (rfl)
@[simp] theorem State.rdata_setStack (s : State) (n : Nat) (x : StackSt) : (s.setStack n x).rdata = s.rdata := (rfl)
@[simp] theorem State.outbox_setStack (s : State) (n : Nat) (x : StackSt) : (s.setStack n x).outbox = s.outbox := (rfl)
@[simp] theorem State.pick_setStack (s : State) (n : Nat) (x : StackSt) : (s.setStack n x).pick = s.pick := (rfl)
@[simp] theorem State.clk_setStack (s : State) (n : Nat) (x : StackSt) : (s.setStack n x).clk = s.clk := (rfl)
@[simp] theorem State.seq_setStack (s : State) (n : Nat) (x : StackSt) : (s.setStack n x).seq = s.seq := (rfl)
@[simp] theorem State.regions_setStack (s : State) (n : Nat) (x : StackSt) : (s.setStack n x).regions = s.regions := (rfl)
@[simp] theorem State.array_setStack (s : State) (n : Nat) (x : StackSt) : (s.setStack n x).array = s.array := (rfl)
@[simp] theorem State.unsched_setStack (s : State) (n : Nat) (x : StackSt) : (s.setStack n x).unsched = s.unsched := (rfl)
@[simp] theorem State.hbm_setStack (s : State) (n : Nat) (x : StackSt) : (s.setStack n x).hbm = s.hbm := (rfl)
@[simp] theorem State.cxl_setStack (s : State) (n : Nat) (x : StackSt) : (s.setStack n x).cxl = s.cxl := (rfl)
@[simp] theorem State.mmu_setStack (s : State) (n : Nat) (x : StackSt) : (s.setStack n x).mmu = s.mmu := (rfl)
@[simp] theorem State.windows_setStack (s : State) (n : Nat) (x : StackSt) : (s.setStack n x).windows = s.windows := (rfl)
@[simp] theorem State.inbound_setStack (s : State) (n : Nat) (x : StackSt) : (s.setStack n x).inbound = s.inbound := (rfl)
@[simp] theorem State.tokens_setStack (s : State) (n : Nat) (x : StackSt) : (s.setStack n x).tokens = s.tokens := (rfl)
@[simp] theorem State.bmeWay_setStack (s : State) (n : Nat) (x : StackSt) : (s.setStack n x).bmeWay = s.bmeWay := (rfl)
@[simp] theorem State.shuttles_setStack (s : State) (n : Nat) (x : StackSt) : (s.setStack n x).shuttles = s.shuttles := (rfl)
@[simp] theorem State.faultQ_setStack (s : State) (n : Nat) (x : StackSt) : (s.setStack n x).faultQ = s.faultQ := (rfl)
@[simp] theorem State.ports_setStack (s : State) (n : Nat) (x : StackSt) : (s.setStack n x).ports = s.ports := (rfl)
@[simp] theorem State.router_setStack (s : State) (n : Nat) (x : StackSt) : (s.setStack n x).router = s.router := (rfl)
@[simp] theorem State.reed_setStack (s : State) (n : Nat) (x : StackSt) : (s.setStack n x).reed = s.reed := (rfl)
@[simp] theorem State.requests_setStack (s : State) (n : Nat) (x : StackSt) : (s.setStack n x).requests = s.requests := (rfl)
@[simp] theorem State.serve_setStack (s : State) (n : Nat) (x : StackSt) : (s.setStack n x).serve = s.serve := (rfl)
@[simp] theorem State.weights_setStack (s : State) (n : Nat) (x : StackSt) : (s.setStack n x).weights = s.weights := (rfl)
@[simp] theorem State.sync_setStack (s : State) (n : Nat) (x : StackSt) : (s.setStack n x).sync = s.sync := (rfl)
@[simp] theorem State.mail_setStack (s : State) (n : Nat) (x : StackSt) : (s.setStack n x).mail = s.mail := (rfl)
@[simp] theorem State.part_setStack (s : State) (n : Nat) (x : StackSt) : (s.setStack n x).part = s.part := (rfl)
@[simp] theorem State.fence_setStack (s : State) (n : Nat) (x : StackSt) : (s.setStack n x).fence = s.fence := (rfl)
@[simp] theorem State.mgt_setStack (s : State) (n : Nat) (x : StackSt) : (s.setStack n x).mgt = s.mgt := (rfl)
@[simp] theorem State.smu_setStack (s : State) (n : Nat) (x : StackSt) : (s.setStack n x).smu = s.smu := (rfl)
@[simp] theorem State.obs_setStack (s : State) (n : Nat) (x : StackSt) : (s.setStack n x).obs = s.obs := (rfl)
@[simp] theorem State.power_setStack (s : State) (n : Nat) (x : StackSt) : (s.setStack n x).power = s.power := (rfl)

/-! ## setShuttle -/

@[simp] theorem State.pending_setShuttle (s : State) (n : Nat) (x : ShuttleSt) : (s.setShuttle n x).pending = s.pending := (rfl)
@[simp] theorem State.now_setShuttle (s : State) (n : Nat) (x : ShuttleSt) : (s.setShuttle n x).now = s.now := (rfl)
@[simp] theorem State.freeCtr_setShuttle (s : State) (n : Nat) (x : ShuttleSt) : (s.setShuttle n x).freeCtr = s.freeCtr := (rfl)
@[simp] theorem State.regs_setShuttle (s : State) (n : Nat) (x : ShuttleSt) : (s.setShuttle n x).regs = s.regs := (rfl)
@[simp] theorem State.rdata_setShuttle (s : State) (n : Nat) (x : ShuttleSt) : (s.setShuttle n x).rdata = s.rdata := (rfl)
@[simp] theorem State.outbox_setShuttle (s : State) (n : Nat) (x : ShuttleSt) : (s.setShuttle n x).outbox = s.outbox := (rfl)
@[simp] theorem State.pick_setShuttle (s : State) (n : Nat) (x : ShuttleSt) : (s.setShuttle n x).pick = s.pick := (rfl)
@[simp] theorem State.clk_setShuttle (s : State) (n : Nat) (x : ShuttleSt) : (s.setShuttle n x).clk = s.clk := (rfl)
@[simp] theorem State.seq_setShuttle (s : State) (n : Nat) (x : ShuttleSt) : (s.setShuttle n x).seq = s.seq := (rfl)
@[simp] theorem State.regions_setShuttle (s : State) (n : Nat) (x : ShuttleSt) : (s.setShuttle n x).regions = s.regions := (rfl)
@[simp] theorem State.array_setShuttle (s : State) (n : Nat) (x : ShuttleSt) : (s.setShuttle n x).array = s.array := (rfl)
@[simp] theorem State.unsched_setShuttle (s : State) (n : Nat) (x : ShuttleSt) : (s.setShuttle n x).unsched = s.unsched := (rfl)
@[simp] theorem State.hbm_setShuttle (s : State) (n : Nat) (x : ShuttleSt) : (s.setShuttle n x).hbm = s.hbm := (rfl)
@[simp] theorem State.cxl_setShuttle (s : State) (n : Nat) (x : ShuttleSt) : (s.setShuttle n x).cxl = s.cxl := (rfl)
@[simp] theorem State.mmu_setShuttle (s : State) (n : Nat) (x : ShuttleSt) : (s.setShuttle n x).mmu = s.mmu := (rfl)
@[simp] theorem State.windows_setShuttle (s : State) (n : Nat) (x : ShuttleSt) : (s.setShuttle n x).windows = s.windows := (rfl)
@[simp] theorem State.inbound_setShuttle (s : State) (n : Nat) (x : ShuttleSt) : (s.setShuttle n x).inbound = s.inbound := (rfl)
@[simp] theorem State.tokens_setShuttle (s : State) (n : Nat) (x : ShuttleSt) : (s.setShuttle n x).tokens = s.tokens := (rfl)
@[simp] theorem State.hbmStacks_setShuttle (s : State) (n : Nat) (x : ShuttleSt) : (s.setShuttle n x).hbmStacks = s.hbmStacks := (rfl)
@[simp] theorem State.bmeWay_setShuttle (s : State) (n : Nat) (x : ShuttleSt) : (s.setShuttle n x).bmeWay = s.bmeWay := (rfl)
@[simp] theorem State.faultQ_setShuttle (s : State) (n : Nat) (x : ShuttleSt) : (s.setShuttle n x).faultQ = s.faultQ := (rfl)
@[simp] theorem State.ports_setShuttle (s : State) (n : Nat) (x : ShuttleSt) : (s.setShuttle n x).ports = s.ports := (rfl)
@[simp] theorem State.router_setShuttle (s : State) (n : Nat) (x : ShuttleSt) : (s.setShuttle n x).router = s.router := (rfl)
@[simp] theorem State.reed_setShuttle (s : State) (n : Nat) (x : ShuttleSt) : (s.setShuttle n x).reed = s.reed := (rfl)
@[simp] theorem State.requests_setShuttle (s : State) (n : Nat) (x : ShuttleSt) : (s.setShuttle n x).requests = s.requests := (rfl)
@[simp] theorem State.serve_setShuttle (s : State) (n : Nat) (x : ShuttleSt) : (s.setShuttle n x).serve = s.serve := (rfl)
@[simp] theorem State.weights_setShuttle (s : State) (n : Nat) (x : ShuttleSt) : (s.setShuttle n x).weights = s.weights := (rfl)
@[simp] theorem State.sync_setShuttle (s : State) (n : Nat) (x : ShuttleSt) : (s.setShuttle n x).sync = s.sync := (rfl)
@[simp] theorem State.mail_setShuttle (s : State) (n : Nat) (x : ShuttleSt) : (s.setShuttle n x).mail = s.mail := (rfl)
@[simp] theorem State.part_setShuttle (s : State) (n : Nat) (x : ShuttleSt) : (s.setShuttle n x).part = s.part := (rfl)
@[simp] theorem State.fence_setShuttle (s : State) (n : Nat) (x : ShuttleSt) : (s.setShuttle n x).fence = s.fence := (rfl)
@[simp] theorem State.mgt_setShuttle (s : State) (n : Nat) (x : ShuttleSt) : (s.setShuttle n x).mgt = s.mgt := (rfl)
@[simp] theorem State.smu_setShuttle (s : State) (n : Nat) (x : ShuttleSt) : (s.setShuttle n x).smu = s.smu := (rfl)
@[simp] theorem State.obs_setShuttle (s : State) (n : Nat) (x : ShuttleSt) : (s.setShuttle n x).obs = s.obs := (rfl)
@[simp] theorem State.power_setShuttle (s : State) (n : Nat) (x : ShuttleSt) : (s.setShuttle n x).power = s.power := (rfl)

/-! ## setCxl -/

@[simp] theorem State.pending_setCxl (s : State) (n : Nat) (x : CxlSt) : (s.setCxl n x).pending = s.pending := (rfl)
@[simp] theorem State.now_setCxl (s : State) (n : Nat) (x : CxlSt) : (s.setCxl n x).now = s.now := (rfl)
@[simp] theorem State.freeCtr_setCxl (s : State) (n : Nat) (x : CxlSt) : (s.setCxl n x).freeCtr = s.freeCtr := (rfl)
@[simp] theorem State.regs_setCxl (s : State) (n : Nat) (x : CxlSt) : (s.setCxl n x).regs = s.regs := (rfl)
@[simp] theorem State.rdata_setCxl (s : State) (n : Nat) (x : CxlSt) : (s.setCxl n x).rdata = s.rdata := (rfl)
@[simp] theorem State.outbox_setCxl (s : State) (n : Nat) (x : CxlSt) : (s.setCxl n x).outbox = s.outbox := (rfl)
@[simp] theorem State.pick_setCxl (s : State) (n : Nat) (x : CxlSt) : (s.setCxl n x).pick = s.pick := (rfl)
@[simp] theorem State.clk_setCxl (s : State) (n : Nat) (x : CxlSt) : (s.setCxl n x).clk = s.clk := (rfl)
@[simp] theorem State.seq_setCxl (s : State) (n : Nat) (x : CxlSt) : (s.setCxl n x).seq = s.seq := (rfl)
@[simp] theorem State.regions_setCxl (s : State) (n : Nat) (x : CxlSt) : (s.setCxl n x).regions = s.regions := (rfl)
@[simp] theorem State.array_setCxl (s : State) (n : Nat) (x : CxlSt) : (s.setCxl n x).array = s.array := (rfl)
@[simp] theorem State.unsched_setCxl (s : State) (n : Nat) (x : CxlSt) : (s.setCxl n x).unsched = s.unsched := (rfl)
@[simp] theorem State.hbm_setCxl (s : State) (n : Nat) (x : CxlSt) : (s.setCxl n x).hbm = s.hbm := (rfl)
@[simp] theorem State.mmu_setCxl (s : State) (n : Nat) (x : CxlSt) : (s.setCxl n x).mmu = s.mmu := (rfl)
@[simp] theorem State.windows_setCxl (s : State) (n : Nat) (x : CxlSt) : (s.setCxl n x).windows = s.windows := (rfl)
@[simp] theorem State.inbound_setCxl (s : State) (n : Nat) (x : CxlSt) : (s.setCxl n x).inbound = s.inbound := (rfl)
@[simp] theorem State.tokens_setCxl (s : State) (n : Nat) (x : CxlSt) : (s.setCxl n x).tokens = s.tokens := (rfl)
@[simp] theorem State.hbmStacks_setCxl (s : State) (n : Nat) (x : CxlSt) : (s.setCxl n x).hbmStacks = s.hbmStacks := (rfl)
@[simp] theorem State.bmeWay_setCxl (s : State) (n : Nat) (x : CxlSt) : (s.setCxl n x).bmeWay = s.bmeWay := (rfl)
@[simp] theorem State.shuttles_setCxl (s : State) (n : Nat) (x : CxlSt) : (s.setCxl n x).shuttles = s.shuttles := (rfl)
@[simp] theorem State.faultQ_setCxl (s : State) (n : Nat) (x : CxlSt) : (s.setCxl n x).faultQ = s.faultQ := (rfl)
@[simp] theorem State.ports_setCxl (s : State) (n : Nat) (x : CxlSt) : (s.setCxl n x).ports = s.ports := (rfl)
@[simp] theorem State.router_setCxl (s : State) (n : Nat) (x : CxlSt) : (s.setCxl n x).router = s.router := (rfl)
@[simp] theorem State.reed_setCxl (s : State) (n : Nat) (x : CxlSt) : (s.setCxl n x).reed = s.reed := (rfl)
@[simp] theorem State.requests_setCxl (s : State) (n : Nat) (x : CxlSt) : (s.setCxl n x).requests = s.requests := (rfl)
@[simp] theorem State.serve_setCxl (s : State) (n : Nat) (x : CxlSt) : (s.setCxl n x).serve = s.serve := (rfl)
@[simp] theorem State.weights_setCxl (s : State) (n : Nat) (x : CxlSt) : (s.setCxl n x).weights = s.weights := (rfl)
@[simp] theorem State.sync_setCxl (s : State) (n : Nat) (x : CxlSt) : (s.setCxl n x).sync = s.sync := (rfl)
@[simp] theorem State.mail_setCxl (s : State) (n : Nat) (x : CxlSt) : (s.setCxl n x).mail = s.mail := (rfl)
@[simp] theorem State.part_setCxl (s : State) (n : Nat) (x : CxlSt) : (s.setCxl n x).part = s.part := (rfl)
@[simp] theorem State.fence_setCxl (s : State) (n : Nat) (x : CxlSt) : (s.setCxl n x).fence = s.fence := (rfl)
@[simp] theorem State.mgt_setCxl (s : State) (n : Nat) (x : CxlSt) : (s.setCxl n x).mgt = s.mgt := (rfl)
@[simp] theorem State.smu_setCxl (s : State) (n : Nat) (x : CxlSt) : (s.setCxl n x).smu = s.smu := (rfl)
@[simp] theorem State.obs_setCxl (s : State) (n : Nat) (x : CxlSt) : (s.setCxl n x).obs = s.obs := (rfl)
@[simp] theorem State.power_setCxl (s : State) (n : Nat) (x : CxlSt) : (s.setCxl n x).power = s.power := (rfl)

/-! ## setPch -/

@[simp] theorem State.pending_setPch (s : State) (n : Nat) (x : PchSt) : (s.setPch n x).pending = s.pending := (rfl)
@[simp] theorem State.now_setPch (s : State) (n : Nat) (x : PchSt) : (s.setPch n x).now = s.now := (rfl)
@[simp] theorem State.freeCtr_setPch (s : State) (n : Nat) (x : PchSt) : (s.setPch n x).freeCtr = s.freeCtr := (rfl)
@[simp] theorem State.regs_setPch (s : State) (n : Nat) (x : PchSt) : (s.setPch n x).regs = s.regs := (rfl)
@[simp] theorem State.rdata_setPch (s : State) (n : Nat) (x : PchSt) : (s.setPch n x).rdata = s.rdata := (rfl)
@[simp] theorem State.outbox_setPch (s : State) (n : Nat) (x : PchSt) : (s.setPch n x).outbox = s.outbox := (rfl)
@[simp] theorem State.pick_setPch (s : State) (n : Nat) (x : PchSt) : (s.setPch n x).pick = s.pick := (rfl)
@[simp] theorem State.clk_setPch (s : State) (n : Nat) (x : PchSt) : (s.setPch n x).clk = s.clk := (rfl)
@[simp] theorem State.seq_setPch (s : State) (n : Nat) (x : PchSt) : (s.setPch n x).seq = s.seq := (rfl)
@[simp] theorem State.regions_setPch (s : State) (n : Nat) (x : PchSt) : (s.setPch n x).regions = s.regions := (rfl)
@[simp] theorem State.array_setPch (s : State) (n : Nat) (x : PchSt) : (s.setPch n x).array = s.array := (rfl)
@[simp] theorem State.unsched_setPch (s : State) (n : Nat) (x : PchSt) : (s.setPch n x).unsched = s.unsched := (rfl)
@[simp] theorem State.cxl_setPch (s : State) (n : Nat) (x : PchSt) : (s.setPch n x).cxl = s.cxl := (rfl)
@[simp] theorem State.mmu_setPch (s : State) (n : Nat) (x : PchSt) : (s.setPch n x).mmu = s.mmu := (rfl)
@[simp] theorem State.windows_setPch (s : State) (n : Nat) (x : PchSt) : (s.setPch n x).windows = s.windows := (rfl)
@[simp] theorem State.inbound_setPch (s : State) (n : Nat) (x : PchSt) : (s.setPch n x).inbound = s.inbound := (rfl)
@[simp] theorem State.tokens_setPch (s : State) (n : Nat) (x : PchSt) : (s.setPch n x).tokens = s.tokens := (rfl)
@[simp] theorem State.hbmStacks_setPch (s : State) (n : Nat) (x : PchSt) : (s.setPch n x).hbmStacks = s.hbmStacks := (rfl)
@[simp] theorem State.bmeWay_setPch (s : State) (n : Nat) (x : PchSt) : (s.setPch n x).bmeWay = s.bmeWay := (rfl)
@[simp] theorem State.shuttles_setPch (s : State) (n : Nat) (x : PchSt) : (s.setPch n x).shuttles = s.shuttles := (rfl)
@[simp] theorem State.faultQ_setPch (s : State) (n : Nat) (x : PchSt) : (s.setPch n x).faultQ = s.faultQ := (rfl)
@[simp] theorem State.ports_setPch (s : State) (n : Nat) (x : PchSt) : (s.setPch n x).ports = s.ports := (rfl)
@[simp] theorem State.router_setPch (s : State) (n : Nat) (x : PchSt) : (s.setPch n x).router = s.router := (rfl)
@[simp] theorem State.reed_setPch (s : State) (n : Nat) (x : PchSt) : (s.setPch n x).reed = s.reed := (rfl)
@[simp] theorem State.requests_setPch (s : State) (n : Nat) (x : PchSt) : (s.setPch n x).requests = s.requests := (rfl)
@[simp] theorem State.serve_setPch (s : State) (n : Nat) (x : PchSt) : (s.setPch n x).serve = s.serve := (rfl)
@[simp] theorem State.weights_setPch (s : State) (n : Nat) (x : PchSt) : (s.setPch n x).weights = s.weights := (rfl)
@[simp] theorem State.sync_setPch (s : State) (n : Nat) (x : PchSt) : (s.setPch n x).sync = s.sync := (rfl)
@[simp] theorem State.mail_setPch (s : State) (n : Nat) (x : PchSt) : (s.setPch n x).mail = s.mail := (rfl)
@[simp] theorem State.part_setPch (s : State) (n : Nat) (x : PchSt) : (s.setPch n x).part = s.part := (rfl)
@[simp] theorem State.fence_setPch (s : State) (n : Nat) (x : PchSt) : (s.setPch n x).fence = s.fence := (rfl)
@[simp] theorem State.mgt_setPch (s : State) (n : Nat) (x : PchSt) : (s.setPch n x).mgt = s.mgt := (rfl)
@[simp] theorem State.smu_setPch (s : State) (n : Nat) (x : PchSt) : (s.setPch n x).smu = s.smu := (rfl)
@[simp] theorem State.obs_setPch (s : State) (n : Nat) (x : PchSt) : (s.setPch n x).obs = s.obs := (rfl)
@[simp] theorem State.power_setPch (s : State) (n : Nat) (x : PchSt) : (s.setPch n x).power = s.power := (rfl)

/-! ## setWindow -/

@[simp] theorem State.pending_setWindow (s : State) (n : Nat) (x : WindowEntry) : (s.setWindow n x).pending = s.pending := (rfl)
@[simp] theorem State.now_setWindow (s : State) (n : Nat) (x : WindowEntry) : (s.setWindow n x).now = s.now := (rfl)
@[simp] theorem State.freeCtr_setWindow (s : State) (n : Nat) (x : WindowEntry) : (s.setWindow n x).freeCtr = s.freeCtr := (rfl)
@[simp] theorem State.regs_setWindow (s : State) (n : Nat) (x : WindowEntry) : (s.setWindow n x).regs = s.regs := (rfl)
@[simp] theorem State.rdata_setWindow (s : State) (n : Nat) (x : WindowEntry) : (s.setWindow n x).rdata = s.rdata := (rfl)
@[simp] theorem State.outbox_setWindow (s : State) (n : Nat) (x : WindowEntry) : (s.setWindow n x).outbox = s.outbox := (rfl)
@[simp] theorem State.pick_setWindow (s : State) (n : Nat) (x : WindowEntry) : (s.setWindow n x).pick = s.pick := (rfl)
@[simp] theorem State.clk_setWindow (s : State) (n : Nat) (x : WindowEntry) : (s.setWindow n x).clk = s.clk := (rfl)
@[simp] theorem State.seq_setWindow (s : State) (n : Nat) (x : WindowEntry) : (s.setWindow n x).seq = s.seq := (rfl)
@[simp] theorem State.regions_setWindow (s : State) (n : Nat) (x : WindowEntry) : (s.setWindow n x).regions = s.regions := (rfl)
@[simp] theorem State.array_setWindow (s : State) (n : Nat) (x : WindowEntry) : (s.setWindow n x).array = s.array := (rfl)
@[simp] theorem State.unsched_setWindow (s : State) (n : Nat) (x : WindowEntry) : (s.setWindow n x).unsched = s.unsched := (rfl)
@[simp] theorem State.hbm_setWindow (s : State) (n : Nat) (x : WindowEntry) : (s.setWindow n x).hbm = s.hbm := (rfl)
@[simp] theorem State.cxl_setWindow (s : State) (n : Nat) (x : WindowEntry) : (s.setWindow n x).cxl = s.cxl := (rfl)
@[simp] theorem State.mmu_setWindow (s : State) (n : Nat) (x : WindowEntry) : (s.setWindow n x).mmu = s.mmu := (rfl)
@[simp] theorem State.inbound_setWindow (s : State) (n : Nat) (x : WindowEntry) : (s.setWindow n x).inbound = s.inbound := (rfl)
@[simp] theorem State.tokens_setWindow (s : State) (n : Nat) (x : WindowEntry) : (s.setWindow n x).tokens = s.tokens := (rfl)
@[simp] theorem State.hbmStacks_setWindow (s : State) (n : Nat) (x : WindowEntry) : (s.setWindow n x).hbmStacks = s.hbmStacks := (rfl)
@[simp] theorem State.bmeWay_setWindow (s : State) (n : Nat) (x : WindowEntry) : (s.setWindow n x).bmeWay = s.bmeWay := (rfl)
@[simp] theorem State.shuttles_setWindow (s : State) (n : Nat) (x : WindowEntry) : (s.setWindow n x).shuttles = s.shuttles := (rfl)
@[simp] theorem State.faultQ_setWindow (s : State) (n : Nat) (x : WindowEntry) : (s.setWindow n x).faultQ = s.faultQ := (rfl)
@[simp] theorem State.ports_setWindow (s : State) (n : Nat) (x : WindowEntry) : (s.setWindow n x).ports = s.ports := (rfl)
@[simp] theorem State.router_setWindow (s : State) (n : Nat) (x : WindowEntry) : (s.setWindow n x).router = s.router := (rfl)
@[simp] theorem State.reed_setWindow (s : State) (n : Nat) (x : WindowEntry) : (s.setWindow n x).reed = s.reed := (rfl)
@[simp] theorem State.requests_setWindow (s : State) (n : Nat) (x : WindowEntry) : (s.setWindow n x).requests = s.requests := (rfl)
@[simp] theorem State.serve_setWindow (s : State) (n : Nat) (x : WindowEntry) : (s.setWindow n x).serve = s.serve := (rfl)
@[simp] theorem State.weights_setWindow (s : State) (n : Nat) (x : WindowEntry) : (s.setWindow n x).weights = s.weights := (rfl)
@[simp] theorem State.sync_setWindow (s : State) (n : Nat) (x : WindowEntry) : (s.setWindow n x).sync = s.sync := (rfl)
@[simp] theorem State.mail_setWindow (s : State) (n : Nat) (x : WindowEntry) : (s.setWindow n x).mail = s.mail := (rfl)
@[simp] theorem State.part_setWindow (s : State) (n : Nat) (x : WindowEntry) : (s.setWindow n x).part = s.part := (rfl)
@[simp] theorem State.fence_setWindow (s : State) (n : Nat) (x : WindowEntry) : (s.setWindow n x).fence = s.fence := (rfl)
@[simp] theorem State.mgt_setWindow (s : State) (n : Nat) (x : WindowEntry) : (s.setWindow n x).mgt = s.mgt := (rfl)
@[simp] theorem State.smu_setWindow (s : State) (n : Nat) (x : WindowEntry) : (s.setWindow n x).smu = s.smu := (rfl)
@[simp] theorem State.obs_setWindow (s : State) (n : Nat) (x : WindowEntry) : (s.setWindow n x).obs = s.obs := (rfl)
@[simp] theorem State.power_setWindow (s : State) (n : Nat) (x : WindowEntry) : (s.setWindow n x).power = s.power := (rfl)

/-! ## setBox -/

@[simp] theorem State.pending_setBox (s : State) (n : Nat) (x : MailboxSt) : (s.setBox n x).pending = s.pending := (rfl)
@[simp] theorem State.now_setBox (s : State) (n : Nat) (x : MailboxSt) : (s.setBox n x).now = s.now := (rfl)
@[simp] theorem State.freeCtr_setBox (s : State) (n : Nat) (x : MailboxSt) : (s.setBox n x).freeCtr = s.freeCtr := (rfl)
@[simp] theorem State.regs_setBox (s : State) (n : Nat) (x : MailboxSt) : (s.setBox n x).regs = s.regs := (rfl)
@[simp] theorem State.rdata_setBox (s : State) (n : Nat) (x : MailboxSt) : (s.setBox n x).rdata = s.rdata := (rfl)
@[simp] theorem State.outbox_setBox (s : State) (n : Nat) (x : MailboxSt) : (s.setBox n x).outbox = s.outbox := (rfl)
@[simp] theorem State.pick_setBox (s : State) (n : Nat) (x : MailboxSt) : (s.setBox n x).pick = s.pick := (rfl)
@[simp] theorem State.clk_setBox (s : State) (n : Nat) (x : MailboxSt) : (s.setBox n x).clk = s.clk := (rfl)
@[simp] theorem State.seq_setBox (s : State) (n : Nat) (x : MailboxSt) : (s.setBox n x).seq = s.seq := (rfl)
@[simp] theorem State.regions_setBox (s : State) (n : Nat) (x : MailboxSt) : (s.setBox n x).regions = s.regions := (rfl)
@[simp] theorem State.array_setBox (s : State) (n : Nat) (x : MailboxSt) : (s.setBox n x).array = s.array := (rfl)
@[simp] theorem State.unsched_setBox (s : State) (n : Nat) (x : MailboxSt) : (s.setBox n x).unsched = s.unsched := (rfl)
@[simp] theorem State.hbm_setBox (s : State) (n : Nat) (x : MailboxSt) : (s.setBox n x).hbm = s.hbm := (rfl)
@[simp] theorem State.cxl_setBox (s : State) (n : Nat) (x : MailboxSt) : (s.setBox n x).cxl = s.cxl := (rfl)
@[simp] theorem State.mmu_setBox (s : State) (n : Nat) (x : MailboxSt) : (s.setBox n x).mmu = s.mmu := (rfl)
@[simp] theorem State.windows_setBox (s : State) (n : Nat) (x : MailboxSt) : (s.setBox n x).windows = s.windows := (rfl)
@[simp] theorem State.inbound_setBox (s : State) (n : Nat) (x : MailboxSt) : (s.setBox n x).inbound = s.inbound := (rfl)
@[simp] theorem State.tokens_setBox (s : State) (n : Nat) (x : MailboxSt) : (s.setBox n x).tokens = s.tokens := (rfl)
@[simp] theorem State.hbmStacks_setBox (s : State) (n : Nat) (x : MailboxSt) : (s.setBox n x).hbmStacks = s.hbmStacks := (rfl)
@[simp] theorem State.bmeWay_setBox (s : State) (n : Nat) (x : MailboxSt) : (s.setBox n x).bmeWay = s.bmeWay := (rfl)
@[simp] theorem State.shuttles_setBox (s : State) (n : Nat) (x : MailboxSt) : (s.setBox n x).shuttles = s.shuttles := (rfl)
@[simp] theorem State.faultQ_setBox (s : State) (n : Nat) (x : MailboxSt) : (s.setBox n x).faultQ = s.faultQ := (rfl)
@[simp] theorem State.ports_setBox (s : State) (n : Nat) (x : MailboxSt) : (s.setBox n x).ports = s.ports := (rfl)
@[simp] theorem State.router_setBox (s : State) (n : Nat) (x : MailboxSt) : (s.setBox n x).router = s.router := (rfl)
@[simp] theorem State.reed_setBox (s : State) (n : Nat) (x : MailboxSt) : (s.setBox n x).reed = s.reed := (rfl)
@[simp] theorem State.requests_setBox (s : State) (n : Nat) (x : MailboxSt) : (s.setBox n x).requests = s.requests := (rfl)
@[simp] theorem State.serve_setBox (s : State) (n : Nat) (x : MailboxSt) : (s.setBox n x).serve = s.serve := (rfl)
@[simp] theorem State.weights_setBox (s : State) (n : Nat) (x : MailboxSt) : (s.setBox n x).weights = s.weights := (rfl)
@[simp] theorem State.sync_setBox (s : State) (n : Nat) (x : MailboxSt) : (s.setBox n x).sync = s.sync := (rfl)
@[simp] theorem State.part_setBox (s : State) (n : Nat) (x : MailboxSt) : (s.setBox n x).part = s.part := (rfl)
@[simp] theorem State.fence_setBox (s : State) (n : Nat) (x : MailboxSt) : (s.setBox n x).fence = s.fence := (rfl)
@[simp] theorem State.mgt_setBox (s : State) (n : Nat) (x : MailboxSt) : (s.setBox n x).mgt = s.mgt := (rfl)
@[simp] theorem State.smu_setBox (s : State) (n : Nat) (x : MailboxSt) : (s.setBox n x).smu = s.smu := (rfl)
@[simp] theorem State.obs_setBox (s : State) (n : Nat) (x : MailboxSt) : (s.setBox n x).obs = s.obs := (rfl)
@[simp] theorem State.power_setBox (s : State) (n : Nat) (x : MailboxSt) : (s.setBox n x).power = s.power := (rfl)

/-! ## sramPut -/

@[simp] theorem State.pending_sramPut (s : State) (a : Nat) (b : List Byte) : (s.sramPut a b).pending = s.pending := (rfl)
@[simp] theorem State.now_sramPut (s : State) (a : Nat) (b : List Byte) : (s.sramPut a b).now = s.now := (rfl)
@[simp] theorem State.freeCtr_sramPut (s : State) (a : Nat) (b : List Byte) : (s.sramPut a b).freeCtr = s.freeCtr := (rfl)
@[simp] theorem State.regs_sramPut (s : State) (a : Nat) (b : List Byte) : (s.sramPut a b).regs = s.regs := (rfl)
@[simp] theorem State.rdata_sramPut (s : State) (a : Nat) (b : List Byte) : (s.sramPut a b).rdata = s.rdata := (rfl)
@[simp] theorem State.outbox_sramPut (s : State) (a : Nat) (b : List Byte) : (s.sramPut a b).outbox = s.outbox := (rfl)
@[simp] theorem State.pick_sramPut (s : State) (a : Nat) (b : List Byte) : (s.sramPut a b).pick = s.pick := (rfl)
@[simp] theorem State.clk_sramPut (s : State) (a : Nat) (b : List Byte) : (s.sramPut a b).clk = s.clk := (rfl)
@[simp] theorem State.seq_sramPut (s : State) (a : Nat) (b : List Byte) : (s.sramPut a b).seq = s.seq := (rfl)
@[simp] theorem State.regions_sramPut (s : State) (a : Nat) (b : List Byte) : (s.sramPut a b).regions = s.regions := (rfl)
@[simp] theorem State.array_sramPut (s : State) (a : Nat) (b : List Byte) : (s.sramPut a b).array = s.array := (rfl)
@[simp] theorem State.unsched_sramPut (s : State) (a : Nat) (b : List Byte) : (s.sramPut a b).unsched = s.unsched := (rfl)
@[simp] theorem State.hbm_sramPut (s : State) (a : Nat) (b : List Byte) : (s.sramPut a b).hbm = s.hbm := (rfl)
@[simp] theorem State.cxl_sramPut (s : State) (a : Nat) (b : List Byte) : (s.sramPut a b).cxl = s.cxl := (rfl)
@[simp] theorem State.mmu_sramPut (s : State) (a : Nat) (b : List Byte) : (s.sramPut a b).mmu = s.mmu := (rfl)
@[simp] theorem State.windows_sramPut (s : State) (a : Nat) (b : List Byte) : (s.sramPut a b).windows = s.windows := (rfl)
@[simp] theorem State.inbound_sramPut (s : State) (a : Nat) (b : List Byte) : (s.sramPut a b).inbound = s.inbound := (rfl)
@[simp] theorem State.tokens_sramPut (s : State) (a : Nat) (b : List Byte) : (s.sramPut a b).tokens = s.tokens := (rfl)
@[simp] theorem State.hbmStacks_sramPut (s : State) (a : Nat) (b : List Byte) : (s.sramPut a b).hbmStacks = s.hbmStacks := (rfl)
@[simp] theorem State.bmeWay_sramPut (s : State) (a : Nat) (b : List Byte) : (s.sramPut a b).bmeWay = s.bmeWay := (rfl)
@[simp] theorem State.shuttles_sramPut (s : State) (a : Nat) (b : List Byte) : (s.sramPut a b).shuttles = s.shuttles := (rfl)
@[simp] theorem State.faultQ_sramPut (s : State) (a : Nat) (b : List Byte) : (s.sramPut a b).faultQ = s.faultQ := (rfl)
@[simp] theorem State.ports_sramPut (s : State) (a : Nat) (b : List Byte) : (s.sramPut a b).ports = s.ports := (rfl)
@[simp] theorem State.router_sramPut (s : State) (a : Nat) (b : List Byte) : (s.sramPut a b).router = s.router := (rfl)
@[simp] theorem State.reed_sramPut (s : State) (a : Nat) (b : List Byte) : (s.sramPut a b).reed = s.reed := (rfl)
@[simp] theorem State.requests_sramPut (s : State) (a : Nat) (b : List Byte) : (s.sramPut a b).requests = s.requests := (rfl)
@[simp] theorem State.serve_sramPut (s : State) (a : Nat) (b : List Byte) : (s.sramPut a b).serve = s.serve := (rfl)
@[simp] theorem State.weights_sramPut (s : State) (a : Nat) (b : List Byte) : (s.sramPut a b).weights = s.weights := (rfl)
@[simp] theorem State.sync_sramPut (s : State) (a : Nat) (b : List Byte) : (s.sramPut a b).sync = s.sync := (rfl)
@[simp] theorem State.part_sramPut (s : State) (a : Nat) (b : List Byte) : (s.sramPut a b).part = s.part := (rfl)
@[simp] theorem State.fence_sramPut (s : State) (a : Nat) (b : List Byte) : (s.sramPut a b).fence = s.fence := (rfl)
@[simp] theorem State.mgt_sramPut (s : State) (a : Nat) (b : List Byte) : (s.sramPut a b).mgt = s.mgt := (rfl)
@[simp] theorem State.smu_sramPut (s : State) (a : Nat) (b : List Byte) : (s.sramPut a b).smu = s.smu := (rfl)
@[simp] theorem State.obs_sramPut (s : State) (a : Nat) (b : List Byte) : (s.sramPut a b).obs = s.obs := (rfl)
@[simp] theorem State.power_sramPut (s : State) (a : Nat) (b : List Byte) : (s.sramPut a b).power = s.power := (rfl)

/-! ## at_ -/

@[simp] theorem State.pending_at (s : State) (t : Nat) : (s.at_ t).pending = s.pending := (rfl)
@[simp] theorem State.freeCtr_at (s : State) (t : Nat) : (s.at_ t).freeCtr = s.freeCtr := (rfl)
@[simp] theorem State.regs_at (s : State) (t : Nat) : (s.at_ t).regs = s.regs := (rfl)
@[simp] theorem State.rdata_at (s : State) (t : Nat) : (s.at_ t).rdata = s.rdata := (rfl)
@[simp] theorem State.outbox_at (s : State) (t : Nat) : (s.at_ t).outbox = s.outbox := (rfl)
@[simp] theorem State.pick_at (s : State) (t : Nat) : (s.at_ t).pick = s.pick := (rfl)
@[simp] theorem State.clk_at (s : State) (t : Nat) : (s.at_ t).clk = s.clk := (rfl)
@[simp] theorem State.seq_at (s : State) (t : Nat) : (s.at_ t).seq = s.seq := (rfl)
@[simp] theorem State.regions_at (s : State) (t : Nat) : (s.at_ t).regions = s.regions := (rfl)
@[simp] theorem State.array_at (s : State) (t : Nat) : (s.at_ t).array = s.array := (rfl)
@[simp] theorem State.unsched_at (s : State) (t : Nat) : (s.at_ t).unsched = s.unsched := (rfl)
@[simp] theorem State.hbm_at (s : State) (t : Nat) : (s.at_ t).hbm = s.hbm := (rfl)
@[simp] theorem State.cxl_at (s : State) (t : Nat) : (s.at_ t).cxl = s.cxl := (rfl)
@[simp] theorem State.mmu_at (s : State) (t : Nat) : (s.at_ t).mmu = s.mmu := (rfl)
@[simp] theorem State.windows_at (s : State) (t : Nat) : (s.at_ t).windows = s.windows := (rfl)
@[simp] theorem State.inbound_at (s : State) (t : Nat) : (s.at_ t).inbound = s.inbound := (rfl)
@[simp] theorem State.tokens_at (s : State) (t : Nat) : (s.at_ t).tokens = s.tokens := (rfl)
@[simp] theorem State.hbmStacks_at (s : State) (t : Nat) : (s.at_ t).hbmStacks = s.hbmStacks := (rfl)
@[simp] theorem State.bmeWay_at (s : State) (t : Nat) : (s.at_ t).bmeWay = s.bmeWay := (rfl)
@[simp] theorem State.shuttles_at (s : State) (t : Nat) : (s.at_ t).shuttles = s.shuttles := (rfl)
@[simp] theorem State.faultQ_at (s : State) (t : Nat) : (s.at_ t).faultQ = s.faultQ := (rfl)
@[simp] theorem State.ports_at (s : State) (t : Nat) : (s.at_ t).ports = s.ports := (rfl)
@[simp] theorem State.router_at (s : State) (t : Nat) : (s.at_ t).router = s.router := (rfl)
@[simp] theorem State.reed_at (s : State) (t : Nat) : (s.at_ t).reed = s.reed := (rfl)
@[simp] theorem State.requests_at (s : State) (t : Nat) : (s.at_ t).requests = s.requests := (rfl)
@[simp] theorem State.serve_at (s : State) (t : Nat) : (s.at_ t).serve = s.serve := (rfl)
@[simp] theorem State.weights_at (s : State) (t : Nat) : (s.at_ t).weights = s.weights := (rfl)
@[simp] theorem State.sync_at (s : State) (t : Nat) : (s.at_ t).sync = s.sync := (rfl)
@[simp] theorem State.mail_at (s : State) (t : Nat) : (s.at_ t).mail = s.mail := (rfl)
@[simp] theorem State.part_at (s : State) (t : Nat) : (s.at_ t).part = s.part := (rfl)
@[simp] theorem State.fence_at (s : State) (t : Nat) : (s.at_ t).fence = s.fence := (rfl)
@[simp] theorem State.mgt_at (s : State) (t : Nat) : (s.at_ t).mgt = s.mgt := (rfl)
@[simp] theorem State.smu_at (s : State) (t : Nat) : (s.at_ t).smu = s.smu := (rfl)
@[simp] theorem State.obs_at (s : State) (t : Nat) : (s.at_ t).obs = s.obs := (rfl)
@[simp] theorem State.power_at (s : State) (t : Nat) : (s.at_ t).power = s.power := (rfl)

/-! ## emit -/

@[simp] theorem State.pending_emit (s : State) (o : Output) : (s.emit o).pending = s.pending := (rfl)
@[simp] theorem State.now_emit (s : State) (o : Output) : (s.emit o).now = s.now := (rfl)
@[simp] theorem State.freeCtr_emit (s : State) (o : Output) : (s.emit o).freeCtr = s.freeCtr := (rfl)
@[simp] theorem State.regs_emit (s : State) (o : Output) : (s.emit o).regs = s.regs := (rfl)
@[simp] theorem State.rdata_emit (s : State) (o : Output) : (s.emit o).rdata = s.rdata := (rfl)
@[simp] theorem State.pick_emit (s : State) (o : Output) : (s.emit o).pick = s.pick := (rfl)
@[simp] theorem State.clk_emit (s : State) (o : Output) : (s.emit o).clk = s.clk := (rfl)
@[simp] theorem State.seq_emit (s : State) (o : Output) : (s.emit o).seq = s.seq := (rfl)
@[simp] theorem State.regions_emit (s : State) (o : Output) : (s.emit o).regions = s.regions := (rfl)
@[simp] theorem State.array_emit (s : State) (o : Output) : (s.emit o).array = s.array := (rfl)
@[simp] theorem State.unsched_emit (s : State) (o : Output) : (s.emit o).unsched = s.unsched := (rfl)
@[simp] theorem State.hbm_emit (s : State) (o : Output) : (s.emit o).hbm = s.hbm := (rfl)
@[simp] theorem State.cxl_emit (s : State) (o : Output) : (s.emit o).cxl = s.cxl := (rfl)
@[simp] theorem State.mmu_emit (s : State) (o : Output) : (s.emit o).mmu = s.mmu := (rfl)
@[simp] theorem State.windows_emit (s : State) (o : Output) : (s.emit o).windows = s.windows := (rfl)
@[simp] theorem State.inbound_emit (s : State) (o : Output) : (s.emit o).inbound = s.inbound := (rfl)
@[simp] theorem State.tokens_emit (s : State) (o : Output) : (s.emit o).tokens = s.tokens := (rfl)
@[simp] theorem State.hbmStacks_emit (s : State) (o : Output) : (s.emit o).hbmStacks = s.hbmStacks := (rfl)
@[simp] theorem State.bmeWay_emit (s : State) (o : Output) : (s.emit o).bmeWay = s.bmeWay := (rfl)
@[simp] theorem State.shuttles_emit (s : State) (o : Output) : (s.emit o).shuttles = s.shuttles := (rfl)
@[simp] theorem State.faultQ_emit (s : State) (o : Output) : (s.emit o).faultQ = s.faultQ := (rfl)
@[simp] theorem State.ports_emit (s : State) (o : Output) : (s.emit o).ports = s.ports := (rfl)
@[simp] theorem State.router_emit (s : State) (o : Output) : (s.emit o).router = s.router := (rfl)
@[simp] theorem State.reed_emit (s : State) (o : Output) : (s.emit o).reed = s.reed := (rfl)
@[simp] theorem State.requests_emit (s : State) (o : Output) : (s.emit o).requests = s.requests := (rfl)
@[simp] theorem State.serve_emit (s : State) (o : Output) : (s.emit o).serve = s.serve := (rfl)
@[simp] theorem State.weights_emit (s : State) (o : Output) : (s.emit o).weights = s.weights := (rfl)
@[simp] theorem State.sync_emit (s : State) (o : Output) : (s.emit o).sync = s.sync := (rfl)
@[simp] theorem State.mail_emit (s : State) (o : Output) : (s.emit o).mail = s.mail := (rfl)
@[simp] theorem State.part_emit (s : State) (o : Output) : (s.emit o).part = s.part := (rfl)
@[simp] theorem State.fence_emit (s : State) (o : Output) : (s.emit o).fence = s.fence := (rfl)
@[simp] theorem State.mgt_emit (s : State) (o : Output) : (s.emit o).mgt = s.mgt := (rfl)
@[simp] theorem State.smu_emit (s : State) (o : Output) : (s.emit o).smu = s.smu := (rfl)
@[simp] theorem State.obs_emit (s : State) (o : Output) : (s.emit o).obs = s.obs := (rfl)
@[simp] theorem State.power_emit (s : State) (o : Output) : (s.emit o).power = s.power := (rfl)

/-! ## Units -/

theorem State.region_setRegion (s : State) (n m : Nat) (x : RegionSt) :
    (s.setRegion n x).region m = if m = n then x else s.region m := sget_sset ({} : RegionSt) s.regions n m x
@[simp] theorem State.region_setRegion_same (s : State) (n : Nat) (x : RegionSt) : (s.setRegion n x).region n = x := sget_sset_same ({} : RegionSt) s.regions n x
theorem State.port_setPort (s : State) (n m : Nat) (x : PortSt) :
    (s.setPort n x).port m = if m = n then x else s.port m := sget_sset ({} : PortSt) s.ports n m x
@[simp] theorem State.port_setPort_same (s : State) (n : Nat) (x : PortSt) : (s.setPort n x).port n = x := sget_sset_same ({} : PortSt) s.ports n x
theorem State.stack_setStack (s : State) (n m : Nat) (x : StackSt) :
    (s.setStack n x).stack m = if m = n then x else s.stack m := sget_sset ({} : StackSt) s.hbmStacks n m x
@[simp] theorem State.stack_setStack_same (s : State) (n : Nat) (x : StackSt) : (s.setStack n x).stack n = x := sget_sset_same ({} : StackSt) s.hbmStacks n x
theorem State.shuttle_setShuttle (s : State) (n m : Nat) (x : ShuttleSt) :
    (s.setShuttle n x).shuttle m = if m = n then x else s.shuttle m := sget_sset ({} : ShuttleSt) s.shuttles n m x
@[simp] theorem State.shuttle_setShuttle_same (s : State) (n : Nat) (x : ShuttleSt) : (s.setShuttle n x).shuttle n = x := sget_sset_same ({} : ShuttleSt) s.shuttles n x
theorem State.cxlPort_setCxl (s : State) (n m : Nat) (x : CxlSt) :
    (s.setCxl n x).cxlPort m = if m = n then x else s.cxlPort m := sget_sset ({} : CxlSt) s.cxl n m x
@[simp] theorem State.cxlPort_setCxl_same (s : State) (n : Nat) (x : CxlSt) : (s.setCxl n x).cxlPort n = x := sget_sset_same ({} : CxlSt) s.cxl n x
theorem State.pch_setPch (s : State) (n m : Nat) (x : PchSt) :
    (s.setPch n x).pch m = if m = n then x else s.pch m := sget_sset ({} : PchSt) s.hbm.pchs n m x
@[simp] theorem State.pch_setPch_same (s : State) (n : Nat) (x : PchSt) : (s.setPch n x).pch n = x := sget_sset_same ({} : PchSt) s.hbm.pchs n x
theorem State.window_setWindow (s : State) (n m : Nat) (x : WindowEntry) :
    (s.setWindow n x).window m = if m = n then x else s.window m := sget_sset ({} : WindowEntry) s.windows n m x
@[simp] theorem State.window_setWindow_same (s : State) (n : Nat) (x : WindowEntry) : (s.setWindow n x).window n = x := sget_sset_same ({} : WindowEntry) s.windows n x
theorem State.box_setBox (s : State) (n m : Nat) (x : MailboxSt) :
    (s.setBox n x).box m = if m = n then x else s.box m := sget_sset ({} : MailboxSt) s.mail.boxes n m x
@[simp] theorem State.box_setBox_same (s : State) (n : Nat) (x : MailboxSt) : (s.setBox n x).box n = x := sget_sset_same ({} : MailboxSt) s.mail.boxes n x

/-! ## What reads one store after an update of another -/

@[simp] theorem State.reg_setRegion (s : State) (k : Nat) (x : RegionSt) (r : Reg) : (s.setRegion k x).reg r = s.reg r := (rfl)
@[simp] theorem State.reg_setPort (s : State) (k : Nat) (x : PortSt) (r : Reg) : (s.setPort k x).reg r = s.reg r := (rfl)
@[simp] theorem State.reg_setStack (s : State) (k : Nat) (x : StackSt) (r : Reg) : (s.setStack k x).reg r = s.reg r := (rfl)
@[simp] theorem State.reg_setShuttle (s : State) (k : Nat) (x : ShuttleSt) (r : Reg) : (s.setShuttle k x).reg r = s.reg r := (rfl)
@[simp] theorem State.reg_setCxl (s : State) (k : Nat) (x : CxlSt) (r : Reg) : (s.setCxl k x).reg r = s.reg r := (rfl)
@[simp] theorem State.reg_setPch (s : State) (k : Nat) (x : PchSt) (r : Reg) : (s.setPch k x).reg r = s.reg r := (rfl)
@[simp] theorem State.reg_setWindow (s : State) (k : Nat) (x : WindowEntry) (r : Reg) : (s.setWindow k x).reg r = s.reg r := (rfl)
@[simp] theorem State.reg_setBox (s : State) (k : Nat) (x : MailboxSt) (r : Reg) : (s.setBox k x).reg r = s.reg r := (rfl)
@[simp] theorem State.reg_sramPut (s : State) (a : Nat) (b : List Byte) (r : Reg) : (s.sramPut a b).reg r = s.reg r := (rfl)
@[simp] theorem State.reg_at (s : State) (t : Nat) (r : Reg) : (s.at_ t).reg r = s.reg r := (rfl)
@[simp] theorem State.reg_emit (s : State) (o : Output) (r : Reg) : (s.emit o).reg r = s.reg r := (rfl)
@[simp] theorem State.fld_setRegion (s : State) (k : Nat) (x : RegionSt) (f : Fld) : (s.setRegion k x).fld f = s.fld f := (rfl)
@[simp] theorem State.fld_setPort (s : State) (k : Nat) (x : PortSt) (f : Fld) : (s.setPort k x).fld f = s.fld f := (rfl)
@[simp] theorem State.fld_setStack (s : State) (k : Nat) (x : StackSt) (f : Fld) : (s.setStack k x).fld f = s.fld f := (rfl)
@[simp] theorem State.fld_setShuttle (s : State) (k : Nat) (x : ShuttleSt) (f : Fld) : (s.setShuttle k x).fld f = s.fld f := (rfl)
@[simp] theorem State.fld_setCxl (s : State) (k : Nat) (x : CxlSt) (f : Fld) : (s.setCxl k x).fld f = s.fld f := (rfl)
@[simp] theorem State.fld_setPch (s : State) (k : Nat) (x : PchSt) (f : Fld) : (s.setPch k x).fld f = s.fld f := (rfl)
@[simp] theorem State.fld_setWindow (s : State) (k : Nat) (x : WindowEntry) (f : Fld) : (s.setWindow k x).fld f = s.fld f := (rfl)
@[simp] theorem State.fld_setBox (s : State) (k : Nat) (x : MailboxSt) (f : Fld) : (s.setBox k x).fld f = s.fld f := (rfl)
@[simp] theorem State.fld_sramPut (s : State) (a : Nat) (b : List Byte) (f : Fld) : (s.sramPut a b).fld f = s.fld f := (rfl)
@[simp] theorem State.fld_at (s : State) (t : Nat) (f : Fld) : (s.at_ t).fld f = s.fld f := (rfl)
@[simp] theorem State.fld_emit (s : State) (o : Output) (f : Fld) : (s.emit o).fld f = s.fld f := (rfl)
@[simp] theorem State.flag_setRegion (s : State) (k : Nat) (x : RegionSt) (f : Fld) : (s.setRegion k x).flag f = s.flag f := (rfl)
@[simp] theorem State.flag_setPort (s : State) (k : Nat) (x : PortSt) (f : Fld) : (s.setPort k x).flag f = s.flag f := (rfl)
@[simp] theorem State.flag_setStack (s : State) (k : Nat) (x : StackSt) (f : Fld) : (s.setStack k x).flag f = s.flag f := (rfl)
@[simp] theorem State.flag_setShuttle (s : State) (k : Nat) (x : ShuttleSt) (f : Fld) : (s.setShuttle k x).flag f = s.flag f := (rfl)
@[simp] theorem State.flag_setCxl (s : State) (k : Nat) (x : CxlSt) (f : Fld) : (s.setCxl k x).flag f = s.flag f := (rfl)
@[simp] theorem State.flag_setPch (s : State) (k : Nat) (x : PchSt) (f : Fld) : (s.setPch k x).flag f = s.flag f := (rfl)
@[simp] theorem State.flag_setWindow (s : State) (k : Nat) (x : WindowEntry) (f : Fld) : (s.setWindow k x).flag f = s.flag f := (rfl)
@[simp] theorem State.flag_setBox (s : State) (k : Nat) (x : MailboxSt) (f : Fld) : (s.setBox k x).flag f = s.flag f := (rfl)
@[simp] theorem State.flag_sramPut (s : State) (a : Nat) (b : List Byte) (f : Fld) : (s.sramPut a b).flag f = s.flag f := (rfl)
@[simp] theorem State.flag_at (s : State) (t : Nat) (f : Fld) : (s.at_ t).flag f = s.flag f := (rfl)
@[simp] theorem State.flag_emit (s : State) (o : Output) (f : Fld) : (s.emit o).flag f = s.flag f := (rfl)
@[simp] theorem State.region_setReg (s : State) (q : Reg) (v : Reg32) (n : Nat) : (s.setReg q v).region n = s.region n := (rfl)
@[simp] theorem State.region_put (s : State) (e : Fld) (v : Nat) (n : Nat) : (s.put e v).region n = s.region n := (rfl)
@[simp] theorem State.region_raise (s : State) (e : Fld) (n : Nat) : (s.raise e).region n = s.region n := (rfl)
@[simp] theorem State.region_count (s : State) (e : Fld) (k : Nat) (n : Nat) : (s.count e k).region n = s.region n := (rfl)
@[simp] theorem State.region_putMax (s : State) (e : Fld) (v : Nat) (n : Nat) : (s.putMax e v).region n = s.region n := (rfl)
@[simp] theorem State.region_setPort (s : State) (k : Nat) (x : PortSt) (n : Nat) : (s.setPort k x).region n = s.region n := (rfl)
@[simp] theorem State.region_setStack (s : State) (k : Nat) (x : StackSt) (n : Nat) : (s.setStack k x).region n = s.region n := (rfl)
@[simp] theorem State.region_setShuttle (s : State) (k : Nat) (x : ShuttleSt) (n : Nat) : (s.setShuttle k x).region n = s.region n := (rfl)
@[simp] theorem State.region_setCxl (s : State) (k : Nat) (x : CxlSt) (n : Nat) : (s.setCxl k x).region n = s.region n := (rfl)
@[simp] theorem State.region_setPch (s : State) (k : Nat) (x : PchSt) (n : Nat) : (s.setPch k x).region n = s.region n := (rfl)
@[simp] theorem State.region_setWindow (s : State) (k : Nat) (x : WindowEntry) (n : Nat) : (s.setWindow k x).region n = s.region n := (rfl)
@[simp] theorem State.region_setBox (s : State) (k : Nat) (x : MailboxSt) (n : Nat) : (s.setBox k x).region n = s.region n := (rfl)
@[simp] theorem State.region_sramPut (s : State) (a : Nat) (b : List Byte) (n : Nat) : (s.sramPut a b).region n = s.region n := (rfl)
@[simp] theorem State.region_at (s : State) (t : Nat) (n : Nat) : (s.at_ t).region n = s.region n := (rfl)
@[simp] theorem State.region_emit (s : State) (o : Output) (n : Nat) : (s.emit o).region n = s.region n := (rfl)
@[simp] theorem State.port_setReg (s : State) (q : Reg) (v : Reg32) (n : Nat) : (s.setReg q v).port n = s.port n := (rfl)
@[simp] theorem State.port_put (s : State) (e : Fld) (v : Nat) (n : Nat) : (s.put e v).port n = s.port n := (rfl)
@[simp] theorem State.port_raise (s : State) (e : Fld) (n : Nat) : (s.raise e).port n = s.port n := (rfl)
@[simp] theorem State.port_count (s : State) (e : Fld) (k : Nat) (n : Nat) : (s.count e k).port n = s.port n := (rfl)
@[simp] theorem State.port_putMax (s : State) (e : Fld) (v : Nat) (n : Nat) : (s.putMax e v).port n = s.port n := (rfl)
@[simp] theorem State.port_setRegion (s : State) (k : Nat) (x : RegionSt) (n : Nat) : (s.setRegion k x).port n = s.port n := (rfl)
@[simp] theorem State.port_setStack (s : State) (k : Nat) (x : StackSt) (n : Nat) : (s.setStack k x).port n = s.port n := (rfl)
@[simp] theorem State.port_setShuttle (s : State) (k : Nat) (x : ShuttleSt) (n : Nat) : (s.setShuttle k x).port n = s.port n := (rfl)
@[simp] theorem State.port_setCxl (s : State) (k : Nat) (x : CxlSt) (n : Nat) : (s.setCxl k x).port n = s.port n := (rfl)
@[simp] theorem State.port_setPch (s : State) (k : Nat) (x : PchSt) (n : Nat) : (s.setPch k x).port n = s.port n := (rfl)
@[simp] theorem State.port_setWindow (s : State) (k : Nat) (x : WindowEntry) (n : Nat) : (s.setWindow k x).port n = s.port n := (rfl)
@[simp] theorem State.port_setBox (s : State) (k : Nat) (x : MailboxSt) (n : Nat) : (s.setBox k x).port n = s.port n := (rfl)
@[simp] theorem State.port_sramPut (s : State) (a : Nat) (b : List Byte) (n : Nat) : (s.sramPut a b).port n = s.port n := (rfl)
@[simp] theorem State.port_at (s : State) (t : Nat) (n : Nat) : (s.at_ t).port n = s.port n := (rfl)
@[simp] theorem State.port_emit (s : State) (o : Output) (n : Nat) : (s.emit o).port n = s.port n := (rfl)
@[simp] theorem State.stack_setReg (s : State) (q : Reg) (v : Reg32) (n : Nat) : (s.setReg q v).stack n = s.stack n := (rfl)
@[simp] theorem State.stack_put (s : State) (e : Fld) (v : Nat) (n : Nat) : (s.put e v).stack n = s.stack n := (rfl)
@[simp] theorem State.stack_raise (s : State) (e : Fld) (n : Nat) : (s.raise e).stack n = s.stack n := (rfl)
@[simp] theorem State.stack_count (s : State) (e : Fld) (k : Nat) (n : Nat) : (s.count e k).stack n = s.stack n := (rfl)
@[simp] theorem State.stack_putMax (s : State) (e : Fld) (v : Nat) (n : Nat) : (s.putMax e v).stack n = s.stack n := (rfl)
@[simp] theorem State.stack_setRegion (s : State) (k : Nat) (x : RegionSt) (n : Nat) : (s.setRegion k x).stack n = s.stack n := (rfl)
@[simp] theorem State.stack_setPort (s : State) (k : Nat) (x : PortSt) (n : Nat) : (s.setPort k x).stack n = s.stack n := (rfl)
@[simp] theorem State.stack_setShuttle (s : State) (k : Nat) (x : ShuttleSt) (n : Nat) : (s.setShuttle k x).stack n = s.stack n := (rfl)
@[simp] theorem State.stack_setCxl (s : State) (k : Nat) (x : CxlSt) (n : Nat) : (s.setCxl k x).stack n = s.stack n := (rfl)
@[simp] theorem State.stack_setPch (s : State) (k : Nat) (x : PchSt) (n : Nat) : (s.setPch k x).stack n = s.stack n := (rfl)
@[simp] theorem State.stack_setWindow (s : State) (k : Nat) (x : WindowEntry) (n : Nat) : (s.setWindow k x).stack n = s.stack n := (rfl)
@[simp] theorem State.stack_setBox (s : State) (k : Nat) (x : MailboxSt) (n : Nat) : (s.setBox k x).stack n = s.stack n := (rfl)
@[simp] theorem State.stack_sramPut (s : State) (a : Nat) (b : List Byte) (n : Nat) : (s.sramPut a b).stack n = s.stack n := (rfl)
@[simp] theorem State.stack_at (s : State) (t : Nat) (n : Nat) : (s.at_ t).stack n = s.stack n := (rfl)
@[simp] theorem State.stack_emit (s : State) (o : Output) (n : Nat) : (s.emit o).stack n = s.stack n := (rfl)
@[simp] theorem State.shuttle_setReg (s : State) (q : Reg) (v : Reg32) (n : Nat) : (s.setReg q v).shuttle n = s.shuttle n := (rfl)
@[simp] theorem State.shuttle_put (s : State) (e : Fld) (v : Nat) (n : Nat) : (s.put e v).shuttle n = s.shuttle n := (rfl)
@[simp] theorem State.shuttle_raise (s : State) (e : Fld) (n : Nat) : (s.raise e).shuttle n = s.shuttle n := (rfl)
@[simp] theorem State.shuttle_count (s : State) (e : Fld) (k : Nat) (n : Nat) : (s.count e k).shuttle n = s.shuttle n := (rfl)
@[simp] theorem State.shuttle_putMax (s : State) (e : Fld) (v : Nat) (n : Nat) : (s.putMax e v).shuttle n = s.shuttle n := (rfl)
@[simp] theorem State.shuttle_setRegion (s : State) (k : Nat) (x : RegionSt) (n : Nat) : (s.setRegion k x).shuttle n = s.shuttle n := (rfl)
@[simp] theorem State.shuttle_setPort (s : State) (k : Nat) (x : PortSt) (n : Nat) : (s.setPort k x).shuttle n = s.shuttle n := (rfl)
@[simp] theorem State.shuttle_setStack (s : State) (k : Nat) (x : StackSt) (n : Nat) : (s.setStack k x).shuttle n = s.shuttle n := (rfl)
@[simp] theorem State.shuttle_setCxl (s : State) (k : Nat) (x : CxlSt) (n : Nat) : (s.setCxl k x).shuttle n = s.shuttle n := (rfl)
@[simp] theorem State.shuttle_setPch (s : State) (k : Nat) (x : PchSt) (n : Nat) : (s.setPch k x).shuttle n = s.shuttle n := (rfl)
@[simp] theorem State.shuttle_setWindow (s : State) (k : Nat) (x : WindowEntry) (n : Nat) : (s.setWindow k x).shuttle n = s.shuttle n := (rfl)
@[simp] theorem State.shuttle_setBox (s : State) (k : Nat) (x : MailboxSt) (n : Nat) : (s.setBox k x).shuttle n = s.shuttle n := (rfl)
@[simp] theorem State.shuttle_sramPut (s : State) (a : Nat) (b : List Byte) (n : Nat) : (s.sramPut a b).shuttle n = s.shuttle n := (rfl)
@[simp] theorem State.shuttle_at (s : State) (t : Nat) (n : Nat) : (s.at_ t).shuttle n = s.shuttle n := (rfl)
@[simp] theorem State.shuttle_emit (s : State) (o : Output) (n : Nat) : (s.emit o).shuttle n = s.shuttle n := (rfl)
@[simp] theorem State.cxlPort_setReg (s : State) (q : Reg) (v : Reg32) (n : Nat) : (s.setReg q v).cxlPort n = s.cxlPort n := (rfl)
@[simp] theorem State.cxlPort_put (s : State) (e : Fld) (v : Nat) (n : Nat) : (s.put e v).cxlPort n = s.cxlPort n := (rfl)
@[simp] theorem State.cxlPort_raise (s : State) (e : Fld) (n : Nat) : (s.raise e).cxlPort n = s.cxlPort n := (rfl)
@[simp] theorem State.cxlPort_count (s : State) (e : Fld) (k : Nat) (n : Nat) : (s.count e k).cxlPort n = s.cxlPort n := (rfl)
@[simp] theorem State.cxlPort_putMax (s : State) (e : Fld) (v : Nat) (n : Nat) : (s.putMax e v).cxlPort n = s.cxlPort n := (rfl)
@[simp] theorem State.cxlPort_setRegion (s : State) (k : Nat) (x : RegionSt) (n : Nat) : (s.setRegion k x).cxlPort n = s.cxlPort n := (rfl)
@[simp] theorem State.cxlPort_setPort (s : State) (k : Nat) (x : PortSt) (n : Nat) : (s.setPort k x).cxlPort n = s.cxlPort n := (rfl)
@[simp] theorem State.cxlPort_setStack (s : State) (k : Nat) (x : StackSt) (n : Nat) : (s.setStack k x).cxlPort n = s.cxlPort n := (rfl)
@[simp] theorem State.cxlPort_setShuttle (s : State) (k : Nat) (x : ShuttleSt) (n : Nat) : (s.setShuttle k x).cxlPort n = s.cxlPort n := (rfl)
@[simp] theorem State.cxlPort_setPch (s : State) (k : Nat) (x : PchSt) (n : Nat) : (s.setPch k x).cxlPort n = s.cxlPort n := (rfl)
@[simp] theorem State.cxlPort_setWindow (s : State) (k : Nat) (x : WindowEntry) (n : Nat) : (s.setWindow k x).cxlPort n = s.cxlPort n := (rfl)
@[simp] theorem State.cxlPort_setBox (s : State) (k : Nat) (x : MailboxSt) (n : Nat) : (s.setBox k x).cxlPort n = s.cxlPort n := (rfl)
@[simp] theorem State.cxlPort_sramPut (s : State) (a : Nat) (b : List Byte) (n : Nat) : (s.sramPut a b).cxlPort n = s.cxlPort n := (rfl)
@[simp] theorem State.cxlPort_at (s : State) (t : Nat) (n : Nat) : (s.at_ t).cxlPort n = s.cxlPort n := (rfl)
@[simp] theorem State.cxlPort_emit (s : State) (o : Output) (n : Nat) : (s.emit o).cxlPort n = s.cxlPort n := (rfl)
@[simp] theorem State.pch_setReg (s : State) (q : Reg) (v : Reg32) (n : Nat) : (s.setReg q v).pch n = s.pch n := (rfl)
@[simp] theorem State.pch_put (s : State) (e : Fld) (v : Nat) (n : Nat) : (s.put e v).pch n = s.pch n := (rfl)
@[simp] theorem State.pch_raise (s : State) (e : Fld) (n : Nat) : (s.raise e).pch n = s.pch n := (rfl)
@[simp] theorem State.pch_count (s : State) (e : Fld) (k : Nat) (n : Nat) : (s.count e k).pch n = s.pch n := (rfl)
@[simp] theorem State.pch_putMax (s : State) (e : Fld) (v : Nat) (n : Nat) : (s.putMax e v).pch n = s.pch n := (rfl)
@[simp] theorem State.pch_setRegion (s : State) (k : Nat) (x : RegionSt) (n : Nat) : (s.setRegion k x).pch n = s.pch n := (rfl)
@[simp] theorem State.pch_setPort (s : State) (k : Nat) (x : PortSt) (n : Nat) : (s.setPort k x).pch n = s.pch n := (rfl)
@[simp] theorem State.pch_setStack (s : State) (k : Nat) (x : StackSt) (n : Nat) : (s.setStack k x).pch n = s.pch n := (rfl)
@[simp] theorem State.pch_setShuttle (s : State) (k : Nat) (x : ShuttleSt) (n : Nat) : (s.setShuttle k x).pch n = s.pch n := (rfl)
@[simp] theorem State.pch_setCxl (s : State) (k : Nat) (x : CxlSt) (n : Nat) : (s.setCxl k x).pch n = s.pch n := (rfl)
@[simp] theorem State.pch_setWindow (s : State) (k : Nat) (x : WindowEntry) (n : Nat) : (s.setWindow k x).pch n = s.pch n := (rfl)
@[simp] theorem State.pch_setBox (s : State) (k : Nat) (x : MailboxSt) (n : Nat) : (s.setBox k x).pch n = s.pch n := (rfl)
@[simp] theorem State.pch_sramPut (s : State) (a : Nat) (b : List Byte) (n : Nat) : (s.sramPut a b).pch n = s.pch n := (rfl)
@[simp] theorem State.pch_at (s : State) (t : Nat) (n : Nat) : (s.at_ t).pch n = s.pch n := (rfl)
@[simp] theorem State.pch_emit (s : State) (o : Output) (n : Nat) : (s.emit o).pch n = s.pch n := (rfl)
@[simp] theorem State.window_setReg (s : State) (q : Reg) (v : Reg32) (n : Nat) : (s.setReg q v).window n = s.window n := (rfl)
@[simp] theorem State.window_put (s : State) (e : Fld) (v : Nat) (n : Nat) : (s.put e v).window n = s.window n := (rfl)
@[simp] theorem State.window_raise (s : State) (e : Fld) (n : Nat) : (s.raise e).window n = s.window n := (rfl)
@[simp] theorem State.window_count (s : State) (e : Fld) (k : Nat) (n : Nat) : (s.count e k).window n = s.window n := (rfl)
@[simp] theorem State.window_putMax (s : State) (e : Fld) (v : Nat) (n : Nat) : (s.putMax e v).window n = s.window n := (rfl)
@[simp] theorem State.window_setRegion (s : State) (k : Nat) (x : RegionSt) (n : Nat) : (s.setRegion k x).window n = s.window n := (rfl)
@[simp] theorem State.window_setPort (s : State) (k : Nat) (x : PortSt) (n : Nat) : (s.setPort k x).window n = s.window n := (rfl)
@[simp] theorem State.window_setStack (s : State) (k : Nat) (x : StackSt) (n : Nat) : (s.setStack k x).window n = s.window n := (rfl)
@[simp] theorem State.window_setShuttle (s : State) (k : Nat) (x : ShuttleSt) (n : Nat) : (s.setShuttle k x).window n = s.window n := (rfl)
@[simp] theorem State.window_setCxl (s : State) (k : Nat) (x : CxlSt) (n : Nat) : (s.setCxl k x).window n = s.window n := (rfl)
@[simp] theorem State.window_setPch (s : State) (k : Nat) (x : PchSt) (n : Nat) : (s.setPch k x).window n = s.window n := (rfl)
@[simp] theorem State.window_setBox (s : State) (k : Nat) (x : MailboxSt) (n : Nat) : (s.setBox k x).window n = s.window n := (rfl)
@[simp] theorem State.window_sramPut (s : State) (a : Nat) (b : List Byte) (n : Nat) : (s.sramPut a b).window n = s.window n := (rfl)
@[simp] theorem State.window_at (s : State) (t : Nat) (n : Nat) : (s.at_ t).window n = s.window n := (rfl)
@[simp] theorem State.window_emit (s : State) (o : Output) (n : Nat) : (s.emit o).window n = s.window n := (rfl)
@[simp] theorem State.box_setReg (s : State) (q : Reg) (v : Reg32) (n : Nat) : (s.setReg q v).box n = s.box n := (rfl)
@[simp] theorem State.box_put (s : State) (e : Fld) (v : Nat) (n : Nat) : (s.put e v).box n = s.box n := (rfl)
@[simp] theorem State.box_raise (s : State) (e : Fld) (n : Nat) : (s.raise e).box n = s.box n := (rfl)
@[simp] theorem State.box_count (s : State) (e : Fld) (k : Nat) (n : Nat) : (s.count e k).box n = s.box n := (rfl)
@[simp] theorem State.box_putMax (s : State) (e : Fld) (v : Nat) (n : Nat) : (s.putMax e v).box n = s.box n := (rfl)
@[simp] theorem State.box_setRegion (s : State) (k : Nat) (x : RegionSt) (n : Nat) : (s.setRegion k x).box n = s.box n := (rfl)
@[simp] theorem State.box_setPort (s : State) (k : Nat) (x : PortSt) (n : Nat) : (s.setPort k x).box n = s.box n := (rfl)
@[simp] theorem State.box_setStack (s : State) (k : Nat) (x : StackSt) (n : Nat) : (s.setStack k x).box n = s.box n := (rfl)
@[simp] theorem State.box_setShuttle (s : State) (k : Nat) (x : ShuttleSt) (n : Nat) : (s.setShuttle k x).box n = s.box n := (rfl)
@[simp] theorem State.box_setCxl (s : State) (k : Nat) (x : CxlSt) (n : Nat) : (s.setCxl k x).box n = s.box n := (rfl)
@[simp] theorem State.box_setPch (s : State) (k : Nat) (x : PchSt) (n : Nat) : (s.setPch k x).box n = s.box n := (rfl)
@[simp] theorem State.box_setWindow (s : State) (k : Nat) (x : WindowEntry) (n : Nat) : (s.setWindow k x).box n = s.box n := (rfl)
@[simp] theorem State.box_at (s : State) (t : Nat) (n : Nat) : (s.at_ t).box n = s.box n := (rfl)
@[simp] theorem State.box_emit (s : State) (o : Output) (n : Nat) : (s.emit o).box n = s.box n := (rfl)

/-! ## Registers and fields -/

/-- A register reads what was stored in it. -/
@[simp] theorem State.reg_setReg (s : State) (r : Reg) (v : Reg32) : (s.setReg r v).reg r = v := by
  unfold State.reg State.setReg
  rw [sget_sset_same, BitVec.xor_assoc, BitVec.xor_self, BitVec.xor_zero]

/-- A register at another address is as before. -/
theorem State.reg_setReg_ne (s : State) {r q : Reg} (v : Reg32) (h : q.addr ≠ r.addr) :
    (s.setReg r v).reg q = s.reg q := by
  unfold State.reg State.setReg
  rw [sget_sset_ne _ _ _ h]

theorem bitsPut_bitsAt (v lo len x : Nat) : bitsAt (bitsPut v lo len x) lo len = x % 2 ^ len := by
  unfold bitsAt bitsPut
  have h1 : v % 2 ^ lo < 2 ^ lo := Nat.mod_lt _ (Nat.two_pow_pos lo)
  rw [Nat.pow_add, ← Nat.mul_assoc, Nat.mul_right_comm, ← Nat.add_mul, Nat.mul_comm, Nat.mul_add_div (Nat.two_pow_pos lo),
    Nat.div_eq_of_lt h1, Nat.add_zero, Nat.mul_comm, Nat.mul_add_mod, Nat.mod_mod]

theorem bitsPut_lt {v lo len x n : Nat} (hv : v < 2 ^ n) (h : lo + len ≤ n) : bitsPut v lo len x < 2 ^ n := by
  unfold bitsPut
  have h1 : v % 2 ^ lo < 2 ^ lo := Nat.mod_lt _ (Nat.two_pow_pos lo)
  have h2 : x % 2 ^ len < 2 ^ len := Nat.mod_lt _ (Nat.two_pow_pos len)
  have h3 : x % 2 ^ len * 2 ^ lo + v % 2 ^ lo < 2 ^ (lo + len) := by
    rw [Nat.pow_add, Nat.mul_comm (2 ^ lo)]
    calc x % 2 ^ len * 2 ^ lo + v % 2 ^ lo < x % 2 ^ len * 2 ^ lo + 2 ^ lo := by omega
      _ = (x % 2 ^ len + 1) * 2 ^ lo := by rw [Nat.add_mul, Nat.one_mul]
      _ ≤ 2 ^ len * 2 ^ lo := Nat.mul_le_mul_right _ h2
  have h4 : v / 2 ^ (lo + len) < 2 ^ (n - (lo + len)) := by
    apply Nat.div_lt_of_lt_mul
    rw [← Nat.pow_add]
    simpa [Nat.add_sub_cancel' h] using hv
  calc v / 2 ^ (lo + len) * 2 ^ (lo + len) + x % 2 ^ len * 2 ^ lo + v % 2 ^ lo
      < v / 2 ^ (lo + len) * 2 ^ (lo + len) + 2 ^ (lo + len) := by omega
    _ = (v / 2 ^ (lo + len) + 1) * 2 ^ (lo + len) := by rw [Nat.add_mul, Nat.one_mul]
    _ ≤ 2 ^ (n - (lo + len)) * 2 ^ (lo + len) := Nat.mul_le_mul_right _ h4
    _ = 2 ^ n := by rw [← Nat.pow_add, Nat.sub_add_cancel h]

/-- Bits below the field replaced are those of before. -/
theorem bitsPut_low {v lo len x a b : Nat} (h : a + b ≤ lo) : bitsAt (bitsPut v lo len x) a b = bitsAt v a b := by
  unfold bitsAt bitsPut
  obtain ⟨c, rfl⟩ := Nat.exists_eq_add_of_le h
  have e : v / 2 ^ (a + b + c + len) * 2 ^ (a + b + c + len) + x % 2 ^ len * 2 ^ (a + b + c) + v % 2 ^ (a + b + c)
      = 2 ^ a * (2 ^ b * (v / 2 ^ (a + b + c + len) * 2 ^ (c + len) + x % 2 ^ len * 2 ^ c)) + v % 2 ^ (a + b + c) := by
    simp only [Nat.pow_add, Nat.mul_add, Nat.mul_assoc, Nat.mul_comm, Nat.mul_left_comm]
  rw [e, Nat.mul_add_div (Nat.two_pow_pos a), Nat.mul_add_mod]
  have e2 : v % 2 ^ (a + b + c) / 2 ^ a = v / 2 ^ a % 2 ^ (b + c) := by
    rw [show a + b + c = a + (b + c) by omega, Nat.pow_add, Nat.mod_mul_right_div_self]
  rw [e2, Nat.pow_add, Nat.mod_mul_right_mod]

/-- Bits above the field replaced are those of before. -/
theorem bitsPut_high {v lo len x a b : Nat} (h : lo + len ≤ a) : bitsAt (bitsPut v lo len x) a b = bitsAt v a b := by
  unfold bitsAt
  obtain ⟨c, rfl⟩ := Nat.exists_eq_add_of_le h
  have h1 : v % 2 ^ lo < 2 ^ lo := Nat.mod_lt _ (Nat.two_pow_pos lo)
  have h2 : x % 2 ^ len < 2 ^ len := Nat.mod_lt _ (Nat.two_pow_pos len)
  have h3 : x % 2 ^ len * 2 ^ lo + v % 2 ^ lo < 2 ^ (lo + len) := by
    rw [Nat.pow_add, Nat.mul_comm (2 ^ lo)]
    calc x % 2 ^ len * 2 ^ lo + v % 2 ^ lo < x % 2 ^ len * 2 ^ lo + 2 ^ lo := by omega
      _ = (x % 2 ^ len + 1) * 2 ^ lo := by rw [Nat.add_mul, Nat.one_mul]
      _ ≤ 2 ^ len * 2 ^ lo := Nat.mul_le_mul_right _ h2
  have e : bitsPut v lo len x / 2 ^ (lo + len + c) = v / 2 ^ (lo + len + c) := by
    rw [Nat.pow_add (2) (lo + len) c, ← Nat.div_div_eq_div_mul, ← Nat.div_div_eq_div_mul]
    congr 1
    unfold bitsPut
    rw [Nat.add_assoc, Nat.mul_comm (v / _), Nat.mul_add_div (Nat.two_pow_pos _), Nat.div_eq_of_lt h3, Nat.add_zero]
  rw [e]

theorem State.reg_put (s : State) (f : Fld) (v : Nat) :
    (s.put f v).reg f.reg = BitVec.ofNat 32 (bitsPut (s.reg f.reg).toNat f.lo f.len v) := by
  unfold State.put; rw [State.reg_setReg]

theorem State.reg_put_ne (s : State) {f : Fld} {q : Reg} (v : Nat) (h : q.addr ≠ f.reg.addr) :
    (s.put f v).reg q = s.reg q := State.reg_setReg_ne s _ h

theorem State.toNat_put (s : State) (f : Fld) (v : Nat) (h : f.lo + f.len ≤ 32) :
    ((s.put f v).reg f.reg).toNat = bitsPut (s.reg f.reg).toNat f.lo f.len v := by
  rw [State.reg_put s, BitVec.toNat_ofNat, Nat.mod_eq_of_lt (bitsPut_lt (s.reg f.reg).isLt h)]

/-- A field reads what was stored in it. -/
theorem State.fld_put (s : State) (f : Fld) (v : Nat) (h : f.lo + f.len ≤ 32) : (s.put f v).fld f = v % 2 ^ f.len := by
  unfold State.fld; rw [State.toNat_put s _ _ h, bitsPut_bitsAt]

/-- A field of another register is as before. -/
theorem State.fld_put_ne (s : State) {f g : Fld} (v : Nat) (h : g.reg.addr ≠ f.reg.addr) : (s.put f v).fld g = s.fld g := by
  unfold State.fld; rw [State.reg_put_ne s _ h]

/-- Another field of the same register is as before. -/
theorem State.fld_put_apart (s : State) {f g : Fld} (v : Nat) (h : f.lo + f.len ≤ 32) (e : g.reg = f.reg)
    (d : g.lo + g.len ≤ f.lo ∨ f.lo + f.len ≤ g.lo) : (s.put f v).fld g = s.fld g := by
  unfold State.fld
  rw [e, State.toNat_put s _ _ h]
  rcases d with d | d
  · exact bitsPut_low d
  · exact bitsPut_high d

/-- A field of another register, or apart in the same one, keeps its value when a field is stored. -/
theorem State.fld_put_keep (s : State) {f g : Fld} (v : Nat) (h : f.lo + f.len ≤ 32)
    (d : g.reg.addr ≠ f.reg.addr ∨ g.reg = f.reg ∧ (g.lo + g.len ≤ f.lo ∨ f.lo + f.len ≤ g.lo)) :
    (s.put f v).fld g = s.fld g := by
  rcases d with d | ⟨e, d⟩
  · exact State.fld_put_ne s v d
  · exact State.fld_put_apart s v h e d

theorem State.flag_put (s : State) (f : Fld) (v : Nat) (h : f.lo + f.len ≤ 32) :
    (s.put f v).flag f = (v % 2 ^ f.len != 0) := by
  unfold State.flag; rw [State.fld_put s _ _ h]

theorem State.flag_raise (s : State) (f : Fld) (h : f.lo + f.len ≤ 32) (hl : 0 < f.len) : (s.raise f).flag f = true := by
  unfold State.raise
  rw [State.flag_put s _ _ h, Nat.mod_eq_of_lt (Nat.sub_lt (Nat.two_pow_pos _) Nat.one_pos)]
  have : 2 ≤ 2 ^ f.len := Nat.le_self_pow (Nat.pos_iff_ne_zero.mp hl) 2
  simp; omega

/-- A count goes up by what is added, and holds at its field's maximum. -/
theorem State.fld_count (s : State) (f : Fld) (n : Nat) (h : f.lo + f.len ≤ 32) :
    (s.count f n).fld f = min (s.fld f + n) (2 ^ f.len - 1) := by
  unfold State.count
  rw [State.fld_put s _ _ h, Nat.mod_eq_of_lt]
  exact Nat.lt_of_le_of_lt (Nat.min_le_right _ _) (Nat.sub_lt (Nat.two_pow_pos _) Nat.one_pos)

/-! ## The mailboxes' SRAM -/

theorem sget_swrite_ne {β : Type} [DecidableEq β] {d : β} {b : List β} {m : SMap β} {a k : Nat}
    (h : k < a ∨ a + b.length ≤ k) : sget d (swrite d m a b) k = sget d m k := by
  rw [sget_swrite]
  split
  · rw [List.getElem?_eq_none (by omega)]; rfl
  · rfl

/-- Bytes written are read back. -/
theorem State.sram_sramPut (s : State) (a : Nat) (b : List Byte) : (s.sramPut a b).sram a b.length = b := by
  unfold State.sram State.sramPut sread
  apply List.ext_getElem
  · simp
  · intro i h1 h2
    simp only [List.getElem_map, List.getElem_range, sget_swrite]
    rw [if_pos (by omega)]
    simp [h2]

/-- Bytes apart from those written are as before. -/
theorem State.sram_sramPut_apart (s : State) {a c n : Nat} {b : List Byte} (h : c + n ≤ a ∨ a + b.length ≤ c) :
    (s.sramPut a b).sram c n = s.sram c n := by
  unfold State.sram State.sramPut sread
  apply List.map_congr_left
  intro i hi
  have := List.mem_range.mp hi
  exact sget_swrite_ne (by omega)

/-! ## The outcome of a command -/

theorem onUnit_next {c : Bool} {s : State} (h : c = true) : onUnit c s = .next s := by subst h; rfl
theorem onUnit_fault {c : Bool} {s : State} (h : c = false) : onUnit c s = .fault .noSuchUnit := by subst h; rfl

end Sys2Proof.Machine
end

