-- ==== Sys2Proof/Laws/Links.lean ====
section
/-! SUPPORT. What the operations of a fabric port do: each leaves all but its port as it was. -/
namespace Sys2Proof.Machine

/-- A state of a port's operation under way: it differs from `s` in the port only. -/
structure PortRun (p : Nat) (s t : State) : Prop where
  only : OnlyPort p s t

theorem PortRun.refl (p : Nat) (s : State) : PortRun p s s := ⟨rfl, fun _ _ => rfl, fun _ _ _ => rfl⟩

/-- A register of the port's frame, or the count of lost trace records. -/
def ofPort (p : Nat) (r : Reg) : Prop := (0x41000 + 0x40 * p ≤ r.addr ∧ r.addr < 0x41040 + 0x40 * p) ∨ r.addr = SEQ_TRACE_LOST.addr

theorem PortRun.setReg {p : Nat} {s t : State} {r : Reg} (h : PortRun p s t) (hr : ofPort p r) (v : Reg32) :
    PortRun p s (t.setReg r v) where
  only := by
    refine ⟨h.only.rest, h.only.ports, fun q h1 h2 => ?_⟩
    rw [State.reg_setReg_ne, h.only.regs q h1 h2]
    unfold ofPort at hr; intro e; rw [e] at h1 h2; omega

theorem PortRun.put {p : Nat} {s t : State} {f : Fld} (h : PortRun p s t) (hr : ofPort p f.reg) (v : Nat) :
    PortRun p s (t.put f v) := h.setReg hr _
theorem PortRun.raise {p : Nat} {s t : State} {f : Fld} (h : PortRun p s t) (hr : ofPort p f.reg) :
    PortRun p s (t.raise f) := h.setReg hr _
theorem PortRun.count {p : Nat} {s t : State} {f : Fld} (h : PortRun p s t) (hr : ofPort p f.reg) (n : Nat) :
    PortRun p s (t.count f n) := h.setReg hr _

theorem PortRun.setPort {p : Nat} {s t : State} (h : PortRun p s t) (x : PortSt) : PortRun p s (t.setPort p x) where
  only := by
    refine ⟨h.only.rest, fun q hq => ?_, h.only.regs⟩
    rw [State.port_setPort, if_neg hq, h.only.ports q hq]

/-- A change outside the registers and the ports. -/
theorem PortRun.other {p : Nat} {s t u : State} (h : PortRun p s t) (hr : u.regs = t.regs)
    (hp : u.ports = t.ports) (e : { u with
      now := t.now, freeCtr := t.freeCtr, outbox := t.outbox, mgt := t.mgt, smu := t.smu, obs := t.obs } = t) :
    PortRun p s u := by
  refine ⟨⟨?_, fun q hq => ?_, fun r h1 h2 => ?_⟩⟩
  · have := h.only.rest; rw [← e] at this; exact this
  · unfold State.port; rw [hp]; exact h.only.ports q hq
  · unfold State.reg; rw [hr]; exact h.only.regs r h1 h2

theorem PortRun.emit {p : Nat} {s t : State} (h : PortRun p s t) (o : Output) : PortRun p s (t.emit o) :=
  h.other rfl rfl rfl
theorem PortRun.at_ {p : Nat} {s t : State} (h : PortRun p s t) (n : Nat) : PortRun p s (t.at_ n) :=
  h.other rfl rfl rfl
theorem PortRun.freeByte {p : Nat} {s t : State} (h : PortRun p s t) : PortRun p s t.freeByte.2 :=
  h.other rfl rfl rfl
theorem PortRun.freeNat {p : Nat} {s t : State} (h : PortRun p s t) (n : Nat) : PortRun p s (t.freeNat n).2 :=
  h.other rfl rfl rfl

theorem PortRun.logRec {p : Nat} {s t : State} (h : PortRun p s t) (a b : Nat) (d : List Byte) :
    PortRun p s (t.logRec a b d) := by
  refine h.other ?_ ?_ ?_ <;> (unfold State.logRec; split <;> rfl)

theorem PortRun.trace {p : Nat} {s t : State} (h : PortRun p s t) (a b : Nat) (d : List Byte) :
    PortRun p s (t.trace a b d) := by
  unfold State.trace
  split
  · split
    · have h1 : PortRun p s { t with obs := { t.obs with traceDropped := t.obs.traceDropped + 1 } } :=
        h.other rfl rfl rfl
      exact h1.count (.inr rfl) 1
    · exact h.other rfl rfl rfl
  · exact h

theorem PortRun.event {p : Nat} {s t : State} (h : PortRun p s t) (a b : Nat) (d : List Byte) :
    PortRun p s (t.event a b d) := by
  unfold State.event
  have h1 := h.logRec a b d
  dsimp only
  apply PortRun.trace
  exact h1.other rfl rfl rfl

/-- The registers of a port's frame. -/
theorem ofPort_lnk (p o : Nat) (h : o < 0x40) (v : Reg32) : ofPort p ⟨0x41000 + o + 0x40 * p, v⟩ :=
  .inl ⟨by show _ ≤ 0x41000 + o + 0x40 * p; omega, by show 0x41000 + o + 0x40 * p < _; omega⟩

theorem PortRun.noteBacklog {p : Nat} {s t : State} (h : PortRun p s t) : PortRun p s (t.noteBacklog p) := by
  have k : ∀ o, o < 0x40 → ∀ v, ofPort p ⟨0x41000 + o + 0x40 * p, v⟩ := ofPort_lnk p
  unfold State.noteBacklog
  dsimp only
  repeat' (first
    | with_reducible assumption | split
    | with_reducible apply PortRun.event
    | with_reducible refine PortRun.put ?_ ?_ _
    | with_reducible refine PortRun.raise ?_ ?_
    | exact k 0x24 (by decide) _
    | exact k 0x2c (by decide) _)

/-! ## The operations of LinkOps -/

theorem PortRun.resetSequence {p : Nat} {s t : State} (h : PortRun p s t) : PortRun p s (t.resetSequence p) := by
  have k : ∀ o, o < 0x40 → ∀ v, ofPort p ⟨0x41000 + o + 0x40 * p, v⟩ := ofPort_lnk p
  unfold State.resetSequence
  dsimp only
  repeat' (first
    | with_reducible assumption | split
    | with_reducible apply PortRun.setPort
    | with_reducible refine PortRun.count ?_ ?_ _
    | with_reducible refine PortRun.raise ?_ ?_
    | exact k 0x20 (by decide) _
    | exact k 0x2c (by decide) _)

theorem PortRun.sendState {p : Nat} {s t : State} (h : PortRun p s t) (st : Nat) : PortRun p s (t.sendState p st) := by
  unfold State.sendState
  dsimp only
  repeat' (first | with_reducible assumption | split | with_reducible apply PortRun.emit)

theorem PortRun.enterLnk {p : Nat} {s t : State} (h : PortRun p s t) (st : Nat) : PortRun p s (t.enterLnk p st) := by
  have k : ∀ o, o < 0x40 → ∀ v, ofPort p ⟨0x41000 + o + 0x40 * p, v⟩ := ofPort_lnk p
  unfold State.enterLnk
  dsimp only
  repeat' (first
    | with_reducible assumption | split
    | with_reducible apply PortRun.resetSequence
    | with_reducible apply PortRun.sendState
    | with_reducible apply PortRun.setPort
    | with_reducible refine PortRun.put ?_ ?_ _
    | exact k 0x4 (by decide) _)

theorem PortRun.lnkToDown {p : Nat} {s t : State} (h : PortRun p s t) : PortRun p s (t.lnkToDown p) := by
  have k : ∀ o, o < 0x40 → ∀ v, ofPort p ⟨0x41000 + o + 0x40 * p, v⟩ := ofPort_lnk p
  unfold State.lnkToDown
  dsimp only
  repeat' (first
    | with_reducible assumption | split
    | with_reducible apply PortRun.setPort
    | with_reducible apply PortRun.enterLnk
    | with_reducible refine PortRun.raise ?_ ?_
    | exact k 0x2c (by decide) _)

theorem PortRun.delefDelay {p : Nat} {s t : State} (h : PortRun p s t) : PortRun p s (t.delefDelay p) := by
  have k : ∀ o, o < 0x40 → ∀ v, ofPort p ⟨0x41000 + o + 0x40 * p, v⟩ := ofPort_lnk p
  unfold State.delefDelay
  exact (((h.freeNat 4096).freeNat 16).put (k 0x10 (by decide) _) _).put (k 0x10 (by decide) _) _

theorem PortRun.syncScramblers {p : Nat} {s t : State} (h : PortRun p s t) : PortRun p s (t.syncScramblers p) := by
  unfold State.syncScramblers
  exact (h.freeNat _).setPort _

theorem PortRun.startMeasure {p : Nat} {s t : State} (h : PortRun p s t) : PortRun p s (t.startMeasure p) := by
  have k : ∀ o, o < 0x40 → ∀ v, ofPort p ⟨0x41000 + o + 0x40 * p, v⟩ := ofPort_lnk p
  unfold State.startMeasure
  dsimp only
  repeat' (first
    | with_reducible assumption | split
    | with_reducible apply PortRun.setPort
    | with_reducible apply PortRun.delefDelay)

theorem PortRun.sendControl {p : Nat} {s t : State} (h : PortRun p s t) (b : List Byte) : PortRun p s (t.sendControl p b) :=
  h.setPort _

theorem PortRun.fastRetrain {p : Nat} {s t : State} (h : PortRun p s t) (lead : Bool) : PortRun p s (t.fastRetrain p lead) := by
  have k : ∀ o, o < 0x40 → ∀ v, ofPort p ⟨0x41000 + o + 0x40 * p, v⟩ := ofPort_lnk p
  unfold State.fastRetrain
  dsimp only
  repeat' (first
    | with_reducible assumption | split
    | with_reducible apply PortRun.event
    | with_reducible apply PortRun.emit
    | with_reducible apply PortRun.setPort
    | with_reducible apply PortRun.enterLnk
    | with_reducible refine PortRun.put ?_ ?_ _
    | with_reducible refine PortRun.raise ?_ ?_
    | exact k 0x4 (by decide) _
    | exact k 0x2c (by decide) _)

theorem PortRun.fullRetrainPort {p : Nat} {s t : State} (h : PortRun p s t) : PortRun p s (t.fullRetrainPort p) := by
  have k : ∀ o, o < 0x40 → ∀ v, ofPort p ⟨0x41000 + o + 0x40 * p, v⟩ := ofPort_lnk p
  unfold State.fullRetrainPort
  dsimp only
  repeat' (first
    | with_reducible assumption | split
    | with_reducible apply PortRun.setPort
    | with_reducible apply PortRun.enterLnk)

theorem PortRun.recordLanes {p : Nat} {s t : State} (h : PortRun p s t) (b : Nat) (fast : Bool) : PortRun p s (t.recordLanes p b fast) := by
  have k : ∀ o, o < 0x40 → ∀ v, ofPort p ⟨0x41000 + o + 0x40 * p, v⟩ := ofPort_lnk p
  unfold State.recordLanes
  dsimp only
  repeat' (first
    | with_reducible assumption | split
    | with_reducible apply PortRun.setPort
    | with_reducible refine PortRun.put ?_ ?_ _
    | with_reducible refine PortRun.raise ?_ ?_
    | exact k 0x4 (by decide) _
    | exact k 0x2c (by decide) _)

theorem PortRun.useLanes {p : Nat} {s t : State} (h : PortRun p s t) (l : Nat) : PortRun p s (t.useLanes p l) := by
  have k : ∀ o, o < 0x40 → ∀ v, ofPort p ⟨0x41000 + o + 0x40 * p, v⟩ := ofPort_lnk p
  unfold State.useLanes
  repeat' (first
    | with_reducible assumption | split
    | with_reducible refine PortRun.put ?_ ?_ _
    | exact k 0x4 (by decide) _)

theorem PortRun.requestWidth {p : Nat} {s t : State} (h : PortRun p s t) (l : Nat) : PortRun p s (t.requestWidth p l) := by
  have k : ∀ o, o < 0x40 → ∀ v, ofPort p ⟨0x41000 + o + 0x40 * p, v⟩ := ofPort_lnk p
  unfold State.requestWidth
  dsimp only
  repeat' (first
    | with_reducible assumption | split
    | with_reducible apply PortRun.sendControl
    | with_reducible apply PortRun.setPort)

theorem PortRun.queueReplay {p : Nat} {s t : State} (h : PortRun p s t) (a : Nat) (b : Option Nat) : PortRun p s (t.queueReplay p a b) := by
  have k : ∀ o, o < 0x40 → ∀ v, ofPort p ⟨0x41000 + o + 0x40 * p, v⟩ := ofPort_lnk p
  unfold State.queueReplay
  dsimp only
  repeat' (first
    | with_reducible assumption | split
    | with_reducible apply PortRun.setPort)

theorem PortRun.goBack {p : Nat} {s t : State} (h : PortRun p s t) : PortRun p s (t.goBack p) := by
  have k : ∀ o, o < 0x40 → ∀ v, ofPort p ⟨0x41000 + o + 0x40 * p, v⟩ := ofPort_lnk p
  unfold State.goBack
  dsimp only
  repeat' (first
    | with_reducible assumption | split
    | with_reducible apply PortRun.setPort
    | with_reducible apply PortRun.queueReplay
    | with_reducible refine PortRun.count ?_ ?_ _
    | exact k 0x1c (by decide) _)

theorem PortRun.takeAck {p : Nat} {s t : State} (h : PortRun p s t) (a : Nat) : PortRun p s (t.takeAck p a) := by
  have k : ∀ o, o < 0x40 → ∀ v, ofPort p ⟨0x41000 + o + 0x40 * p, v⟩ := ofPort_lnk p
  unfold State.takeAck
  dsimp only
  repeat' (first
    | with_reducible assumption | split
    | with_reducible apply PortRun.setPort
    | with_reducible refine PortRun.count ?_ ?_ _
    | exact k 0x1c (by decide) _)

theorem PortRun.takeReplayReq {p : Nat} {s t : State} (h : PortRun p s t) (a b : Nat) (c : Bool) : PortRun p s (t.takeReplayReq p a b c) := by
  have k : ∀ o, o < 0x40 → ∀ v, ofPort p ⟨0x41000 + o + 0x40 * p, v⟩ := ofPort_lnk p
  unfold State.takeReplayReq
  repeat' (first
    | with_reducible assumption | split
    | with_reducible apply PortRun.queueReplay
    | with_reducible refine PortRun.count ?_ ?_ _
    | exact k 0x1c (by decide) _)

theorem PortRun.takeWidthReq {p : Nat} {s t : State} (h : PortRun p s t) (a b : Nat) : PortRun p s (t.takeWidthReq p a b) := by
  have k : ∀ o, o < 0x40 → ∀ v, ofPort p ⟨0x41000 + o + 0x40 * p, v⟩ := ofPort_lnk p
  unfold State.takeWidthReq
  dsimp only
  repeat' (first
    | with_reducible assumption | split
    | with_reducible apply PortRun.sendControl
    | with_reducible apply PortRun.setPort
    | with_reducible refine PortRun.raise ?_ ?_
    | exact k 0x2c (by decide) _)

theorem PortRun.takeWidthAck {p : Nat} {s t : State} (h : PortRun p s t) (a b : Nat) : PortRun p s (t.takeWidthAck p a b) := by
  have k : ∀ o, o < 0x40 → ∀ v, ofPort p ⟨0x41000 + o + 0x40 * p, v⟩ := ofPort_lnk p
  unfold State.takeWidthAck
  dsimp only
  repeat' (first
    | with_reducible assumption | split
    | with_reducible apply PortRun.setPort)

theorem PortRun.takeWidthNak {p : Nat} {s t : State} (h : PortRun p s t) (a b : Nat) : PortRun p s (t.takeWidthNak p a b) := by
  have k : ∀ o, o < 0x40 → ∀ v, ofPort p ⟨0x41000 + o + 0x40 * p, v⟩ := ofPort_lnk p
  unfold State.takeWidthNak
  dsimp only
  repeat' (first
    | with_reducible assumption | split
    | with_reducible apply PortRun.setPort)

theorem PortRun.takeMeasure {p : Nat} {s t : State} (h : PortRun p s t) (a b c : Nat) : PortRun p s (t.takeMeasure p a b c) := by
  have k : ∀ o, o < 0x40 → ∀ v, ofPort p ⟨0x41000 + o + 0x40 * p, v⟩ := ofPort_lnk p
  unfold State.takeMeasure
  repeat' (first
    | with_reducible assumption | split
    | with_reducible apply PortRun.sendControl
    | with_reducible refine PortRun.count ?_ ?_ _
    | exact k 0x18 (by decide) _)

theorem PortRun.takeEcho {p : Nat} {s t : State} (h : PortRun p s t) (a b : Nat) : PortRun p s (t.takeEcho p a b) := by
  have k : ∀ o, o < 0x40 → ∀ v, ofPort p ⟨0x41000 + o + 0x40 * p, v⟩ := ofPort_lnk p
  unfold State.takeEcho
  dsimp only
  repeat' (first
    | with_reducible assumption | split
    | with_reducible apply PortRun.setPort
    | with_reducible refine PortRun.put ?_ ?_ _
    | with_reducible refine PortRun.count ?_ ?_ _
    | exact k 0x10 (by decide) _
    | exact k 0x18 (by decide) _)

/-! ## What the operations set -/

/-- An event leaves every register but the count of lost trace records. -/
theorem State.reg_event (s : State) (a b : Nat) (d : List Byte) (r : Reg) (hr : r.addr ≠ SEQ_TRACE_LOST.addr) :
    (s.event a b d).reg r = s.reg r := by
  have h1 : r.addr < 0x41000 ∨ 0x41040 ≤ r.addr ∨ (0x41000 ≤ r.addr ∧ r.addr < 0x41040) := by omega
  rcases h1 with h1 | h1 | h1
  · exact ((PortRun.refl 0 s).event a b d).only.regs r (by omega) hr
  · exact ((PortRun.refl 0 s).event a b d).only.regs r (by omega) hr
  · exact ((PortRun.refl 1 s).event a b d).only.regs r (by omega) hr

theorem State.ports_event (s : State) (a b : Nat) (d : List Byte) : (s.event a b d).ports = s.ports := by
  unfold State.event State.trace State.logRec
  dsimp only
  repeat' (first | rfl | split)

theorem State.fld_event (s : State) (a b : Nat) (d : List Byte) (f : Fld)
    (hr : f.reg.addr ≠ SEQ_TRACE_LOST.addr) : (s.event a b d).fld f = s.fld f := by
  unfold State.fld; rw [State.reg_event s a b d _ hr]

/-- The field a store sets, read back. -/
theorem State.fld_put_lt (s : State) (f : Fld) (v : Nat) (h : f.lo + f.len ≤ 32) (hv : v < 2 ^ f.len) :
    (s.put f v).fld f = v := by rw [State.fld_put _ _ _ h, Nat.mod_eq_of_lt hv]

theorem State.flag_put_keep (s : State) {f g : Fld} (v : Nat) (h : f.lo + f.len ≤ 32)
    (d : g.reg.addr ≠ f.reg.addr ∨ g.reg = f.reg ∧ (g.lo + g.len ≤ f.lo ∨ f.lo + f.len ≤ g.lo)) :
    (s.put f v).flag g = s.flag g := by unfold State.flag; rw [State.fld_put_keep s v h d]

/-- What a port sends in its state changes no register and no port. -/
@[simp] theorem State.regs_sendState (s : State) (p st : Nat) : (s.sendState p st).regs = s.regs := by
  unfold State.sendState; dsimp only; repeat' (first | rfl | split)
@[simp] theorem State.ports_sendState (s : State) (p st : Nat) : (s.sendState p st).ports = s.ports := by
  unfold State.sendState; dsimp only; repeat' (first | rfl | split)
@[simp] theorem State.reg_sendState (s : State) (p st : Nat) (r : Reg) : (s.sendState p st).reg r = s.reg r := by
  unfold State.reg; rw [State.regs_sendState]
@[simp] theorem State.fld_sendState (s : State) (p st : Nat) (f : Fld) : (s.sendState p st).fld f = s.fld f := by
  unfold State.fld; rw [State.reg_sendState]
@[simp] theorem State.port_sendState (s : State) (p st q : Nat) : (s.sendState p st).port q = s.port q := by
  unfold State.port; rw [State.ports_sendState]

/-- The state a port enters. -/
theorem State.enterLnk_fld (s : State) (p st : Nat) (hs : st < 16) :
    (s.enterLnk p st).fld (LNK_STATUS.STATE p) = st := by
  have le (n m : Nat) (h : Nat.ble n m = true) : n ≤ m := Nat.le_of_ble_eq_true h
  have h1 : (s.put (LNK_STATUS.STATE p) st).fld (LNK_STATUS.STATE p) = st :=
    State.fld_put_lt _ _ _ (le _ _ rfl) hs
  have h2 : (if st ≤ lnkEqualise then ((s.put (LNK_STATUS.STATE p) st).put (LNK_STATUS.WIDTH p) 0).put (LNK_STATUS.LANES p) 0
      else s.put (LNK_STATUS.STATE p) st).fld (LNK_STATUS.STATE p) = st := by
    split
    · exact (State.fld_put_keep (f := LNK_STATUS.LANES p) (g := LNK_STATUS.STATE p) _ 0 (le 32 32 rfl) (.inr ⟨rfl, .inl (le 4 24 rfl)⟩)).trans
        ((State.fld_put_keep (f := LNK_STATUS.WIDTH p) (g := LNK_STATUS.STATE p) _ 0 (le 14 32 rfl) (.inr ⟨rfl, .inl (le 4 12 rfl)⟩)).trans h1)
    · exact h1
  unfold State.enterLnk
  dsimp only
  generalize (if st ≤ lnkEqualise then ((s.put (LNK_STATUS.STATE p) st).put (LNK_STATUS.WIDTH p) 0).put (LNK_STATUS.LANES p) 0
      else s.put (LNK_STATUS.STATE p) st) = u at h2
  have ne : (LNK_STATUS.STATE p).reg.addr ≠ (LNK_EVT.SEQ_RESET p).reg.addr := by
    simp only [LNK_STATUS.STATE, LNK_STATUS, LNK_EVT.SEQ_RESET, LNK_EVT]; omega
  have ne2 : (LNK_STATUS.STATE p).reg.addr ≠ (LNK_LOST.CELLS_LOST p).reg.addr := by
    simp only [LNK_STATUS.STATE, LNK_STATUS, LNK_LOST.CELLS_LOST, LNK_LOST]; omega
  split
  · unfold State.resetSequence
    rw [State.fld_setPort]
    exact (State.fld_put_ne _ _ ne).trans ((State.fld_put_ne _ _ ne2).trans
      ((State.fld_sendState _ _ _ _).trans ((State.fld_setPort _ _ _ _).trans h2)))
  · exact (State.fld_sendState _ _ _ _).trans ((State.fld_setPort _ _ _ _).trans h2)

end Sys2Proof.Machine
end

