-- ==== Sys2Proof/Laws/Sync.lean ====
section
/-! SUPPORT. What a change of a synchronisation object leaves in it and in the others (R488 to R493). -/
namespace Sys2Proof.Machine

/-- A stored object of the image reads as it was stored. -/
theorem State.obj_setObj_same (s : State) (n : Nat) (o : SyncObj) (h : 90 < n) : (s.setObj n o).obj n = o := by
  have g : ¬ n ≤ 90 := by omega
  unfold State.setObj State.obj
  simp only [g, if_false]
  rw [sget_sset_same]

/-- Storing an object leaves every other as it was. -/
theorem State.obj_setObj_ne (s : State) {n k : Nat} (o : SyncObj) (h : k ≠ n) : (s.setObj n o).obj k = s.obj k := by
  unfold State.setObj State.obj
  simp only
  rw [sget_sset_ne _ _ _ h]

/-- R490: an object that is no counter is one of the image's. -/
theorem State.obj_image (s : State) (n : Nat) (h : (s.obj n).type ≠ 1) : 90 < n := by
  rcases Nat.lt_or_ge 90 n with g | g
  · exact g
  · exact absurd (by unfold State.obj; simp [g]) h

@[simp] theorem State.obj_putCycle (s : State) (e : ObjCycle) (k : Nat) : (s.putCycle e).obj k = s.obj k := rfl
@[simp] theorem State.obj_count (s : State) (f : Fld) (n k : Nat) : (s.count f n).obj k = s.obj k := rfl
@[simp] theorem State.obj_raise (s : State) (f : Fld) (k : Nat) : (s.raise f).obj k = s.obj k := rfl

/-- R489, R491, R493: a change reaches no object but its own. -/
theorem State.obj_changeObjX_ne (s : State) (op n : Nat) (x : BitVec 64) (imm : Nat) {k : Nat} (h : k ≠ n) :
    (s.changeObjX op n x imm).1.obj k = s.obj k := by
  unfold State.changeObjX State.typeError
  dsimp only
  repeat' split
  all_goals simp [State.obj_setObj_ne _ _ h]

/-- R491: an operation on an object of another type changes none. -/
theorem State.obj_changeObjX_type (s : State) (op n : Nat) (x : BitVec 64) (imm : Nat) (h : (s.obj n).type ≠ opType op) (k : Nat) :
    (s.changeObjX op n x imm).1.obj k = s.obj k := by
  unfold State.changeObjX State.typeError
  simp [h]

end Sys2Proof.Machine
end

