-- ==== Sys2Proof/Tests/Slice0.lean ====
section
/-! SUPPORT. Tests: a smoke test of well-formedness; a state and operands that meet the hypotheses of each statement; and
words and values worked out by hand from the spec. -/
namespace Sys2Proof.Tests
open Sys2Proof Sys2Proof.Machine

/-! ## Well-formedness: each check refuses one ill-formed term -/

theorem test_wellFormed_refuses_port : (Instr.retrain 24).wellFormed = false := by decide
theorem test_wellFormed_refuses_region : (Instr.frequencyStep 64).wellFormed = false := by decide

/-! ## States for the witnesses -/

/-- A port in a state, as after reset otherwise. -/
def port (p st : Nat) : State := State.reset.put (LNK_STATUS.STATE p) st

/-! ## Witnesses of hypotheses: one for each clause that has any, in the clauses' order -/

theorem witness_StepRunsFrontCommand : State.reset.pending = [] := rfl
theorem witness_WellFormedCommandsRun : (Instr.retrain 23).wellFormed = true ∧ (Instr.retrain 24).wellFormed = false := by
  decide
theorem witness_StepKeepsInvariant :
    State.reset.Inv ∧ step { State.reset with pending := [.fqPop] } = .next State.reset ∧
      { State.reset with pending := [.fqPop] }.Inv := by
  refine ⟨?_, rfl, ?_⟩ <;>
    exact ⟨rfl, rfl, (fun _ h => nomatch h), rfl, rfl, rfl, rfl, rfl, rfl, rfl, rfl, rfl, rfl, by decide, by decide, by decide,
      by decide⟩
theorem witness_PickCountReadsWhole :
    (0x3000C#24).toNat = PCK_COUNT_HI.addr ∧ State.reset.pick.hiHold = none := by decide

theorem witness_RegisterWriteByAccess :
    specAt (2#24).toNat = none ∧
      ({ State.reset with mail := { State.reset.mail with grid := [0, 1, 2, 3, 4, 5, 6] } } : State).deadReg (0x12C0C#24).toNat = true ∧
      ((specAt (BitVec.ofNat 24 SEQ_TRACE_CTRL.addr).toNat).isSome = true ∧
        State.reset.deadReg (BitVec.ofNat 24 SEQ_TRACE_CTRL.addr).toNat = false ∧
        State.reset.writeIgnored (BitVec.ofNat 24 SEQ_TRACE_CTRL.addr).toNat 1 = false) ∧
      (∀ p, p < 24 → SEQ_TRACE_CTRL.addr ≠ (LNK_CTRL p).addr) ∧ (∀ n, n < 16 → SEQ_TRACE_CTRL.addr ≠ (PTB_SLOT_CTRL n).addr) ∧
      (BitVec.ofNat 24 PCK_LENGTH.addr).toNat = PCK_LENGTH.addr ∧ (BitVec.ofNat 24 PCK_PARTS.addr).toNat = PCK_PARTS.addr := by
  decide
theorem witness_ReadClearsCounters :
    (specAt (2#24).toNat = none ∧ ∀ n, n < 64 → (2#24).toNat ≠ (RGN_CLK_STAT n).addr) ∧
      (specAt (BitVec.ofNat 24 PCK_EVENT.addr).toNat).isSome = true ∧
      State.reset.deadReg (BitVec.ofNat 24 PCK_EVENT.addr).toNat = false ∧
      (∀ n, n < 64 → (BitVec.ofNat 24 PCK_EVENT.addr).toNat ≠ (RGN_CLK_STAT n).addr) ∧
      (BitVec.ofNat 24 PCK_EVENT.addr).toNat ∉ [PCK_COUNT_LO.addr, PCK_COUNT_HI.addr, SEQ_RETIRED_LO.addr,
        SEQ_RETIRED_HI.addr, SMU_SEQ_LO.addr, SMU_SEQ_HI.addr] := by decide
theorem witness_RetiredAndMeterCountReads :
    (BitVec.ofNat 24 SEQ_RETIRED_HI.addr).toNat = SEQ_RETIRED_HI.addr ∧
      (BitVec.ofNat 24 SMU_SEQ_HI.addr).toNat = SMU_SEQ_HI.addr := by decide
theorem witness_PickConfigOnlyWhileIdle :
    State.reset.fld PCK_STATUS.STATE = 0 ∧ (State.reset.put PCK_STATUS.STATE 2).fld PCK_STATUS.STATE ≠ 0 := by decide
theorem witness_PopsAndResume :
    State.reset.faultQ = [] ∧ State.reset.sync.failures = [] ∧
      ({ State.reset with seq := { State.reset.seq with state := .broken } } : State).seq.state = .broken ∧
      State.reset.seq.state ≠ .broken := by decide
theorem witness_InvalidationTakesTheCachedPage :
    State.reset.flag MMU_STATUS.INV_BUSY = false ∧ (0#32).getLsbD 4 = false ∧
      (State.reset.put MMU_STATUS.INV_BUSY 1).flag MMU_STATUS.INV_BUSY = true ∧ State.reset.staleLeft = false := by decide

theorem witness_CausesOfAFastRetrain :
    (port 23 6).fld (LNK_STATUS.STATE 23) = 6 ∧
      ((port 0 6).put (LNK_STATUS.LANES 0) 0x80).fld (LNK_STATUS.STATE 0) = 6 ∧
      (((port 0 6).put (LNK_STATUS.LANES 0) 0x80).fld (LNK_STATUS.LANES 0)).testBit 7 = true ∧
      (port 0 8).fld (LNK_STATUS.STATE 0) = 8 ∧ (⟨true, 6, true, 5, 255, 0⟩ : TrainMsg).good = true ∧
      (⟨true, 6, true, 5, 255, 0⟩ : TrainMsg).retrain = true ∧ (port 0 1).fld (LNK_STATUS.STATE 0) ≠ 6 := by decide
theorem witness_PortLeavesItsState :
    2 ≤ (port 0 2).fld (LNK_STATUS.STATE 0) ∧ (port 23 7).fld (LNK_STATUS.STATE 23) = 7 ∧
      (port 0 1).fld (LNK_STATUS.STATE 0) ≠ 0 ∧
      ({ State.reset with mgt := { State.reset.mgt with holdD1 := false } } : State).fld (LNK_STATUS.STATE 0) = 0 ∧
      (State.reset.port 0).held = none ∧ (port 0 5).fld (LNK_STATUS.STATE 0) = 5 := by decide
theorem witness_ReplayAndAcknowledgement :
    let u := (port 0 6).setPort 0 { gaps := [⟨0, 0, 7, 0⟩], rxSeen := 1, rxMarks := [1] }
    let v := (port 0 6).setPort 0 { gaps := [⟨0, 0, 8, 0⟩], replay := [(0, ⟨0, []⟩)] }
    let w := ((port 0 6).put (LNK_STATUS.COMPAT 0) 1).setPort 0 { ackCount := 31 }
    ((port 0 6).fld (LNK_STATUS.STATE 0) = 6 ∧ (port 0 6).flag (LNK_STATUS.COMPAT 0) = false) ∧
      ((u.port 0).gaps = [⟨0, 0, 7, 0⟩] ∧ (u.port 0).gapOpen ⟨0, 0, 7, 0⟩ = true ∧ u.flag (LNK_STATUS.COMPAT 0) = false) ∧
      ((v.port 0).gaps = [⟨0, 0, 8, 0⟩] ∧ (v.port 0).gapOpen ⟨0, 0, 8, 0⟩ = true) ∧
      (v.fld (LNK_STATUS.STATE 0) = 6 ∧ (v.port 0).replay ≠ []) ∧
      w.fld (LNK_STATUS.STATE 0) = 6 ∧ w.flag (LNK_STATUS.COMPAT 0) = true ∧ 1 ≤ (w.port 0).ackCount ∧
      (w.port 0).ackCount < 32 := by decide
theorem witness_DelayIsTheAverageOfSixteen :
    (port 0 6).fld (LNK_STATUS.STATE 0) = 6 ∧ (port 0 6).flag (LNK_STATUS.COMPAT 0) = false ∧
      ((port 0 6).port 0).measured < 15 ∧ (((port 0 6).setPort 0 { measured := 15 }).port 0).measured = 15 := by decide
theorem witness_LinkWidthSwitch :
    let w : WidthSwitch := ⟨0x0F, 5, true, true⟩
    let v : WidthSwitch := ⟨0x0F, 5, true, false⟩
    let s := (port 0 6).setPort 0 { passing := 0xFF }
    let u := (port 0 6).setPort 0 { passing := 0xFF, width := some w, codewords := 5 }
    (s.fld (LNK_STATUS.STATE 0) = 6 ∧ (s.port 0).width = none ∧ (0x0F#8).toNat &&& (255 - s.usableLanes 0) = 0 ∧
        widthCode (lanesOf (0x0F#8).toNat).length ≠ 0) ∧
      widthCode (lanesOf (0x00#8).toNat).length = 0 ∧
      ((u.port 0).width = some w ∧ w.mine = true ∧ w.at_ < 4294967296) ∧
      (((port 0 6).setPort 0 { width := some v }).port 0).width = some v ∧ v.mine = true ∧ v.agreed = false ∧
      (w.agreed = true ∧ countReached w.at_ (u.port 0).codewords = true ∧ u.fld (LNK_STATUS.STATE 0) = 6) ∧
      65536 < sget 0 (((port 0 6).setPort 0 { symErrs := [(3, 65537)] }).port 0).symErrs 3 ∧
      ((port 0 6).put (LNK_STATUS.LANES 0) 0x0F).fld (LNK_STATUS.STATE 0) = 6 ∧
      (((port 0 6).put (LNK_STATUS.LANES 0) 0x0F).fld (LNK_STATUS.LANES 0)).testBit 3 = true := by decide

/-- A member at pick 41 whose next boundary is set at cycle 10,000. -/
def member : State :=
  let s := ((State.reset.put PCK_STATUS.STATE 2).put PCK_ROLE.ROLE 1).put PCK_ROLE.PRIMARY_PORT 3
  let s := s.setReg (RTE_ALLOW_LO 3) 0x01000005
  { s with
    now := 9999, part := { s.part with joined := some ⟨5, false, 9, []⟩ }
    pick := { s.pick with nextAt := some 10000, boundaryAt := some 1808, windowAt := 1808, count := 41, quiet := false } }

/-- A tick for pick `n` from the member's origin. -/
def tick (n : Nat) : Cell := tickCellOf 5 (tickPayload n 2 0 447 9 5 0x8030200)

theorem member_noProgram : member.NoProgram := ⟨rfl, rfl, rfl, by decide⟩
theorem member_takesTick : member.TakesTick 3 (tick 42) := ⟨by decide, by decide, by decide, by decide, by decide⟩
theorem witness_BoundaryBeginsThePick :
    let s : State := { member with pick := { member.pick with accepted := some 42 } }
    (s.pick.nextAt = some 10000 ∧ s.isMember = true ∧ 1 ≤ s.pickState ∧ s.pickState ≤ 3 ∧ s.pick.accepted = some 42 ∧
        (42#48).toNat < maxPick) ∧
      (member.pick.accepted = none ∧ member.flag CLK_REF_STATUS.REF_LOSS = false ∧ member.fld PCK_STATUS.HOLDOVER < 8 ∧
        member.pickNo + 1 < maxPick) ∧
      ((member.put PCK_STATUS.HOLDOVER 8).fld PCK_STATUS.HOLDOVER = 8 ∧ member.pick.quiet = false ∧
        1 ≤ (member.put PCK_STATUS.HOLDOVER 8).pickState) ∧ State.reset.pick.nextAt = none := by decide
theorem witness_WindowsBeginAndEnd :
    member.pick.inWindow = true ∧
      ({ member with pick := { member.pick with inWindow := false } } : State).pick.inWindow = false ∧
      State.reset.pickState ≤ 1 ∧ 2 ≤ member.pickState := by decide
theorem witness_TickSetsTheNextBoundary :
    (tick 42).ok = true ∧ (tick 42).kind = 2 ∧ (tick 42).mark = true ∧ tickConfig (tick 42).payload = member.config ∧
      member.tickBad 3 (tick 42).payload = false ∧ member.pick.accepted = none ∧
      member.tickBad 3 (tick 41).payload = true ∧ member.isParentPort 4 = false := by decide
/-- The worked example beside R53 and R54: arriving with AGE 447 over a link of 512 cycles, the tick sets the boundary
7,221 cycles after its arrival. -/
theorem test_tick_example :
    (match exec (.tickCell 3 (tick 42) 12000) (member.put (LNK_DELAY.CYCLES 3) 512) with
      | .next t => t.pick.nextAt
      | _ => none) = some (12000 + 7221) := by decide
/-- An origin that takes its picks from PICK_IO. -/
def pickIn : State :=
  let s := (State.reset.put PCK_ROLE.ROLE 2).put PCK_ROLE.SOURCE 1
  { s with mail := { s.mail with d1Set := 0x200 }, pick := { s.pick with nextAt := some 5000, boundaryAt := some 1 } }
theorem witness_PickIoSetsTheNextBoundary :
    pickIn.fromPickIo = true ∧ pickIn.pick.nextAt ≠ none ∧ pickIn.pick.boundaryAt = some 1 ∧ pickIn.pick.ioEdge = none ∧
      (8163 + 32 ≤ 1 + pickIn.fld PCK_LENGTH.LENGTH + 2 ∧ 1 + pickIn.fld PCK_LENGTH.LENGTH ≤ 8159 + 34) ∧
      1 + pickIn.fld PCK_LENGTH.LENGTH + 2 < 8164 + 32 ∧
      ({ pickIn with pick := { pickIn.pick with ioEdge := some 8193 } } : State).pick.ioEdge ≠ none ∧
      State.reset.fromPickIo = false := by decide
theorem witness_FrequencyStepsOfARegion :
    let s := (State.reset.put CLK_CTRL.STEP_EN 1).put (CLK_RGN_FREQ.PLAN_CODE 63) 120
    s.mayStep 63 = true ∧
      ((s.setClk 63 { stepEnd := some (336, 120) }).region 63).clk.stepEnd = some (336, 120) ∧
      State.reset.mayStep 0 = false ∧ (s.region 0).clk.stepEnd = none := by decide
theorem witness_MonitorsStretchTheRegion :
    State.reset.regionOn 63 = true ∧ (State.reset.region 0).clk.droop = 0 ∧ (State.reset.region 0).clk.path = 0 ∧
      ((State.reset.setClk 0 { droop := 4, path := 1 }).region 0).clk.droop ≠ 0 ∧
      ((State.reset.setClk 0 { droop := 4, path := 1 }).region 0).clk.path ≠ 0 ∧
      ({} : RegionClk).droopSkip = 0 ∧ ({} : RegionClk).pathSkip = 0 ∧
      ({ State.reset with mail := { State.reset.mail with grid := [0, 1, 2, 3, 4, 5, 6] } } : State).regionOn 63 = false := by
  decide
theorem witness_ReferenceLossAndHoldover :
    State.reset.flag CLK_REF_STATUS.REF_LOSS = false ∧ (member.put CLK_REF_STATUS.REF_LOSS 1).flag CLK_REF_STATUS.REF_LOSS = true ∧
      member.mgt.stage ≠ 4 ∧
      ({ member with clk := { member.clk with holdSince := some 7 } } : State).clk.holdSince = some 7 ∧
      member.clk.oscillator = false ∧ member.part.joined.isSome = true ∧ State.reset.clk.holdSince = none := by decide

/-- A sequencer in the span of pick 3 whose next word is the worked word of the spec's encoding: an S slot, an LD slot and a Y
slot. -/
def program : State :=
  { State.reset with
    pick := { State.reset.pick with inWindow := false, count := 3, lastComplete := some 2 }
    seq := { State.reset.seq with
      state := .issuing, open_ := true, segment := some 3
      istore := [(0, 0x502A7829), (1, 0x40514004), (3, 0x0118A004), (4, 0x04000000)] } }

/-- The same with the word's place in the queue of one region taken. -/
def queued (n : Nat) (q : QWord) : State := program.setRegion n { queue := [q] }
def plainWord : QWord := ⟨1, 3, false, 0, none, none, none, none, none⟩

/-- The worked word: five units long, with tag 0x2A7 and the S, LD and Y slots. -/
theorem test_worked_word :
    (program.wordAt 0).hdr.len = 5 ∧ (program.wordAt 0).hdr.tag = 0x2A7 ∧ (program.wordAt 0).hdr.tagv = true ∧
      (program.wordAt 0).s.isSome = true ∧ (program.wordAt 0).ld.isSome = true ∧ (program.wordAt 0).y.isSome = true ∧
      (program.wordAt 0).v = none := by decide
theorem program_mayIssue : program.MayIssue :=
  ⟨.inl rfl, by decide, by decide, by decide, by decide, by decide, by decide, by decide⟩
theorem waiting_mayIssue : { program with seq := { program.seq with state := .waiting } }.MayIssue :=
  ⟨.inr rfl, by decide, by decide, by decide, by decide, by decide, by decide, by decide⟩
theorem witness_WordIssueFillsTheQueues :
    program.MayIssue ∧ { program with seq := { program.seq with state := .waiting } }.MayIssue ∧
      program.seq.state ≠ .waiting ∧ State.reset.pick.inWindow = true :=
  ⟨program_mayIssue, waiting_mayIssue, by decide, rfl⟩
theorem witness_WhatKeepsAWordFromIssuing :
    ((program.put SEQ_BRK_CTRL.TAG_EN 1).put SEQ_BRK_CTRL.TAG 0x2A7).tagBreak (program.wordAt 0).hdr = true ∧
      ({ program with seq := { program.seq with istore := [] } } : State).decodeFault
        (({ program with seq := { program.seq with istore := [] } } : State).wordAt 0) false = some (2, 7) ∧
      program.fld SEQ_FAULT.CAUSE = 0 ∧
      (program.setRegion 63 { queue := List.replicate 64 plainWord }).queueFull = true := by decide
theorem witness_SummaryArrives :
    ({ program with seq := { program.seq with summaries := [⟨1, 63, 0x40, 8, [], some 50⟩] } } : State).seq.summaries
        = [⟨1, 63, 0x40, 8, [], some 50⟩] ∧ program.seq.summaries = [] := by decide
theorem witness_SegmentCompletes :
    let s : State := { program with seq := { program.seq with segment := some 4, open_ := false } }
    (s.pick.lastComplete = some 2 ∧ s.programOn = true ∧ s.segmentRetired 3 = true ∧ s.segmentResolved 3 = true ∧
        s.seq.stopped = false ∧ s.seq.yieldSeg = none) ∧
      s.seq.segment = some 4 ∧ ({ s with seq := { s.seq with stopped := true } } : State).segmentRetired 3 = true ∧
      s.seq.state.lasting = false ∧ SeqState.stoppedSlip.lasting = true ∧
      State.reset.pick.lastComplete = none := by decide
theorem witness_RegionsRestInTheWindow : State.reset.pick.inWindow = true ∧ ([(524287, true)] : List (Nat × Bool)).all
    (fun u => decide (u.1 < 524288)) = true := by decide
theorem queued_mayRun : (queued 63 plainWord).MayRun 63 plainWord [] :=
  ⟨by decide, by decide, by decide, by decide, by decide⟩
theorem waiting_mayRun :
    (program.setRegion 63 { queue := [plainWord], waiting := true }).MayRun 63 plainWord [] :=
  ⟨by decide, by decide, by decide, by decide, by decide⟩
theorem witness_RegionExecutesOneWordPerCycle :
    let u := program.setRegion 1 { queue := [plainWord], cycle := 4, crossOps := [⟨0, 1, 0, 0, 2, 0, true, [], []⟩] }
    let v := (program.put SEQ_CHECK.WRITE_CLASH 1).setRegion 63
      { queue := [plainWord], cycle := 9, pending := [⟨9, 2, 1, .lane 31, [(63, 7)]⟩, ⟨9, 0, 1, .lane 31, [(63, 8)]⟩] }
    ((program.setRegion 63 { queue := [plainWord], waiting := true }).region 63).waiting = true ∧
      ((u.region 1).queue = [plainWord] ∧ u.canRun 1 plainWord 1 = true ∧ ((u.edge 1).waitsOf 1 4 plainWord).any = true) ∧
      ((v.region 63).queue = [plainWord] ∧ v.canRun 63 plainWord 1 = true ∧ ((v.edge 63).waitsOf 63 9 plainWord).any = false ∧
        v.actingSlot ptbTagwait 63 = none ∧ (v.edge 63).regionTrap 63 9 plainWord = some (17, 3) ∧ v.seq.state = .issuing) ∧
      (program.region 5).waiting = false := by decide
set_option maxRecDepth 20000 in
theorem witness_ResultsLandInTheirCycle :
    let p : Pending := ⟨9, 2, 1, .lane 31, [(63, 77)]⟩
    let s := program.setRegion 63 { queue := [plainWord], pending := [p], cycle := 9 }
    let x : Stream := ⟨1, 1, false, 1, 2, 2, 0, 5, 4, true, none⟩
    let u : State :=
      { program.setRegion 0 { queue := [plainWord], cycle := 75 } with
        array := { streams := [x], front := 76, partials := [(arrKey x 0 8 0, List.replicate 128 0x40000000)] } }
    (s.mayLand 63 = true ∧ (s.region 63).pending = [p] ∧ p.due ≤ (s.region 63).cycle ∧ p.dest = .lane 31 ∧
        p.lanes = [(63, 77)]) ∧
      (u.mayLand 0 = true ∧ (u.region 0).pending = [] ∧ (u.region 0).sumsAt ≠ some (u.region 0).cycle ∧ u.gridPos 0 = some (0, 0) ∧
        (u.rowsAt (u.accOffset 0) (u.region 0).cycle).filter (fun e => u.sumRow e.2 == 0) = [(x, 0)] ∧
        (sget [] u.array.partials (arrKey x 0 u.gridRows 0)).length = 128) ∧
      program.mayLand 0 = false := by decide
theorem witness_RetiredOperationTakesEffect :
    let y : YPending := ⟨1, 3, ⟨0x40190009, 5, 0⟩, some 50⟩
    let s : State := { (program.setObj 100 { type := 1 }) with seq := { program.seq with ypending := [y] } }
    let z : YPending := ⟨1, 3, ⟨0x4C190000, 5, 0⟩, some 50⟩
    let v := program.setObj 100 { type := 2, target := 1 }
    let u : State := { v with seq := { v.seq with ypending := [z] }, sync := { v.sync with changes := [⟨100, max v.now 50, v.obj 100, [⟨3, 0x12, 0, 0⟩]⟩] } }
    (u.seq.ypending.find? (fun y => y.due.isSome) = some z ∧ (yField z.slot.bits).op = 0x13 ∧ (yField z.slot.bits).obj = 100 ∧
        (u.obj 100).type = 2 ∧ u.sync.changes = [⟨100, max u.now (z.due.getD 0), v.obj 100, [⟨3, 0x12, 0, 0⟩]⟩]) ∧
      s.sync.changes = [] ∧ s.seq.ypending.find? (fun y => y.due.isSome) = some y ∧ (yField y.slot.bits).op = 0x10 ∧
      (yField y.slot.bits).obj = 100 ∧ s.weights.gates = none ∧ (s.obj 100).type = opType 0x10 ∧
      (({ (program.setObj 100 { type := 2 }) with seq := { program.seq with ypending := [y] } } : State).obj 100).type
        ≠ opType 0x10 ∧ program.seq.ypending = [] := by decide

/-- A reset module in a background window long enough for every activity, with one pseudo-channel whose refreshes are done. -/
def window : State :=
  { State.reset with
    pick := { State.reset.pick with inWindow := true, windowAt := 0 }
    mgt := { State.reset.mgt with holdD3 := false }
    hbm := { State.reset.hbm with pchs := [(511, { refreshes := some 0 })] } }.put PCK_LENGTH.LENGTH 1000000

set_option maxRecDepth 20000 in
theorem witness_UnscheduledAccessTakesThePort :
    let b : List Byte := List.replicate 64 1
    let u (k : UnschedKind) : Unsched := ⟨63, 524287, true, .context, k⟩
    let s (k : UnschedKind) : State := { program with unsched := [u k] }
    let c : State := (s .read).setRegion 63
      { queue := [plainWord], accesses := [⟨0, 0, 0, false, .cmdRead 0 524287 0 false none⟩], cycle := 1 }
    ((s (.write b)).pickUnsched 63 (bankOf 524287) true Unsched.testsTag = some (u (.write b)) ∧
        ((s (.write b)).region 63).clk.stepEnd = none ∧
        (s (.write b)).portClaimed 63 (bankOf 524287) true = false ∧ b.length = 64) ∧
      ((s .read).pickUnsched 63 (bankOf 524287) false Unsched.testsTag = some (u .read) ∧
        (s .read).portClaimed 63 (bankOf 524287) false = false) ∧
      (c.pickUnsched 63 (bankOf 524287) false Unsched.testsTag = some (u .read) ∧ (c.region 63).clk.stepEnd = none ∧
        c.portClaimed 63 (bankOf 524287) false = true) ∧
      State.reset.pickUnsched 63 63 true Unsched.testsTag = none := by decide
theorem witness_HbmRefreshAndScrub :
    let s : State := window.setPch 511 { refreshes := some 1 }
    (s.hbm.selfRefresh = false ∧ s.pick.inWindow = true ∧ (s.pch (pchNo 15 31)).refreshes.getD (refreshesOf s.pickLen) = 0 + 1 ∧
        s.fitsWindow 16 96 0 = true) ∧
      (program.pick.inWindow = false ∧ (program.pch (pchNo 15 31)).carried = 0) ∧ window.walkWants (pchNo 15 31) = false ∧ window.fwWants (pchNo 15 31) = false ∧
      ((window.pch (pchNo 15 31)).scrubbed = false ∧ (window.pch (pchNo 15 31)).refreshes = some 0 ∧
        (window.pch (pchNo 15 31)).scrubAt < 0x60000000 ∧ window.fitsWindow 16 24 0 = true) ∧
      ((window.setPch 511 { scrubbed := true }).pch (pchNo 15 31)).scrubbed = true := by decide
theorem witness_HbmRunsAndZeroing :
    let s : State := (program.setPch 511 { queue := [⟨.context, packHbm 15 31 0, some [1], none, false, 0, false⟩] })
    let u : State := { State.reset with
      mgt := { State.reset.mgt with stage := 4 }, hbm := { State.reset.hbm with initDone := List.range 15 } }
    ((s.pch (pchNo 15 31)).queue = [⟨.context, packHbm 15 31 0, some [1], none, false, 0, false⟩] ∧
        ({ s with pick := { s.pick with nextAt := some 24 } } : State).runFits 15 31 24 = true) ∧
      (program.pch (pchNo 15 31)).queue = [] ∧ (15 ∉ State.reset.hbm.initDone ∧ State.reset.hbm.initDone.length < 15) ∧
      (15 ∉ u.hbm.initDone ∧ u.mgt.stage = 4 ∧ u.hbm.initDone.length = 15 ∧ u.flag CLK_REF_STATUS.REF_LOSS = false ∧
        u.power.trip = false) ∧ 0 ∈ u.hbm.initDone := by decide
theorem witness_CxlPortEndsItsAccesses :
    let r : MemReq := ⟨.context, 192, none, none, false, 1, false⟩
    let w : MemReq := ⟨.context, 200, some [1], none, false, 0, false⟩
    let s : State := (State.reset.setCxl 7 { reads := List.replicate 256 r }).put (CXL_PORT_STATUS.UP 7) 1
    let v : State := State.reset.setCxl 7 { reads := [r], writes := [w] }
    let u : State := { State.reset with
      power := { State.reset.power with perst := [(7, true)] }, mail := { State.reset.mail with locked := some 16 } }
    ((s.cxlPort 7).reads[255]? = some r ∧ s.cxlBlocked 7 r = false) ∧ (v.cxlPort 7).writes[0]? = some w ∧
      ((v.cxlPort 7).reads[0]? = some r ∧ w ∈ (v.cxlPort 7).writes ∧ w.serial < r.serial ∧ w.addr / 64 = r.addr / 64) ∧ s.flag (CXL_PORT_STATUS.UP 7) = true ∧
      (u.flag (CXL_PORT_STATUS.UP 7) = false ∧ u.feature featCxl = true ∧ sget false u.power.perst 7 = true) ∧
      State.reset.feature featCxl = false := by decide
theorem witness_WalksReadAndEnd :
    let w : Walk := ⟨3, false, 0, 0, none, false⟩
    let s : State := ({ window with mmu := { window.mmu with walks := [w] } }).setPch 0 { refreshes := some 0 }
    let e : BitVec 64 := 0x404302
    let l : Leaf := ⟨196608, 65536, false, false, false, 3, 4, 32⟩
    let x : WalkWait := ⟨3, .context, 196616, none⟩
    let u : State := { window with mmu := { window.mmu with walks := [⟨3, true, 3, 0, some (some e), false⟩], waiting := [x] } }
    (s.walkOrder.find? (fun w => (s.pchSlot (pchOf (s.walkRead w))).isSome) = some w ∧
        s.pchSlot (pchOf (s.walkRead w)) = some 16 ∧ s.hbm.badLines = []) ∧
      (u.mmu.walks.find? (fun w => w.result.isSome) = some ⟨3, true, 3, 0, some (some e), false⟩ ∧
        u.walkEntry 3 (3 * 65536) e = .leaf l ∧ u.mmu.waiting = [x] ∧ l.covers (x.page * 65536) = true ∧ l.covers x.va = true ∧
        l.place x.va = .hbm (packHbm 3 4 65544)) ∧
      u.walkEntry 3 (3 * 65536) 5 = .absent ∧ window.mmu.walks = [] := by decide
theorem witness_FirmwareActsInTheWindow :
    let s : State := { window.setPch 0 { refreshes := some 0 } with faultQ := [[1, 2, 3, 4, 5, 6, 0x02000000, 2]] }
    let going : State := { window with serve := { window.serve with job := some ⟨.writeEntry (2 ^ 31) 1, [.line (2 ^ 31)]⟩ } }
    let span : State := { window with pick := { window.pick with inWindow := false } }
    ((FwAction.writeSlice 63 33554424 [1, 2, 3, 4, 5, 6, 7, 8]).ok = true ∧ s.controlUp = true ∧ s.serve.fwWait = [] ∧
        s.fitsWindow 16 24 0 = true ∧ s.fitsWindow 16 (24 * ((linesTouched 33554424 8 + 63) / 64)) 0 = true ∧
        s.physOf 63 = some 63 ∧ (s.region 63).clk.stepEnd = none ∧ (s.region 63).fwPorts = [] ∧ s.serve.job = none) ∧
      ((((going.at_ 16).fwGoOn (.writeEntry (2 ^ 31) 1) [.line (2 ^ 31)]).serve.job.isSome = true ∧ going.controlUp = true) ∧
        going.serve.job = some ⟨.writeEntry (2 ^ 31) 1, [.line (2 ^ 31)]⟩ ∧ going.fitsWindow 16 24 0 = true) ∧
      (s.entryFree 16 = true ∧ s.walkWants (pchOf (16 / 64 * 64)) = false ∧
        (s.at_ 16).pchSlot (pchOf (16 / 64 * 64)) = some 16) ∧
      ((window.at_ 16).firmwareAct (.writeEntry (2 ^ 31) 1)).isNone = true ∧
      ((window.at_ 16).firmwareAct .faultRecord).isSome = true ∧
      (span.controlUp = true ∧ span.fitsWindow 16 24 0 = false) ∧ State.reset.controlUp = false ∧
      s.faultQ = [[1, 2, 3, 4, 5, 6, 0x02000000, 2]] ∧ recAbort [1, 2, 3, 4, 5, 6, 0x02000000, 2] = true ∧
      (recAbort [1, 2, 3, 4, 5, 6, 0x02000000, 0] = false ∧ recCause [1, 2, 3, 4, 5, 6, 0x02000000, 0] = causeAbsent) := by decide

/-- A partner that is no other port of this module, and a keyed cell of 64 bytes. -/
def partner : Partner := ⟨0x123456789ABCDEF0, 77, 9, false, 0, none⟩
def keyedCell (kind : Nat) : Cell := ⟨header kind false false false 0 0 0, padTo 64 []⟩

/-- The tests of eight lanes, of which those of a mask pass. -/
def tested (mask : Nat) : List LaneTest := (List.range 8).map (fun i => ⟨mask.testBit i, 0⟩)

theorem witness_TrainingAdvances :
    let d : State := { (port 23 0).put (LNK_CTRL.EN 23) 1 with mgt := { State.reset.mgt with holdD1 := false } }
    let r (b : Bool) (n : Nat) : State := (port 0 7).setPort 0 { relocked := b, measured := n, leadLanes := 0xFF }
    ((tested 255).length = 8 ∧ d.lnkState 23 = lnkDown ∧ d.flag (LNK_CTRL.EN 23) = true ∧ (d.port 23).held = none ∧
        d.mgt.holdD1 = false) ∧
      (port 0 1).lnkState 0 = lnkDetect ∧ (port 0 2).lnkState 0 = lnkEqualise ∧
      ((port 0 3).lnkState 0 = lnkLock ∧
        chooseLanes (passingOf (tested 0x7F) &&& (255 - (port 0 3).fld (LNK_CTRL.LANE_DIS 0))) = 15 ∧
        chooseLanes (passingOf (tested 1) &&& (255 - (port 0 3).fld (LNK_CTRL.LANE_DIS 0))) = 0) ∧
      (((port 0 4).setPort 0 { measured := 16 }).lnkState 0 = lnkMeasure ∧
        16 ≤ (((port 0 4).setPort 0 { measured := 16 }).port 0).measured) ∧
      (partner.delef = false ∧ (((port 0 4).setPort 0 { measured := 15 }).port 0).measured < 16) ∧
      ((port 0 5).lnkState 0 = lnkIdentify ∧ (port 0 5).obs.rehearse = none ∧ (port 0 5).partnerBad partner = false ∧
        (port 0 5).partnerBad { partner with delef := true } = true) ∧ (port 0 8).lnkState 0 = lnkSwitch ∧
      ((r false 0).lnkState 0 = lnkRetrain ∧ ((r false 0).port 0).relocked = false ∧
        chooseLanes (passingOf (tested 0x7F) &&& (255 - (r false 0).fld (LNK_STATUS.FAILED 0)) &&&
          (255 - (r false 0).fld (LNK_CTRL.LANE_DIS 0)) &&&
          ((r false 0).port 0).leadLanes.toNat) = 15) ∧
      (((r true 16).port 0).relocked = true ∧ 16 ≤ ((r true 16).port 0).measured) ∧
      (((r true 15).port 0).relocked = true ∧ ((r true 15).port 0).measured < 16) := by decide
set_option maxRecDepth 20000 in
theorem witness_CellsJoinTheEgress :
    let e : EgressCell := ⟨.keyed, keyedCell 4, none, 0, none, false⟩
    let r (n : Nat) (b : Bool) (g : List (Nat × Option (List Byte))) : RingCell := ⟨32768 + n, e, b, g⟩
    let full (n : Nat) : State := ((port 23 6).put (LNK_STATUS.SPILL 23) n).setPort 23 { queue := List.replicate 4096 e }
    let ring : State := (port 23 6).setPort 23 { ring := [r 0 false [], r 491519 false []] }
    ((keyedCell 3).ok = true ∧ (keyedCell 4).kind = 4 ∧ (keyedCell 2).kind = 2 ∧ (keyedCell 3).kind = 3 ∧
        (port 23 6).actingSlot ptbCelldly 23 = none ∧ ((port 23 6).port 23).queue.length < 4096 ∧
        ((port 23 6).port 23).ring = []) ∧
      (4096 ≤ ((full 1).port 23).queue.length ∧ (full 1).actingSlot ptbCelldly 23 = none ∧ (full 1).ringOpen 23 = true ∧
        ((full 1).port 23).ring.length < 491520) ∧
      (4096 ≤ ((full 0).port 23).queue.length ∧ (full 0).actingSlot ptbCelldly 23 = none ∧
        (full 0).ringOpen 23 = false) ∧
      (ring.spillHeld = false ∧ (∀ r ∈ (ring.port 23).ring, r.reading = false) ∧
        ((ring.port 23).ring.map (fun r => r.slot)).Nodup ∧ (ring.port 23).ring ≠ [] ∧
        (ring.port 23).queue.length + 4096 = 4096) ∧
      ((r 0 true [(0, some [])]).got = [(0, some [])] ∧ [r 1 true []].all (fun f => f.got.isEmpty) = true ∧
        (∀ f ∈ [r 1 true []], f.slot ≠ 32768)) := by decide
set_option maxRecDepth 20000 in
theorem witness_CodewordsCarryCells :
    ((port 23 6).takesCodewords 23 = true ∧ (port 23 6).actingSlot ptbReplay 23 = none ∧ ((port 23 6).port 23).badRun < 3) ∧
      leAt (List.replicate 80 0) 72 4 ≠ (crc32c ((List.replicate 80 0).take 72 ++ bytesAt (List.replicate 80 0) 76 4)).toNat ∧
      ((port 23 6).lnkUp 23 = true ∧ ((port 23 6).port 23).tick = none ∧ ((port 23 6).port 23).control = [] ∧
        ((port 23 6).port 23).resend = [] ∧ ((port 23 6).port 23).queue = [] ∧ ((port 23 6).port 23).ring = []) ∧
      (port 23 5).takesCodewords 23 = false := by decide +kernel
/-- A codeword as symbols of eight lanes whose scramblers hold zeros. -/
def eightLanes (b : List Byte) : List (List Pam4) := (toLanes (List.range 8) (List.replicate 8 0) b).1
def lanePort : State :=
  ((port 23 6).put (LNK_STATUS.LANES 23) 255).setPort 23 { scramTx := List.replicate 8 0, scramRx := List.replicate 8 0 }
set_option maxRecDepth 20000 in
theorem witness_codewords :
    lanesOk (eightLanes (List.replicate 256 0)) = true ∧
      rsErrors (lanePort.takeLanes 23 (eightLanes (List.replicate 256 0))).1 = some [] := by decide +kernel
set_option maxRecDepth 20000 in
theorem witness_bad_codeword :
    lanesOk (eightLanes (List.replicate 9 1 ++ List.replicate 247 0)) = true ∧
      rsErrors (lanePort.takeLanes 23 (eightLanes (List.replicate 9 1 ++ List.replicate 247 0))).1 = none := by decide +kernel
set_option maxRecDepth 20000 in
theorem witness_received_cell :
    let b := linkCell (keyedCell 4) 65535 0
    leAt b 72 4 = (crc32c (b.take 72 ++ bytesAt b 76 4)).toNat ∧ (cellOf b).kind = 4 ∧ (cellOf b).noseq = false ∧
      leAt b 76 2 = 65535 := by decide +kernel
set_option maxRecDepth 20000 in
theorem witness_BesideMemoryCommands :
    let c : BmeCmd := ⟨1, 15, 0, 0, 3, 63, leBytes 4 64 ++ leBytes 2 1 ++ List.replicate 58 0, false, 9, none⟩
    let s : State := { program with bmeWay := [c] }
    let u : State := program.setStack 15 { queue := [c] }
    let r : BmeRun := ⟨7, c, 100, 90, none, false, false, [(5, some [1]), (6, none)], [], []⟩
    let v : State := program.setStack 15 { running := [r] }
    (s.bmeWay.find? (fun c => c.stack == 15 && c.region == 63) = some c ∧ (s.stack 15).queue.length < 64 ∧
        s.fenced 2 = false ∧ s.bmeAhead c = false) ∧
      ({ c with ahead := some 62 } : BmeCmd).ahead = some ({ c with region := 62 } : BmeCmd).region ∧
      program.bmeWay.find? (fun c => c.stack == 15 && c.region == 63) = none ∧
      ((u.stack 15).queue = [c] ∧ u.bmeStart c = some (384, 384) ∧ u.bmeFault c = none) ∧
      ((u.stack 15).queue = [c] ∧ ({ c with op := 2 } : BmeCmd).op = 2) ∧
      (v.stack 15).running.find? (fun r => r.serial == 7) = some r ∧
      (v.stack 15).running.find? (fun r => r.serial == 6) = none := by decide

/-- A descriptor of one line at an address of the launching slice, a transfer of one line, and a shuttle that holds it. -/
def lineDesc (a : Nat) : List Byte :=
  leBytes 8 a ++ leBytes 2 1 ++ leBytes 1 1 ++ leBytes 1 0xFF ++ leBytes 4 1 ++ leBytes 4 1 ++ leBytes 4 1 ++ List.replicate 40 0
def oneLine (st : Option (Option Nat × LineState)) : Transfer :=
  { serial := 4, segment := 0, tagv := false, tag := 0, region := 63, src := lineDesc 128, dst := lineDesc 33554368
    srcLine := 0, dstLine := 0, started := st.isSome, mayFault := false, total := 1, next := bnat st.isSome
    lines := match st with | some (d, l) => [(0, some { dst := d, state := l })] | none => []
    srcIdx := none, dstIdx := none, resolved := 0, faulted := false, aborted := false, recorded := [], xfer := 0
    dropped := false }
def carrying (t : Transfer) : State := State.reset.setShuttle 63 { transfers := [t], serial := 5 }

set_option maxRecDepth 20000 in
theorem witness_ShuttleTransfers :
    let w := oneLine none
    let a := oneLine (some (some 33554368, .arrived (.data [1])))
    let f := oneLine (some (none, .arrived (.failed 5 0)))
    let r := oneLine (some (some 33554368, .reading 7))
    let d : Transfer := { oneLine (some (none, .writing)) with lines := [], resolved := 1 }
    ((carrying w).fenced 3 = false ∧ (carrying w).shuttleStopped 63 = false ∧
        (carrying w).ldComes w.ahead w.word = false ∧ ((carrying w).shuttle 63).transfers = [w] ∧ w.srcDesc.space = 1 ∧
        w.srcDesc.idxFmt = 0 ∧ w.dstDesc.idxFmt = 0 ∧ w.srcDesc.inSpace (w.srcDesc.addr 0 0) = true ∧
        w.dstDesc.inSpace (w.dstDesc.addr 0 0) = true) ∧
      (State.reset.shuttle 87).transfers = [] ∧
      (((carrying a).shuttle 63).arrived 0 = some (a, ⟨some 33554368, .arrived (.data [1]), 0, 0, false⟩, .data [1]) ∧
        a.dstDesc.space = 1 ∧ (carrying a).earlierWrite 63 a 0 33554368 = false ∧
        ∀ u ∈ ((carrying a).shuttle 63).transfers, u.total ≤ u.next) ∧
      (((carrying f).shuttle 63).arrived 0 = some (f, ⟨none, .arrived (.failed 5 0), 0, 0, false⟩, .failed 5 0) ∧ f.mayFault = false ∧
        (carrying f).faultQ.length < 512 ∧ ∀ u ∈ ((carrying f).shuttle 63).transfers, u.total ≤ u.next) ∧
      ((carrying r).shuttle 63).arrived 0 = none ∧
      (((carrying r).shuttle 63).transfers = [r] ∧ r.srcDesc.space ≠ 3 ∧
        r.line 0 = some ⟨some 33554368, .reading 7, 0, 0, false⟩) ∧
      (((carrying d).shuttle 63).transfers = [d] ∧ d.done = true ∧ (carrying d).shuttleCounter 63 = some 63 ∧
        ((carrying d).obj 63).type = 1) ∧ w.done = false := by decide
theorem witness_YieldsAndStopsEnd :
    let rq : List Byte := leBytes 1 0x25 ++ List.replicate 63 0
    let s : State := { (program.setBox 63 { busy := some rq }) with
      seq := { program.seq with yieldReq := some (0, 3, 0, 63), stopReq := some (0, 3, 63) } }
    let y : State := { s with
      seq := { s.seq with yieldSeg := some 3, yielded := true }, mail := { s.mail with saving := some (0, 0, 63) } }
    (y.seq.yieldReq = some (0, 3, 0, 63) ∧ y.seq.yieldSeg = some 3 ∧ y.mail.saving = some (0, 0, 63) ∧
        y.seq.yielded = true ∧ y.remoteSettled = true ∧ y.faultQ = [] ∧ y.closeWindows.windowsBusy = false ∧
        (y.closeWindows.box 63).busy = some rq) ∧ ({ y with faultQ := [[]] } : State).faultQ ≠ [] ∧
      (s.seq.yieldReq = some (0, 3, 0, 63) ∧ s.seq.yielded = false ∧ 3 ≤ s.pickNo ∧ (s.box 63).busy = some rq) ∧
      (s.seq.stopReq = some (0, 3, 63) ∧ s.seq.stopped = false) ∧ program.seq.stopReq = none := by decide

/-- A key in a port's allow-set, and a module with device ID 9. -/
def allow (p k : Nat) (s : State) : State := s.setReg (RTE_ALLOW_LO p) (BitVec.ofNat 32 (2 ^ 24 + k))
def device (s : State) : State := (s.put RTE_SELF.VALID 1).put RTE_SELF.PHYSICAL 9
/-- A circuit from port 0 to port 23, and one from port 23 to none. -/
def warps : State :=
  allow 23 5 (allow 0 5 { State.reset with
    router := { State.reset.router with
      warps := [(77, BitVec.ofNat 64 (2 ^ 23 + 2 ^ 25 + 5 * 2 ^ 32)), (78, BitVec.ofNat 64 (2 ^ 24 + 2 ^ 25 + 5 * 2 ^ 32))] } })
def scheduled (circuit : Nat) : Cell := ⟨header 2 false false false 0 5 circuit, padTo 64 [9]⟩

theorem witness_ScheduledCellsFollowTheirWarp :
    let c := scheduled 77
    let t : Transfer := { oneLine (some (some 640, .reading 7)) with
      src := leBytes 8 77 ++ leBytes 2 1 ++ leBytes 1 3 ++ List.replicate 53 0, dst := lineDesc 640 }
    let u : State := (State.reset.setPort 23 { inbound := [c] }).setShuttle 87 { transfers := [t] }
    (c.ok = true ∧ c.kind = 2 ∧ c.mark = false ∧ warps.fabricFenced c = false ∧ warps.isHostPort 0 = false ∧
        warps.allows 0 c.key = true ∧ warpValid (warps.warp c.circuit) = true ∧ warpKey (warps.warp c.circuit) = c.key ∧
        warpIn (warps.warp c.circuit) = 0 ∧ c.circuit ≠ 0xFFF ∧ warpPorts (warps.warp c.circuit) = [23] ∧
        warpLocal (warps.warp c.circuit) = false ∧ warps.compat 23 = false ∧ warps.isHostPort 23 = false ∧
        warps.allows 23 c.key = true ∧ warps.actingSlot ptbCelldly 23 = none ∧ (warps.port 23).queue.length < 4096 ∧
        (warps.port 23).ring = []) ∧
      (warps.isHostPort 22 = false ∧ warps.allows 22 c.key = false) ∧
      warpValid (warps.warp (scheduled 79).circuit) = false ∧
      ({ State.reset with obs := { State.reset.obs with silent := true } } : State).fabricFenced c = true ∧
      ((u.port 23).inbound = [c] ∧ u.warpVerdict (64 + 23) c = .take 4 ∧ (u.shuttle (64 + 23)).transfers = [t] ∧
        t.line c.index = some { dst := some 640, state := .reading 7 } ∧ (LineState.reading 7).isReading = true ∧
        (u.shuttle (64 + 23)).late = []) ∧ (State.reset.port 23).inbound = [] := by decide

/-- A flow at its last granted cell and an admitted message for it. -/
def flow : Flow := ⟨21, 0, 5, 4294967295, 0, [], [], 0, some 0, 0, none, 0⟩
def message : Cell :=
  ⟨header 3 false false true 0 5 (flowBits 9 21 4095), padTo 64 (headOf 5 3 0 0 1 0 [])⟩
def flows : State := device (allow 23 5 { State.reset with reed := { State.reset.reed with flows := [flow] } })

set_option maxRecDepth 20000 in
theorem witness_SprayedCellsKeepTheirFlow :
    let c := message
    let g : Cell := sprayedCell 2 5 9 21 false false (leBytes 1 8 ++ leBytes 3 0 ++ leBytes 4 64)
    let a : State := flows.setSendFlow 21 3 { asked := some 5, waiting := [c] }
    let k : Flow := { flow with held := [(0, 7, c)] }
    (c.ok = true ∧ c.kind = 3 ∧ c.cls < 2 ∧ flows.fabricFenced c = false ∧ flows.isHostPort 23 = false ∧
        flows.admits 23 c = true ∧ flows.forUs c = true ∧ flows.findFlow c.src c.cls = some flow ∧
        flow.next < 4294967296 ∧ c.fseq = flow.next % 4096 ∧ flow.held = [] ∧ 0 < flow.room ∧
        flows.flowBlocked c.src c.cls = false ∧ c.mark = true ∧ dataCells c.payload = 0) ∧
      ({ flows with reed := {} } : State).findFlow c.src c.cls = none ∧ { flow with next := 0 }.countOf c.fseq = none ∧
      (allow 23 5 State.reset).forUs c = false ∧ flows.admits 22 c = false ∧ flows.admits 22 g = false ∧
      (g.ok = true ∧ g.kind = 3 ∧ g.cls = 2 ∧ flows.admits 23 g = true ∧ flows.forUs g = true ∧
        g.payload = padTo 64 (leBytes 1 8 ++ leBytes 3 0 ++ leBytes 4 64) ∧
        countBelow (flows.sendFlow g.src 0).grant 64 = true ∧ (flows.sendFlow g.src 0).waiting = []) ∧
      (({ flows with reed := { flows.reed with flows := [k] } } : State).findFlow 21 0 = some k ∧
        ({ flows with reed := { flows.reed with flows := [k] } } : State).flowBlocked 21 0 = false ∧
        k.skip = some (7, k.take 1) ∧ k.at 0 = none) ∧
      ((a.sendFlow 21 3).waiting = [c] ∧ (a.sendFlow 21 3).asked = some 5) ∧ (flows.sendFlow 21 3).waiting = [] ∧
      flow.delivered = some 0 := by decide
set_option maxRecDepth 20000 in
theorem witness_AddressedCells :
    let c (svc : Bool) (op a : Nat) : Cell := addressedCell svc 5 9 21 op 0 a [1, 2, 3, 4]
    let s : State := (device (allow 23 5 State.reset)).put (RTE_PORT_CFG.SVC_EN 23) 1
    ((c true 0 0x9000).ok = true ∧ isAddressed (c true 0 0x9000) 0 = true ∧ s.fabricFenced (c true 0 0x9000) = false ∧
        s.hostDrops 23 (c true 0 0x9000) = false ∧ s.admits 22 (c false 0 0x9000) = false ∧
        s.admits 23 (c true 0 0x9000) = true ∧ s.forUs (c true 0 0x9000) = true ∧ (c true 0 0x9000).svc = true ∧
        remoteWindow (c true 0 0x9000).aAddr = 0) ∧ (allow 23 5 State.reset).forUs (c false 1 0) = false ∧
      (isAddressed (c true 1 (3 * 2 ^ 40)) 1 = true ∧ 2 < remoteWindow (c true 1 (3 * 2 ^ 40)).aAddr) ∧
      (isAddressed (c false 3 0) 3 = true ∧ s.admits 23 (c false 3 0) = true ∧ (c false 3 0).svc = false) ∧
      isAddressed (c true 2 0) 2 = true ∧ isAddressed (c true 2 0) 1 = false ∧
      (remoteOffset (c true 0 0x9000).aAddr + (c true 0 0x9000).aData.length ≤ 0x80000 ∧
        reachesManager (remoteOffset (c true 0 0x9000).aAddr) = false ∧ (c true 0 0x9000).aTag = 0) := by decide

/-- A module with one delivered message of a class. -/
def delivered (cls : Nat) (h : List Byte) (lines : List (Bool × List Byte)) : State :=
  { State.reset with
    reed := { State.reset.reed with flows := [⟨65535, cls, 5, 0, 0, [], [⟨65535, cls, 5, h, lines⟩], 0, none, 0, none, 0⟩] } }
def taken (cls op : Nat) (h : List Byte) (lines : List (Bool × List Byte)) : Option Message :=
  ((delivered cls h lines).takeMessage 65535 cls op).map (fun x => x.1)

set_option maxRecDepth 20000 in
theorem witness_MessagesAndRequests :
    let b : List Byte := List.replicate 64 1
    let e : ReqEntry := ⟨.weight 0 0, 21, 5, 1, headOf 1 0 1 0 0 0 [], [], 3, 3⟩
    let s : State := { delivered 1 (headOf opReadResp 8191 0 0 0 0 []) [] with
      requests := { entries := [(4095, some e)], gens := [] } }
    State.reset.takeMessage 65535 0 opRead = none ∧
      (taken 0 opRead (headOf opRead 0 1 0 0 0x803C0 []) [] =
          some ⟨65535, 0, 5, headOf opRead 0 1 0 0 0x803C0 [], []⟩ ∧ State.reset.fenced 1 = false ∧
        remoteWindow (msgAddr ⟨65535, 0, 5, headOf opRead 0 1 0 0 0x803C0 [], []⟩) = 0 ∧
        msgLines ⟨65535, 0, 5, headOf opRead 0 1 0 0 0x803C0 [], []⟩ = 1 ∧
        remoteOffset (msgAddr ⟨65535, 0, 5, headOf opRead 0 1 0 0 0x803C0 [], []⟩) + 64 * 1 ≤ 0x80400) ∧
      (taken 0 opWrite (headOf opWrite 0 1 0 0 0x8000 []) [(false, b)] =
          some ⟨65535, 0, 5, headOf opWrite 0 1 0 0 0x8000 [], [(false, b)]⟩ ∧
        (State.reset.filterCheck 65535 0).1 = .fresh ∧ State.reset.inbound = [] ∧
        remoteOffset (msgAddr ⟨65535, 0, 5, headOf opWrite 0 1 0 0 0x8000 [], [(false, b)]⟩) = 0x8000) ∧
      (remoteWindow (msgAddr ⟨65535, 0, 5, headOf opRead 0 64 0 0 (255 * 2 ^ 40) [], []⟩) = 255 ∧
        (State.reset.window 255).valid = false ∧ (State.reset.window 255).deviceVa = false ∧ State.reset.fenced 3 = false) ∧
      (taken 0 opSync (headOf opSync 0 0 0 0 0 []) [] = some ⟨65535, 0, 5, headOf opSync 0 0 0 0 0 [], []⟩ ∧
        State.reset.part.joined = none) ∧
      (s.takeMessage 65535 1 opReadResp).isSome = true ∧ s.reqOfTag 8191 = some (4095, e) ∧
      State.reset.reqOfTag 8191 = none ∧ s.reqEntry 4095 = some e ∧ State.reset.reqEntry 4095 = none := by decide

/-- A member of a partition whose parent is at port 23, with an image, ready to be armed for epoch 1. -/
def child : State :=
  { ((((State.reset.put PCK_ROLE.ROLE 1).put PCK_ROLE.PRIMARY_PORT 23).put (LNK_DELAY.PARTNER_DEV 23) 21).put
      PCK_STATUS.STATE pickLocked) with
    part := { State.reset.part with joined := some ⟨5, false, 9, []⟩ }
    pick := { State.reset.pick with count := 3 }
    mail := { State.reset.mail with image := some ⟨[], 8, 0, [], [], [], [], [], [], 0, none⟩ } }

set_option maxRecDepth 20000 in
theorem witness_DoorbellsAndStarts :
    let a := startRecord 1 5 1 67 1000
    let c := startRecord 2 5 1 67 1000
    let armed : State := { (child.setReg PCK_EPOCH 1).put PCK_START.STATE startArmed with
      part := { child.part with startPick := some 67 } }
    let w : StartWait := ⟨1, 1, 67, 0, 1000, some 23, 0, [21, 22], 1, 0, none, 0⟩
    let kids : State := { (child.put (LNK_DELAY.PARTNER_DEV 21) 33) with
      part := { child.part with starts := [w] }
      router := { child.router with warps := [(0xFFF, BitVec.ofNat 64 (2 ^ 21 + 2 ^ 22 + 2 ^ 25))] } }
    let r := startAck 1 0 1 3 0 0 0
    (State.reset.mayUse 63 65535 = true ∧ (State.reset.box 63).lastSeq ≠ some ((7 : BitVec 64).extractLsb' 0 32) ∧
        (State.reset.box 63).pending = none ∧ (State.reset.box 63).busy = none) ∧
      (State.reset.mayUse 3 65535 = false ∧ ((State.reset.setBox 63 { busy := some [] }).box 63).busy.isSome = true) ∧
      (a.length = 48 ∧ child.fenced 1 = false ∧ child.fenced 3 = false ∧ child.isParentPort 23 = true ∧
        child.sentBy 23 21 (child.memberKey.getD 0) = true ∧ srOp a = 1 ∧ child.memberKey = some (srKey a) ∧
        epochOlder (srEpoch a) (child.reg PCK_EPOCH).toNat = false ∧ child.fld PCK_START.STATE ≠ startArmed ∧
        child.fld PCK_START.STATE ≠ startCommitted ∧ child.startForbidden = false ∧ child.childPorts = [] ∧
        child.part.starts = []) ∧
      (c.length = 48 ∧ armed.fenced 1 = false ∧ armed.fenced 3 = false ∧ armed.isParentPort 23 = true ∧
        armed.sentBy 23 21 (armed.memberKey.getD 0) = true ∧ srOp c = 2 ∧ armed.memberKey = some (srKey c) ∧
        srEpoch c = (armed.reg PCK_EPOCH).toNat ∧ armed.fld PCK_START.STATE = startArmed ∧
        armed.part.startPick = some (srPick c) ∧ armed.pickNo + 64 ≤ srPick c ∧ armed.childPorts = []) ∧
      child.isParentPort 22 = false ∧
      (r.length = 32 ∧ kids.fenced 1 = false ∧ 21 ∈ kids.childPorts ∧
        kids.sentBy 21 33 (kids.memberKey.getD 0) = true ∧ kids.part.starts = [w] ∧ leAt r 0 1 = w.op ∧
        leAt r 4 4 = w.epoch.toNat ∧ leAt r 0x0C 4 = 0) ∧ 21 ∉ child.childPorts := by decide

/-- A request of a code with a body, SEQ 77, and a module with its features locked and a mailbox BUSY with it. -/
def request (code : Nat) (body : List Byte) : List Byte :=
  leBytes 1 code ++ leBytes 1 0 ++ leBytes 2 body.length ++ leBytes 4 77 ++ List.replicate 24 0 ++ body
def locked : State := { State.reset with mail := { State.reset.mail with locked := some 0 } }
def busy (s : State) (mb : Nat) (rq : List Byte) : State := s.setBox mb { busy := some rq }
/-- What makes a request Asked, to be decided. -/
def askedB (s : State) (mb code : Nat) (rq : List Byte) : Bool :=
  decide (mb < 64) && decide ((s.box mb).busy = some rq) && !(s.box mb).running && rqCode rq == code && s.mailCheck mb rq == none
theorem asked_of {s : State} {mb code : Nat} {rq : List Byte} (h : askedB s mb code rq = true) : s.Asked mb code rq := by
  simp only [askedB, Bool.and_eq_true, decide_eq_true_eq, Bool.not_eq_true', beq_iff_eq] at h
  exact ⟨h.1.1.1.1, ⟨h.1.1.1.2, h.1.1.2⟩, h.1.2, h.2⟩

/-- An entry of a slice window, and one of a module whose rows are mapped. -/
def windowEntry : List Byte :=
  leBytes 1 7 ++ leBytes 1 63 ++ leBytes 2 5 ++ leBytes 2 9 ++ leBytes 2 0 ++ leBytes 8 33554368 ++ leBytes 8 64 ++ leBytes 8 0
def mapped : State := { locked with mail := { locked.mail with grid := List.range 8 } }
def oneWindow : State := locked.setWindow 255 (windowOf windowEntry)
def inImage : ImageSt := ⟨[], 8, 0, [], [], [], [], [], [], 0, none⟩
def loaded (s : State) : State := { s with mail := { s.mail with image := some inImage } }
/-- A page at device virtual address 0, resident at the same offset of stack 0, and bytes stored in it. -/
def paged (s : State) : State :=
  { s.put MMU_CTRL.EN 1 with mmu := { s.mmu with cache := [⟨0, 2097152, true, false, false, 0, 0, 0⟩] } }
def stored (s : State) (a : Nat) (b : List Byte) : State := { s with hbm := { s.hbm with mem := swrite 0 s.hbm.mem a b } }
/-- An image of one power profile for eight rows, and the request that loads it. -/
def tinyImage : List Byte :=
  leBytes 4 1 ++ leBytes 1 8 ++ List.replicate 7 0 ++ leBytes 4 1 ++ List.replicate 8 100 ++ leBytes 4 7 ++ List.replicate 36 0
    ++ padTo 64 (leBytes 2 13 ++ List.replicate 6 0 ++ leBytes 8 128 ++ leBytes 8 16) ++ List.replicate 16 0
def loadRequest : List Byte :=
  request 0x10 (leBytes 8 0 ++ leBytes 8 tinyImage.length ++ sha256 tinyImage ++ List.replicate 24 0)
def loading : State := busy (stored (paged mapped) 0 tinyImage) 63 loadRequest
def loadNoted : State := (loading.ran 63).noteAccess .firmware (rqBody loadRequest 0 8) (rqBody loadRequest 8 8) false false
set_option maxRecDepth 100000 in
set_option synthInstance.maxSize 2000 in
set_option synthInstance.maxHeartbeats 400000 in
theorem witness_MailboxesSetTheModuleUp :
    ((busy State.reset 63 (request 1 [1])).mailCheck 63 (request 1 [1]) = some stBadArg ∧ mailInstr 63 1 = some (.identify 63)) ∧
      (State.reset.box 63).busy = none ∧ askedB (busy State.reset 63 (request 1 [])) 63 1 (request 1 []) = true ∧
      askedB (busy State.reset 63 (request 2 (leBytes 16 3))) 63 2 (request 2 (leBytes 16 3)) = true ∧
      ((3 : BitVec 128).getLsbD featPickIn && (3 : BitVec 128).getLsbD featPickOut) = false ∧
      State.reset.pickState = pickIdle ∧
      askedB (busy locked 63 (request 2 (leBytes 16 3))) 63 2 (request 2 (leBytes 16 3)) = true ∧
      (askedB (busy locked 63 (request 0x12 [8, 0xFF])) 63 0x12 (request 0x12 [8, 0xFF]) = true ∧
        locked.gridFor 8 0xFF = some (List.range 8) ∧ locked.gridFor 6 0xFF = none) ∧
      (askedB (busy mapped 63 (request 0x13 (leBytes 8 0 ++ windowEntry))) 63 0x13 (request 0x13 (leBytes 8 0 ++ windowEntry)) =
          true ∧ windowBad windowEntry = false ∧ (mapped.physOf (windowOf windowEntry).vreg).isSome = true ∧
        mapped.windowHeld 16 = false ∧ mapped.windowHeld 255 = false ∧ windowBad (List.replicate 32 0) = true) ∧
      (askedB (busy oneWindow 63 (request 0x14 [255])) 63 0x14 (request 0x14 [255]) = true ∧
        (oneWindow.window 255).valid = true ∧ oneWindow.inbound = [] ∧ (locked.window 255).valid = false) ∧
      (askedB (busy locked 63 (request 0x72 (List.replicate 18 0))) 63 0x72 (request 0x72 (List.replicate 18 0)) = true ∧
        ({ locked with seq := { locked.seq with state := .broken } } : State).seq.state = .broken) ∧
      (askedB (busy locked 63 (request 0x11 (List.replicate 12 0))) 63 0x11 (request 0x11 (List.replicate 12 0)) = true ∧
        (loaded locked).mail.image = some inImage ∧ inImage.relocs = [] ∧ locked.programOn = false ∧
        (loaded program).programOn = true ∧ (loaded program).seq.yielded = false) ∧
      (askedB (busy locked 63 (request 0x10 (List.replicate 72 0))) 63 0x10 (request 0x10 (List.replicate 72 0)) = true ∧
        program.loadBusy = true) ∧
      (askedB loading 63 0x10 loadRequest = true ∧ loading.loadBusy = false ∧
        (loadNoted.vaRead (rqBody loadRequest 0 8) (rqBody loadRequest 8 8) []).1 = some tinyImage ∧
        loadNoted.imageCheck tinyImage (rqBytes loadRequest 0x10 32) = none ∧
        (({ loadNoted with mail := { loadNoted.mail with image := none } } : State).writeSections (sectionsOf tinyImage) 0).1 = none ∧
        recordsOf (sectionsOf tinyImage) 4 32 = [] ∧ (rqBody loadRequest 0x3C 4).testBit 0 = false ∧
        ofKind (sectionsOf tinyImage) 7 = none) := by decide

/-- A join record of an origin alone in its partition, with the key allowed at port 23, and the request that names it. -/
def joinRecord (key role : Nat) : List Byte :=
  padTo 0x40 (leBytes 4 1 ++ leBytes 2 key ++ leBytes 1 role ++ leBytes 1 0 ++ leBytes 8 64 ++ leBytes 1 0x1F ++ leBytes 1 0x1F
    ++ leBytes 2 0 ++ leBytes 2 1 ++ leBytes 2 0 ++ leBytes 4 0 ++ leBytes 4 (2 ^ 23) ++ leBytes 4 0 ++ leBytes 2 0 ++ leBytes 2 9)
    ++ List.replicate 64 0
def joinRequest (b hash : List Byte) : List Byte :=
  request 0x20 (leBytes 8 0 ++ leBytes 4 b.length ++ leBytes 4 0 ++ hash ++ leBytes 8 0)
/-- A mailbox asks to join by a record that lies in the page at 0. -/
def joining (b hash : List Byte) : State := busy (stored (paged (loaded locked)) 0 b) 63 (joinRequest b hash)
def noted (s : State) (mb : Nat) (b hash : List Byte) : State :=
  (s.ran mb).noteAccess .firmware (rqBody (joinRequest b hash) 0 8) (rqBody (joinRequest b hash) 8 4) false false
/-- The module holds a key as the member of a partition, which it leaves, or in transit. -/
def holds (s : State) (key : Nat) : State :=
  { s with part := { s.part with transit := [key], joined := some ⟨key, true, 9, []⟩ } }
def leaving (s : State) (key mb : Nat) : State := { s with part := { s.part with retiring := [(key, mb)] } }
/-- An origin, with an image, LOCKED, and the same armed for pick 67 of epoch 1. -/
def chief : State :=
  { (((locked.put PCK_ROLE.ROLE 2).put PCK_STATUS.STATE pickLocked)) with
    part := { locked.part with joined := some ⟨5, true, 9, []⟩ }
    pick := { locked.pick with count := 3 }
    mail := { locked.mail with image := some inImage } }
def chiefArmed : State :=
  { (chief.setReg PCK_EPOCH 1).put PCK_START.STATE startArmed with part := { chief.part with startPick := some 67 } }
/-- A member's join that installs no warps, to be decided. -/
theorem joins_without_warps {s : State} {j : JoinRec} {im : ImageSt} (i : s.mail.image = some im)
    (w : im.warps = [] ∧ im.scheds = []) (r : (j.role == 3) = false)
    (h : (s.part.joined.isSome || s.pickState != pickIdle || s.keysHeld.contains j.key ||
      bitAt j.host 0 && !s.feature featBridge || (List.range 24).any (fun p => bitAt j.keyPorts p && s.allowFull p) ||
      decide (64 < s.remapsUsed.length + j.remaps.length) || (List.range 24).any (fun p => bitAt j.tickPorts p && s.compat p)) =
        false) : s.joinCheck j 0 = .ok (⟨[], []⟩, false) := by
  have none : ∀ k, s.warpsBad k ⟨[], []⟩ = false := by intro k; simp [State.warpsBad, allApart]
  simp only [Bool.or_eq_false_iff] at h
  obtain ⟨⟨⟨⟨⟨⟨a, b⟩, c⟩, d⟩, e⟩, f⟩, g⟩ := h
  simp only [List.contains_eq_mem, decide_eq_false_iff_not] at c
  simp [State.joinCheck, i, w.1, w.2, none, a, b, c, d, e, of_decide_eq_false f, g, r]
def startRequest (code pick : Nat) : List Byte := request code (leBytes 2 5 ++ leBytes 2 0 ++ leBytes 4 1 ++ leBytes 8 pick)
def keyRequest (code : Nat) : List Byte := request code (leBytes 2 5)
def stopRequest : List Byte := request 0x24 (List.replicate 12 0)
def yieldRequest : List Byte := request 0x25 (leBytes 8 1 ++ leBytes 4 9 ++ leBytes 4 0 ++ leBytes 8 0 ++ leBytes 8 (2 ^ 40))
def outside : State := { program with mail := { program.mail with locked := some 0 } }
def inside : State := { outside with pick := { program.pick with inWindow := true } }
def chiefRecord (op : Nat) : List Byte := startRecord op 5 1 67 (chief.fld PCK_START_CTRL.TIMEOUT)
set_option maxRecDepth 100000 in
set_option synthInstance.maxSize 2000 in
set_option synthInstance.maxHeartbeats 400000 in
theorem witness_PartitionsStartAndStop :
    (askedB (joining (joinRecord 5 2) (sha256 (joinRecord 5 2))) 63 0x20 (joinRequest (joinRecord 5 2) (sha256 (joinRecord 5 2))) = true ∧
        ((noted (joining (joinRecord 5 2) (sha256 (joinRecord 5 2))) 63 (joinRecord 5 2) (sha256 (joinRecord 5 2))).vaRead (rqBody (joinRequest (joinRecord 5 2) (sha256 (joinRecord 5 2))) 0 8) (rqBody (joinRequest (joinRecord 5 2) (sha256 (joinRecord 5 2))) 8 4) []).1 =
          some (joinRecord 5 2) ∧ sha256 (joinRecord 5 2) = rqBytes (joinRequest (joinRecord 5 2) (sha256 (joinRecord 5 2))) 0x10 32 ∧ joinBad (joinRecord 5 2) = false ∧
        (noted (joining (joinRecord 5 2) (sha256 (joinRecord 5 2))) 63 (joinRecord 5 2) (sha256 (joinRecord 5 2))).joinCheck
          (joinOf (joinRecord 5 2)) 0 = .ok (⟨[], []⟩, false)) ∧
      (sha256 (joinRecord 5 2) ≠ rqBytes (joinRequest (joinRecord 5 2) (List.replicate 32 0)) 0x10 32 ∧ joinBad (joinRecord 5 0) = true ∧
        (match (locked.joinCheck (joinOf (joinRecord 5 2)) 0) with | .ok _ => false | .error st => st == stBadArg) = true) ∧
      (askedB (busy (holds locked 5) 63 (keyRequest 0x21)) 63 0x21 (keyRequest 0x21) = true ∧ 5 ∈ (holds locked 5).keysHeld ∧
        (holds locked 5).programOn = false ∧ (holds locked 5).keyEntries 5 = []) ∧
      (askedB (busy (holds locked 5) 3 (keyRequest 0x63)) 3 0x63 (keyRequest 0x63) = true ∧ 5 ∉ locked.keysHeld) ∧
      ((holds outside 5).memberKey = some 5 ∧ (holds outside 5).programOn = true ∧ (holds outside 5).fenced 3 = false ∧
        askedB (busy (holds outside 5) 63 (keyRequest 0x21)) 63 0x21 (keyRequest 0x21) = true) ∧
      ((leaving locked 5 63).keyQueued 5 = false ∧ (leaving locked 5 63).memberKey ≠ some 5 ∧
        (leaving (holds locked 5) 5 63).memberKey = some 5 ∧ locked.pickState ≠ pickSlipped ∧ locked.windows = []) ∧
      (askedB (busy chief 63 (startRequest 0x22 67)) 63 0x22 (startRequest 0x22 67) = true ∧ chief.fenced 3 = false ∧
        chiefRecord 1 = startRecord 1 (rqBody (startRequest 0x22 67) 0 2) (rqBody (startRequest 0x22 67) 4 4)
          (rqBody (startRequest 0x22 67) 8 8) (chief.fld PCK_START_CTRL.TIMEOUT) ∧ chief.memberKey = some (srKey (chiefRecord 1)) ∧
        epochOlder (srEpoch (chiefRecord 1)) (chief.reg PCK_EPOCH).toNat = false ∧ chief.fld PCK_START.STATE ≠ startArmed ∧
        chief.fld PCK_START.STATE ≠ startCommitted ∧ chief.startForbidden = false ∧ chief.childPorts = [] ∧
        chief.part.starts = []) ∧
      (askedB (busy chiefArmed 63 (startRequest 0x23 67)) 63 0x23 (startRequest 0x23 67) = true ∧
        chiefArmed.memberKey = some (srKey (chiefRecord 2)) ∧ srEpoch (chiefRecord 2) = (chiefArmed.reg PCK_EPOCH).toNat ∧
        chiefArmed.fld PCK_START.STATE = startArmed ∧ chiefArmed.part.startPick = some (srPick (chiefRecord 2)) ∧
        chiefArmed.pickNo + 64 ≤ srPick (chiefRecord 2) ∧ chiefArmed.childPorts = [] ∧ chiefArmed.part.starts = []) ∧
      locked.part.joined = none ∧
      (askedB (busy outside 63 stopRequest) 63 0x24 stopRequest = true ∧ outside.programOn = true ∧ outside.seq.stopReq = none ∧
        locked.programOn = false) ∧
      (askedB (busy inside 63 yieldRequest) 63 0x25 yieldRequest = true ∧ inside.pick.inWindow = true ∧ inside.seq.yieldReq = none ∧
        inside.swapping = false ∧ inside.programOn = true ∧ saveSize inside.saveRanges ≤ rqBody yieldRequest 0x18 8 ∧
        outside.pick.inWindow = false) := by
  repeat' apply And.intro
  all_goals (first | decide | exact joins_without_warps (im := inImage) (by decide) (by decide) (by decide) (by decide))
set_option maxRecDepth 100000 in
/-- The same, for the clauses on a slice stopped by a frequency step and on a join that is not answered yet. -/
theorem witness_stopped_slice_and_waiting_join :
    let s : State := locked.setRegion 63 { clk := { stepEnd := some (5, 0) } }
    let r : List Byte := keyRequest 0x63
    let j : State := busy (joining (joinRecord 5 2) []) 3 r
    (s.slicesStopped = true ∧ s.loadBusy = false ∧ s.patchBusy = false ∧ locked.slicesStopped = false) ∧
      askedB j 3 0x63 r = true ∧ (j.ran 3).joining 5 = true ∧ ((busy locked 3 r).ran 3).joining 5 = false := by decide

/-- A module that serves, in a background window, with its context table at 0 and a row for context 5. -/
def server : State :=
  paged { window with
    hbm := { window.hbm with pchs := [(0, { refreshes := some 0 })] }
    mail := { window.mail with locked := some 0, image := some { inImage with resident := [(0, 2097152)] } }
    serve := { window.serve with image := some ⟨8, 0, 0x100000⟩, rows := [(7, { occupied := true, ctx := 5, cause := 0 })] } }
/-- The same with an entry of the context in a state, and the header of a page map at 0x10000. -/
def contexts (st : Nat) : State :=
  stored (stored server (128 * 5) (leBytes 1 st)) 0x10000 (leBytes 4 1 ++ leBytes 2 1 ++ leBytes 2 1)
def createRequest (id flags : Nat) : List Byte :=
  request 0x30 (leBytes 4 id ++ leBytes 1 7 ++ leBytes 1 flags ++ leBytes 2 0 ++ leBytes 8 9 ++ leBytes 8 11 ++ leBytes 8 0x10000
    ++ leBytes 8 0x20000 ++ leBytes 4 64 ++ leBytes 4 0 ++ leBytes 4 2 ++ leBytes 4 1 ++ leBytes 8 0x30000 ++ leBytes 8 0)
def deadlineRequest : List Byte := request 0x32 (leBytes 4 5 ++ leBytes 4 0 ++ leBytes 8 9)
def contextRequest (code : Nat) : List Byte := request code (leBytes 4 5)
def variantRequest (b : List Byte) : List Byte := request 0x34 (leBytes 4 0 ++ leBytes 4 0 ++ leBytes 8 0 ++ b)
/-- A request of a mailbox that begins to be served, to be decided. -/
def begins (s : State) (mb code : Nat) (rq : List Byte) (entry : List Byte → Option Nat) : Bool :=
  match (busy s mb rq).ctxBegin mb code entry with
  | none => false
  | some u => askedB u mb code rq && u.serving
def server0 : State := { server with pick := { server.pick with inWindow := false } }
/-- A serving module in the span, with one block announced whose header names one row, and the same with the block taken up. -/
def announced : State :=
  { (((server0.put CTX_CTRL.EN 1).put CTX_COMMITBLK.LINE 7).setRegion 0 { mem := [(64 * 7 + 8, 1)] }) with
    mail := { server0.mail with grid := [0] }
    mgt := { server0.mgt with holdD3 := false }
    sync := { server0.sync with objects := [(88, { value := 1, target := 0, type := 4 })] } }
def committing (rows : Nat) : State := { announced with serve := { announced.serve with running := some (0, rows, 0) } }
def changing : State := { server with serve := { server.serve with changes := [⟨9, 7, true⟩] } }

set_option maxRecDepth 100000 in
set_option synthInstance.maxSize 2000 in
set_option synthInstance.maxHeartbeats 400000 in
theorem witness_ContextsAreServed :
    (begins (contexts 0) 63 0x30 (createRequest 2147483653 0) (contexts 0).createEntry = true ∧
        (rqBody (createRequest 2147483653 0) 5 1).testBit 2 = false ∧ (contexts 0).createBad (createRequest 2147483653 0) = none ∧
        (contexts 0).createFault (createRequest 2147483653 0) = none) ∧
      (match (contexts 0).createSlot (createRequest 2147483653 0) with | .ok n => n == 5 | .error _ => false) = true ∧
      (match (contexts 1).createSlot (createRequest 2147483653 0) with | .ok _ => false | .error st => st == stBusy) = true ∧
      ((contexts 0).createBad (createRequest 2147483653 1) = some 5 ∧ server.createBad (createRequest 2147483653 0) = some 0x18) ∧
      (begins (contexts 2) 63 0x31 (contextRequest 0x31) namedCtx = true ∧ (contexts 2).rowOf 5 = some 7 ∧
        eget ((contexts 2).ctxEntry 5) enState = ctxActive ∧ eget ((contexts 0).ctxEntry 5) enState = ctxFree) ∧
      begins (contexts 2) 63 0x32 deadlineRequest namedCtx = true ∧
      (begins (contexts 4) 63 0x33 (contextRequest 0x33) namedCtx = true ∧
        eget ((contexts 4).ctxEntry 5) enState = ctxEnded) ∧
      (server0.ctxBegin 63 0x30 (fun _ => none)).isNone = true ∧
      (askedB (busy server 63 (variantRequest (sha256 []))) 63 0x34 (variantRequest (sha256 [])) = true ∧
        rqBytes (variantRequest (sha256 [])) 0x10 32 = sha256 [] ∧ server.vaOk 0x100000 0 false = true ∧
        server.serve.loading = none ∧ server.flag MMU_STATUS.INV_BUSY = false ∧
        begins server 63 0x34 (variantRequest (sha256 [])) (fun _ => none) = true ∧ server.variantAt 0 = (0x100000, 0) ∧
        rqBytes (variantRequest (List.replicate 32 0)) 0x10 32 ≠ sha256 []) ∧
      ({ server with serve := { server.serve with loading := some (63, 0, 0x100000, []) } } : State).pick.inWindow = true ∧
      (announced.serving = true ∧ announced.flag CTX_CTRL.EN = true ∧ announced.pick.inWindow = false ∧
        announced.fenced 3 = false ∧ announced.serve.running = none ∧ announced.serve.finished < (announced.obj 88).value.toNat ∧
        announced.commitAt = some (0, 7) ∧ announced.linesFree announced.commitAt 0 1 false = true ∧
        (announced.region 0).badLines = [] ∧ leAt ((announced.region 0).line 7) 8 2 = 1 ∧ 1 ≤ announced.batch ∧
        leAt ((announced.region 0).line 7) 10 54 = 0 ∧ announced.serve.lastStep ≠ some (leAt ((announced.region 0).line 7) 0 8)) ∧
      ((committing 1).serve.running = some (0, 1, 0) ∧ (committing 2).linesFree (committing 2).commitAt 4 8 false = true ∧
        (committing 2).linesFree (committing 2).rowBlock 0 1 true = true ∧ (committing 2).serve.begun = none ∧
        (committing 2).serving = true ∧ (committing 2).fenced 3 = false) ∧ server.pick.inWindow = true ∧
      changing.serve.changes = [⟨9, 7, true⟩] ∧ server.serve.changes = [] := by decide

/-- A shard map of one layer and one record, for a member index, and the requests that name it. -/
def shards (member : Nat) : List Byte :=
  padTo 64 (leBytes 4 1 ++ leBytes 4 7 ++ leBytes 2 1 ++ leBytes 2 1 ++ leBytes 4 1) ++ padTo 64 (leBytes 8 5)
    ++ padTo 64 (leBytes 2 0 ++ leBytes 2 member ++ List.replicate 4 0 ++ leBytes 8 0 ++ leBytes 8 64 ++ leBytes 4 1)
def fetchRequest (map hash : List Byte) (mode : Nat) : List Byte :=
  request 0x40 (leBytes 8 0 ++ leBytes 4 map.length ++ leBytes 1 mode ++ List.replicate 3 0 ++ hash)
def shardRequest (k mode : Nat) : List Byte := fetchRequest (shards k) (sha256 (shards k)) mode
/-- A member of a partition of one, with all its memory resident, that may fetch and swap. -/
def owner : State :=
  { server with
    mail := { server.mail with locked := some (BitVec.ofNat 128 (2 ^ featSwap)) }
    part := { server.part with joined := some ⟨5, true, 0, [0]⟩ } }
def chunk7 (digest : List Byte) : Chunk := ⟨7, 0, none, 0, 64, 0, 1, digest⟩
def shardMap7 (digest : List Byte) : ShardMap := ⟨9, 1, 0, [], [5], [chunk7 digest]⟩
def fetching (digest : List Byte) (left : List Nat) (bad : List Nat) (fails : SMap Nat) (swap : Bool) : WeightOp :=
  ⟨swap, false, 63, shardMap7 digest, 3, false, if swap then [0] else [], swap, [], left, bad, fails, []⟩
def working (o : WeightOp) : State := busy ({ owner with weights := { owner.weights with op := some o } }) 63 (keyRequest 0x40)
def swapRequest (k : Nat) : List Byte := request 0x41 (leBytes 8 0 ++ leBytes 4 0 ++ leBytes 4 0 ++ List.replicate 32 0 ++ leBytes 8 k)
def staging : State :=
  { owner with weights := { owner.weights with gates := some (91, 1), staged := some { shardMap7 [] with digest := List.replicate 32 0 } } }
def issuing (s : State) : State := { s with seq := { s.seq with state := .issuing } }

set_option maxRecDepth 100000 in
set_option synthInstance.maxSize 2000 in
set_option synthInstance.maxHeartbeats 400000 in
theorem witness_WeightsAreFetchedAndSwapped :
    (askedB (busy owner 63 (shardRequest 0 0)) 63 0x40 (shardRequest 0 0) = true ∧ (working (fetching [] [7] [] [] false)).weights.op.isSome = true) ∧
      (owner.weights.op = none ∧ askedB (busy owner 63 (shardRequest 0 2)) 63 0x40 (shardRequest 0 2) = true ∧ 2 ≤ rqBody (shardRequest 0 2) 0x0C 1) ∧
      (owner.part.joined.isSome = true ∧ rqBody (shardRequest 0 1) 0x0C 1 = bnat true ∧ rqBody (shardRequest 0 0) 0x0C 1 = bnat false ∧
        askedB (busy owner 63 (shardRequest 0 1)) 63 0x40 (shardRequest 0 1) = true ∧ owner.programOn = false ∧
        (shards 0).length = rqBody (shardRequest 0 0) 8 4 ∧ sha256 (shards 0) = rqBytes (shardRequest 0 0) 0x10 32 ∧
        mapHeaderOk (shards 0) = true ∧ mapHeaderOk (putAt (shards 0) 0 [2]) = false ∧
        owner.badChunk (shards 0) (owner.shardMap (shards 0)) false = none ∧ (owner.shardMap (shards 0)).chunks ≠ [] ∧
        owner.badChunk (shards 1) (owner.shardMap (shards 1)) false = none ∧ (owner.shardMap (shards 1)).chunks = [] ∧
        owner.badChunk (putAt (shards 0) 144 [1]) (owner.shardMap (putAt (shards 0) 144 [1])) false = none ∧
        owner.badChunk (putAt (shards 0) 136 [1]) (owner.shardMap (putAt (shards 0) 136 [1])) false = some 0) ∧
      ((shardMap7 (sha256 [])).chunk 7 = some (chunk7 (sha256 [])) ∧
        (working (fetching (sha256 []) [7, 8] [] [] false)).chunkHere (fetching (sha256 []) [7, 8] [] [] false) 7 = true ∧
        sha256 ((List.range 1).flatMap (fun n => sget [] (fetching (sha256 []) [7] [] [] false).got (2 ^ 20 * 7 + n))) =
          (chunk7 (sha256 [])).digest ∧ ((working (fetching [] [7] [] [] false)).box 63).busy = some (keyRequest 0x40)) ∧
      ((working (fetching [] [7] [7] [(7, 2)] true)).chunkHere (fetching [] [7] [7] [(7, 2)] true) 7 = true ∧
        2 ≤ sget 0 (fetching [] [7] [7] [(7, 2)] true).fails 7 ∧ sget 0 (fetching [] [7] [7] [] false).fails 7 < 2) ∧
      ((working (fetching (sha256 (List.replicate 64 0)) [7] [] [] true)).copyChunk (fetching (sha256 (List.replicate 64 0)) [7] [] [] true)
        (chunk7 (sha256 (List.replicate 64 0)))).1 = true ∧
      (askedB (busy staging 63 (swapRequest 1)) 63 0x41 (swapRequest 1) = true ∧ staging.pick.inWindow = true ∧
        staging.seq.yieldReq = none ∧ staging.weights.op = none ∧ owner.weights.gates = none ∧
        List.replicate 32 0 = rqBytes (swapRequest 1) 0x10 32 ∧ staging.programOn = false ∧ sget 0 staging.weights.versions 0 ≠ 9) ∧
      (askedB (busy (issuing staging) 63 (swapRequest 0)) 63 0x41 (swapRequest 0) = true ∧ (issuing staging).programOn = true ∧
        rqBody (swapRequest 0) 0x30 8 ≤ ((issuing staging).obj 91).value.toNat ∧
        ((issuing staging).obj 91).value.toNat < rqBody (swapRequest 1) 0x30 8) ∧ server0.pick.inWindow = false ∧
      ({ fetching [] [] [] [] true with copying := false }).layers = [0] ∧
      ((fetching [] [] [] [] true).copying = true ∧ (fetching [] [] [] [] true).swap = true ∧ (fetching [] [] [] [] true).left = []) := by decide

/-- A module with every optional feature accepted, in a background window, in pick 3 of its partition. -/
def tested3 : State :=
  { (window.put PCK_STATUS.STATE pickLocked) with
    pick := { window.pick with count := 3 }, mail := { window.mail with locked := some (BitVec.allOnes 128) } }
def opened (mb : Nat) : State := (tested3.put PTB_STATUS.OPEN 1).put PTB_STATUS.SESSION mb
def shadowed : State := { tested3 with obs := { tested3.obs with shadows := [(4, 1), (8, 3)] } }
def armed (n : Nat) : State := { tested3 with obs := { tested3.obs with armed := some n } }
def pickRequest (code p : Nat) : List Byte := request code (leBytes 8 p)
def perturbRequest (action o : Nat) : List Byte := request 0x70 (leBytes 1 action ++ leBytes 3 0 ++ leBytes 4 1 ++ leBytes 4 o ++ leBytes 4 9)
def rehearseRequest (kind target pick : Nat) : List Byte :=
  request 0x71 (leBytes 1 kind ++ leBytes 1 0 ++ leBytes 2 target ++ leBytes 4 0 ++ leBytes 8 pick)
def rehearsing (r : Rehearsal) : State :=
  (busy { tested3 with obs := { tested3.obs with rehearse := some r } } 3 (rehearseRequest 0 23 4)).setPort 23 { held := some 900 }
def tracing (dropped : Nat) : State :=
  { tested3 with
    mail := { tested3.mail with image := some { inImage with trace := [65536] } }
    obs := { tested3.obs with trace := [⟨1, 2, 3, 4, []⟩], traceDropped := dropped } }

set_option maxRecDepth 100000 in
set_option synthInstance.maxSize 2000 in
set_option synthInstance.maxHeartbeats 400000 in
theorem witness_ObservedAndPerturbed :
    (askedB (busy tested3 63 (pickRequest 0x50 0)) 63 0x50 (pickRequest 0x50 0) = true ∧
        askedB (busy tested3 63 (pickRequest 0x50 3)) 63 0x50 (pickRequest 0x50 3) = true ∧
        askedB (busy tested3 63 (pickRequest 0x50 4)) 63 0x50 (pickRequest 0x50 4) = true ∧ tested3.pickNo = 3 ∧
        rqBody (pickRequest 0x50 4) 0 8 = 4 ∧ tested3.pickState ≠ pickIdle ∧ tested3.obs.armed = none ∧
        (armed 4).obs.armed = some 4) ∧
      (askedB (busy tested3 0 (pickRequest 0x51 3)) 0 0x51 (pickRequest 0x51 3) = true ∧ shadowed.snapshotOf 3 = true ∧
        tested3.snapshotOf 3 = false ∧ (armed 3).obs.armed = some 3) ∧
      (askedB (busy tested3 63 (perturbRequest 0 0x100)) 63 0x70 (perturbRequest 0 0x100) = true ∧ tested3.pick.inWindow = true ∧
        rqBody (perturbRequest 0 0x100) 0 1 = 0 ∧ tested3.obs.rehearse = none ∧ tested3.flag PTB_STATUS.OPEN = false ∧
        (opened 62).flag PTB_STATUS.OPEN = true ∧ (rehearsing ⟨0, 23, 4, 3, none⟩).obs.rehearse.isSome = true) ∧
      ((opened 62).fld PTB_STATUS.SESSION ≠ 63 ∧ (opened 63).fld PTB_STATUS.SESSION = 63 ∧
        askedB (busy (opened 63) 63 (perturbRequest 1 0x1FC)) 63 0x70 (perturbRequest 1 0x1FC) = true ∧
        askedB (busy (opened 63) 63 (perturbRequest 2 0x1FC)) 63 0x70 (perturbRequest 2 0x1FC) = true ∧
        badPair (ptbPairs (perturbRequest 1 0x1FC)) = none ∧ badPair (ptbPairs (perturbRequest 1 0x200)) = some 0) ∧
      server0.pick.inWindow = false ∧
      (askedB (busy tested3 3 (rehearseRequest 0 23 4)) 3 0x71 (rehearseRequest 0 23 4) = true ∧
        rqBody (rehearseRequest 0 23 4) 8 8 = 4 ∧ rqBody (rehearseRequest 0 23 4) 2 2 = 23 ∧
        rqBody (rehearseRequest 2 0 4) 2 2 = tested3.fld RTE_SELF.PHYSICAL ∧
        askedB (busy tested3 3 (rehearseRequest 3 0 4)) 3 0x71 (rehearseRequest 3 0 4) = true) ∧
      ((rehearsing ⟨0, 23, 3, 3, some 5⟩).obs.rehearse = some ⟨0, 23, 3, 3, some 5⟩ ∧
        ((rehearsing ⟨0, 23, 3, 3, some 5⟩).port 23).held = some 900 ∧
        ((rehearsing ⟨0, 23, 3, 3, some 5⟩).box 3).busy = some (rehearseRequest 0 23 4)) ∧
      ((tracing 0).obs.trace = [⟨1, 2, 3, 4, []⟩] ∧ (tracing 0).mail.image = some { inImage with trace := [65536] } ∧
        (tracing 0).obs.traceCount = 0 ∧ (tracing 0).obs.traceDropped = 0 ∧ (tracing 1).obs.traceDropped ≠ 0 ∧
        traceAt [65536] 0 (32 * (0 % (65536 / 32))) = some 0x5FB00000 ∧
        traceAt [65536] 0 (32 * ((0 + 1) % (65536 / 32))) = some (0x5FB00000 + 32)) ∧
      tested3.obs.trace = [] := by decide

def fenceRequest (code mask : Nat) : List Byte :=
  request code (if code = 0x60 then leBytes 1 mask ++ List.replicate 7 0 else leBytes 1 mask)
/-- A module whose domain D3 is fenced, one with a drain in progress, and one with a reset in progress. -/
def fencedD3 : State := tested3.put MGT_FENCE.D3 1
def draining (box : Nat) (d : List Nat) (after : List (Nat × Option Nat)) (now : Nat) : State :=
  busy { tested3 with now := now, fence := { tested3.fence with drain := some ⟨0, 8, d⟩, after := after } } box (fenceRequest 0x60 8)
def resetting (d : Nat) : State :=
  busy { fencedD3 with fence := { fencedD3.fence with resets := [⟨d, 900, some 3⟩] } } 3 (fenceRequest 0x62 8)
def served : State := { tested3 with mgt := { tested3.mgt with up := true, stage := 5 } }

set_option maxRecDepth 100000 in
set_option synthInstance.maxSize 2000 in
set_option synthInstance.maxHeartbeats 400000 in
theorem witness_FencesAndResets :
    (askedB (busy tested3 3 (fenceRequest 0x60 14)) 3 0x60 (fenceRequest 0x60 14) = true ∧
        rqBody (fenceRequest 0x60 14) 0 1 ≠ 0 ∧ tested3.fenced 3 = false ∧ tested3.fence.drain = none) ∧
      (askedB (busy tested3 3 (fenceRequest 0x60 0)) 3 0x60 (fenceRequest 0x60 0) = true ∧
        rqBody (fenceRequest 0x60 0) 0 1 = 0) ∧
      (askedB (busy fencedD3 3 (fenceRequest 0x61 8)) 3 0x61 (fenceRequest 0x61 8) = true ∧ fencedD3.fence.pinLow = false) ∧
      (askedB (busy tested3 3 (fenceRequest 0x62 4)) 3 0x62 (fenceRequest 0x62 4) = true ∧
        rqBody (fenceRequest 0x62 4) 0 1 = 2 ^ 2 ∧ fencedD3.fenced 3 = true ∧ fencedD3.fence.resets = [] ∧
        fencedD3.fence.after = [] ∧ fencedD3.fence.dropped = [] ∧ fencedD3.fenced 2 = false ∧ fencedD3.fence.drain = none ∧
        fencedD3.flag CLK_REF_STATUS.REF_LOSS = false ∧
        (fencedD3.put CLK_REF_STATUS.REF_LOSS 1).flag CLK_REF_STATUS.REF_LOSS = true ∧
        (resetting 2).fence.resets = [⟨2, 900, some 3⟩]) ∧
      ((draining 3 [3] [] 0).fence.drain = some ⟨0, 8, [3]⟩ ∧ (draining 3 [3] [] 0).fence.after = [] ∧
        (draining 3 [3] [] 0).drained 3 = true ∧ domainsOf 8 = [3] ∧ (draining 3 [3] [] 0).now < 0 + 50 * usCycles ∧
        ((draining 3 [3] [] 0).box 3).busy = some (fenceRequest 0x60 8)) ∧
      ((draining 3 [] [] (50 * usCycles)).fence.drain = some ⟨0, 8, []⟩ ∧ 0 + 50 * usCycles ≤ (draining 3 [] [] (50 * usCycles)).now) ∧
      ((draining 3 [] [(1, none)] 0).fence.after = [(1, none)] ∧ (draining 3 [] [(1, none)] 0).fence.resets = [] ∧
        (draining 3 [] [(1, none)] 0).drained 3 = true) ∧
      (tested3.fence.drain = none ∧ tested3.fence.after = []) ∧
      (((resetting 3).box 3).busy = some (fenceRequest 0x62 8) ∧ (resetting 3).fence.dropped = []) ∧
      served.mgtServes = true ∧ State.reset.mgtServes = false := by decide

def record7 : LogRec := ⟨1, 2, 3, 4, [], 5⟩
/-- A module whose management serves, with events and log records that wait. -/
def waiting7 (dropped written : Nat) : State :=
  { served with mgt := { served.mgt with
      queue := [record7], dropped := dropped, logRate := (written, 0), events := [(7, 8, [9])] } }

set_option maxRecDepth 100000 in
theorem witness_ManagementServes :
    (served.mgt.up = true ∧ State.reset.mgt.up = false ∧ served.mgtServes = true ∧ State.reset.mgtServes = false) ∧
      ((waiting7 0 0).mgtServes = true ∧ (waiting7 0 0).mgt.events = [(7, 8, [9])] ∧ served.mgt.events = []) ∧
      (64 ≤ 571 ∧ 144 ≤ 571 ∧ sensorRange 143 = some (-80, 250)) ∧
      (({ served with power := { served.power with on := true } } : State).power.on = true ∧ served.power.trip = false ∧
        { State.reset.power with trip := true }.trip = true) ∧
      ((waiting7 0 999).mgt.queue = [record7] ∧ (waiting7 0 999).mgt.dropped = 0 ∧ (waiting7 0 999).logSecond.1 < 1000) ∧
      ((waiting7 1 998).mgt.dropped ≠ 0 ∧ (waiting7 1 998).logSecond.1 + 1 < 1000) ∧
      1000 ≤ (waiting7 0 1000).logSecond.1 := by decide

/-- A module that boots, one in a step of its power-up, and firmware pairs: a spare image written, and one that runs as a try. -/
def stepping (n now : Nat) : State :=
  { State.reset with now := now, power := { State.reset.power with step := n, good := false, smuUp := false } }
def powered (p : PowerSt) : State := { State.reset with power := p }
def pairOf (trying : Bool) : FwPair :=
  { slotA := ⟨true, 1, 1, []⟩, slotB := ⟨true, 2, 3, []⟩, running := trying, pending := if trying then some 1 else none, counter := 1 }
def imaged (p : FwPair) : State :=
  { served with mgt := { served.mgt with mgmt := p, control := p, cfReady := true, mfg := none, install := none } }

set_option maxRecDepth 100000 in
set_option synthInstance.maxSize 2000 in
set_option synthInstance.maxHeartbeats 400000 in
theorem witness_BootsAndPower :
    (State.reset.power.good = true ∧ State.reset.power.resetLow = false ∧ State.reset.mgt.stage = 0 ∧ served.mgt.stage ≠ 0 ∧
        State.reset.mgt.mfg.isSome = true ∧ State.reset.mgt.mgmt.start.2.isSome = true ∧ ({} : FwPair).start.2 = none ∧
        State.reset.hbm.initDone.length < 16) ∧
      ((imaged (pairOf false)).pldmUp 1 = true ∧ (imaged (pairOf false)).pldmUp 2 = true ∧ State.reset.pldmUp 2 = false ∧
        (pairOf false).running = (pairOf false).active ∧ (pairOf false).spare.valid = true ∧
        (pairOf true).running ≠ (pairOf true).active ∧ (pairOf true).pending.isSome = true ∧ (pairOf false).pending = none) ∧
      ((imaged (pairOf true)).mgt.up = true ∧ 4 ≤ (imaged (pairOf true)).mgt.stage ∧ (imaged (pairOf true)).controlUp = true ∧
        (imaged (pairOf true)).mgt.cfReady = true) ∧
      ((powered {}).power.on = false ∧ (powered {}).power.fault = false ∧ State.reset.power.on = true) ∧
      ((stepping 1 0).power.trip = false ∧ (stepping 1 0).power.step = 1 ∧
        (stepping 1 (5 * msCycles)).now ≤ (stepping 1 (5 * msCycles)).power.stepAt + 5 * msCycles ∧
        (stepping 5 (10 * msCycles)).now ≤ (stepping 5 (10 * msCycles)).power.stepAt + 10 * msCycles) ∧
      (5 < State.reset.power.step ∧ (powered { resetLow := true }).power.resetLow = true) ∧
      (served.mgt.stage = 5 ∧ ({ served.mgt with holdD1 := false } : MgtSt).holdD1 = false ∧ served.fence.resets = []) := by decide

def spdmAt (n : Nat) : State := { served with mgt := { served.mgt with spdm := n } }
set_option maxRecDepth 100000 in
theorem witness_SpdmAnswers :
    ((spdmAt 3).mgtServes = true ∧ 3 ≤ (spdmAt 3).mgt.spdm ∧ (spdmAt 0).mgt.spdm < 1) ∧
      (0 ≤ (spdmAt 3).certChain.length ∧ (spdmAt 3).flag MGT_BOOT.ID_FAIL = false ∧
        ((spdmAt 3).put MGT_BOOT.ID_FAIL 1).flag MGT_BOOT.ID_FAIL = true) ∧ State.reset.mgtServes = false := by decide

def metering (events : Nat) : State :=
  { State.reset with smu := { State.reset.smu with run := true, events := events, keys := [⟨5, false, 1, 2, 3⟩] } }
def metered : State :=
  { State.reset with smu := { State.reset.smu with checkpoint := some ⟨7, 8, 0, 9, [⟨5, true, 1, 0, 0⟩]⟩ } }
set_option maxRecDepth 100000 in
theorem witness_MeterCountsAndAnswers :
    ((metering 0).power.smuUp = true ∧ (metering 0).smu.failed = false ∧ (metering 0).smu.run = true ∧
        (metering 0).smu.keys.length ≤ 4096 ∧ (0 + 1) % 1000000 ≠ 0 ∧ (999999 + 1) % 1000000 = 0) ∧
      (metered.smu.run = false ∧ metered.smu.image.start.2 = some metered.smu.image ∧
        metered.smu.checkpoint = some ⟨7, 8, 0, 9, [⟨5, true, 1, 0, 0⟩]⟩ ∧ (9 + 1) % 1000000 ≠ 0) ∧
      (powered {}).power.smuUp = false ∧
      (60 ≠ (metering 0).smu.interval ∧ 3600 ≠ (metering 0).smu.interval ∧ (metering 0).smu.interval = 900 ∧
        (metering 0xFFFFFFFE).smu.events < 0xFFFFFFFF ∧ (metering 0xFFFFFFFF).smu.events = 0xFFFFFFFF) := by decide

set_option maxRecDepth 20000 in
theorem witness_LinkRepairAndAnswersComplete :
    let g : Gap := ⟨0, 0, 8, 0⟩
    let u := (port 23 6).setPort 23 { gaps := [g], rxSeen := 1, rxMarks := [1], replay := [(0, ⟨0, []⟩)] }
    let w : WidthSwitch := ⟨0x0F, 5, true, true⟩
    let v : WidthSwitch := ⟨0x0F, 4294967295, true, false⟩
    let a := (port 0 6).setPort 0 { passing := 0xFF, width := some w, codewords := 5, symErrs := [(7, 65537)] }
    let c := ((port 0 6).put (LNK_STATUS.COMPAT 0) 1).setPort 0 { ackCount := 1 }
    let e : ReqEntry := ⟨.weight 0 0, 21, 5, 1, headOf 1 0 1 0 0 0 [], [], 3, 3⟩
    let s (op : Nat) : State := { delivered 1 (headOf op 8191 0 0 0 0 []) [] with
      requests := { entries := [(4095, some e)], gens := [] } }
    let b : BmeCmd := ⟨2, 15, 0, 0, 3, 63, leBytes 20 0 ++ leBytes 4 0x11 ++ leBytes 4 1 ++ leBytes 4 0 ++ leBytes 32 64, false, 9, none⟩
    let k : State := ((program.put (RGN_TAG_LEN.EN 63 7) 1).put (RGN_TAG_LEN.LEN 63 7) 1).setStack 15 { queue := [b] }
    (u.fld (LNK_STATUS.STATE 23) = 6 ∧ oldestGap ((u.port 23).gaps.filter (u.port 23).gapOpen) = some g ∧
        (u.port 23).replay ≠ []) ∧
      ((a.port 0).width = some w ∧ w.mine = true ∧ w.agreed = true ∧ w.at_ < 4294967296 ∧
        countReached w.at_ (a.port 0).codewords = true ∧ a.fld (LNK_STATUS.STATE 0) = 6) ∧
      ((((port 0 6).setPort 0 { width := some v }).port 0).width = some v ∧ v.mine = true ∧ v.agreed = false ∧
        v.at_ < 4294967296) ∧
      ((port 0 6).port 0).width = none ∧
      (65536 < sget 0 (a.port 0).symErrs 7 ∧ ((a.put (LNK_STATUS.LANES 0) 0x80).fld (LNK_STATUS.LANES 0)).testBit 7 = true) ∧
      (c.fld (LNK_STATUS.STATE 0) = 6 ∧ c.flag (LNK_STATUS.COMPAT 0) = true ∧ 1 ≤ (c.port 0).ackCount) ∧
      (∀ op, op = opReadResp ∨ op = opWriteAck ∨ op = opSyncAck →
        ((s op).takeMessage 65535 1 op).map (fun x => (leAt x.1.head 2 2, leAt x.1.head 5 1, x.2.reqOfTag (leAt x.1.head 2 2))) =
          some (8191, 0, some (4095, e)) ∧ (s op).fenced 1 = false) ∧ (0 : Nat) ≠ stBusy ∧
      ((k.stack 15).queue = [b] ∧ b.stack = 15 ∧ b.op = 2 ∧ (k.bmeStart b).isSome = true ∧ k.bmeFault b = none) := by
  refine ⟨by decide, by decide, by decide, by decide, by decide, by decide, ?_, by decide, by decide⟩
  rintro op (rfl | rfl | rfl) <;> decide

end Sys2Proof.Tests
end

section
/-! SUPPORT. What a frame of registers and memory lets a proof read, and little-endian fields of a structure. -/
namespace Sys2Proof.Machine

/-! ## Frames -/

theorem SameRegs.refl (s : State) (l : List Reg) : SameRegs s s l := fun _ _ => rfl
theorem SameRegs.trans {s t u : State} {l : List Reg} (h : SameRegs s t l) (k : SameRegs t u l) : SameRegs s u l :=
  fun q hq => (k q hq).trans (h q hq)
theorem SameRegs.mono {s t : State} {l m : List Reg} (h : SameRegs s t l) (hl : l ⊆ m) : SameRegs s t m :=
  fun q hq => h q (fun r hr => hq r (hl hr))
theorem SameRegs.put {s : State} {f : Fld} {l : List Reg} (hf : f.reg ∈ l) (v : Nat) : SameRegs s (s.put f v) l :=
  fun _ hq => State.reg_put_ne s v (hq _ hf)
theorem SameRegs.fld {s t : State} {l : List Reg} (h : SameRegs s t l) (f : Fld) (hf : ∀ r ∈ l, f.reg.addr ≠ r.addr) :
    t.fld f = s.fld f := by
  unfold State.fld; rw [h _ hf]
theorem SameRegs.flag {s t : State} {l : List Reg} (h : SameRegs s t l) (f : Fld) (hf : ∀ r ∈ l, f.reg.addr ≠ r.addr) :
    t.flag f = s.flag f := by
  unfold State.flag; rw [h.fld f hf]

/-- R423: which port is the host port hangs on RTE_HOST and the features. -/
theorem SameRegs.isHostPort {s t : State} {l : List Reg} (h : SameRegs s t l) (hm : t.mail = s.mail)
    (hl : ∀ r ∈ l, RTE_HOST.addr ≠ r.addr) (p : Nat) : t.isHostPort p = s.isHostPort p := by
  unfold State.isHostPort State.bridging State.feature
  rw [h.flag RTE_HOST.EN hl, h.fld RTE_HOST.PORT hl, hm]

theorem SameRegs.lnkUp {s t : State} {l : List Reg} (h : SameRegs s t l) {p : Nat}
    (hl : ∀ r ∈ l, (LNK_STATUS p).addr ≠ r.addr) : t.lnkUp p = s.lnkUp p := by
  unfold State.lnkUp State.lnkState
  rw [h.fld (LNK_STATUS.STATE p) hl]

theorem SameMemory.of_eq {s t : State} (hh : t.hbm = s.hbm) (hr : t.regions = s.regions) (hm : t.mail = s.mail) :
    SameMemory s t :=
  ⟨fun a => by rw [hh], fun n a => by unfold State.region; rw [hr], fun a => by rw [hm]⟩

/-- Storing a field changes the registers alone. -/
theorem State.put_eq (s : State) (f : Fld) (v : Nat) : ∃ r, s.put f v = { s with regs := r } := ⟨_, rfl⟩

/-! ## Little-endian fields -/

@[simp] theorem length_leBytes (n v : Nat) : (leBytes n v).length = n := by
  induction n generalizing v with
  | zero => rfl
  | succ n ih => rw [leBytes, List.length_cons, ih]

theorem leNat_leBytes (n v : Nat) : leNat (leBytes n v) = v % 256 ^ n := by
  induction n generalizing v with
  | zero => rw [Nat.pow_zero, Nat.mod_one]; rfl
  | succ n ih =>
    have hpow : 256 ^ (n + 1) = 256 * 256 ^ n := Nat.pow_succ'
    rw [leBytes, leNat, ih, BitVec.toNat_ofNat, hpow, Nat.mod_mul]

theorem leNat_lt (b : List Byte) : leNat b < 256 ^ b.length := by
  induction b with
  | nil => exact Nat.one_pos
  | cons x b ih =>
    have hx := x.isLt
    rw [leNat, List.length_cons, Nat.pow_succ']
    omega

@[simp] theorem length_bytesAt (b : List Byte) (o n : Nat) : (bytesAt b o n).length = n := by
  simp only [bytesAt, List.length_append, List.length_replicate, List.length_take]
  omega

theorem leAt_lt (b : List Byte) (o n : Nat) : leAt b o n < 256 ^ n := by
  have h := leNat_lt (bytesAt b o n)
  rwa [length_bytesAt] at h

/-- A field that lies whole inside a structure is read as it was stored. -/
theorem leAt_append (a b : List Byte) (n v : Nat) : leAt (a ++ (leBytes n v ++ b)) a.length n = v % 256 ^ n := by
  simp [leAt, bytesAt, leNat_leBytes]

end Sys2Proof.Machine
end

section
/-! PROOF. The halves of the pick counter (R39): what their registers read, and what a read of each leaves. -/
namespace Sys2Proof.Machine

/-- A register whose one shown field lies at bit 0 and is all that can be read reads that field. -/
theorem toNat_withFields_single (v : Reg32) (f : Fld) (x : Nat) (hlo : f.lo = 0) (hlen : f.len ≤ 32) :
    (withFields v [(f, x)] &&& BitVec.ofNat 32 (2 ^ f.len - 1)).toNat = x % 2 ^ f.len := by
  have hv : bitsPut v.toNat 0 f.len x < 2 ^ 32 := bitsPut_lt v.isLt (by omega)
  have hm : 2 ^ f.len - 1 < 2 ^ 32 :=
    Nat.lt_of_lt_of_le (Nat.sub_lt (Nat.two_pow_pos _) Nat.one_pos) (Nat.pow_le_pow_right (by decide) hlen)
  have hx := bitsPut_bitsAt v.toNat 0 f.len x
  simp only [bitsAt, Nat.pow_zero, Nat.div_one] at hx
  simp only [withFields, List.foldl, hlo, BitVec.toNat_and, BitVec.toNat_ofNat]
  rw [Nat.mod_eq_of_lt hv, Nat.mod_eq_of_lt hm, Nat.and_two_pow_sub_one_eq_mod, hx]

theorem high32_count (c : BitVec 48) : high32 c.toNat = c.toNat / 2 ^ 32 := by
  have h := c.isLt
  unfold high32
  omega

/-- What PCK_COUNT_HI shows: the bits latched, or the live ones. -/
def State.countHi (s : State) : Nat := match s.pick.hiHold with | some v => v.toNat | none => high32 s.pickNo

theorem State.view_pckCountLo (s : State) :
    s.view PCK_COUNT_LO.addr = [(PCK_COUNT_LO.COUNT_LO, low32 s.pickNo)] := rfl
theorem State.view_pckCountHi (s : State) : s.view PCK_COUNT_HI.addr = [(PCK_COUNT_HI.COUNT_HI, s.countHi)] := rfl

theorem State.peek_pckCountLo (s : State) : (s.peek PCK_COUNT_LO.addr).toNat = s.pick.count.toNat % 2 ^ 32 := by
  have h : s.peek PCK_COUNT_LO.addr = withFields (s.reg PCK_COUNT_LO) (s.view PCK_COUNT_LO.addr) &&& 0xFFFFFFFF := rfl
  have hw := toNat_withFields_single (s.reg PCK_COUNT_LO) PCK_COUNT_LO.COUNT_LO (low32 s.pickNo) rfl (by decide)
  rw [h, State.view_pckCountLo]
  exact hw.trans (Nat.mod_mod _ _)

theorem State.peek_pckCountHi (s : State) : (s.peek PCK_COUNT_HI.addr).toNat = s.countHi % 2 ^ 16 := by
  have h : s.peek PCK_COUNT_HI.addr = withFields (s.reg PCK_COUNT_HI) (s.view PCK_COUNT_HI.addr) &&& 0xFFFF := rfl
  rw [h, State.view_pckCountHi]
  exact toNat_withFields_single (s.reg PCK_COUNT_HI) PCK_COUNT_HI.COUNT_HI s.countHi rfl (by decide)

/-- Bits [47:32] fill the 16 bits of the holding copy. -/
theorem count_high_lt (c : BitVec 48) : c.toNat / 2 ^ 32 < 2 ^ 16 := by omega

theorem State.peek_pckCountHi_live (s : State) (h : s.pick.hiHold = none) :
    (s.peek PCK_COUNT_HI.addr).toNat = s.pick.count.toNat / 2 ^ 32 := by
  rw [State.peek_pckCountHi, State.countHi, h]
  exact (congrArg (· % 2 ^ 16) (high32_count s.pick.count)).trans (Nat.mod_eq_of_lt (count_high_lt _))

theorem State.peek_pckCountHi_held (s : State) (v : BitVec 16) (h : s.pick.hiHold = some v) :
    (s.peek PCK_COUNT_HI.addr).toNat = v.toNat := by
  rw [State.peek_pckCountHi, State.countHi, h]
  exact Nat.mod_eq_of_lt v.isLt

/-- The rows of the register table at the addresses of the two halves. -/
theorem specAt_pckCountLo : specAt PCK_COUNT_LO.addr = some ⟨0x30008, 0x0, 1, 0, 1, 0x0, 1, 0x0, 0x0, 0x0, 0xffffffff⟩ := by
  decide
theorem specAt_pckCountHi : specAt PCK_COUNT_HI.addr = some ⟨0x3000c, 0x0, 1, 0, 1, 0x0, 1, 0x0, 0x0, 0x0, 0xffff⟩ := by
  decide

theorem State.deadReg_pckCountLo (s : State) : s.deadReg PCK_COUNT_LO.addr = false := rfl
theorem State.deadReg_pckCountHi (s : State) : s.deadReg PCK_COUNT_HI.addr = false := rfl

/-- R78: a read of either half counts no time of a stretched region. -/
theorem instAt_rgnClkStat_pckCountLo : instAt RGN_CLK_STAT 64 PCK_COUNT_LO.addr = none := by decide
theorem instAt_rgnClkStat_pckCountHi : instAt RGN_CLK_STAT 64 PCK_COUNT_HI.addr = none := by decide

theorem State.latchRead_pckCountLo (s : State) : s.latchRead PCK_COUNT_LO.addr =
    { s with pick := { s.pick with hiHold := some (BitVec.ofNat 16 (high32 s.pick.count.toNat)) } } := by
  unfold State.latchRead; rw [if_pos rfl, State.pickNo]
theorem State.latchRead_pckCountHi (s : State) : s.latchRead PCK_COUNT_HI.addr =
    { s with pick := { s.pick with hiHold := none } } := by
  unfold State.latchRead; rw [if_neg (by decide), if_pos rfl]

/-- R39: a read of the low half answers it and latches the high half. -/
theorem State.readReg_pckCountLo (s : State) : ∃ v, s.readReg PCK_COUNT_LO.addr =
    ({ s with
        rdata := s.peek PCK_COUNT_LO.addr
        pick := { s.pick with hiHold := some (BitVec.ofNat 16 (high32 s.pick.count.toNat)) } } : State).setReg
      PCK_COUNT_LO v := by
  simp only [State.readReg, State.beforeRead, State.lostRead, instAt_rgnClkStat_pckCountLo, specAt_pckCountLo,
    State.deadReg_pckCountLo, State.latchRead_pckCountLo]
  exact ⟨_, rfl⟩

/-- R39: a read of the high half answers what PCK_COUNT_HI shows and uses the holding copy up. -/
theorem State.readReg_pckCountHi (s : State) : ∃ v, s.readReg PCK_COUNT_HI.addr =
    ({ s with rdata := s.peek PCK_COUNT_HI.addr, pick := { s.pick with hiHold := none } } : State).setReg
      PCK_COUNT_HI v := by
  simp only [State.readReg, State.beforeRead, State.lostRead, instAt_rgnClkStat_pckCountHi, specAt_pckCountHi,
    State.deadReg_pckCountHi, State.latchRead_pckCountHi]
  exact ⟨_, rfl⟩

/-- R19, R39: RC_READ at the address of PCK_COUNT_HI. -/
theorem exec_rcRead_pckCountHi (s : State) (a : BitVec 24) (ha : a.toNat = PCK_COUNT_HI.addr) :
    ∃ u, exec (.rcRead a) s = .next u ∧ u.rdata = s.accessCycle.peek PCK_COUNT_HI.addr ∧ u.pick.hiHold = none := by
  obtain ⟨v, hv⟩ := s.accessCycle.readReg_pckCountHi
  have he : exec (.rcRead a) s = .next (s.accessCycle.readReg a.toNat) := rfl
  rw [he, ha, hv]
  exact ⟨_, rfl, rfl, rfl⟩

/-- Settles O6: the low half's read latches the high half, and the high half's read answers the latch where there is one. -/
theorem pickCountReadsWhole : Obligations.PickCountReadsWhole := by
  unfold Obligations.PickCountReadsWhole
  refine ⟨fun s => ?_, fun s a ha hlive => ?_, by decide, by decide⟩
  · obtain ⟨v, hv⟩ := s.readReg_pckCountLo
    refine ⟨_, congrArg Host.Outcome.next hv, s.peek_pckCountLo, rfl, rfl, fun a c ha => ?_⟩
    obtain ⟨u, he, hdata, hhold⟩ := exec_rcRead_pckCountHi _ a ha
    refine ⟨u, he, ?_, hhold⟩
    rw [hdata, State.peek_pckCountHi_held _ (BitVec.ofNat 16 (high32 s.pick.count.toNat)) rfl, BitVec.toNat_ofNat,
      high32_count, Nat.mod_eq_of_lt (count_high_lt _)]
  · obtain ⟨u, he, hdata, -⟩ := exec_rcRead_pckCountHi s a ha
    exact ⟨u, he, (congrArg BitVec.toNat hdata).trans (s.accessCycle.peek_pckCountHi_live hlive)⟩

end Sys2Proof.Machine
end

section
/-! PROOF. The background window (R41, R47): a region's clock edges, and the start of the span, leave its queue of words. -/
namespace Sys2Proof.Machine

/-- From `s` to `t` the pick stands, and every region keeps the words of its queue and its place in them. -/
structure KeepsWords (s t : State) : Prop where
  pick  : t.pick = s.pick
  queue : ∀ n, (t.region n).queue = (s.region n).queue
  cycle : ∀ n, (t.region n).cycle = (s.region n).cycle

namespace KeepsWords
variable {s t u : State}

theorem refl (s : State) : KeepsWords s s := ⟨rfl, fun _ => rfl, fun _ => rfl⟩

theorem trans (h : KeepsWords s t) (k : KeepsWords t u) : KeepsWords s u :=
  ⟨k.pick.trans h.pick, fun n => (k.queue n).trans (h.queue n), fun n => (k.cycle n).trans (h.cycle n)⟩

/-- A change outside the pick and the regions. -/
theorem of_eq (hp : t.pick = s.pick) (hr : t.regions = s.regions) : KeepsWords s t :=
  ⟨hp, fun n => by unfold State.region; rw [hr], fun n => by unfold State.region; rw [hr]⟩

theorem setRegion (n : Nat) (x : RegionSt) (hq : x.queue = (s.region n).queue) (hc : x.cycle = (s.region n).cycle) :
    KeepsWords s (s.setRegion n x) := by
  refine ⟨rfl, fun m => ?_, fun m => ?_⟩ <;> rw [State.region_setRegion] <;> split
  · next h => rw [h, hq]
  · rfl
  · next h => rw [h, hc]
  · rfl

theorem setClk (n : Nat) (c : RegionClk) : KeepsWords s (s.setClk n c) := setRegion n _ rfl rfl

theorem foldl {α : Type} {f : State → α → State} (hf : ∀ t a, KeepsWords t (f t a)) (l : List α) (s : State) :
    KeepsWords s (l.foldl f s) := by
  induction l generalizing s with
  | nil => exact refl s
  | cons a l ih => exact (hf s a).trans (ih (f s a))

theorem each {f : Nat → State → State} (hf : ∀ n t, KeepsWords t (f n t)) (l : List Nat) (s : State) :
    KeepsWords s (s.each l f) := foldl (fun t n => hf n t) l s

theorem accountClk (s : State) (n : Nat) : KeepsWords s (s.accountClk n) := by
  unfold State.accountClk
  dsimp only
  split
  · exact refl s
  · exact (setClk n _).trans (of_eq rfl rfl)

theorem startSlotStretch (s : State) (n : Nat) : KeepsWords s (s.startSlotStretch n) := by
  unfold State.startSlotStretch
  split
  · exact refl s
  · exact (accountClk s n).trans (setClk n _)

theorem applyMask (s : State) (c : MaskChange) : KeepsWords s (s.applyMask c) := by
  unfold State.applyMask
  exact each (fun n t => by exact setRegion n _ rfl rfl) s.regionsOn s

theorem landMasks (s : State) (l : List MaskChange) : KeepsWords s (s.landMasks l) := by
  have h : KeepsWords s { s with serve := { s.serve with changes := [] } } := of_eq rfl rfl
  exact h.trans (foldl applyMask l _)

theorem openSegment (s : State) : KeepsWords s s.openSegment := by
  unfold State.openSegment
  split
  · exact refl s
  · exact iteInduction (motive := KeepsWords s) (fun _ => of_eq rfl rfl) (fun _ => refl s)

end KeepsWords

/-- R41, R47: the window's flag falls, walks left over are counted and the memory engines go on: what `endWindow` does before
it turns to the regions. -/
def State.leaveWindow (s : State) : State :=
  let left := (s.mmu.walks.filter (fun w => !w.started)).length
  let s := if 32 ≤ s.pick.walksStarted then s.count MMU_TC_STAT.DEFERRED left else s
  { s with
    pick := { s.pick with
      inWindow := false, spans := (s.pickNo, s.pick.windowAt + s.pickWin) :: s.pick.spans.take 3 }
    hbmStacks := smapAllTo {} s.hbmStacks (fun k => k.resume s.now) }

theorem State.endWindow_eq (s : State) : s.endWindow =
    ((s.leaveWindow.each s.leaveWindow.regionsOn (fun n t => t.startSlotStretch n)).landMasks
      (s.leaveWindow.each s.leaveWindow.regionsOn (fun n t => t.startSlotStretch n)).serve.changes).openSegment := rfl

theorem State.region_leaveWindow (s : State) (n : Nat) : s.leaveWindow.region n = s.region n := by
  unfold State.leaveWindow
  dsimp only
  split <;> rfl

/-- The end of the window itself keeps the words of every region. -/
theorem State.endWindow_keepsWords (s : State) : KeepsWords s.leaveWindow s.endWindow := by
  rw [State.endWindow_eq]
  exact ((KeepsWords.each (fun n t => KeepsWords.startSlotStretch t n) _ _).trans (KeepsWords.landMasks _ _)).trans
    (KeepsWords.openSegment _)

/-! ## Clock edges -/

/-- R81, R92: a clock edge counts in its region, or does not fall. -/
theorem State.edge_cases (s : State) (n : Nat) :
    s.edge n = s ∨ s.edge n = s.setRegion n { s.region n with edges := (s.region n).edges + 1 } := by
  unfold State.edge
  dsimp only
  split
  · exact .inr rfl
  · exact .inl rfl

theorem State.edge_region_self (s : State) (n : Nat) :
    (s.edge n).region n = { s.region n with edges := ((s.edge n).region n).edges } := by
  obtain h | h := s.edge_cases n <;> rw [h]
  rw [State.region_setRegion_same]

theorem State.edge_region_ne (s : State) {n m : Nat} (hm : m ≠ n) : (s.edge n).region m = s.region m := by
  obtain h | h := s.edge_cases n <;> rw [h]
  rw [State.region_setRegion, if_neg hm]

theorem State.edge_rest (s : State) (n : Nat) : { s.edge n with regions := s.regions } = s := by
  obtain h | h := s.edge_cases n <;> rw [h]
  rfl

theorem State.pick_edge (s : State) (n : Nat) : (s.edge n).pick = s.pick := by
  obtain h | h := s.edge_cases n <;> rw [h]
  rfl

/-- R41: no word may run in the window. -/
theorem State.canRun_inWindow (s : State) (n : Nat) (q : QWord) (edge : Nat) (h : s.pick.inWindow = true) :
    s.canRun n q edge = false := by
  simp [State.canRun, h]

/-- R41, R92: in the window a region that meets its next word only counts the edge, and a waiting one goes on waiting. -/
theorem State.tryWord_inWindow (s : State) (n : Nat) (upsets : List (Nat × Bool)) (again : Bool)
    (h : s.pick.inWindow = true) : s.tryWord n upsets again = if again then s else s.edge n := by
  unfold State.tryWord
  dsimp only
  split
  · rfl
  · next q rest _ =>
    have hrun : (s.edge n).canRun n q ((s.edge n).region n).edges = false :=
      State.canRun_inWindow _ _ _ _ (by rw [State.pick_edge]; exact h)
    simp only [hrun, Bool.not_false, if_true]

/-- Settles O29: a word may not run in the window, and the start of the span touches no queue. -/
theorem regionsRestInTheWindow : Obligations.RegionsRestInTheWindow := by
  unfold Obligations.RegionsRestInTheWindow
  refine ⟨fun s n upsets hn hu hw => ⟨?_, ?_, s.edge_region_self n, fun m hm => s.edge_region_ne hm, s.edge_rest n⟩,
    fun s hw => ?_⟩
  · have hok : (decide (n < 64) && upsets.all (fun u => decide (u.1 < 524288))) = true := by rw [hu, decide_eq_true hn]; rfl
    exact (onUnit_next hok).trans (congrArg Host.Outcome.next (s.tryWord_inWindow n upsets false hw))
  · have hstay : doRegionWaitResume n s = s := by
      unfold doRegionWaitResume
      rw [s.tryWord_inWindow n [] true hw, if_pos rfl, ite_self]
    exact (onUnit_next (decide_eq_true hn)).trans (congrArg Host.Outcome.next hstay)
  · have hdo : doSpanStart s = (s.at_ (s.pick.windowAt + s.pickWin)).endWindow := by
      unfold doSpanStart; rw [hw]; rfl
    have hkeep := (s.at_ (s.pick.windowAt + s.pickWin)).endWindow_keepsWords
    have hregion (n : Nat) : (s.at_ (s.pick.windowAt + s.pickWin)).leaveWindow.region n = s.region n :=
      State.region_leaveWindow _ n
    refine ⟨_, congrArg Host.Outcome.next hdo, ?_, fun n => ⟨?_, ?_⟩⟩
    · rw [hkeep.pick]; rfl
    · rw [hkeep.queue, hregion]
    · rw [hkeep.cycle, hregion]

end Sys2Proof.Machine
end

section
/-! PROOF. Ticks (R53 to R58): the fields of a forwarded payload, and what a tick does that is taken, bad or second. -/
namespace Sys2Proof.Machine

/-! ## The payload -/

/-- R58: the pick and the hop count of a payload. -/
theorem tickPick_tickPayload (pick hop flags age origin key config : Nat) :
    tickPick (tickPayload pick hop flags age origin key config) = pick % 256 ^ 6 := by
  simpa [tickPayload, tickPick] using leAt_append [] _ 6 pick
theorem tickHop_tickPayload (pick hop flags age origin key config : Nat) :
    tickHop (tickPayload pick hop flags age origin key config) = hop % 256 ^ 1 := by
  have h := leAt_append (leBytes 6 pick)
    (leBytes 1 flags ++ leBytes 4 age ++ leBytes 2 origin ++ leBytes 2 key ++ leBytes 4 config) 1 hop
  simpa [tickPayload, tickHop] using h

/-! ## Sending a tick to the child ports -/

/-- R357, R400: what `sendTick` does at one child port. -/
def State.tickTo (latency : Nat → Nat) (payload : Nat → List Byte) (t : State) (p : Nat) : State :=
  if t.isHostPort p then t.count (RTE_DROP.ROUTE p)
  else if t.lnkUp p then
    t.setPort p { t.port p with tick := some (tickCellOf (t.memberKey.getD 0) (payload p)), tickAt := t.now + latency p }
  else t

theorem State.sendTick_eq (s : State) (latency : Nat → Nat) (payload : Nat → List Byte) :
    s.sendTick latency payload = s.childPorts.foldl (State.tickTo latency payload) s := rfl

/-- From `s` to `t` ticks have been sent to ports of `l`: only the ports and those ports' counts of drops have changed. -/
structure TickSent (l : List Nat) (s t : State) : Prop where
  rest : { t with regs := s.regs, ports := s.ports } = s
  regs : SameRegs s t (l.map RTE_DROP)

/-- A register whose offset in its 16 bytes is not that of RTE_DROP. -/
theorem addr_ne_rteDrop {r : Reg} (h : r.addr % 16 ≠ 12) (l : List Nat) : ∀ q ∈ l.map RTE_DROP, r.addr ≠ q.addr := by
  intro q hq e
  obtain ⟨p, -, rfl⟩ := List.mem_map.mp hq
  simp only [RTE_DROP] at e
  omega

namespace TickSent
variable {l : List Nat} {s t : State}

theorem refl (l : List Nat) (s : State) : TickSent l s s := ⟨rfl, SameRegs.refl s _⟩

/-- What reads neither the registers nor the ports. -/
theorem read {α : Type} (h : TickSent l s t) (f : State → α) (hf : ∀ u r p, f { u with regs := r, ports := p } = f u) :
    f t = f s := (hf t s.regs s.ports).symm.trans (congrArg f h.rest)

theorem isHostPort (h : TickSent l s t) (p : Nat) : t.isHostPort p = s.isHostPort p :=
  h.regs.isHostPort (h.read State.mail (fun _ _ _ => rfl)) (addr_ne_rteDrop (by decide) l) p

theorem lnkUp (h : TickSent l s t) (p : Nat) : t.lnkUp p = s.lnkUp p :=
  h.regs.lnkUp (addr_ne_rteDrop (by simp only [LNK_STATUS]; omega) l)

theorem memberKey (h : TickSent l s t) : t.memberKey = s.memberKey := h.read State.memberKey (fun _ _ _ => rfl)

theorem tickTo (h : TickSent l s t) (latency : Nat → Nat) (payload : Nat → List Byte) {p : Nat} (hp : p ∈ l) :
    TickSent l s (t.tickTo latency payload p) := by
  unfold State.tickTo
  split
  · have hput : SameRegs t (t.count (RTE_DROP.ROUTE p)) (l.map RTE_DROP) :=
      SameRegs.put (f := RTE_DROP.ROUTE p) (by exact List.mem_map_of_mem hp) _
    exact ⟨h.rest, h.regs.trans hput⟩
  · split
    · exact ⟨h.rest, h.regs⟩
    · exact h

theorem foldl_tickTo (latency : Nat → Nat) (payload : Nat → List Byte) {m : List Nat} (hm : m ⊆ l) (h : TickSent l s t) :
    TickSent l s (m.foldl (State.tickTo latency payload) t) := by
  induction m generalizing t with
  | nil => exact h
  | cons p m ih =>
    obtain ⟨hp, hm⟩ := List.cons_subset.mp hm
    exact ih hm (h.tickTo latency payload hp)

/-- At an ACTIVE port that is no host port the tick stands, once sent or sent before. -/
theorem tick_tickTo (h : TickSent l s t) (latency : Nat → Nat) (payload : Nat → List Byte) {p q : Nat}
    (hhost : s.isHostPort q = false) (hup : s.lnkUp q = true)
    (hq : q = p ∨ (t.port q).tick = some (tickCellOf (s.memberKey.getD 0) (payload q))) :
    ((t.tickTo latency payload p).port q).tick = some (tickCellOf (s.memberKey.getD 0) (payload q)) := by
  unfold State.tickTo
  rw [h.isHostPort, h.lnkUp, h.memberKey]
  by_cases e : q = p
  · subst e
    rw [hhost, hup, if_neg Bool.false_ne_true, if_pos rfl, State.port_setPort_same]
  · have hother := hq.resolve_left e
    split
    · exact hother
    · split
      · rw [State.port_setPort, if_neg e]; exact hother
      · exact hother

theorem tick_foldl_tickTo (latency : Nat → Nat) (payload : Nat → List Byte) {m : List Nat} (hm : m ⊆ l) {q : Nat}
    (h : TickSent l s t) (hhost : s.isHostPort q = false) (hup : s.lnkUp q = true)
    (hq : q ∈ m ∨ (t.port q).tick = some (tickCellOf (s.memberKey.getD 0) (payload q))) :
    ((m.foldl (State.tickTo latency payload) t).port q).tick = some (tickCellOf (s.memberKey.getD 0) (payload q)) := by
  induction m generalizing t with
  | nil => exact hq.resolve_left List.not_mem_nil
  | cons p m ih =>
    obtain ⟨hp, hm⟩ := List.cons_subset.mp hm
    refine ih hm (h.tickTo latency payload hp) ?_
    rw [List.mem_cons, or_right_comm] at hq
    exact hq.symm.imp_right (h.tick_tickTo latency payload hhost hup)

end TickSent

/-- R357, R400: only the child ports and their counts of drops change. -/
theorem State.sendTick_sent (s : State) (latency : Nat → Nat) (payload : Nat → List Byte) :
    TickSent s.childPorts s (s.sendTick latency payload) := by
  rw [State.sendTick_eq]
  exact TickSent.foldl_tickTo latency payload (List.Subset.refl _) (TickSent.refl _ s)

/-- R357, R400: each child port that is ACTIVE and no host port has the tick to send. -/
theorem State.tick_sendTick (s : State) (latency : Nat → Nat) (payload : Nat → List Byte) {q : Nat} (hq : q ∈ s.childPorts)
    (hhost : s.isHostPort q = false) (hup : s.lnkUp q = true) :
    ((s.sendTick latency payload).port q).tick = some (tickCellOf (s.memberKey.getD 0) (payload q)) := by
  rw [State.sendTick_eq]
  exact TickSent.tick_foldl_tickTo latency payload (List.Subset.refl _) (TickSent.refl _ s) hhost hup (.inl hq)

/-! ## Taking a tick -/

/-- R70: PCK_STATUS with the tick's age, and no pick in holdover. -/
def State.noteAge (s : State) (age : Nat) : State := (s.putMax PCK_STATUS.MAX_AGE age).put PCK_STATUS.HOLDOVER 0

/-- R59, R70: what an accepted tick leaves in PCK_STATUS. -/
def State.noteTick (s : State) (age : Nat) : State :=
  if (s.noteAge age).pickState = pickHoldover then (s.noteAge age).put PCK_STATUS.STATE pickLocked else s.noteAge age

theorem State.noteTick_cases (s : State) (age : Nat) :
    s.noteTick age = (s.noteAge age).put PCK_STATUS.STATE pickLocked ∨ s.noteTick age = s.noteAge age := by
  unfold State.noteTick
  split
  · exact .inl rfl
  · exact .inr rfl

theorem State.noteAge_eq (s : State) (age : Nat) : ∃ r, s.noteAge age = { s with regs := r } := by
  unfold State.noteAge State.putMax
  obtain ⟨r, e⟩ := s.put_eq PCK_STATUS.MAX_AGE (max (s.fld PCK_STATUS.MAX_AGE) (min age (2 ^ PCK_STATUS.MAX_AGE.len - 1)))
  rw [e]
  exact State.put_eq _ _ _

theorem State.noteTick_eq (s : State) (age : Nat) : ∃ r, s.noteTick age = { s with regs := r } := by
  obtain ⟨r, h⟩ := s.noteAge_eq age
  obtain e | e := s.noteTick_cases age <;> rw [e, h]
  · exact State.put_eq _ _ _
  · exact ⟨r, rfl⟩

theorem State.noteTick_regs (s : State) (age : Nat) : SameRegs s (s.noteTick age) [PCK_STATUS] := by
  have hput (t : State) (f : Fld) (v : Nat) (hf : f.reg = PCK_STATUS) : SameRegs t (t.put f v) [PCK_STATUS] :=
    SameRegs.put (List.mem_singleton.mpr hf) v
  have h : SameRegs s (s.noteAge age) [PCK_STATUS] := (hput s PCK_STATUS.MAX_AGE _ rfl).trans (hput _ _ _ rfl)
  obtain e | e := s.noteTick_cases age <;> rw [e]
  · exact h.trans (hput _ _ _ rfl)
  · exact h

theorem State.noteTick_holdover (s : State) (age : Nat) : (s.noteTick age).fld PCK_STATUS.HOLDOVER = 0 := by
  have h : (s.noteAge age).fld PCK_STATUS.HOLDOVER = 0 := State.fld_put_lt _ _ _ (by decide) (by decide)
  obtain e | e := s.noteTick_cases age <;> rw [e]
  · exact (State.fld_put_keep _ _ (by decide) (by decide)).trans h
  · exact h

/-- R57: the state in which an accepted tick is sent on: its boundary and its pick are set. -/
def State.setByTick (s : State) (p at_ : Nat) (b : List Byte) : State :=
  let age := s.ageHere p b
  let s := s.noteTick age
  { s with
    pick := { s.pick with
      nextAt := some (at_ + s.fld PCK_LENGTH.LENGTH - age), accepted := some (BitVec.ofNat 48 (tickPick b)) }
    part := { s.part with depth := tickHop b + 1 } }

/-- R57: an accepted tick sets the boundary, and is sent on one hop further. -/
theorem State.acceptTick_eq (s : State) (p at_ : Nat) (b : List Byte) (hhop : tickHop b ≤ 16) :
    ∃ (latency : Nat → Nat) (payload : Nat → List Byte),
      s.acceptTick p at_ b = (s.setByTick p at_ b).sendTick latency payload ∧
      ∀ q, tickPick (payload q) = tickPick b ∧ tickHop (payload q) = tickHop b + 1 := by
  refine ⟨_, _, rfl, fun q => ⟨?_, ?_⟩⟩
  · exact (tickPick_tickPayload ..).trans (Nat.mod_eq_of_lt (leAt_lt b 0 6))
  · exact (tickHop_tickPayload ..).trans (Nat.mod_eq_of_lt (by omega))

section
variable (s : State) (p at_ : Nat) (b : List Byte)

theorem State.setByTick_pick : (s.setByTick p at_ b).pick =
    { s.pick with
      nextAt := some (at_ + s.fld PCK_LENGTH.LENGTH - s.ageHere p b)
      accepted := some (BitVec.ofNat 48 (tickPick b)) } := by
  have hlen : (s.noteTick (s.ageHere p b)).fld PCK_LENGTH.LENGTH = s.fld PCK_LENGTH.LENGTH :=
    (s.noteTick_regs _).fld _ (by decide)
  obtain ⟨r, e⟩ := s.noteTick_eq (s.ageHere p b)
  unfold State.setByTick
  dsimp only
  rw [hlen, e]

theorem State.setByTick_part : (s.setByTick p at_ b).part = { s.part with depth := tickHop b + 1 } := by
  obtain ⟨r, e⟩ := s.noteTick_eq (s.ageHere p b)
  unfold State.setByTick
  dsimp only
  rw [e]

/-- What reads neither the pick nor the partition finds PCK_STATUS written and no more. -/
theorem State.setByTick_noteTick {α : Type} (f : State → α) (hf : ∀ u k x, f { u with pick := k, part := x } = f u) :
    f (s.setByTick p at_ b) = f (s.noteTick (s.ageHere p b)) := hf _ _ _

theorem State.setByTick_holdover : (s.setByTick p at_ b).fld PCK_STATUS.HOLDOVER = 0 :=
  (s.setByTick_noteTick p at_ b (fun t => t.fld PCK_STATUS.HOLDOVER) (fun _ _ _ => rfl)).trans (s.noteTick_holdover _)

theorem State.setByTick_regs : SameRegs s (s.setByTick p at_ b) [PCK_STATUS] := fun q hq =>
  (s.setByTick_noteTick p at_ b (fun t => t.reg q) (fun _ _ _ => rfl)).trans (s.noteTick_regs _ q hq)

/-- What reads neither the registers nor what a tick sets. -/
theorem State.setByTick_read {α : Type} (f : State → α)
    (hf : ∀ u r k x, f { u with regs := r, pick := k, part := x } = f u) : f (s.setByTick p at_ b) = f s := by
  obtain ⟨r, e⟩ := s.noteTick_eq (s.ageHere p b)
  unfold State.setByTick
  dsimp only
  rw [e]
  exact hf s r _ _

theorem State.setByTick_isHostPort (q : Nat) : (s.setByTick p at_ b).isHostPort q = s.isHostPort q :=
  (s.setByTick_regs p at_ b).isHostPort (s.setByTick_read p at_ b State.mail (fun _ _ _ _ => rfl)) (by decide) q

theorem State.setByTick_lnkUp (q : Nat) : (s.setByTick p at_ b).lnkUp q = s.lnkUp q :=
  (s.setByTick_regs p at_ b).lnkUp (by
    simp only [List.mem_singleton, forall_eq, LNK_STATUS, PCK_STATUS]
    omega)

theorem State.setByTick_memberKey : (s.setByTick p at_ b).memberKey = s.memberKey := by
  unfold State.memberKey; rw [State.setByTick_part]

theorem State.setByTick_childPorts : (s.setByTick p at_ b).childPorts = s.childPorts :=
  s.setByTick_read p at_ b State.childPorts (fun _ _ _ _ => rfl)

end

/-- R57: what an accepted tick does. -/
structure TickAccepted (p at_ : Nat) (b : List Byte) (s t : State) : Prop where
  now      : t.now = s.now
  pick     : t.pick = { s.pick with
    nextAt := some (at_ + s.fld PCK_LENGTH.LENGTH - s.ageHere p b)
    accepted := some (BitVec.ofNat 48 (tickPick b)) }
  part     : t.part = { s.part with depth := tickHop b + 1 }
  holdover : t.fld PCK_STATUS.HOLDOVER = 0
  sent     : ∀ q ∈ s.childPorts, s.isHostPort q = false → s.lnkUp q = true →
    ∃ x, (t.port q).tick = some (tickCellOf (s.memberKey.getD 0) x) ∧
      tickPick x = tickPick b ∧ tickHop x = tickHop b + 1
  regs     : SameRegs s t (PCK_STATUS :: s.childPorts.map RTE_DROP)
  memory   : SameMemory s t

theorem State.acceptTick_accepted (s : State) (p at_ : Nat) (b : List Byte) (hhop : tickHop b ≤ 16) :
    TickAccepted p at_ b s (s.acceptTick p at_ b) := by
  obtain ⟨latency, payload, e, hpay⟩ := s.acceptTick_eq p at_ b hhop
  rw [e]
  have hsent := (s.setByTick p at_ b).sendTick_sent latency payload
  have hread {α : Type} (f : State → α) (hf : ∀ u r k x, f { u with regs := r, pick := k, part := x } = f u)
      (hg : ∀ u r x, f { u with regs := r, ports := x } = f u) := (hsent.read f hg).trans (s.setByTick_read p at_ b f hf)
  rw [State.setByTick_childPorts] at hsent
  refine ⟨hread State.now (fun _ _ _ _ => rfl) (fun _ _ _ => rfl), ?_, ?_, ?_, fun q hq hhost hup => ?_, ?_, ?_⟩
  · exact (hsent.read State.pick (fun _ _ _ => rfl)).trans (s.setByTick_pick p at_ b)
  · exact (hsent.read State.part (fun _ _ _ => rfl)).trans (s.setByTick_part p at_ b)
  · exact (hsent.regs.fld PCK_STATUS.HOLDOVER (addr_ne_rteDrop (by decide) _)).trans (s.setByTick_holdover p at_ b)
  · refine ⟨payload q, ?_, hpay q⟩
    rw [← s.setByTick_memberKey p at_ b]
    exact State.tick_sendTick _ _ _ (by rwa [State.setByTick_childPorts]) (by rwa [State.setByTick_isHostPort])
      (by rwa [State.setByTick_lnkUp])
  · exact ((s.setByTick_regs p at_ b).mono (List.cons_subset_cons _ (List.nil_subset _))).trans
      (hsent.regs.mono (List.subset_cons_self _ _))
  · exact SameMemory.of_eq (hread State.hbm (fun _ _ _ _ => rfl) (fun _ _ _ => rfl))
      (hread State.regions (fun _ _ _ _ => rfl) (fun _ _ _ => rfl))
      (hread State.mail (fun _ _ _ _ => rfl) (fun _ _ _ => rfl))

/-! ## A tick that sets nothing -/

/-- From `s` to `t` neither the pick nor what a port has to send of a tick has changed. -/
structure KeepsTick (s t : State) : Prop where
  pick : t.pick = s.pick
  tick : ∀ q, (t.port q).tick = (s.port q).tick

theorem KeepsTick.refl (s : State) : KeepsTick s s := ⟨rfl, fun _ => rfl⟩
theorem KeepsTick.put {s t : State} (h : KeepsTick s t) (f : Fld) (v : Nat) : KeepsTick s (t.put f v) :=
  ⟨h.pick, fun q => by rw [State.port_put]; exact h.tick q⟩
theorem KeepsTick.count {s t : State} (h : KeepsTick s t) (f : Fld) : KeepsTick s (t.count f) := h.put f _
theorem KeepsTick.raise {s t : State} (h : KeepsTick s t) (f : Fld) : KeepsTick s (t.raise f) := h.put f _

/-- The state at a cell's arrival at a port: its time has come, and it waits there no more. -/
def State.arrives (s : State) (p : Nat) (c : Cell) (at_ : Nat) : State := (s.takeIngress p c).at_ at_

section
variable (s : State) (p : Nat) (c : Cell) (at_ : Nat)

/-- What reads neither the time nor the ports. -/
theorem State.arrives_read {α : Type} (f : State → α) (hf : ∀ u n x, f { u with now := n, ports := x } = f u) :
    f (s.arrives p c at_) = f s := hf s (max s.now at_) (s.takeIngress p c).ports

theorem State.arrives_tickBad : (s.arrives p c at_).tickBad p c.payload = s.tickBad p c.payload :=
  s.arrives_read p c at_ (fun t => t.tickBad p c.payload) (fun _ _ _ => rfl)

theorem State.arrives_keepsTick : KeepsTick s (s.arrives p c at_) := by
  refine ⟨rfl, fun q => ?_⟩
  unfold State.arrives State.takeIngress
  rw [State.port_at, State.port_setPort]
  split
  · next h => rw [h]
  · rfl

theorem State.arrives_memory : SameMemory s (s.arrives p c at_) := SameMemory.of_eq rfl rfl rfl

theorem State.doTickCell_of_tick (hkind : c.kind = 2) (hmark : c.mark = true) : doTickCell p c at_ s =
    if s.fabricFenced c then s.arrives p c at_
    else if s.isHostPort p then (s.arrives p c at_).count (RTE_DROP.ROUTE p)
    else if !s.allows p c.key then (s.arrives p c at_).count (RTE_DROP.KEY p)
    else if !s.isParentPort p || s.pickState == pickIdle then s.arrives p c at_
    else (s.arrives p c at_).takeTick p at_ c.payload := by
  have hfence : (s.arrives p c at_).fabricFenced c = s.fabricFenced c :=
    s.arrives_read p c at_ (fun t => t.fabricFenced c) (fun _ _ _ => rfl)
  have hhost : (s.arrives p c at_).isHostPort p = s.isHostPort p :=
    s.arrives_read p c at_ (fun t => t.isHostPort p) (fun _ _ _ => rfl)
  have hkey : (s.arrives p c at_).allows p c.key = s.allows p c.key :=
    s.arrives_read p c at_ (fun t => t.allows p c.key) (fun _ _ _ => rfl)
  have hparent : (s.arrives p c at_).isParentPort p = s.isParentPort p :=
    s.arrives_read p c at_ (fun t => t.isParentPort p) (fun _ _ _ => rfl)
  have hstate : (s.arrives p c at_).pickState = s.pickState := s.arrives_read p c at_ State.pickState (fun _ _ _ => rfl)
  have hcell : ¬ (c.kind != 2 || !c.mark) = true := by rw [hkind, hmark]; decide
  rw [← hfence, ← hhost, ← hkey, ← hparent, ← hstate]
  exact if_neg hcell

end

/-- R54, R56: a tick that nothing keeps out comes to the member's rules for it. -/
theorem State.TakesTick.doTickCell_eq {s : State} {p : Nat} {c : Cell} (h : s.TakesTick p c) (at_ : Nat)
    (hkind : c.kind = 2) (hmark : c.mark = true) :
    doTickCell p c at_ s = (s.arrives p c at_).takeTick p at_ c.payload := by
  have hpick : (s.pickState == pickIdle) = false := beq_false_of_ne h.pick
  simp only [State.doTickCell_of_tick s p c at_ hkind hmark, h.fence, h.host, h.key, h.parent, hpick, Bool.not_true,
    Bool.or_self, Bool.false_eq_true, if_false]

/-- R54: a tick at a port that is no parent's sets nothing and is not sent on. -/
theorem State.doTickCell_keepsTick (s : State) (p : Nat) (c : Cell) (at_ : Nat) (hparent : s.isParentPort p = false) :
    KeepsTick s (doTickCell p c at_ s) := by
  have harr := s.arrives_keepsTick p c at_
  by_cases hother : (c.kind != 2 || !c.mark) = true
  · unfold doTickCell
    rw [if_pos hother]
    exact KeepsTick.refl s
  · obtain ⟨hkind, hmark⟩ : c.kind = 2 ∧ c.mark = true := by simpa using hother
    rw [State.doTickCell_of_tick s p c at_ hkind hmark, hparent]
    split
    · exact harr
    · split
      · exact harr.count _
      · split
        · exact harr.count _
        · exact harr

/-! ## First, second and bad ticks -/

theorem State.tickHop_le_of_good {s : State} {p : Nat} {b : List Byte} (h : s.tickBad p b = false) : tickHop b ≤ 16 := by
  simp only [State.tickBad, Bool.or_eq_false_iff, decide_eq_false_iff_not] at h
  omega

/-- PCK_EVENT says nothing of whether a tick is bad. -/
theorem State.tickBad_raise (s : State) (p : Nat) (b : List Byte) :
    (s.raise PCK_EVENT.CFG_MISMATCH).tickBad p b = s.tickBad p b := by
  have h : SameRegs s (s.raise PCK_EVENT.CFG_MISMATCH) [PCK_EVENT] := SameRegs.put (List.mem_singleton.mpr rfl) _
  have hport (f : Fld) (hf : 0x41000 ≤ f.reg.addr) : (s.raise PCK_EVENT.CFG_MISMATCH).fld f = s.fld f :=
    h.fld f (by simp only [List.mem_singleton, forall_eq, PCK_EVENT]; omega)
  have hage : (s.raise PCK_EVENT.CFG_MISMATCH).ageHere p b = s.ageHere p b := by
    unfold State.ageHere State.widthDelay State.lnkWidth
    rw [hport (LNK_DELAY.CYCLES p) (by simp only [LNK_DELAY.CYCLES, LNK_DELAY]; omega),
      hport (LNK_STATUS.WIDTH p) (by simp only [LNK_STATUS.WIDTH, LNK_STATUS]; omega)]
  have hconfig : (s.raise PCK_EVENT.CFG_MISMATCH).config = s.config := by
    unfold State.config
    rw [h.fld PCK_LENGTH.LENGTH (by decide), h.fld PCK_PARTS.WINDOW (by decide), h.fld PCK_PARTS.MARGIN (by decide)]
  unfold State.tickBad State.memberKey State.pickNo
  rw [hage, hconfig, h.fld PCK_LENGTH.LENGTH (by decide), State.part_raise, State.pick_raise]

/-- R56: a bad tick raises TICK_BAD, beside what it may raise of the configuration. -/
theorem State.takeTick_bad (s : State) (p at_ : Nat) (b : List Byte) (hbad : s.tickBad p b = true) :
    s.takeTick p at_ b = s.raise PCK_EVENT.TICK_BAD ∨
      s.takeTick p at_ b = (s.raise PCK_EVENT.CFG_MISMATCH).raise PCK_EVENT.TICK_BAD := by
  unfold State.takeTick
  by_cases hcfg : tickConfig b = s.config
  · exact .inl (by simp only [hcfg, if_true, hbad])
  · exact .inr (by simp only [hcfg, if_false, State.tickBad_raise, hbad, if_true])

theorem State.takeTick_second (s : State) (p at_ : Nat) (b : List Byte) (hcfg : tickConfig b = s.config)
    (hgood : s.tickBad p b = false) (hacc : s.pick.accepted ≠ none) : s.takeTick p at_ b = s := by
  simp only [State.takeTick, hcfg, hgood, Option.isSome_iff_ne_none.mpr hacc, if_true, Bool.false_eq_true, if_false]

theorem State.takeTick_first (s : State) (p at_ : Nat) (b : List Byte) (hcfg : tickConfig b = s.config)
    (hgood : s.tickBad p b = false) (hacc : s.pick.accepted = none) : s.takeTick p at_ b = s.acceptTick p at_ b := by
  simp only [State.takeTick, hcfg, hgood, hacc, Option.isSome_none, if_true, Bool.false_eq_true, if_false]

/-- R56: all that a bad tick leaves. -/
theorem State.takeTick_bad_keeps (s : State) (p at_ : Nat) (b : List Byte) (hbad : s.tickBad p b = true) :
    (s.takeTick p at_ b).flag PCK_EVENT.TICK_BAD = true ∧ KeepsTick s (s.takeTick p at_ b) ∧
      SameRegs s (s.takeTick p at_ b) [PCK_EVENT] ∧ SameMemory s (s.takeTick p at_ b) := by
  have hput (t : State) (f : Fld) (hf : f.reg = PCK_EVENT) : SameRegs t (t.raise f) [PCK_EVENT] :=
    SameRegs.put (List.mem_singleton.mpr hf) _
  obtain e | e := s.takeTick_bad p at_ b hbad <;> rw [e]
  · exact ⟨State.flag_raise _ _ (by decide) (by decide), (KeepsTick.refl s).raise _, hput _ _ rfl,
      SameMemory.of_eq rfl rfl rfl⟩
  · exact ⟨State.flag_raise _ _ (by decide) (by decide), ((KeepsTick.refl s).raise _).raise _,
      (hput s PCK_EVENT.CFG_MISMATCH rfl).trans (hput _ _ rfl), SameMemory.of_eq rfl rfl rfl⟩

theorem exec_tickCell (s : State) (p at_ : Nat) (c : Cell) (hp : p < 24) (hok : c.ok = true) :
    exec (.tickCell p c at_) s = .next (doTickCell p c at_ s) :=
  onUnit_next (by rw [decide_eq_true hp, hok]; rfl)

/-- Settles O20: what a tick does once it has arrived, by whether it is good, the first of its pick, and a parent's. -/
theorem tickSetsTheNextBoundary : Obligations.TickSetsTheNextBoundary := by
  unfold Obligations.TickSetsTheNextBoundary
  refine ⟨fun s p at_ c hp hok hkind hmark ht hcfg hbad hacc => ?_, fun s p at_ c hp hok hkind hmark ht hbad => ?_,
    fun s p at_ c hp hok hkind hmark ht hcfg hbad hacc => ?_, fun s p at_ c hp hok hparent => ?_⟩
  · refine ⟨_, exec_tickCell s p at_ c hp hok, ?_⟩
    have hgood := (s.arrives_tickBad p c at_).trans hbad
    rw [ht.doTickCell_eq at_ hkind hmark, (s.arrives p c at_).takeTick_first p at_ c.payload hcfg hgood hacc]
    obtain ⟨hnow, hpick, hpart, hhold, hsent, hregs, hmem⟩ :=
      (s.arrives p c at_).acceptTick_accepted p at_ c.payload (State.tickHop_le_of_good hbad)
    exact ⟨hnow, hpick, hpart, hhold, hsent, hregs, hmem⟩
  · refine ⟨_, exec_tickCell s p at_ c hp hok, ?_⟩
    rw [ht.doTickCell_eq at_ hkind hmark]
    obtain ⟨hflag, hkeep, hregs, hmem⟩ :=
      (s.arrives p c at_).takeTick_bad_keeps p at_ c.payload ((s.arrives_tickBad p c at_).trans hbad)
    exact ⟨hflag, hkeep.pick, fun q => (hkeep.tick q).trans ((s.arrives_keepsTick p c at_).tick q), hregs, hmem⟩
  · refine ⟨_, exec_tickCell s p at_ c hp hok, ?_⟩
    have hgood := (s.arrives_tickBad p c at_).trans hbad
    rw [ht.doTickCell_eq at_ hkind hmark, (s.arrives p c at_).takeTick_second p at_ c.payload hcfg hgood hacc]
    exact ⟨rfl, (s.arrives_keepsTick p c at_).tick, rfl, s.arrives_memory p c at_⟩
  · have hkeep := s.doTickCell_keepsTick p c at_ hparent
    exact ⟨_, exec_tickCell s p at_ c hp hok, hkeep.pick, hkeep.tick⟩

end Sys2Proof.Machine
end
